-- ==== Sys2Proof/Word.lean ====
section
/-! DEFINITION. Words, beats and sparse tables: the plain data every other file is written over. -/

namespace Sys2Proof

/-- A byte of a store (R9). -/
abbrev Byte := BitVec 8
/-- A 32-bit register or payload word (R445). -/
abbrev Word := BitVec 32
/-- A beat of 256 bytes (R61). Bit a is line a of the network (R112). -/
abbrev Bits := BitVec 2048
/-- A tensor descriptor (R57). -/
abbrev Desc := BitVec 512

/-- `w` bits of `x` from bit `lo` upward. -/
def fld {n : Nat} (x : BitVec n) (lo w : Nat) : BitVec w := x.extractLsb' lo w

/-- The same field as a number. -/
def fldN {n : Nat} (x : BitVec n) (lo w : Nat) : Nat := (x.extractLsb' lo w).toNat

/-- Bit `i` of `x`. -/
def bitOf {n : Nat} (x : BitVec n) (i : Nat) : Bool := x.getLsbD i

/-- The field of `w` bits from `lo` upward, sign-extended to an integer (R57 strides). -/
def fldI {n : Nat} (x : BitVec n) (lo w : Nat) : Int := (x.extractLsb' lo w).toInt

/-- `x` with `w` bits from `lo` upward replaced by `v`. -/
def setFld {n : Nat} (x : BitVec n) (lo w v : Nat) : BitVec n :=
  let mask := (BitVec.ofNat n (2 ^ w - 1)) <<< lo
  (x &&& ~~~mask) ||| ((BitVec.ofNat n (v % 2 ^ w)) <<< lo)

/-- One bit as a number. -/
def b2n (b : Bool) : Nat := if b then 1 else 0

/-- Rounded-up quotient. -/
def ceilDiv (a b : Nat) : Nat := (a + b - 1) / b

/-! ### Sparse tables

A table of words by number: a list of (number, value), numbers strictly rising, and no entry equal to `d`, which is
what an unlisted number reads as. Equal tables are then equal lists. -/

/-- What number `k` reads as. -/
def look {α : Type} (d : α) : List (Nat × α) → Nat → α
  | [], _ => d
  | (j, v) :: r, k => if j = k then v else look d r k

/-- The table without number `k`. -/
def drop {α : Type} : List (Nat × α) → Nat → List (Nat × α)
  | [], _ => []
  | (j, v) :: r, k => if j = k then drop r k else (j, v) :: drop r k

/-- The table with `(k, v)` placed before the first larger number. -/
def place {α : Type} : List (Nat × α) → Nat → α → List (Nat × α)
  | [], k, v => [(k, v)]
  | (j, w) :: r, k, v => if k < j then (k, v) :: (j, w) :: r else (j, w) :: place r k v

/-- The table in which `k` reads as `v` and every other number as before. Writing `d` removes the entry. -/
def put {α : Type} [DecidableEq α] (d : α) (m : List (Nat × α)) (k : Nat) (v : α) : List (Nat × α) :=
  if v = d then drop m k else place (drop m k) k v

/-- The canonical form of a table. -/
def tableWf {α : Type} [DecidableEq α] (d : α) : List (Nat × α) → Bool
  | [] => true
  | (_, v) :: [] => v ≠ d
  | (j, v) :: (k, w) :: r => (v ≠ d) && (j < k) && tableWf d ((k, w) :: r)

/-- A set of numbers as a rising list: membership, insertion and removal. -/
def setHas (m : List Nat) (k : Nat) : Bool := m.contains k

/-- The set with `k` added. -/
def setAdd : List Nat → Nat → List Nat
  | [], k => [k]
  | j :: r, k => if k = j then j :: r else if k < j then k :: j :: r else j :: setAdd r k

/-- The set with `k` removed. -/
def setDel (m : List Nat) (k : Nat) : List Nat := m.filter (fun j => j ≠ k)

/-- The set in which `k` is present exactly when `b`. -/
def setPut (m : List Nat) (k : Nat) (b : Bool) : List Nat := if b then setAdd m k else setDel m k

/-- A number that holds at 2^32 - 1 (R63, R110). -/
def sat32 (x : Word) (n : Nat) : Word := if x.toNat + n < 2 ^ 32 then BitVec.ofNat 32 (x.toNat + n) else 0xFFFFFFFF#32

/-- The first `n` naturals from `a`: a plain loop range that the kernel evaluates. -/
def span (a : Nat) : Nat → List Nat
  | 0 => []
  | n + 1 => a :: span (a + 1) n

/-- The naturals below `n`. -/
def upto (n : Nat) : List Nat := span 0 n

/-- The list with position `i` replaced (nothing beyond the end). -/
def setAt {α : Type} : List α → Nat → α → List α
  | [], _, _ => []
  | _ :: r, 0, v => v :: r
  | x :: r, i + 1, v => x :: setAt r i v

end Sys2Proof
end

