-- ==== Sys2Proof/Syntax.lean ====
section
/-! DEFINITION. The commands of the block: one constructor per row of spec/opcode_table.json, with the row's operands.
A core instruction carries the fields Table 8-3 gives it (log 6); a step of the part's surroundings carries what the
surroundings bring (an engine row, a far-memory beat, a test result). -/

namespace Sys2Proof

/-- Logical core (R16). -/
abbrev CoreId := Fin 16
/-- Cluster (R16). -/
abbrev ClusterId := Fin 4
/-- Partition (R21). -/
abbrev Part := Fin 2
/-- Stream Mover channel (R218). -/
abbrev ChanId := Fin 32
/-- Engine attachment (R242). -/
abbrev EaId := Fin 2
/-- Norm Tap (R257). -/
abbrev TapId := Fin 3
/-- Arrival counter (R285). -/
abbrev Ctr := Fin 1024
/-- Remote stream (R312). -/
abbrev StreamId := Fin 64
/-- Near Store bank group (R269). -/
abbrev GroupId := Fin 8
/-- Power domain (R397). -/
abbrev DomId := Fin 24
/-- Link lane (R333). -/
abbrev LaneId := Fin 5
/-- Vector register number. -/
abbrev VReg := Fin 32
/-- Scalar register number. -/
abbrev SReg := Fin 16
/-- Descriptor register number. -/
abbrev DReg := Fin 16
/-- Trivet number. -/
abbrev TrivetId := Fin 4
/-- Scalar pair k of an origin, 0 to 14 (R187). -/
abbrev PairId := Fin 15

/-- Trivet class (Table 6-1). -/
inductive TClass where
  | w1 | w8 | w16 | w32
  deriving DecidableEq, Repr

/-- An agent with a work list (R54). -/
inductive Agent where
  | core (c : CoreId)
  | chan (ch : ChanId)
  | ea (a : EaId)
  deriving DecidableEq, Repr

/-- A store with a port (R290). -/
inductive StoreId where
  | ns (g : GroupId)
  | ds
  deriving DecidableEq, Repr

/-- The source of a VBC (R184). -/
inductive VbcSrc where
  | elem (va : VReg) (u : BitVec 11)
  | imm (x : BitVec 16)
  deriving DecidableEq, Repr

/-- Where a TWR's rows come from (R141). `cols` is C - 1. -/
inductive TwrSrc where
  | regs (a : VReg)
  | queue
  | mem (d : DReg) (k : PairId) (cols : BitVec 11)
  deriving DecidableEq, Repr

/-- Where a TRD's columns go (R144, R145). -/
inductive TrdDst where
  | regs (a : VReg)
  | queue
  | mem (d : DReg) (k : PairId)
  deriving DecidableEq, Repr

/-- Route source of a PRM (R118). -/
inductive RouteSrc where
  | slot (n : Fin 64)
  | map (d : DReg)
  deriving DecidableEq, Repr

/-- Route source of a PRMG: gang route g, or a map descriptor (R187). -/
inductive GangSrc where
  | route (g : Fin 32)
  | map (d : DReg)
  deriving DecidableEq, Repr

/-- Destination of a GTH (R151). -/
inductive GthDst where
  | regs (v : VReg)
  | queue
  | mem (d : DReg)
  deriving DecidableEq, Repr

/-- Source of an SCT (R151). -/
inductive SctSrc where
  | regs (v : VReg)
  | queue
  | mem (d : DReg)
  deriving DecidableEq, Repr

/-- Source of an UNPK (R189): the load queue with packed `FMT` and K - 1, or a descriptor with origin pair k. -/
inductive UnpkSrc where
  | queue (fmt : BitVec 5) (km1 : BitVec 4)
  | mem (d : DReg) (k : PairId)
  deriving DecidableEq, Repr

/-- A flit: header and payload (R316). -/
structure Flit where
  hdr : BitVec 128
  data : Bits
  deriving DecidableEq, Repr

/-- A management-chain packet: header, payload words and trailer (R349). -/
structure ChainPkt where
  hdr : Word
  words : List Word
  crc : Word
  deriving DecidableEq, Repr

/-- A transport block: payload bytes and the 16-byte trailer (R423). -/
structure Block where
  payload : List Byte
  trailer : BitVec 128
  deriving DecidableEq, Repr

/-- What steps 4 to 6 of bring-up find (Table 14-3, Table 14-9). -/
structure TestResult where
  /-- Rows BIST names bad, as (bank 0 to 63, row 0 to 255) (R276). -/
  nsBadRows : List (Nat × Nat)
  /-- Deep Store lanes that fail training, as (lane group 0 to 31, lane 0 to 255) (R284). -/
  dsBadLanes : List (Nat × Nat)
  /-- The link trained within 300 ms, and its latency in cycles (R331, R341). -/
  linkOk : Bool
  linkLat : BitVec 16
  /-- Failed known-answer runs, laid out as `KAT_FAIL` and `KAT_MOV_FAIL` (R368). -/
  katFail : BitVec 31
  katMov : BitVec 8
  /-- The first complete ageing round, one code per monitor (R413). -/
  ageing : List (BitVec 16)
  deriving DecidableEq, Repr, Inhabited

/-- The commands of the block. -/
inductive Instr where
  -- core instructions (Table 8-3)
  | nop (c : CoreId)
  | halt (c : CoreId)
  | fwait (c : CoreId) (f : BitVec 24)
  | lyend (c : CoreId)
  | loop (c : CoreId) (countM1 : BitVec 24)
  | endl (c : CoreId)
  | vld (c : CoreId) (adv : Bool) (vd : VReg) (d : DReg) (b o : BitVec 12)
  | vst (c : CoreId) (adv : Bool) (d : DReg) (va : VReg) (b o : BitVec 12)
  | vmov (c : CoreId) (vd va : VReg)
  | vbc (c : CoreId) (e : Fin 6) (vd : VReg) (src : VbcSrc)
  | vsel (c : CoreId) (e : Fin 6) (vd va vb vm : VReg)
  | vlq (c : CoreId) (vd : VReg)
  | vsq (c : CoreId) (va : VReg)
  | twr (c : CoreId) (adv : Bool) (cls : TClass) (nM1 : BitVec 7) (t : TrivetId) (src : TwrSrc)
  | trd (c : CoreId) (adv : Bool) (cls : TClass) (rel : Bool) (t : TrivetId) (start cntM1 : BitVec 11) (dst : TrdDst)
  | trel (c : CoreId) (t : TrivetId) (cls : Option TClass)
  | vrel (c : CoreId) (mask : Word)
  | prm (c : CoreId) (e : Fin 6) (vd va : VReg) (src : RouteSrc)
  | prmg (c : CoreId) (e : Fin 6) (vd va : VReg) (src : GangSrc)
  | gth (c : CoreId) (adv : Bool) (dst : GthDst) (srcD idxD : DReg) (k : BitVec 3) (var : Bool)
  | sct (c : CoreId) (adv : Bool) (dstD : DReg) (src : SctSrc) (idxD : DReg) (k : BitVec 3) (var acc : Bool)
  | cvt (c : CoreId) (vd va : VReg) (sfmt dfmt : BitVec 5) (round sat : Bool) (ps pd : BitVec 2)
  | pack (c : CoreId) (adv : Bool) (d : DReg) (va : VReg) (k : PairId) (container : BitVec 5)
  | unpk (c : CoreId) (adv : Bool) (vd : VReg) (src : UnpkSrc) (container : BitVec 5)
  | wcnt (c : CoreId) (adv : Bool) (sa : SReg) (ctr : Ctr) (step : BitVec 14)
  | sig (c : CoreId) (ctr : Ctr) (amtM1 : BitVec 14)
  | rwt (c : CoreId) (adv : Bool) (inc : BitVec 2) (d : DReg) (va : VReg) (ctr : Ctr) (st : StreamId) (nM1 : BitVec 5)
  | rrd (c : CoreId) (adv : Bool) (inc : BitVec 2) (dd sd : DReg) (ctr : Ctr) (st : StreamId)
  | rinc (c : CoreId) (adv add cnt : Bool) (d : DReg) (sa : SReg) (ctr : Ctr) (st : StreamId)
  | fuse (c : CoreId) (bM1 : BitVec 24) (stages : List (BitVec 64))
  | clear (c : CoreId) (tap : TapId)
  | arm (c : CoreId) (tap : TapId)
  | stop (c : CoreId) (tap : TapId)
  | emit (c : CoreId) (tap : TapId) (vd : VReg)
  -- port words and CLIP stages (Tables 10-1 and 10-5)
  | panel (a : EaId) (mode : BitVec 2) (haM1 hbM1 : BitVec 4) (srcA srcB : Fin 8) (tM1 : BitVec 11) (ctl : BitVec 24)
  | presentation (a : EaId)
  | drain (a : EaId) (trn tap : Bool) (ddesc : Fin 16) (inc : BitVec 2) (ctr : Ctr) (tilesM1 ofs : BitVec 7) (first : BitVec 24)
  | drainRow (a : EaId) (row : BitVec 4096) (psn : Bool)
  | waitc (a : EaId) (ctr : Ctr) (step : BitVec 14)
  | clip (a : EaId) (sM1 : Fin 8)
  | clipEmit (a : EaId) (mask : BitVec 3)
  | send (a : EaId) (ddesc : Fin 16) (ctr : Ctr) (idx : BitVec 24)
  | clipWait (a : EaId) (ctr : Ctr) (step : BitVec 14)
  | sum (a : EaId) (ddesc : Fin 16) (nM1 : BitVec 24)
  | scale (a : EaId) (m : Word)
  | bcast (a : EaId) (ddesc : Fin 16) (ctr : Ctr)
  | store (a : EaId) (ddesc : Fin 16)
  | endw (a : EaId)
  -- sequencers and paths
  | itemStart (ag : Agent)
  | fetchTransfer (c : CoreId) (nM1 : Fin 4)
  | storePathWrite (c : CoreId)
  | ladleStart (cl : ClusterId)
  | blockStart (ch : ChanId)
  | beatSlotGrant
  | transferComplete (ch : ChanId)
  | farXlate (ch : ChanId) (addr : BitVec 48)
  | farResponse (ch : ChanId) (data : Bits) (cycles : Nat)
  | rearm (ch : ChanId)
  | listEnd (ch : ChanId)
  -- remote operations and the link
  | flitAccept (st : StreamId)
  | linkSlot
  | wr (link : Bool) (f : Flit)
  | rdReq (link : Bool) (f : Flit)
  | rdRsp (link : Bool) (f : Flit)
  | inc (link : Bool) (f : Flit)
  | add (link : Bool) (f : Flit)
  | cred (link : Bool) (f : Flit)
  | cret (link : Bool) (f : Flit)
  | nack (link : Bool) (f : Flit)
  /-- a marker, and the cycles since its flit position began to arrive (R336) -/
  | tickMarker (f : Flit) (since : Fin 16)
  | flitForward (link : Bool) (f : Flit)
  | recall (st : StoreId)
  | nakRetry
  | laneSwap (l : LaneId)
  | spareReadyTimeout (l : LaneId)
  | linkRetrain (lostLane : Option LaneId)
  | retrainDone (ok : Bool)
  | linkTrain (ok : Bool) (lat : BitVec 16)
  -- ticks and frames
  | tick (num : Option Word) (skew : Int)
  | tickSelf
  | lock
  | tickLost
  | seqEntryEnd (p : Part)
  | stallCycle (ag : Agent)
  -- stores, power, supply
  | dsRefreshWindow (lanes : List (Nat × Nat)) (failed : List Nat)
  | patrolScrub
  | powerIntervalStart (d : DomId)
  | portClose (st : StoreId)
  | wake (d : DomId)
  | droopExhausted
  | vwarn
  | droop
  | vreset
  | vresetRecovery
  | ageingSample (code : BitVec 16)
  -- boundary and bring-up
  | aonPwrOk (high pllLock : Bool)
  | rstChipN (high : Bool)
  | pwrVidAck
  | vidAckTimeout
  | ident (p : ChainPkt)
  | address (p : ChainPkt)
  | rd (p : ChainPkt)
  | testGo (r : TestResult)
  -- resets, loading, repair
  | resetCore (c : CoreId)
  | resetCluster (cl : ClusterId)
  | resetPartition (p : Part)
  | resetUnit (linkKeep : Bool)
  | errorReset (c : CoreId)
  | taskStart (p : Part) (seq : Fin 16) (frame : Word)
  | loadBegin (source timeout : BitVec 16)
  | transportBlock (b : Block)
  | endMarker (b : Block)
  | loadGate
  | loadIncomplete
  | repairAuth (fcrc : Byte)
  | fuseProgDbgDisable
  | fuseProgSigRequired
  | fuseProgDetached
  | fuseProgKeyHash
  | fuseWriteDone (readBack : List (BitVec 64))
  | detach
  | preempt (p : Part)
  | resume (p : Part)
  | haltCommand (p : Part) (save : Bool)
  | routeLoad (c : CoreId) (slot : Fin 64) (record : Option (List Byte))
  | whiskLoad (cl : ClusterId) (slot : Fin 32) (record : Option (List Byte))
  | dump (c : CoreId)
  | pwrForce (d : BitVec 5) (cap : BitVec 2)
  -- registers and the debug TAP
  | seqNext (p : Part) (v : Word)
  | cancel (p : Part) (v : Word)
  | errAck (n : BitVec 7)
  | tickCfgWrite (v : Word)
  | registerWrite (off : BitVec 20) (v : Word)
  | idcode
  | window (dr : BitVec 72)
  -- rows added later in the table
  | tickGenerator
  | idle (f : Flit)
  | flitCrcFail (link : Bool) (f : Flit)
  | candidateSpareReady (l : LaneId)
  | gatedAfterIdle (d : DomId)
  deriving DecidableEq, Repr

end Sys2Proof
end

