-- ==== Sys2Proof/Config.lean ====
section
/-! DEFINITION. What the spec leaves open: free values with no body, and the figures one implementation fixes. -/

namespace Sys2Proof

/-- The byte at local address `a` of a bank group whose contents R277 calls undefined, in undefined span number `epoch`
(log 3). No body: nothing can be proved of its value. -/
opaque Config.undefByte (epoch a : Nat) : Byte

/-- The `n`-th value that the spec leaves open after a step that goes on (log 3). -/
opaque Config.freeValue (n : Nat) : BitVec 64

/-- Whether stream `st` of the unit with `UNIT_ADDR` `u` is marked `DEADLINE`: R53 has the destination know it, and no
field of its label entry says so (Table 13-2, log 21). -/
opaque Config.deadlineMark (u st : Nat) : Bool

/-- What steps 4 to 6 of the `n`-th bring-up find, where no operand of a command brings it (log 3). -/
opaque Config.testResult (n : Nat) : TestResult

/-- The far-memory record that a ROUTE_LOAD or WHISK_LOAD of the command window reads, none for a translation fault (log 3). -/
opaque Config.farRecord (n : Nat) : Option (List Byte)

/-- How its code judges the store word of number `w` with `n` bad symbols, more than it guarantees to find (R273, R280): passed
as good, corrected, or found uncorrectable (log 13). -/
opaque Config.eccJudge (w n : Nat) : Fin 3

/-- Whether a symbol of the Deep Store word of number `w` travels on die-to-die lane `l` (R283, log 84). -/
opaque Config.onLane (w l : Nat) : Bool

/-- The die-to-die lane of the `n`-th bad symbol of the Deep Store word of number `w` (R284, log 84). -/
opaque Config.symLane (w n : Nat) : Fin 8448

/-- Contents of Caddy's 256 KiB ROM (Table 1-5, log 84). -/
opaque Config.caddyRom (a : Fin 262144) : Byte

/-- The unit is the last of its management chain (R349, log 84). -/
opaque Config.chainLast : Bool

/-- Whether the core PLL locks within 1 ms in a bring-up that no operand tells it of (R341, log 3). -/
opaque Config.pllLocks (n : Nat) : Bool

end Sys2Proof
end

