-- ==== Sys2Proof/Machine/Bits.lean ====
section
/-! DEFINITION. Byte order, checks and digests: little-endian bytes (R9), CRC-32C and CRC-8 (R317), SHA-384 (R425),
integer roots. -/

namespace Sys2Proof.Machine

/-- Byte `i` of a value (R9). -/
def byteAt {n : Nat} (x : BitVec n) (i : Nat) : Byte := x.extractLsb' (8 * i) 8

/-- The first `k` bytes of a value, byte 0 first (R9). -/
def bytesOf {n : Nat} (x : BitVec n) (k : Nat) : List Byte := (upto k).map (byteAt x)

/-- The number little-endian bytes hold (R9). -/
def leNat : List Byte → Nat
  | [] => 0
  | b :: r => b.toNat + 256 * leNat r

/-- The number big-endian bytes hold (R420). -/
def beNat (bs : List Byte) : Nat := bs.foldl (fun a b => 256 * a + b.toNat) 0

/-- Little-endian bytes as a bit vector. -/
def leBits (n : Nat) (bs : List Byte) : BitVec n := BitVec.ofNat n (leNat bs)

/-- One bit step of the reflected CRC-32C. -/
def crc32cBit (c : Word) : Word := if c.getLsbD 0 then (c >>> 1) ^^^ 0x82F63B78#32 else c >>> 1

/-- One byte step of the reflected CRC-32C. -/
def crc32cByte (c : Word) (b : Byte) : Word :=
  let c := c ^^^ b.setWidth 32
  crc32cBit (crc32cBit (crc32cBit (crc32cBit (crc32cBit (crc32cBit (crc32cBit (crc32cBit c)))))))

/-- CRC-32C: polynomial 0x1EDC_6F41, reflected, initial value and final XOR all ones (R317). -/
def crc32c (bs : List Byte) : Word := (bs.foldl crc32cByte 0xFFFFFFFF#32) ^^^ 0xFFFFFFFF#32

/-- One bit step of the CRC-8. -/
def crc8Bit (c : Byte) : Byte := if c.getLsbD 7 then (c <<< 1) ^^^ 0x07#8 else c <<< 1

/-- CRC-8: polynomial x^8 + x^2 + x + 1, initial value 0 (R317, R344). -/
def crc8 (bs : List Byte) : Byte :=
  bs.foldl (fun c b => crc8Bit (crc8Bit (crc8Bit (crc8Bit (crc8Bit (crc8Bit (crc8Bit (crc8Bit (c ^^^ b)))))))) ) 0

/-- Integer square root by halving steps: the largest r with r * r at most `n`, found from `k` bits down. -/
def isqrtGo (n : Nat) : Nat → Nat → Nat
  | 0, r => r
  | k + 1, r => isqrtGo n k (if (r + 2 ^ k) * (r + 2 ^ k) ≤ n then r + 2 ^ k else r)

/-- Integer square root. -/
def isqrt (n : Nat) : Nat := isqrtGo n (n.log2 / 2 + 1) 0

/-- Integer cube root by the same steps. -/
def icbrtGo (n : Nat) : Nat → Nat → Nat
  | 0, r => r
  | k + 1, r => icbrtGo n k (if (r + 2 ^ k) * (r + 2 ^ k) * (r + 2 ^ k) ≤ n then r + 2 ^ k else r)

/-- The primes FIPS 180-4 takes the constants of SHA-384 from. -/
def shaPrimes : List Nat :=
  [2, 3, 5, 7, 11, 13, 17, 19, 23, 29, 31, 37, 41, 43, 47, 53, 59, 61, 67, 71, 73, 79, 83, 89, 97, 101, 103, 107, 109,
   113, 127, 131, 137, 139, 149, 151, 157, 163, 167, 173] ++
  [179, 181, 191, 193, 197, 199, 211, 223, 227, 229, 233, 239, 241, 251, 257, 263, 269, 271, 277, 281, 283, 293, 307,
   311, 313, 317, 331, 337, 347, 349, 353, 359, 367, 373, 379, 383, 389, 397, 401, 409]

/-- The 80 round constants: the first 64 fraction bits of the cube roots (FIPS 180-4, log 9). -/
def shaK : List (BitVec 64) := shaPrimes.map (fun p => BitVec.ofNat 64 (icbrtGo (p * 2 ^ 192) 68 0))

/-- The initial hash value of SHA-384: the first 64 fraction bits of the square roots of the 9th to 16th primes. -/
def shaInit : List (BitVec 64) := ((shaPrimes.drop 8).take 8).map (fun p => BitVec.ofNat 64 (isqrtGo (p * 2 ^ 128) 70 0))

/-- Message schedule: 80 words from 16, newest first while it grows. -/
def shaSched : Nat → List (BitVec 64) → List (BitVec 64)
  | 0, w => w
  | k + 1, w =>
    let a := w.getD 1 0
    let b := w.getD 14 0
    let s1 := a.rotateRight 19 ^^^ a.rotateRight 61 ^^^ (a >>> 6)
    let s0 := b.rotateRight 1 ^^^ b.rotateRight 8 ^^^ (b >>> 7)
    shaSched k ((s1 + w.getD 6 0 + s0 + w.getD 15 0) :: w)

/-- One round on the eight working words. -/
def shaRound (h : List (BitVec 64)) (kw : BitVec 64 × BitVec 64) : List (BitVec 64) :=
  match h with
  | [a, b, c, d, e, f, g, hh] =>
    let t1 := hh + (e.rotateRight 14 ^^^ e.rotateRight 18 ^^^ e.rotateRight 41) + ((e &&& f) ^^^ (~~~e &&& g)) + kw.1 + kw.2
    let t2 := (a.rotateRight 28 ^^^ a.rotateRight 34 ^^^ a.rotateRight 39) + ((a &&& b) ^^^ (a &&& c) ^^^ (b &&& c))
    [t1 + t2, a, b, c, d + t1, e, f, g]
  | _ => h

/-- One block of 128 bytes folded into the hash. -/
def shaBlock (h : List (BitVec 64)) (bs : List Byte) : List (BitVec 64) :=
  let w16 := (upto 16).map (fun i => BitVec.ofNat 64 (beNat ((bs.drop (8 * i)).take 8)))
  let w := (shaSched 64 w16.reverse).reverse
  List.zipWith (· + ·) h ((List.zip shaK w).foldl shaRound h)

/-- `k` blocks. -/
def shaBlocks : Nat → List (BitVec 64) → List Byte → List (BitVec 64)
  | 0, h, _ => h
  | k + 1, h, bs => shaBlocks k (shaBlock h (bs.take 128)) (bs.drop 128)

/-- Big-endian bytes of a number. -/
def beBytes (k n : Nat) : List Byte := (upto k).map (fun i => BitVec.ofNat 8 (n / 256 ^ (k - 1 - i)))

/-- SHA-384 of a byte string, most significant byte first (FIPS 180-4; R420, R425). -/
def sha384 (bs : List Byte) : List Byte :=
  let l := bs.length
  let z := (239 - l % 128) % 128
  let m := bs ++ [0x80#8] ++ List.replicate z 0 ++ beBytes 16 (8 * l)
  ((shaBlocks (m.length / 128) shaInit m).take 6).flatMap (fun w => beBytes 8 w.toNat)

end Sys2Proof.Machine
end

