-- ==== Sys2Proof/Machine/State.lean ====
section
/-! DEFINITION. The state of one MRU: everything the spec names, as plain data, and the state after reset.
Every default is the reset value; where the spec gives none, log 4 names it. -/

namespace Sys2Proof.Machine

/-- Faults. Every row of the table has an effect that the spec gives, errors of the unit being state of the unit
(chapter 15), so no command of this model faults. `none` is raised by nothing: it is there because a closed type of
reasons is asked for. Safe: it is never answered. -/
inductive Fault where
  /-- Raised by nothing (safe). -/
  | none
  deriving DecidableEq, Repr

/-- Refusals. -/
inductive Refusal where
  /-- A row without a meaning yet: raised by Dispatch alone (safe: the machine does not go on). -/
  | notModelled (mnemonic : String)
  deriving DecidableEq, Repr

/-! ### Unit, frames, commands -/

/-- Unit states (Table 14-1). -/
inductive UState where
  | powered | addressed | tested | ready | configWait | running | fenced | detached
  deriving DecidableEq, Repr

/-- Power states (Table 11-5, `PSTATE`). -/
inductive PState where
  | active | gated | retain | off | entering | waking
  deriving DecidableEq, Repr

/-- UNIT block and what stands beside it in the AON domain (14, 18). -/
structure UnitRegs where
  state : UState := .powered
  step : Nat := 1
  fast : Bool := false
  blendOk : Bool := false
  lcores : Nat := 0
  gangOk : BitVec 4 := 0
  ladleOk : BitVec 4 := 0
  eaOk : BitVec 2 := 0
  repairPend : Bool := false
  addr : BitVec 16 := 0
  /-- the unit holds a `UNIT_ADDR` (Table 14-1) -/
  hasAddr : Bool := false
  katFail : BitVec 31 := 0
  katMov : BitVec 8 := 0
  testAge : Word := 0
  /-- core cycles of the powered second in progress (R354) -/
  secCyc : Nat := 0
  testMaxAge : Word := 0x00015180
  /-- a full test has ended since AON power-up (R354) -/
  tested : Bool := false
  evtStat : BitVec 18 := 0
  evtMask : BitVec 18 := 0x3FFFF
  taskMode : Bool := false
  clEn : BitVec 4 := 0
  nsOwner : BitVec 8 := 0
  dsBound : BitVec 4 := 0
  cntSplit : BitVec 4 := 0
  saveBase : Vector Word 2 := #v[0, 0]
  deriving DecidableEq, Repr

/-- The command window (R454, R455). -/
structure CmdWin where
  arg : Vector Word 4 := #v[0, 0, 0, 0]
  busy : Bool := false
  done : Bool := false
  code : Byte := 0
  result : BitVec 16 := 0
  /-- cycles that a RESET in progress still takes (R347, R356) -/
  left : Nat := 0
  deriving DecidableEq, Repr

/-- Target bins (R5). -/
inductive Bin where
  | h | s | e
  deriving DecidableEq, Repr

/-- `TICK_CFG`, and the frame controller's own copy of it (R460). -/
structure TickCfg where
  period : BitVec 20 := 0x1000
  droopRsv : BitVec 7 := 0x1E
  src : BitVec 2 := 0
  treeOut : Bool := false
  deriving DecidableEq, Repr

/-- A start tick asked for by TASK_START (R33). -/
structure StartReq where
  seq : Fin 16
  frame : Word
  deriving DecidableEq, Repr

/-- The frame controller (02, R460 to R463). -/
structure FrameCtl where
  cfg : TickCfg := {}
  own : TickCfg := {}
  frameLen : Nat := 0
  schedEnd : Nat := 0
  refPhase : Nat := 0
  refW : Nat := 0
  refP : Nat := 0
  scrubOff : Nat := 0
  replayRsv : Nat := 0x1E
  linkSlots : Nat := 0
  farBound : Nat := 0x600
  ctr : Word := 0
  cyc : Nat := 0
  /-- bin whose clock the core PLL gives (R467) -/
  clk : Bin := .h
  /-- a tick has been taken since AON power-up (Table 15-10) -/
  ticked : Bool := false
  lock : Bool := false
  holdover : Bool := false
  unlock : Bool := false
  missed : Nat := 0
  /-- ticks in a row without a marker or a pulse, and whether TICK_LOST has been raised for them (R47) -/
  absent : Nat := 0
  lost : Bool := false
  skew : BitVec 16 := 0
  /-- ticks taken in a row with a skew within 32 cycles and none missed (R48) -/
  good : Nat := 0
  /-- the frame of a marker taken since the generator's last pulse (R45, R47) -/
  marker : Option Word := .none
  /-- reference units by which the generator's next period differs from its own (R46) -/
  adj : Int := 0
  dlMiss : Word := 0
  ovr : Word := 0
  late : Word := 0
  droopDebt : Word := 0
  /-- deadline misses raised, as (stream, frame) (R53) -/
  missRaised : List (Nat × Word) := []
  deriving DecidableEq, Repr

/-- A work-list item (R433): `fields` are the bits of Table 17-7. -/
structure Item where
  offset : Nat
  done : Nat
  fields : BitVec 192
  deriving DecidableEq, Repr

/-- An item waiting at its agent, with the frame it belongs to (R37, R54). -/
structure WorkItem where
  frame : Word
  idx : Nat
  item : Item
  deriving DecidableEq, Repr

/-- What an agent waits for (Table 15-6). -/
inductive Wait where
  | ctr (c : Ctr) (thr : Word)
  | credit (c : Ctr)
  | lq | sq | ladle | gang | admission | panel | transfers
  deriving DecidableEq, Repr

/-- What every agent carries: its items, the frame of the item running, its stall count and the detail of the wait that
raised it last, whether it made progress in the present frame, and what it waits for (R37, R387, R388, R390). -/
structure AgentSt where
  items : List WorkItem := []
  run : Option Word := .none
  stall : Word := 0
  stallOn : Nat := 0xFFFF
  progressed : Bool := false
  wait : Option Wait := .none
  deriving DecidableEq, Repr

/-- A partition's task (R22, R462, R464). -/
structure PartSt where
  /-- a task runs on the partition: from its start tick to a partition reset or an abort -/
  task : Bool := false
  /-- a TASK_START has been taken since the load or the last partition reset -/
  started : Bool := false
  start : Option StartReq := .none
  seq : Fin 16 := 0
  entry : Nat := 0
  left : Nat := 0
  idle : Bool := false
  /-- the present entry's repeats have run out and SEQ_ENTRY_END is due -/
  entryEnd : Bool := false
  late : Bool := false
  aborted : Bool := false
  halted : Bool := false
  preempted : Bool := false
  /-- cycles of a partition reset still to pass (R325, R356, R358) -/
  resetWin : Nat := 0
  /-- a PREEMPT or a RESUME accepted and due at the next tick (R457, R458) -/
  preemptDue : Bool := false
  resumeDue : Bool := false
  /-- the frame whose work a stopped partition was in (R458) -/
  stopFrame : Word := 0
  /-- the contexts of its cores have been saved for the stop (R104, R458) -/
  saved : Bool := false
  /-- SEQ_NEXT_p and SEQ_AT_p (R40) -/
  nextSeq : Fin 16 := 0
  nextWhen : BitVec 2 := 0
  nextPending : Bool := false
  /-- ticks that must pass before a pending change may start in idle frames (R402) -/
  nextFrom : Nat := 0
  seqAt : Word := 0
  /-- DBG_BRK_EN bit p and DBG_BRK_p (R464) -/
  brkEn : Bool := false
  brk : Word := 0
  deriving DecidableEq, Repr

/-! ### Cores and clusters -/

/-- A vector register with its empty and poison marks (R81, R376). -/
structure VecReg where
  full : Bool := false
  data : Bits := 0
  psn : Bool := false
  deriving DecidableEq, Repr

/-- A core Trivet (R98, R99, R139 to R141). -/
structure Trivet where
  cls : TClass := .w1
  full : Bool := false
  rows : Nat := 0
  cols : Nat := 0
  data : List Bits := []
  psn : Bool := false
  deriving DecidableEq, Repr

/-- An entry of the loop stack (R80). -/
structure LoopEnt where
  start : Nat
  stop : Nat
  left : Nat
  deriving DecidableEq, Repr

/-- A stream position: block index and beat offset (R80, R443). -/
structure StreamPos where
  block : Nat := 0
  beat : Nat := 0
  deriving DecidableEq, Repr

/-- A block list: its first entry and its count (R202). -/
structure ListRef where
  first : Nat
  count : Nat
  deriving DecidableEq, Repr

/-- A counter increment that a write or a taken beat releases (R210). -/
structure IncOp where
  ctr : Ctr
  amt : Word
  psn : Bool
  deriving DecidableEq, Repr

/-- A beat of the load queue; `inc` is set on the last beat of a block with an increment (R210). `pos` is the stream
position it was fetched at, and `before` the poison met in its block before it (R102). -/
structure LqBeat where
  data : Bits
  psn : Bool
  inc : Option IncOp := .none
  pos : StreamPos := {}
  before : Bool := false
  deriving DecidableEq, Repr

/-- A write of some bits of one 64-byte word, numbered by address / 64; `mask` names the bits (R61, R272). -/
structure WordWr where
  word : Nat
  data : BitVec 512
  mask : BitVec 512
  deriving DecidableEq, Repr

/-- Where a store-queue entry goes (R89, R246). -/
inductive SqDst where
  | mem (ws : List WordWr)
  | feeder (portB : Bool) (pos : Nat) (data : Bits)
  deriving DecidableEq, Repr

/-- The block of a store list that an entry belongs to: its `INC`, its counter, and whether the entry is its last
(R210). -/
structure BlkTag where
  inc : Nat
  ctr : Ctr
  last : Bool
  deriving DecidableEq, Repr

/-- A store-queue entry (R89): where it goes, its poison, the elements it drops as out of bounds, its element width, the
bytes a feeder beat carries, and its block. -/
structure SqEntry where
  dst : SqDst
  psn : Bool
  drop : Nat := 0
  ew : Nat := 8
  nbytes : Nat := 0
  blk : Option BlkTag := .none
  deriving DecidableEq, Repr

/-- Functional units of the execute engine (Table 8-4). -/
inductive FUnit where
  | load | store | move | trvWrite | trvRead | net | convert | ladle | sync
  deriving DecidableEq, Repr

/-- What an instruction holds for the issue rule: its units, the vector registers it reads and writes, the Trivets it
names, and whether it takes beats from the load queue or pushes to the store queue (R87, log 10). -/
structure Needs where
  units : List FUnit := []
  reads : List VReg := []
  writes : List VReg := []
  trivets : List TrivetId := []
  takes : Bool := false
  pushes : Bool := false
  deriving DecidableEq, Repr

/-- Where a core stood when an instruction issued: what an interruption returns it to (R102, R176). -/
structure Mark where
  pc : Nat
  loops : List LoopEnt
  s : Vector Word 16
  d : Vector Desc 16
  /-- position of the next beat to take, the poison met before it in its block, and whether no beat was left -/
  take : StreamPos
  before : Bool
  lqDone : Bool
  storePos : StreamPos
  storeDesc : Option Desc
  feedPos : Nat
  stBytes : Nat
  stPsn : Bool
  deriving DecidableEq, Repr

/-- A beat that an instruction has still to push: at the next position of the store list, or with its own address (R89). -/
inductive SqPush where
  | list (x : Bits) (psn : Bool)
  | own (e : SqEntry)
  deriving DecidableEq, Repr

/-- A stage of a fused command, the beats of the group it is collecting, and the groups it has completed (R198). -/
structure FStage where
  w : BitVec 64
  buf : List (Bits × Bool) := []
  groups : Nat := 0
  deriving DecidableEq, Repr

/-- A multi-beat instruction in progress (R87): the instruction, what it holds, where the core stood when it issued,
whether it waits for its Ladle, the beats it has still to take and those taken, the beats it has still to push, and, of a
fused command, its stages and the beats its last stage has delivered. -/
structure Prog where
  cmd : Instr
  needs : Needs
  mark : Mark
  ladle : Bool := false
  need : Nat := 0
  got : List (Bits × Bool) := []
  out : List SqPush := []
  stages : List FStage := []
  sunk : Nat := 0
  deriving DecidableEq, Repr

/-- A presented PRMG (R130). -/
structure Present where
  e : Fin 6
  vd : VReg
  va : VReg
  src : GangSrc
  deriving DecidableEq, Repr

/-- A route slot: tag and route word (R119). -/
structure RouteSlot where
  tag : Byte := 0
  word : BitVec 21504 := 0
  deriving DecidableEq, Repr

/-- Core states (Table 4-6). -/
inductive CState where
  | idle | run | preempted | halted | fenced
  deriving DecidableEq, Repr

/-- A regulator register (R240). -/
structure Regulator where
  rate : BitVec 7 := 0x40
  depth : BitVec 9 := 0x20
  deriving DecidableEq, Repr

/-- One logical core (Table 4-1, Table 4-5 and the registers added by Tables 5-9, 6-5 and 9-11). -/
structure Core where
  st : CState := .idle
  v : Vector VecReg 32 := Vector.replicate 32 {}
  t : Vector Trivet 4 := Vector.replicate 4 {}
  s : Vector Word 16 := Vector.replicate 16 0
  d : Vector Desc 16 := Vector.replicate 16 0
  /-- 2,048 stands for "past instruction 2,047" (R93) -/
  pc : Nat := 0
  loops : List LoopEnt := []
  loadList : Option ListRef := .none
  storeList : Option ListRef := .none
  fetch : StreamPos := {}
  storePos : StreamPos := {}
  /-- descriptors of the ROWS blocks in progress, read when each block started (R212) -/
  loadDesc : Option Desc := .none
  storeDesc : Option Desc := .none
  /-- poison met in the load block in progress -/
  ldPsn : Bool := false
  /-- bytes written and poison met in the store block in progress (R210) -/
  stBytes : Nat := 0
  stPsn : Bool := false
  /-- a poisoned write of this item has been accepted, which a SIG covers (R109, R288) -/
  wrPsn : Bool := false
  lqDone : Bool := false
  lq : List LqBeat := []
  sq : List SqEntry := []
  /-- multi-beat instructions in progress, oldest first (R87) -/
  prog : List Prog := []
  /-- feeder beats pushed in this item: the position in the store stream (R246) -/
  feedPos : Nat := 0
  latch : Option VReg := .none
  factor : Option DReg := .none
  imem : List (Nat × BitVec 64) := []
  routes : List (Nat × RouteSlot) := []
  present : Option Present := .none
  /-- a contained error whose error reset is due (R357) -/
  errDue : Bool := false
  failed : Bool := false
  itemIdx : Nat := 0
  ag : AgentSt := {}
  oobWr : Word := 0
  lqStall : Word := 0
  sqStall : Word := 0
  rfRd : Word := 0
  latchHit : Word := 0
  restart : Word := 0
  saveCyc : Word := 0
  routeCe : Word := 0
  gangWait : Word := 0
  netPass : Word := 0
  trvRow : Word := 0
  trvBeat : Word := 0
  regStall : Word := 0
  wcntStall : Word := 0
  reg : Regulator := {}
  /-- fetch bucket in 1/64 beat (R216, R217) -/
  bucket : Nat := 1024
  /-- a fetch transfer has already taken the present cycle's tokens (log 1) -/
  fed : Bool := false
  deriving DecidableEq, Repr

/-- Who issued a Ladle command (Table 7-4). -/
inductive LadSrc where
  | core (c : CoreId)
  | chan (ch : ChanId)
  deriving DecidableEq, Repr

/-- One cluster: its Whisk and its Ladle (05, 07). -/
structure Cluster where
  whisk : List (Nat × BitVec 16384) := []
  whiskLoaded : Word := 0
  running : Option LadSrc := .none
  /-- agents whose commands wait (R150) -/
  waiting : List LadSrc := []
  pos : BitVec 24 := 0
  ladFenced : Bool := false
  whiskFailed : Bool := false
  ladFailed : Bool := false
  whiskCe : Word := 0
  gangPass : Word := 0
  oob : Word := 0
  merge : Word := 0
  waitCnt : Word := 0
  conf : Word := 0
  adds : Word := 0
  req : Word := 0
  deriving DecidableEq, Repr

/-! ### Stream Mover -/

/-- Channel states (Table 9-8). -/
inductive ChState where
  | idle | run | waitCred | waitAdmit | waitLadle | fenced
  deriving DecidableEq, Repr

/-- A list a channel runs, and the next block of it (R230). -/
structure RunList where
  first : Nat
  count : Nat
  idx : Nat
  deriving DecidableEq, Repr

/-- A re-arm: a list and new bases (R229). -/
structure Rearm where
  first : Nat
  count : Nat
  src : BitVec 48
  dst : BitVec 48
  deriving DecidableEq, Repr

/-- What an index selects (R155, R169). -/
inductive LadPos where
  /-- out of bounds, or an absent variant -/
  | out
  /-- the slice at index `x`, found through `d` -/
  | at_ (x : Nat) (d : Desc)
  deriving DecidableEq, Repr

/-- Elements of a beat of a Ladle command, which of them are pad elements, and the beat's poison (R151, R166, R376). -/
structure LadVals where
  vals : List Nat
  pads : List Bool
  psn : Bool
  deriving DecidableEq, Repr

/-- Why a Ladle command stopped early (R164, R293, R377). -/
inductive LadStop where
  | poisonIndex
  /-- a residue mismatch at an index position -/
  | residue (pos : Nat)
  /-- a write refused at a closed port -/
  | off
  deriving DecidableEq, Repr

/-- A row that the channel of an INDEX block reads for its Ladle, or asks another unit for: its number, its space, its bit
address and the distance from one element to the next, its elements, and, of a row that another unit writes itself, its
place here (R170, R208). -/
structure FetchRow where
  key : Nat
  space : Nat
  bit : Nat
  step : Nat
  w : Nat
  n : Nat
  dst : Option Nat := .none
  deriving DecidableEq, Repr

/-- Where an INDEX block stands: it waits for its Ladle, reads its index tensor, reads rows for its Ladle or asks another
unit for them, or carries what the Ladle gave it to the destination (R150, R208, R487). -/
inductive IdxStage where
  | wait | index | fetch | out
  deriving DecidableEq, Repr

/-- A beat that a channel has read: 256 bytes, poison, and which of its words are pad elements. -/
structure MovBeat where
  data : Bits
  psn : Bool
  pad : BitVec 4
  deriving DecidableEq, Repr

/-- A transfer outstanding (R218 to R220): where it reads and writes, its bytes, the beat slots it has had, the beats
that have landed, the port of its slots, the words it writes when a Ladle has laid them out, the row it reads for a Ladle,
and whether its flit has been accepted or its response written. -/
structure Xfer where
  src : Option Nat
  dst : Option Nat
  len : Nat
  issued : Nat := 0
  data : List MovBeat := []
  port : Fin 4 := 0
  out : List (WordWr × Bool) := []
  fetch : Option FetchRow := .none
  flit : Bool := false
  accepted : Bool := false
  answered : Bool := false
  deriving DecidableEq, Repr

/-- A block in progress: its entry and descriptors with the bases added, its index in the list, the row and byte it
carries next, and its transfers outstanding (R210, R211, R218 to R220). -/
structure BlkRun where
  entry : BitVec 256
  idx : Nat
  sd : Desc := 0
  dd : Desc := 0
  scale : Word := 0
  scalePsn : Bool := false
  row : Nat := 0
  off : Nat := 0
  fly : List Xfer := []
  bytes : Nat := 0
  psn : Bool := false
  /-- of an INDEX block: its stage, the index beats read, what its indices select, pass by pass, the rows it reads, those
  that are in as (number, beats), the rows of words its Ladle gave it, the flits sent, and why it ends early -/
  stage : IdxStage := .wait
  idxGot : List MovBeat := []
  pos : List (List LadPos) := []
  fetch : List FetchRow := []
  got : List (Nat × List LadVals) := []
  part : List (MovBeat × Nat) := []
  out : List (List (WordWr × Bool)) := []
  stop : Option LadStop := .none
  deriving DecidableEq, Repr

/-- One Stream Mover channel (R211, R229, R236 to R239). -/
structure Chan where
  st : ChState := .idle
  desc : Vector Desc 16 := Vector.replicate 16 0
  src : BitVec 48 := 0
  dst : BitVec 48 := 0
  list : Option RunList := .none
  blks : List BlkRun := []
  shadow : Option Rearm := .none
  /-- a work-list re-arm that waits for the shadow (R231) -/
  rearmWait : Option Rearm := .none
  raSrcL : Word := 0
  raSrcH : BitVec 16 := 0
  raDstL : Word := 0
  raDstH : BitVec 16 := 0
  raFirst : BitVec 13 := 0
  raCount : BitVec 12 := 0
  loop : Bool := false
  owner : Bool := false
  rt : Bool := false
  stream : BitVec 6 := 0
  streamEn : Bool := false
  scaleAddr : Word := 0
  ag : AgentSt := {}
  rearmBusy : Word := 0
  oobWr : Word := 0
  farLate : Word := 0
  beats : Word := 0
  credStall : Word := 0
  /-- frame of the last FAR_LATE raised (R227) -/
  farLateFrame : Option Word := .none
  /-- blocks whose transfers a partition reset lets finish (Table 14-10), and far-memory beats whose response a reset has
  made absorbed traffic (R304) -/
  drain : List BlkRun := []
  farDead : Nat := 0
  deriving DecidableEq, Repr

/-- The Stream Mover's shared part (R202, R221, R222, R241). -/
structure Mover where
  mem : List (Nat × BitVec 256) := []
  chans : Vector Chan 32 := Vector.replicate 32 {}
  split : BitVec 3 := 0
  reg : Vector Regulator 4 := Vector.replicate 4 {}
  bucket : Vector Nat 4 := Vector.replicate 4 1024
  /-- the grant of beat slots has already taken the present cycle's tokens (log 1) -/
  fed : Bool := false
  /-- `last` of R222, by partition and class (READ, WRITE, REMOTE) -/
  last : Vector (Fin 32) 6 := Vector.replicate 6 31
  faultCh : BitVec 5 := 0
  faultBlk : BitVec 12 := 0
  faultFrame : BitVec 15 := 0
  faultAddr : BitVec 48 := 0
  listCe : Word := 0
  deriving DecidableEq, Repr

/-! ### Engine Interface -/

/-- Attachment states (Table 10-10). -/
inductive EState where
  | idle | panel | wait | clip | halted | fenced
  deriving DecidableEq, Repr

/-- A feeder beat with the core that pushed it and its position (R246). -/
structure FeedBeat where
  core : CoreId
  pos : Nat
  data : Bits
  psn : Bool
  deriving DecidableEq, Repr

/-- The fields of a PANEL word (Table 10-1). -/
structure Panel where
  mode : BitVec 2
  ha : Nat
  hb : Nat
  srcA : Fin 8
  srcB : Fin 8
  t : Nat
  ctl : BitVec 24
  deriving DecidableEq, Repr

/-- One operand port: FIFO, hold latch, panel store, scale groups (R246 to R250). -/
structure OpPort where
  fifo : List FeedBeat := []
  hold : Option (Bits × Bool) := .none
  /-- fresh data beats of the present PANEL, in order -/
  store : List (Bits × Bool) := []
  /-- scale beats taken in the present PANEL, in order, with their poison (R249, R378) -/
  scales : List (BitVec 1024 × Bool) := []
  /-- last position taken from a core, by core (R246) -/
  lastPos : List (Nat × Nat) := []
  deriving DecidableEq, Repr

/-- A DRAIN in progress (R251 to R255). -/
structure DrainRun where
  trn : Bool
  tap : Bool
  ddesc : Fin 16
  inc : BitVec 2
  ctr : Ctr
  tiles : Nat
  ofs : Nat
  first : Nat
  row : Nat := 0
  bytes : Nat := 0
  psn : Bool := false
  /-- columns read on the transposed path, and rows that have left the drain FIFO -/
  cols : Nat := 0
  sent : Nat := 0
  deriving DecidableEq, Repr

/-- One drain Trivet: the rows of its tile, their poison, and the cycles before its next column may be read (R254). -/
structure DrainTri where
  rows : List (BitVec 4096) := []
  psn : Bool := false
  wait : Nat := 0
  deriving DecidableEq, Repr

/-- A row in the drain FIFO: its number in the DRAIN, its values, the cycles before it may be issued, the issue cycles it
still takes, and whether its flits have been offered (R253). -/
structure DrainRow where
  num : Nat
  vals : List Word
  psn : Bool
  wait : Nat
  left : Nat
  out : Bool := false
  deriving DecidableEq, Repr

/-- A presentation as the engine port shows it (R473). -/
structure PortOut where
  a : Bits
  b : Bits
  aPsn : Bool
  bPsn : Bool
  mode : BitVec 2
  ctl : Option (BitVec 24)
  /-- scale groups the side channels carry between the presentation before and this one, with their poison -/
  sca : List (BitVec 1024 × Bool)
  scb : List (BitVec 1024 × Bool)
  deriving DecidableEq, Repr

/-- One attachment (10). -/
structure Attach where
  st : EState := .idle
  prog : List (Nat × BitVec 64) := []
  desc : Vector Desc 16 := Vector.replicate 16 0
  word : Nat := 0
  pos : Nat := 0
  panel : Option Panel := .none
  portA : OpPort := {}
  portB : OpPort := {}
  thr : Word := 0
  /-- a WAITC or CLIP WAIT has added its STEP and waits (R256) -/
  thrAdded : Bool := false
  clipStep : Word := 0
  clipV : Word := 0
  clipVPsn : Bool := false
  /-- stages of the present CLIP still to run (R261) -/
  clipLeft : Nat := 0
  /-- a SEND or BCAST stage whose flits wait for acceptance (R261) -/
  clipSent : Bool := false
  /-- entries of a BCAST that follow the flit it waits for, with their poison (R261, R313) -/
  clipTodo : List (Word × Bool) := []
  /-- where a BCAST in progress writes, and the counter it raises -/
  clipAddr : Nat := 0
  clipCtr : Ctr := 0
  drainRun : Option DrainRun := .none
  /-- the two drain Trivets and the drain FIFO, oldest row first (R253, R254) -/
  tri : Vector DrainTri 2 := Vector.replicate 2 {}
  fifo : List DrainRow := []
  drainFenced : Bool := false
  /-- what the engine port last showed -/
  out : Option PortOut := .none
  discard : Bool := false
  stream : BitVec 6 := 0
  streamEn : Bool := false
  bstream : BitVec 6 := 0
  bstreamEn : Bool := false
  errDue : Bool := false
  ag : AgentSt := {}
  feed : Word := 0
  holdCnt : Word := 0
  starve : Word := 0
  dup : Word := 0
  drainRows : Word := 0
  drainStall : Word := 0
  oobWr : Word := 0
  ce : Word := 0
  deriving DecidableEq, Repr

/-- One Norm Tap: 24 levels, each with its occupied mark (R257, R258). -/
structure Tap where
  armed : Bool := false
  psn : Bool := false
  levels : Vector (Option Word) 24 := Vector.replicate 24 .none
  rows : Word := 0
  ch : BitVec 5 := 0
  fmt : Bool := false
  owner : Bool := false
  deriving DecidableEq, Repr

/-! ### Stores, counters, crossbar -/

/-- A store's port (R290 to R292). -/
structure Port where
  ps : PState := .gated
  isOpen : Bool := true
  /-- cycles that accesses still wait after a wake from GATED (Table 11-2) -/
  wake : Nat := 0
  hold : Nat := 0
  deferCnt : Word := 0
  skip : Word := 0
  /-- a recall has been sent, and no credit is granted against the store until it reopens (R323, R324) -/
  recalled : Bool := false
  /-- an entry to RETAIN or OFF is due and waits for both counts to be 0 (R292) -/
  closing : Bool := false
  deriving DecidableEq, Repr

/-- A bank group (Table 11-5). -/
structure Group where
  port : Port := {}
  bad : Bool := false
  scrubPos : BitVec 6 := 0
  /-- 0: unlisted bytes are zero; k > 0: undefined span k (R277, log 3) -/
  epoch : Nat := 0
  deriving DecidableEq, Repr

/-- Near Store and Deep Store (11). -/
structure Stores where
  /-- bytes, canonical (log 2) -/
  mem : List Host.Cell := []
  /-- poisoned 64-byte words, by address / 64 (R274) -/
  psn : List Nat := []
  /-- stored words with symbols in error: (word, number of bad symbols) (R273, R280) -/
  bad : List (Nat × Nat) := []
  /-- written granules of Deep Store (R282) -/
  written : List Nat := []
  /-- every written bit is set (DS_CTL left OFF while DS_ARR stayed powered, R282) -/
  allWritten : Bool := false
  /-- DS_ARR has left OFF while DS_CTL was OFF: it did not stay powered (R282) -/
  arrLost : Bool := false
  groups : Vector Group 8 := Vector.replicate 8 {}
  retain : Byte := 0
  nsCe : Word := 0
  nsUe : Word := 0
  nsUeAddr : BitVec 25 := 0
  nsOff : Word := 0
  ds : Port := {}
  dsCe : Word := 0
  dsUe : Word := 0
  dsUeAddr : BitVec 30 := 0
  refCnt : Word := 0
  scrubPos : BitVec 21 := 0
  refRow : BitVec 17 := 0
  laneThr : Byte := 0x10
  dsOff : Word := 0
  laneSel : BitVec 14 := 0
  laneErr : List (Nat × Word) := []
  /-- per lane group: spares used, failed lanes without a spare, lane of the last swap -/
  spares : Vector Nat 32 := Vector.replicate 32 0
  laneFail : Vector Nat 32 := Vector.replicate 32 0
  lastSwap : Vector Byte 32 := Vector.replicate 32 0
  /-- lanes out of use: moved onto spares, or failed with no spare (R284) -/
  outLanes : List Nat := []
  /-- failed lanes without a spare: their symbols are corrected on every read (R284) -/
  deadLanes : List Nat := []
  /-- rows that the BIST of the last full test named bad, as (bank, row) (R276) -/
  bistRows : List (Nat × Nat) := []
  deriving DecidableEq, Repr

/-- An arrival counter (R285). -/
structure Counter where
  val : Word := 0
  psn : Bool := false
  taken : Word := 0
  deriving DecidableEq, Repr

/-- One access that a master presents at a target and that waits for its grant: the master and its partition, whether it is
the first beat of a burst, the banks, slots or ports it needs, whether it reads, and whether it writes (R298 to R300). -/
structure XbReq where
  t : Fin 15
  m : Fin 45
  part : Part
  head : Bool
  need : Nat
  read : Bool
  write : Bool
  deriving DecidableEq, Repr

/-- An access granted: a read whose data is on its way, or a write that has not yet taken effect; `dead` when its master has
been reset since (R291, R304). -/
structure XbResp where
  t : Fin 15
  m : Fin 45
  part : Part
  write : Bool
  left : Nat
  dead : Bool := false
  deriving DecidableEq, Repr

/-- The crossbar (12); `pri` lists what differs from the reset value of R310. -/
structure Xbar where
  pri : List (Nat × Nat) := []
  park : Vector (BitVec 6) 15 := Vector.replicate 15 0x3F
  rr : Vector (BitVec 6) 15 := Vector.replicate 15 0
  wait : List (Nat × Word) := []
  split : Word := 0
  tomb : Word := 0
  /-- accesses presented, in the order they were, and accesses granted -/
  reqs : List XbReq := []
  resp : List XbResp := []
  /-- the ports that were not idle in the cycle before (R302) -/
  busy : List (Fin 15) := []
  /-- masters whose partial-word write has had the first of its two cycles in its partition's granule slot (R303) -/
  half : List (Fin 45) := []
  deriving DecidableEq, Repr

/-! ### Remote Engine and link -/

/-- A flit that waits for admission (R50): its header less `DL` and checks, and its route. -/
structure OutFlit where
  f : Flit
  viaNoc : Bool
  viaUnit : BitVec 6
  hops : Nat
  /-- a CRET, which no recall stops -/
  cret : Bool := false
  /-- a flit of a drain row, or of a CLIP stage, of the stream's attachment -/
  row : Bool := false
  clip : Bool := false
  deriving DecidableEq, Repr

/-- One remote stream (R312, R322, R337). -/
structure Stream where
  entry : BitVec 128 := 0
  cred : BitVec 16 := 0
  qleft : Nat := 0
  qleftNoc : Nat := 0
  acc : Word := 0
  fenced : Bool := false
  /-- code of the NACK that fenced it (R374) -/
  nackCode : BitVec 16 := 0
  recalled : Bool := false
  tomb : Word := 0
  /-- read requests accepted and not yet answered (R358) -/
  asked : Nat := 0
  wait : List OutFlit := []
  deriving DecidableEq, Repr

/-- What the unit keeps per label (R319, R323, R335, R385). -/
structure LabelSt where
  pending : Word := 0
  runPsn : Bool := false
  ret : Nat := 0
  nacked : Bool := false
  used : Nat := 0
  deriving DecidableEq, Repr

/-- Link states (Table 13-8). -/
inductive LState where
  | down | training | up | retraining | lost
  deriving DecidableEq, Repr

/-- A flit kept for replay (R332). -/
structure Replay where
  seq : BitVec 10
  f : Flit
  deriving DecidableEq, Repr

/-- A response or return flit that waits for a slot of its label's return route (R320, R323 to R325). -/
structure RetFlit where
  label : Nat
  f : Flit
  viaNoc : Bool
  viaUnit : BitVec 6
  deriving DecidableEq, Repr

/-- The link port (R328 to R338). -/
structure Link where
  st : LState := .down
  spareReady : Bool := false
  spare : BitVec 3 := 0
  laneFail : BitVec 5 := 0
  lat : BitVec 16 := 0
  laneThr : BitVec 16 := 0x400
  rpl : Word := 0
  rplOver : Word := 0
  crc : Word := 0
  fecCe : Word := 0
  fecUe : Word := 0
  retrain : Word := 0
  fwd : Word := 0
  fwdOvf : Word := 0
  nackCnt : Word := 0
  labelCnt : Word := 0
  addCnt : Word := 0
  txP : Vector Word 5 := Vector.replicate 5 0
  laneErr : Vector Word 5 := Vector.replicate 5 0
  /-- corrected symbols by lane in the present 65,536 superframes, and the cycles of them that have passed (R333) -/
  laneWin : Vector Nat 5 := Vector.replicate 5 0
  winCyc : Nat := 0
  /-- the slot that has carried its word, by frame and number (R330) -/
  slotUsed : Option (Word × Nat) := .none
  /-- the lane that retrains as the candidate spare (R333) -/
  candidate : Option LaneId := .none
  nextSeq : BitVec 10 := 0
  expSeq : BitVec 10 := 0
  replay : List Replay := []
  /-- flits of the replay buffer still to resend (R332) -/
  resend : List Replay := []
  /-- NAK to send in the next slot; NAK sent and not answered; times this flit was asked for -/
  nakDue : Bool := false
  nakOut : Bool := false
  nakTimes : Nat := 0
  /-- flits accepted and not yet in a slot -/
  tx : List Flit := []
  fails : Nat := 0
  rplFrame : Nat := 0
  /-- forwarded flits that wait for a slot: label used here and flit (R335) -/
  fwdBuf : List (Nat × Flit) := []
  /-- frame whose tick marker has been sent (R330) -/
  markerFrame : Option Word := .none
  /-- the last word put on the line -/
  out : Option Flit := .none
  deriving DecidableEq, Repr

/-- Remote Engine (13). -/
structure Remote where
  streams : Vector Stream 64 := Vector.replicate 64 {}
  labels : List (Nat × BitVec 128) := []
  labSt : List (Nat × LabelSt) := []
  /-- response and return flits that wait for their route -/
  ret : List RetFlit := []
  /-- flits put on the NoC, newest last: (unit, flit) -/
  noc : List (BitVec 6 × Flit) := []
  deriving DecidableEq, Repr

/-! ### Errors, power, fuses, loading -/

/-- The error log (15). -/
structure ErrLog where
  ent : Vector (BitVec 128) 64 := Vector.replicate 64 0
  count : Nat := 0
  next : BitVec 6 := 0
  firstV : Bool := false
  first : BitVec 128 := 0
  hwSince : Bool := false
  lost : Word := 0
  cls : Vector Word 4 := Vector.replicate 4 0
  stallCnt : Word := 0
  rmtDrop : Word := 0
  wdt : Byte := 2
  /-- entries made in the present cycle, and whether `ERR_FIRST` is one of them (R371) -/
  now : Nat := 0
  firstNow : Bool := false
  /-- (code, LOC, stream + 1 or 0) logged in the present frame (R371) -/
  seen : List (Nat × Nat × Nat) := []
  deriving DecidableEq, Repr

/-- A power domain (R418, R456). -/
structure Dom where
  ps : PState := .gated
  cap : BitVec 3 := 0
  planned : Bool := false
  forced : Option (BitVec 2) := .none
  /-- end cycle of the interval in force (R401) -/
  until_ : Option Nat := .none
  /-- the state an entry under way leads to, and the cycles its entry or its wake still takes (R398, R401) -/
  goal : PState := .active
  timer : Nat := 0
  cycActive : Nat := 0
  cycGated : Nat := 0
  cycRetain : Nat := 0
  deriving DecidableEq, Repr

/-- An idle interval of a power plan (R435). -/
structure Interval where
  a : Nat
  b : Nat
  dom : Nat
  cap : Nat
  deriving DecidableEq, Repr

/-- Power manager, supply and ageing (16). -/
structure Power where
  dom : Vector Dom 24 := (Vector.replicate 24 ({} : Dom)).set 0 { ps := .active }
  measE : Word := 0
  declE : Word := 0
  overCnt : Word := 0
  droopLog : Word := 0
  droopLong : Word := 0
  vid : Byte := 0
  nsRd : Word := 0
  nsWr : Word := 0
  dsAcc : Word := 0
  flits : Word := 0
  /-- Caddy's own counts of the frame's events, in the order of Table 16-4 (R407) -/
  ev : Vector Nat 16 := Vector.replicate 16 0
  divider : Bool := false
  /-- cycles under the divider: in this frame, and in this episode -/
  divFrame : Nat := 0
  divEpisode : Nat := 0
  exhausted : Bool := false
  vresetHold : Bool := false
  vidPlan : Byte := 0
  aged : Bool := false
  maxClk : BitVec 2 := 0
  noBase : Bool := false
  delta : BitVec 16 := 0
  mon : Vector (BitVec 16) 28 := Vector.replicate 28 0
  monNext : Nat := 0
  round : List (BitVec 16) := []
  /-- the frame whose tick guard has had its sample (R413) -/
  sampled : Option Word := .none
  /-- pins AON_PWR_OK and RST_CHIP_N, high after power-up -/
  aonOk : Bool := true
  rstN : Bool := true
  deriving DecidableEq, Repr

/-- A fuse write in progress (R346). -/
inductive FuseWr where
  | dbgDisable | sigRequired | detached | keyHash
  | repair (row : Nat) (v : BitVec 64)
  deriving DecidableEq, Repr

/-- The fuse block (14). `array` is the array itself, which needs no power. -/
structure Fuses where
  array : Vector (BitVec 64) 64
  shadow : Vector (BitVec 64) 64 := Vector.replicate 64 0
  crc : Word := 0
  pend : BitVec 64 := 0
  map : Vector (BitVec 16) 4 := Vector.replicate 4 0x7FFF
  key : Vector Word 12 := Vector.replicate 12 0
  writing : Option FuseWr := .none
  deriving DecidableEq, Repr

/-- A latent hardware fault that a check of the unit has still to find: what the part's physics, not a command, puts
there (log 12). -/
inductive HwFault where
  /-- parity of a counter (R289) -/
  | cntParity (i : Ctr)
  /-- a route slot or Whisk slot with an uncorrectable, or a corrected, error (R121) -/
  | routeUe (c : CoreId) (slot : Fin 64)
  | routeCe (c : CoreId) (slot : Fin 64)
  | whiskUe (cl : ClusterId) (slot : Fin 32)
  | whiskCe (cl : ClusterId) (slot : Fin 32)
  /-- a line that leaves a core's network, or a gang pass, inverted (R135, R136) -/
  | netLine (c : CoreId) (line : Fin 2048)
  | gangLine (cl : ClusterId) (line : Fin 8192)
  /-- a residue check that fails (R164, R259) -/
  | ladResidue (cl : ClusterId)
  | tapResidue (t : TapId)
  /-- a list entry with an uncorrectable, or a corrected, error (R203) -/
  | listUe (i : Fin 8192)
  | listCe (i : Fin 8192)
  /-- a port-program word with an uncorrectable, or a corrected, error (R243) -/
  | eifUe (a : EaId) (w : Fin 512)
  | eifCe (a : EaId) (w : Fin 512)
  /-- a symbol of lane `l` that the FEC corrects, and a codeword that it cannot correct, in the next flit position of the link
  (R329, R333) -/
  | fecCe (l : LaneId)
  | fecUe
  deriving DecidableEq, Repr

/-- A load in progress (R361 to R365, R422 to R424, R469). -/
structure Loader where
  active : Bool := false
  source : BitVec 16 := 0
  timeout : BitVec 16 := 0
  imageId : Option (BitVec 64) := .none
  /-- received blocks: (sequence number, payload) -/
  blocks : List (Nat × List Byte) := []
  blockCnt : Option Nat := .none
  /-- the gate has passed and the load waits for the regulator (R469) -/
  waitVid : Bool := false
  miss : BitVec 17 := 0
  /-- `SIG_REQUIRED` as it stood at LOAD_BEGIN (R346) -/
  sigReq : Bool := false
  /-- `NS_OWNER` of the last Blend that passed (R277) -/
  owner : BitVec 8 := 0
  deriving DecidableEq, Repr

/-- An entry of the sequence table (R38). -/
structure SeqEnt where
  template : Nat
  layerEnd : Bool
  seqEnd : Bool
  repeats : Nat
  next : Nat
  deriving DecidableEq, Repr

/-- A sequence's head entry (R434). -/
structure SeqHead where
  first : Nat := 0
  defined : Bool := false
  part : Bool := false
  deriving DecidableEq, Repr

/-- A frame template: per agent, by number (R433), its items; its declared energy and idle intervals (R435). -/
structure Template where
  items : List (Nat × List Item) := []
  energy : Nat := 0
  intervals : List Interval := []
  deriving DecidableEq, Repr

/-- Initial values of a core section (R436). -/
structure CoreInit where
  s : Vector Word 16 := Vector.replicate 16 0
  d : Vector Desc 16 := Vector.replicate 16 0
  cls : Vector TClass 4 := Vector.replicate 4 .w1
  deriving DecidableEq, Repr

/-- The loaded Blend, as far as no other field of the state holds it (17). -/
structure Blend where
  bin : Bin := .h
  imageId : BitVec 64 := 0
  masterAddr : BitVec 16 := 0
  /-- link hops of this chip from the tick master (R429) -/
  hops : Nat := 0
  cores : Vector CoreInit 16 := Vector.replicate 16 {}
  eifThr : Vector Word 2 := #v[0, 0]
  counters : List (Nat × Word) := []
  templates : List (Nat × Template) := []
  entries : List SeqEnt := []
  seqs : Vector SeqHead 16 := Vector.replicate 16 {}
  eIdle : Nat := 0
  idleCap : Vector (BitVec 2) 24 := Vector.replicate 24 0
  fwEntry : Nat := 0
  deriving DecidableEq, Repr

/-- Caddy's own memory and firmware (Table 1-5, R432). Its 256 KiB ROM holds `Config.caddyRom`. -/
structure Caddy where
  /-- bytes of the 512 KiB RAM, canonical; an unlisted one is 0 (log 84) -/
  ram : List Host.Cell := []
  /-- the address at which the Blend's firmware was started; none while the ROM firmware runs (R361, R364) -/
  fw : Option Nat := .none
  deriving DecidableEq, Repr

/-- Pins whose value is not a function of the rest of the state (19). -/
structure Pins where
  tickOut : Option Word := .none
  tickTimes : Nat := 0
  tdo : BitVec 72 := 0
  chain : Option ChainPkt := .none
  repair : Option ChainPkt := .none
  vidReq : Byte := 0
  vidAck : Bool := false
  /-- words written to far memory over the NoC, newest last, numbered by far address / 64 (R206, R207) -/
  farWr : List WordWr := []
  deriving DecidableEq, Repr

/-- The state of the unit. -/
structure State where
  u : UnitRegs := {}
  cmd : CmdWin := {}
  fr : FrameCtl := {}
  parts : Vector PartSt 2 := Vector.replicate 2 {}
  cores : Vector Core 16 := Vector.replicate 16 {}
  cls : Vector Cluster 4 := Vector.replicate 4 {}
  mov : Mover := {}
  eif : Vector Attach 2 := Vector.replicate 2 {}
  taps : Vector Tap 3 := Vector.replicate 3 {}
  mem : Stores := {}
  cnt : List (Nat × Counter) := []
  cntPar : Word := 0
  xb : Xbar := {}
  rmt : Remote := {}
  lnk : Link := {}
  err : ErrLog := {}
  pwr : Power := {}
  fuse : Fuses
  ld : Loader := {}
  bl : Blend := {}
  cad : Caddy := {}
  pins : Pins := {}
  /-- latent hardware faults -/
  hwf : List HwFault := []
  /-- TAP_SESSION of DBG_STAT (R464) -/
  tapSession : Bool := false
  /-- free values drawn so far: the model's own field (log 3) -/
  fresh : Nat := 0
  /-- commands that wait, first in, first out -/
  pending : List Instr := []
  deriving DecidableEq, Repr

/-- The fuse array of a unit with no element named bad: UNIT_POS 0, stepping C0, bin H, no bad core, VID 0x40 of 0x48,
and FACTORY_CRC over rows 0 to 54 (log 5: the spec gives each unit its own fuses, R2). -/
def factoryFuses : Vector (BitVec 64) 64 :=
  let z : Vector (BitVec 64) 64 := Vector.replicate 64 0
  let z := z.set 0 0x3000#64
  let z := z.set 1 0x0FFF#64
  let z := z.set 2 0x4048#64
  z.set 55 0x37AD8FAC#64

/-- The unit as AON power comes up: POWERED, step 1, every field at its reset value (R339, R340, R449). -/
def State.reset : State := { fuse := { array := factoryFuses } }

end Sys2Proof.Machine
end

