-- ==== Sys2Proof/Machine/Flags.lean ====
section
/-! DEFINITION. Error codes, the error log, events and the holding counters (chapter 15, R447, R453). -/

namespace Sys2Proof.Machine

/-- The error codes of Table 15-3. -/
inductive Err where
  | regFrozen
  | blendMagic
  | blendVersion
  | blendStepping
  | blendBin
  | blendSection
  | blendSize
  | pwrCap
  | loadStage
  | loadDigest
  | loadSig
  | loadIncomplete
  | cmdBusy
  | cmdState
  | enumAddr
  | coreFailed
  | repairAuth
  | fuseFull
  | insnField
  | loopDepth
  | fuseForm
  | saveRange
  | xbCfg
  | pwrPlan
  | creditShared
  | listRange
  | blockForm
  | eifForm
  | rmtStream
  | routeTag
  | routeGroup
  | gangPair
  | routeWhisk
  | routeBusy
  | nsGroupBad
  | eaBad
  | movBad
  | lnkNotUp
  | wdtCfg
  | tickPeriod
  | tickSkew
  | tickLost
  | overrun
  | droopExhausted
  | deadlineMiss
  | farLate
  | tickRange
  | tickNolock
  | seqBusy
  | seqUndef
  | seqLate
  | overrunAbort
  | stallCycle
  | tdInvalid
  | tdAlign
  | tdRange
  | tdSpace
  | shapeMismatch
  | lqUnderrun
  | sqOverrun
  | pcRange
  | poisonConsumed
  | poisonIndex
  | partCross
  | routeKind
  | mapInvalid
  | routeUe
  | netSum
  | gangMismatch
  | gangSum
  | ladIndex
  | ladShape
  | ladMode
  | ladResidue
  | ladVtab
  | listUe
  | farXlate
  | rearmBusy
  | eifUe
  | eifSource
  | tapResidue
  | clipStale
  | clipNonfinite
  | nsUe
  | dsUe
  | groupOff
  | cntParity
  | dsLaneSpare
  | dsLaneNospare
  | dsLaneFatal
  | rmtLabel
  | rmtRange
  | rmtReset
  | rmtFenced
  | unitFenced
  | lnkTrain
  | lnkRtt
  | lnkReplayOver
  | lnkLaneSpare
  | lnkRetrain
  | lnkDown
  | fuseCrc
  | pllLock
  | fuseRow
  | fuseWrite
  | katFail
  | pwrOverplan
  | droop
  | aged
  | vreset
  deriving DecidableEq, Repr

/-- The fixed value of a code (Table 15-3). -/
def Err.value : Err → Nat
  | .regFrozen => 0x0001
  | .blendMagic => 0x0101
  | .blendVersion => 0x0102
  | .blendStepping => 0x0103
  | .blendBin => 0x0104
  | .blendSection => 0x0105
  | .blendSize => 0x0106
  | .pwrCap => 0x0107
  | .loadStage => 0x0110
  | .loadDigest => 0x0111
  | .loadSig => 0x0112
  | .loadIncomplete => 0x0113
  | .cmdBusy => 0x0120
  | .cmdState => 0x0121
  | .enumAddr => 0x0122
  | .coreFailed => 0x0123
  | .repairAuth => 0x0124
  | .fuseFull => 0x0125
  | .insnField => 0x0130
  | .loopDepth => 0x0131
  | .fuseForm => 0x0132
  | .saveRange => 0x0133
  | .xbCfg => 0x0134
  | .pwrPlan => 0x0135
  | .creditShared => 0x0136
  | .listRange => 0x0137
  | .blockForm => 0x0138
  | .eifForm => 0x0139
  | .rmtStream => 0x013A
  | .routeTag => 0x013B
  | .routeGroup => 0x013C
  | .gangPair => 0x013D
  | .routeWhisk => 0x013E
  | .routeBusy => 0x013F
  | .nsGroupBad => 0x0140
  | .eaBad => 0x0141
  | .movBad => 0x0142
  | .lnkNotUp => 0x0143
  | .wdtCfg => 0x0144
  | .tickPeriod => 0x0201
  | .tickSkew => 0x0202
  | .tickLost => 0x0203
  | .overrun => 0x0204
  | .droopExhausted => 0x0205
  | .deadlineMiss => 0x0206
  | .farLate => 0x0207
  | .tickRange => 0x0208
  | .tickNolock => 0x0209
  | .seqBusy => 0x020A
  | .seqUndef => 0x020B
  | .seqLate => 0x020C
  | .overrunAbort => 0x020D
  | .stallCycle => 0x020E
  | .tdInvalid => 0x0301
  | .tdAlign => 0x0302
  | .tdRange => 0x0303
  | .tdSpace => 0x0304
  | .shapeMismatch => 0x0305
  | .lqUnderrun => 0x0306
  | .sqOverrun => 0x0307
  | .pcRange => 0x0308
  | .poisonConsumed => 0x0309
  | .poisonIndex => 0x030A
  | .partCross => 0x030B
  | .routeKind => 0x0401
  | .mapInvalid => 0x0402
  | .routeUe => 0x0403
  | .netSum => 0x0404
  | .gangMismatch => 0x0405
  | .gangSum => 0x0406
  | .ladIndex => 0x0501
  | .ladShape => 0x0502
  | .ladMode => 0x0503
  | .ladResidue => 0x0504
  | .ladVtab => 0x0505
  | .listUe => 0x0601
  | .farXlate => 0x0602
  | .rearmBusy => 0x0603
  | .eifUe => 0x0701
  | .eifSource => 0x0702
  | .tapResidue => 0x0703
  | .clipStale => 0x0704
  | .clipNonfinite => 0x0705
  | .nsUe => 0x0801
  | .dsUe => 0x0802
  | .groupOff => 0x0803
  | .cntParity => 0x0804
  | .dsLaneSpare => 0x0805
  | .dsLaneNospare => 0x0806
  | .dsLaneFatal => 0x0807
  | .rmtLabel => 0x0901
  | .rmtRange => 0x0902
  | .rmtReset => 0x0903
  | .rmtFenced => 0x0904
  | .unitFenced => 0x0905
  | .lnkTrain => 0x0906
  | .lnkRtt => 0x0907
  | .lnkReplayOver => 0x0908
  | .lnkLaneSpare => 0x0909
  | .lnkRetrain => 0x090A
  | .lnkDown => 0x090B
  | .fuseCrc => 0x0A01
  | .pllLock => 0x0A02
  | .fuseRow => 0x0A03
  | .fuseWrite => 0x0A04
  | .katFail => 0x0A05
  | .pwrOverplan => 0x0B01
  | .droop => 0x0B02
  | .aged => 0x0B03
  | .vreset => 0x0B04

/-- The class a code takes when it arises during a run, coded as Table 15-1 (Table 15-3). -/
def Err.runClass : Err → Nat
  | .dsLaneSpare | .dsLaneNospare | .lnkLaneSpare | .katFail => 1
  | .saveRange | .blockForm | .overrunAbort | .stallCycle | .tdInvalid | .tdAlign => 2
  | .tdRange | .tdSpace | .shapeMismatch | .lqUnderrun | .sqOverrun | .pcRange => 2
  | .poisonConsumed | .poisonIndex | .routeKind | .mapInvalid | .routeUe | .netSum => 2
  | .gangMismatch | .gangSum | .ladIndex | .ladShape | .ladMode | .ladResidue => 2
  | .listUe | .farXlate | .eifUe | .eifSource | .tapResidue | .nsUe => 2
  | .dsUe | .groupOff | .cntParity | .rmtFenced | .lnkDown => 2
  | .dsLaneFatal | .fuseCrc | .pllLock | .vreset => 3
  | _ => 0

/-- Whether the code is an uncorrected hardware error (column H of Table 15-3). -/
def Err.hw : Err → Bool
  | .routeUe | .netSum | .gangSum | .ladResidue | .listUe | .eifUe => true
  | .tapResidue | .nsUe | .dsUe | .cntParity | .dsLaneFatal | .lnkDown => true
  | .fuseCrc | .pllLock | .katFail => true
  | _ => false

/-! ### Locations (Table 15-2) -/

def locUnit : Nat := 0
def locCore (c : CoreId) : Nat := 0x20 + c.val
def locCluster (c : ClusterId) : Nat := 0x40 + c.val
def locPart (p : Part) : Nat := 0x60 + p.val
def locChan (c : ChanId) : Nat := 0x80 + c.val
def locEa (a : EaId) : Nat := 0xA0 + a.val
def locTap (t : TapId) : Nat := 0xC0 + t.val
def locLink : Nat := 0xE0

/-! ### Events (Table 18-4) -/

/-- Bits of `EVT_STAT`. -/
inductive Evt where
  | error | ready | cmdDone | seqIdle | tickUnlock | tickLost | overrun | droopExhausted | deadlineMiss | farLate
  | rearmBusy | loadIncomplete | repairPending | clipNonfinite | powerOverplan | droop | aged | groupOff
  deriving DecidableEq, Repr

/-- The bit an event sets (Table 18-4). -/
def Evt.bit : Evt → Nat
  | .error => 0 | .ready => 1 | .cmdDone => 2 | .seqIdle => 3 | .tickUnlock => 4 | .tickLost => 5 | .overrun => 6
  | .droopExhausted => 7 | .deadlineMiss => 8 | .farLate => 9 | .rearmBusy => 10 | .loadIncomplete => 11
  | .repairPending => 12 | .clipNonfinite => 13 | .powerOverplan => 14 | .droop => 15 | .aged => 16 | .groupOff => 17

/-- Raising an event sets its bit of `EVT_STAT` (R453). -/
def raiseEvt (s : State) (e : Evt) : State :=
  { s with u := { s.u with evtStat := s.u.evtStat ||| (1#18 <<< e.bit) } }

/-- `EVT_IRQ`: driven while `EVT_STAT` and `EVT_MASK` is not 0 (R453, R472). -/
def evtIrq (s : State) : Bool := (s.u.evtStat &&& s.u.evtMask) ≠ 0

/-! ### The error log (R371 to R373, R396) -/

/-- The 128 bits of an entry (Table 15-10). -/
def entryBits (e : Err) (cls loc frame fcyc : Nat) (stream : Option (Fin 64)) (detail : Nat) : BitVec 128 :=
  BitVec.ofNat 128 (e.value + cls % 4 * 2 ^ 16 + b2n e.hw * 2 ^ 18 + loc % 256 * 2 ^ 20 + frame % 2 ^ 32 * 2 ^ 32
    + fcyc % 2 ^ 24 * 2 ^ 64 + (match stream with | some t => t.val * 2 ^ 88 + 2 ^ 94 | none => 0)
    + detail % 2 ^ 32 * 2 ^ 96)

/-- Where an entry stands among those of one cycle: by code, then `LOC`, then stream (R371). -/
def entryKey (x : BitVec 128) : Nat :=
  (x.extractLsb' 0 16).toNat * 2 ^ 16 + (x.extractLsb' 20 8).toNat * 2 ^ 8 + (x.extractLsb' 94 1).toNat * 2 ^ 7 + (x.extractLsb' 88 6).toNat

/-- An entry put into the ring at index `p`, ahead of those of the `k` newest that follow it in the order of R371. -/
def placeEntry (x : BitVec 128) : Nat → BitVec 6 → Vector (BitVec 128) 64 → Vector (BitVec 128) 64
  | 0, p, v => v.set p.toNat x
  | k + 1, p, v =>
    let y := v[(p - 1).toNat]
    if entryKey x < entryKey y then placeEntry x k (p - 1) (v.set p.toNat y) else v.set p.toNat x

/-- An entry takes the place of `ERR_FIRST`: none is held, or the one held was made in the same cycle and follows it in the
order of R371. -/
def goesFirst (l : ErrLog) (cls : Nat) (x : BitVec 128) : Bool :=
  decide (2 ≤ cls) && (!l.firstV || (l.firstNow && decide (entryKey x < entryKey l.first)))

/-- Placing an entry among those of its cycle: the ring, `ERR_LOST_CNT`, `ERR_FIRST` and `HW_SINCE_TEST` (R371, R372). -/
def pushEntry (l : ErrLog) (hw : Bool) (cls : Nat) (x : BitVec 128) : ErrLog :=
  { l with
    ent := placeEntry x (min l.now l.count) l.next l.ent
    next := l.next + 1
    now := min 63 (l.now + 1)
    count := if l.count < 64 then l.count + 1 else 64
    lost := if l.count < 64 then l.lost else sat32 l.lost 1
    first := if goesFirst l cls x then x else l.first
    firstNow := if goesFirst l cls x then true else l.firstNow
    firstV := l.firstV || (2 ≤ cls)
    hwSince := l.hwSince || hw }

/-- A cycle ends: entries that follow are those of another (R371). -/
def endLogCycle (l : ErrLog) : ErrLog := { l with now := 0, firstNow := false }

/-- `ERR_CLS_CNT_k` counts events logged or suppressed (Table 15-7). -/
def countCls (l : ErrLog) (cls : Nat) : ErrLog :=
  { l with cls := l.cls.mapIdx (fun i x => if i = cls then sat32 x 1 else x) }

/-- What tells two entries of one frame apart (R371). -/
def seenKey (e : Err) (loc : Nat) (stream : Option (Fin 64)) : Nat × Nat × Nat :=
  (e.value, loc, match stream with | some t => t.val + 1 | none => 0)

/-- Frame cycle an entry carries: 0 outside RUNNING (Table 15-10). -/
def logCyc (s : State) : Nat := if s.u.state = .running then s.fr.cyc else 0

/-- Frame an entry carries: 0 before the first tick since AON power-up (Table 15-10). -/
def logFrame (s : State) : Nat := if s.fr.ticked then s.fr.ctr.toNat else 0

/-- An error or reported event of class `cls` at `loc` (R371 to R373): counted always; logged unless the same code,
location and stream have been logged in this frame; an entry of class 2 or 3 raises ERROR. -/
def logAt (s : State) (e : Err) (cls loc : Nat) (stream : Option (Fin 64)) (detail : Nat) : State :=
  let s := { s with err := countCls s.err cls }
  if s.err.seen.contains (seenKey e loc stream) then s
  else
    let x := entryBits e cls loc (logFrame s) (logCyc s) stream detail
    let l := pushEntry s.err e.hw cls x
    let s := { s with err := { l with seen := seenKey e loc stream :: l.seen } }
    if 2 ≤ cls then raiseEvt s .error else s

/-- An error that arises during a run, with its class of Table 15-3. -/
def logRun (s : State) (e : Err) (loc detail : Nat) : State := logAt s e e.runClass loc none detail

/-- A refusal: class CORRECTED, fencing nothing (R374). -/
def logRefused (s : State) (e : Err) (loc detail : Nat) : State := logAt s e 0 loc none detail

/-- Freeing the `n` oldest entries (R372). -/
def ackEntries (l : ErrLog) (n : Nat) : ErrLog := { l with count := l.count - n }

/-! ### W1C registers (R447) -/

/-- A write to a W1C counter or status word: each bit written 1 is cleared. -/
def w1c {n : Nat} (old v : BitVec n) : BitVec n := old &&& ~~~v

end Sys2Proof.Machine
end

