-- ==== Sys2Proof/Machine/Ops.lean ====
section
/-! DEFINITION. The shared operations: access to the parts of the state, ownership, arrival counters, the stores with
their ports, check bits and poison, and the fences of chapter 15. -/

namespace Sys2Proof.Machine

/-! ### One part of the state at a time -/

/-- The state with core `c` changed by `f`. -/
def modCore (s : State) (c : CoreId) (f : Core → Core) : State := { s with cores := s.cores.set c.val (f s.cores[c]) }
/-- The state with cluster `k` changed by `f`. -/
def modCl (s : State) (k : ClusterId) (f : Cluster → Cluster) : State := { s with cls := s.cls.set k.val (f s.cls[k]) }
/-- The state with channel `h` changed by `f`. -/
def modChan (s : State) (h : ChanId) (f : Chan → Chan) : State :=
  { s with mov := { s.mov with chans := s.mov.chans.set h.val (f s.mov.chans[h]) } }
/-- The state with attachment `a` changed by `f`. -/
def modEa (s : State) (a : EaId) (f : Attach → Attach) : State := { s with eif := s.eif.set a.val (f s.eif[a]) }
/-- The state with Norm Tap `t` changed by `f`. -/
def modTap (s : State) (t : TapId) (f : Tap → Tap) : State := { s with taps := s.taps.set t.val (f s.taps[t]) }
/-- The state with partition `p` changed by `f`. -/
def modPart (s : State) (p : Part) (f : PartSt → PartSt) : State := { s with parts := s.parts.set p.val (f s.parts[p]) }
/-- The state with remote stream `t` changed by `f`. -/
def modStream (s : State) (t : StreamId) (f : Stream → Stream) : State :=
  { s with rmt := { s.rmt with streams := s.rmt.streams.set t.val (f s.rmt.streams[t]) } }
/-- The state with power domain `d` changed by `f`. -/
def modDom (s : State) (d : DomId) (f : Dom → Dom) : State :=
  { s with pwr := { s.pwr with dom := s.pwr.dom.set d.val (f s.pwr.dom[d]) } }

/-- What agent `ag` carries. -/
def agOf (s : State) : Agent → AgentSt
  | .core c => s.cores[c].ag
  | .chan h => s.mov.chans[h].ag
  | .ea a => s.eif[a].ag

/-- The state with what agent `ag` carries changed by `f`. -/
def modAg (s : State) (ag : Agent) (f : AgentSt → AgentSt) : State :=
  match ag with
  | .core c => modCore s c (fun x => { x with ag := f x.ag })
  | .chan h => modChan s h (fun x => { x with ag := f x.ag })
  | .ea a => modEa s a (fun x => { x with ag := f x.ag })

/-- An access to a domain in GATED wakes it, unless a command holds it (R399, R456). -/
def touchDom (s : State) (d : DomId) : State :=
  if s.pwr.dom[d].ps = .gated ∧ s.pwr.dom[d].forced = none then modDom s d (fun x => { x with ps := .active }) else s

/-- The work of an agent wakes its own domains (Table 16-1, R399). -/
def touchAg (s : State) : Agent → State
  | .core c => touchDom (touchDom s ⟨3 + c.val / 4, by omega⟩) ⟨7 + c.val / 4, by omega⟩
  | .chan _ => touchDom s 2
  | .ea _ => touchDom s 23

/-- Agent `ag` made progress (Table 15-6). -/
def progress (s : State) (ag : Agent) : State :=
  touchAg (modAg s ag (fun g => { g with progressed := true, wait := none })) ag

/-- Agent `ag` waits for `w` (Table 15-6). -/
def waitFor (s : State) (ag : Agent) (w : Wait) : State := modAg s ag (fun g => { g with wait := some w })

/-- A fresh free value of 64 bits: nothing constrains it (log 3). -/
def drawFree (s : State) : State × BitVec 64 := ({ s with fresh := s.fresh + 1 }, Config.freeValue s.fresh)

/-! ### Block entries (Table 9-1) -/

/-- Kinds of block. -/
def bKind (e : BitVec 256) : Nat := fldN e 0 2
def bInc (e : BitVec 256) : Nat := fldN e 2 2
def bIncCtr (e : BitVec 256) : Ctr := ⟨fldN e 4 10, (e.extractLsb' 4 10).isLt⟩
def bCredEn (e : BitVec 256) : Bool := bitOf e 14
def bCredCtr (e : BitVec 256) : Ctr := ⟨fldN e 15 10, (e.extractLsb' 15 10).isLt⟩
def bSrel (e : BitVec 256) : Bool := bitOf e 25
def bDrel (e : BitVec 256) : Bool := bitOf e 26
def bScl (e : BitVec 256) : Bool := bitOf e 27
/-- COPY fields. -/
def bSspace (e : BitVec 256) : Nat := fldN e 32 2
/-- Address space of a descriptor (Table 3-1). -/
def tdSpace (d : Desc) : Nat := fldN d 48 2
def bSaddr (e : BitVec 256) : Nat := fldN e 34 48
def bDspace (e : BitVec 256) : Nat := fldN e 82 2
def bDaddr (e : BitVec 256) : Nat := fldN e 84 48
/-- Length in bytes: the field plus 1. -/
def bLen (e : BitVec 256) : Nat := fldN e 132 24 + 1
/-- ROWS and INDEX fields. -/
def bSdesc (e : BitVec 256) : DReg := ⟨fldN e 32 4, (e.extractLsb' 32 4).isLt⟩
def bDdesc (e : BitVec 256) : DReg := ⟨fldN e 36 4, (e.extractLsb' 36 4).isLt⟩
def bFirst (e : BitVec 256) : Nat := fldN e 40 32
/-- Rows: the field plus 1. -/
def bCount (e : BitVec 256) : Nat := fldN e 72 24 + 1
def bIdesc (e : BitVec 256) : DReg := ⟨fldN e 40 4, (e.extractLsb' 40 4).isLt⟩
def bK (e : BitVec 256) : Nat := fldN e 44 3
def bSct (e : BitVec 256) : Bool := bitOf e 47
def bVar (e : BitVec 256) : Bool := bitOf e 48
def bAcc (e : BitVec 256) : Bool := bitOf e 49
def bClu (e : BitVec 256) : ClusterId := ⟨fldN e 50 2, (e.extractLsb' 50 2).isLt⟩

/-! ### Held in reset -/

/-- The logic outside the AON domain is held in reset, has no power, or is absent (R351, R412, R468, R471). -/
def heldInReset (s : State) : Bool :=
  !s.pwr.rstN || !s.pwr.aonOk || s.pwr.vresetHold || decide (s.u.state = .detached)

/-- The shadow was refused at step 1: the unit stays FENCED and answers IDENT only (R341). -/
def fuseDead (s : State) : Bool := decide (s.u.state = .fenced) && decide (s.u.step = 1)

/-! ### Ownership (R21 to R23) -/

/-- Two-task mode (R22). -/
def twoTask (s : State) : Bool := s.u.taskMode
/-- Cluster of a core (R16). -/
def clOf (c : CoreId) : ClusterId := ⟨c.val / 4, by omega⟩
/-- Partition of a core (R21). -/
def corePart (c : CoreId) : Part := ⟨c.val / 8, by omega⟩
/-- Partition of a cluster (R21). -/
def clPart (k : ClusterId) : Part := ⟨k.val / 2, by omega⟩
/-- Number 0 or 1 of a bit. -/
def partOfBit (b : Bool) : Part := if b then 1 else 0
/-- Owner of a bank group (Table 18-3). -/
def groupPart (s : State) (g : GroupId) : Part := partOfBit (bitOf s.u.nsOwner g.val)
/-- Owner of a Deep Store address (Table 1-4). -/
def dsPart (s : State) (a : Nat) : Part := partOfBit (decide (s.u.dsBound.toNat * 2 ^ 26 ≤ a - 0x40000000))
/-- Owner of a counter (Table 1-4). -/
def ctrPart (s : State) (c : Ctr) : Part := partOfBit (decide (s.u.cntSplit.toNat * 64 ≤ c.val))
/-- Owner of a channel (Table 9-7). -/
def chanPart (s : State) (h : ChanId) : Part := partOfBit s.mov.chans[h].owner
/-- Owner of an attachment (Table 1-4). -/
def eaPart (a : EaId) : Part := a
/-- Owner of a tap (Table 1-4, Table 10-11). -/
def tapPart (s : State) (t : TapId) : Part := if t = 2 then partOfBit s.taps[t].owner else partOfBit (t = 1)
/-- Owner of a remote stream (Table 13-1). -/
def streamPart (s : State) (t : StreamId) : Part := partOfBit (bitOf s.rmt.streams[t].entry 8)
/-- Owner of an agent. -/
def agPart (s : State) : Agent → Part
  | .core c => corePart c
  | .chan h => chanPart s h
  | .ea a => eaPart a

/-- The task partition: in one-task mode there is one task, kept with partition 0 (R22). -/
def taskPart (s : State) (p : Part) : Part := if twoTask s then p else 0
/-- Partition `q` belongs to the task of partition `p`. -/
def sameTask (s : State) (p q : Part) : Bool := !twoTask s || decide (p = q)
/-- An access of partition `p` to a resource of `q` crosses the boundary (R24). -/
def crosses (s : State) (p q : Part) : Bool := twoTask s && decide (p ≠ q)

/-! ### Reserved windows (R34, R35) -/

/-- A Deep Store refresh window is open (R34). -/
def inRefresh (s : State) : Bool :=
  (upto s.fr.refW).any (fun k => decide (k * s.fr.refP + s.fr.refPhase ≤ s.fr.cyc ∧ s.fr.cyc < k * s.fr.refP + s.fr.refPhase + 320))

/-- The Near Store scrub window is open for bank group `g` (R34). -/
def inScrub (s : State) (g : GroupId) : Bool :=
  decide (s.u.state = .running) && decide (s.fr.ctr.toNat % 8 = g.val) && decide (s.fr.scrubOff ≤ s.fr.cyc) && decide (s.fr.cyc < s.fr.scrubOff + 256)

/-! ### Energy events (Table 16-4, R407) -/

/-- Number of an event in the order of Table 16-4. -/
inductive PwrEv where
  | nsRd | nsWr | ds | rfRd | latchHit | netPass | gang | trvRow | trvBeat | ladReq | ladAdd | movBeat | feed | hold
  | drainRow | flit
  deriving DecidableEq, Repr

/-- Row of Table 16-4. -/
def PwrEv.idx : PwrEv → Fin 16
  | .nsRd => 0 | .nsWr => 1 | .ds => 2 | .rfRd => 3 | .latchHit => 4 | .netPass => 5 | .gang => 6 | .trvRow => 7
  | .trvBeat => 8 | .ladReq => 9 | .ladAdd => 10 | .movBeat => 11 | .feed => 12 | .hold => 13 | .drainRow => 14
  | .flit => 15

/-- Caddy's own copy of a counter rises by `n` (R407). -/
def countEv (s : State) (e : PwrEv) (n : Nat) : State :=
  { s with pwr := { s.pwr with ev := s.pwr.ev.set e.idx.val (s.pwr.ev[e.idx] + n) } }

/-- A flit sent, received or forwarded (`PWR_FLIT_CNT`); it wakes the link logic and the crossbar's NoC port. -/
def countFlit (s : State) : State :=
  let s := touchDom (touchDom (countEv s .flit 1) 22) 1
  { s with pwr := { s.pwr with flits := sat32 s.pwr.flits 1 } }

/-! ### Arrival counters (R285 to R289) -/

/-- What an arrival counter holds. -/
def ctrOf (s : State) (c : Ctr) : Counter := look {} s.cnt c.val

/-- The counter with its contents replaced. -/
def setCtr (s : State) (c : Ctr) (x : Counter) : State := { s with cnt := put {} s.cnt c.val x }

/-- The parity check made on every read and every increment: an error poisons the counter, leaves its value and is
logged (R289). -/
def checkParity (s : State) (c : Ctr) : State :=
  if s.hwf.contains (.cntParity c) then
    let s := setCtr s c { ctrOf s c with psn := true }
    let s := { s with cntPar := sat32 s.cntPar 1 }
    logRun s .cntParity locUnit 0
  else s

/-- An increment of `amt` presented to the counter file; `psn` when it covers poisoned data (R286, R288, R289). -/
def incCtr (s : State) (c : Ctr) (amt : Word) (psn : Bool) : State :=
  let s := checkParity s c
  let x := ctrOf s c
  if s.hwf.contains (.cntParity c) then s
  else setCtr s c { x with val := x.val + amt, psn := x.psn || psn }

/-- An increment by a master of partition `p` at `loc`: one for a counter of the other partition is dropped, counted
and logged (R24). -/
def incCtrBy (s : State) (p : Part) (loc : Nat) (c : Ctr) (amt : Word) (psn : Bool) : State :=
  if crosses s p (ctrPart s c) then logRun s .partCross loc 0 else incCtr s c amt psn

/-- A fence poisons a counter (R288). -/
def poisonCtr (s : State) (c : Ctr) : State := setCtr s c { ctrOf s c with psn := true }

/-- A poison by a fence of partition `p` at `loc`: a counter of the other partition is left as it is, and the access is
logged (R24). -/
def poisonCtrBy (s : State) (p : Part) (loc : Nat) (c : Ctr) : State :=
  if crosses s p (ctrPart s c) then logRun s .partCross loc 0 else poisonCtr s c

/-- Counters poisoned one after another. -/
def poisonCtrs (s : State) (cs : List Ctr) : State := cs.foldl poisonCtr s

/-- Every counter, in number order. -/
def allCtrs : List Ctr := List.finRange 1024

/-- `reached` of R191: (counter - T) mod 2^32 is below 2^31. -/
def reached (v t : Word) : Bool := decide ((v - t).toNat < 2 ^ 31)

/-! ### Address map (R58, R269, R278) -/

/-- Near Store addresses. -/
def isNs (a : Nat) : Bool := decide (a < 0x2000000)
/-- Deep Store addresses. -/
def isDs (a : Nat) : Bool := decide (0x40000000 ≤ a ∧ a < 0x80000000)
/-- Bank group of a Near Store address (Table 11-1). -/
def groupOf (a : Nat) : GroupId := ⟨a / 0x400000 % 8, by omega⟩
/-- Bank number of a Near Store address (R269). -/
def bankOf (a : Nat) : Nat := 8 * (a / 0x400000 % 8) + a / 64 % 8
/-- The store that holds an address. -/
def storeOf (a : Nat) : StoreId := if isNs a then .ns (groupOf a) else .ds
/-- Granule of a Deep Store address (R278). -/
def granuleOf (a : Nat) : Nat := (a - 0x40000000) / 512
/-- Owner of an address. -/
def addrPart (s : State) (a : Nat) : Part := if isNs a then groupPart s (groupOf a) else dsPart s a
/-- Crossbar target of an address (Table 12-2). -/
def targetOf (a : Nat) : Fin 15 := if isNs a then ⟨a / 0x400000 % 8, by omega⟩ else 8

/-- The port of a store. -/
def portOf (s : State) : StoreId → Port
  | .ns g => s.mem.groups[g].port
  | .ds => s.mem.ds

/-- The state with the port of a store changed by `f`. -/
def modPort (s : State) (st : StoreId) (f : Port → Port) : State :=
  match st with
  | .ns g => { s with mem := { s.mem with groups := s.mem.groups.set g.val { s.mem.groups[g] with port := f s.mem.groups[g].port } } }
  | .ds => { s with mem := { s.mem with ds := f s.mem.ds } }

/-! ### Bytes of the stores

One list of (address, byte) in canonical form (log 2). -/

/-- What a byte that no entry lists reads as: zero, but for a bank group whose contents a task start has made undefined
(R277, R282, R342; logs 2 and 3). -/
def blankByte (m : Stores) (a : Nat) : Byte :=
  if isNs a then
    match m.groups[groupOf a].epoch with
    | 0 => 0
    | k + 1 => Config.undefByte (k + 1) a
  else 0

/-- One byte of the stores. -/
def memByte (m : Stores) (a : Nat) : Byte := look (blankByte m a) m.mem a

/-- One byte written. -/
def setByte (m : Stores) (a : Nat) (b : Byte) : Stores := { m with mem := put (blankByte m a) m.mem a b }

/-- No entry equals what its address reads as unlisted, and addresses rise strictly. -/
def cellsWf (m : Stores) : List Host.Cell → Bool
  | [] => true
  | (a, b) :: [] => b ≠ blankByte m a
  | (a, b) :: (c, d) :: r => (b ≠ blankByte m a) && decide (a < c) && cellsWf m ((c, d) :: r)

/-- The canonical form of the stores' bytes (log 2). -/
def Memory.wf (m : Stores) : Bool := cellsWf m m.mem

/-- `n` bytes from address `a`, as a value (R9). -/
def memBits (m : Stores) (a n : Nat) : BitVec (8 * n) := leBits (8 * n) ((span a n).map (memByte m))

/-- The 64 bytes of word number `w`. -/
def memWord (m : Stores) (w : Nat) : BitVec 512 := memBits m (64 * w) 64

/-- The bits of `x` that `mask` names written over the 64 bytes from address `a`. -/
def setBytes (m : Stores) (a : Nat) (x mask : BitVec 512) : Stores :=
  (upto 64).foldl (fun m i =>
    let k := byteAt mask i
    if k = 0 then m else setByte m (a + i) ((memByte m (a + i) &&& ~~~k) ||| (byteAt x i &&& k))) m

/-- Entries of an address range dropped. -/
def dropRange (m : Stores) (lo hi : Nat) : Stores :=
  { m with
    mem := m.mem.filter (fun e => !(decide (lo ≤ e.1) && decide (e.1 < hi)))
    psn := m.psn.filter (fun w => !(decide (lo ≤ 64 * w) && decide (64 * w < hi)))
    bad := m.bad.filter (fun e => !(decide (lo ≤ 64 * e.1) && decide (64 * e.1 < hi))) }

/-- A bank group cleared to zero with valid check bits (R277, R342). -/
def clearGroup (m : Stores) (g : GroupId) : Stores :=
  let m := dropRange m (0x400000 * g.val) (0x400000 * (g.val + 1))
  { m with groups := m.groups.set g.val { m.groups[g] with epoch := 0 } }

/-- A bank group whose contents become undefined (R277); `k` numbers the span (log 3). -/
def undefGroup (m : Stores) (g : GroupId) (k : Nat) : Stores :=
  let m := dropRange m (0x400000 * g.val) (0x400000 * (g.val + 1))
  { m with groups := m.groups.set g.val { m.groups[g] with epoch := k + 1 } }

/-- Deep Store with every written bit cleared, so that it reads as zeros (R282). -/
def clearDs (m : Stores) : Stores := { dropRange m 0x40000000 0x80000000 with written := [], allWritten := false }

/-- The written bit of a granule (R282). -/
def isWritten (m : Stores) (gr : Nat) : Bool := m.allWritten || setHas m.written gr

/-- One byte as a read finds it: zero in a granule whose written bit is clear (R282). -/
def readByte (m : Stores) (a : Nat) : Byte := if isDs a && !isWritten m (granuleOf a) then 0 else memByte m a

/-! ### Priorities of the crossbar (R310) -/

/-- Reset value of `XB_PRI_m_t` (Table 12-5). -/
def priReset (m : Nat) : Nat := if m = 43 then 0 else 8

/-- `PRI` of master `m` at target `t`. -/
def priOf (s : State) (m t : Nat) : Nat := look (priReset m) s.xb.pri (m * 16 + t)

/-! ### Accesses through the crossbar (R24, R270 to R274, R279, R280, R290, R293) -/

/-- Who makes an access: its task partition, its log location, its crossbar master (Tables 12-1, 15-2), and the place of its
first beat in the burst it belongs to (R299). -/
structure Who where
  part : Part
  loc : Nat
  master : Fin 45
  beat : Nat := 0
  deriving DecidableEq, Repr

/-- The fetch path of a core. -/
def whoFetch (c : CoreId) : Who := ⟨corePart c, locCore c, ⟨c.val, by omega⟩, 0⟩
/-- The store path of a core. -/
def whoStore (c : CoreId) : Who := ⟨corePart c, locCore c, ⟨16 + c.val, by omega⟩, 0⟩
/-- The Ladle of a cluster working for `loc`. -/
def whoLadle (k : ClusterId) (p : Part) (loc : Nat) : Who := ⟨p, loc, ⟨32 + k.val, by omega⟩, 0⟩
/-- A channel through Stream Mover port `p`. -/
def whoChan (s : State) (h : ChanId) (p : Fin 4) : Who := ⟨chanPart s h, locChan h, ⟨36 + p.val, by omega⟩, 0⟩
/-- The drain port of an attachment. -/
def whoDrain (a : EaId) : Who := ⟨eaPart a, locEa a, ⟨41 + a.val, by omega⟩, 0⟩
/-- Remote Engine inbound, for a window of partition `p`, whether its flits come by the link or over the NoC (R297, R320). -/
def whoInbound (p : Part) : Who := ⟨p, locUnit, 40, 0⟩
/-- The access begins at beat `k` of its burst. -/
def Who.at (who : Who) (k : Nat) : Who := { who with beat := k }

/-- Accesses presented at the crossbar wait there for their grants (R300); presenting wakes it. -/
def presents (s : State) (rs : List XbReq) (splits : Nat) : State :=
  let s := touchDom s 1
  { s with xb := { s.xb with reqs := s.xb.reqs ++ rs, split := sat32 s.xb.split splits } }

/-- One access of one beat, or of one register, presented by `master` at target `t` (R298). -/
def presentAt (s : State) (t : Fin 15) (master : Fin 45) (p : Part) (need : Nat) : State :=
  presents s [{ t := t, m := master, part := p, head := true, need := need, read := false, write := false }] 0

/-- The reads of masters that a reset takes are absorbed: one not yet granted is withdrawn, and the response of one granted meets
a tombstone (R304, R356). -/
def absorb (s : State) (f : Fin 45 → Part → Bool) : State :=
  { s with xb := { s.xb with
      reqs := s.xb.reqs.filter (fun r => !(r.read && f r.m r.part))
      resp := s.xb.resp.map (fun r => if !r.write && f r.m r.part then { r with dead := true } else r) } }

/-- A reserved window of R34 is open. -/
def anyWindow (s : State) : Bool := inRefresh s || (List.finRange 8).any (inScrub s)

/-- The window that is open excludes accesses to target `t` (R34). -/
def windowShuts (s : State) (t : Fin 15) : Bool := if h : t.val < 8 then inScrub s ⟨t.val, h⟩ else decide (t = 8) && inRefresh s

/-- What a master does with its accesses, from `s` to `t`: it waits while a window excludes one of them (R35). -/
def outside (s t : State) : State :=
  if anyWindow s && (t.xb.reqs.drop s.xb.reqs.length).any (fun r => windowShuts s r.t) then s else t

/-- Crossbar target of a store (Table 12-2). -/
def storeTarget : StoreId → Fin 15 | .ns g => ⟨g.val, by omega⟩ | .ds => 8

/-- Writes in flight at a store: granted and not yet in effect, and inbound ones taken and not yet granted (R291). -/
def inFlight (s : State) (st : StoreId) : Nat :=
  (s.xb.resp.filter (fun r => r.write && decide (r.t = storeTarget st))).length
    + (s.xb.reqs.filter (fun r => r.write && decide (r.m = 40) && decide (r.t = storeTarget st))).length

/-- What an access of words `ws` needs at its target (Table 12-2): its banks, or its granule slots, two for a partial-word
write (R278, R279). -/
def xbNeed (ws : List Nat) (partialWord : Bool) : Nat :=
  match ws with
  | [] => 0
  | w :: _ =>
    if isNs (64 * w) then ((ws.map (· % 8)).dedup.map (2 ^ ·)).sum
    else if partialWord then 2 else min 2 (ws.map (fun w => granuleOf (64 * w))).dedup.length

/-- Word `w` may join the words of an access: the same target, and a bank of its own or at most two granules (R270, R278). -/
def joins (acc : List Nat) (w : Nat) : Bool :=
  match acc with
  | [] => true
  | v :: _ => decide (targetOf (64 * v) = targetOf (64 * w)) &&
    (if isNs (64 * w) then !(acc.map (· % 8)).contains (w % 8)
     else decide (((acc ++ [w]).map (fun w => granuleOf (64 * w))).dedup.length ≤ 2))

/-- The words that one access carries, up to `n`, and the rest. -/
def takeAccess (n : Nat) : List Nat → List Nat → List Nat × List Nat
  | acc, [] => (acc, [])
  | acc, w :: r => if acc.length < n && joins acc w then takeAccess n (acc ++ [w]) r else (acc, w :: r)

/-- Words as accesses of up to `n` words; `k` bounds their number. -/
def accesses (n : Nat) : Nat → List Nat → List (List Nat)
  | 0, _ => []
  | _, [] => []
  | k + 1, ws => let r := takeAccess n [] ws; r.1 :: accesses n k r.2

/-- Words that a master moves in one access: 512 B at a drain port, else 256 B (Table 12-1). -/
def masterWords (who : Who) : Nat := if who.master = 41 ∨ who.master = 42 then 8 else 4

/-- The requests of accesses that follow one another, with the words that are written in part: every 16th beat, and every change of target, begins a burst (R299). -/
def burstOf (who : Who) (read : Bool) (part : List Nat) : Nat → Option (Fin 15) → List (List Nat) → List XbReq
  | _, _, [] => []
  | j, prev, a :: r =>
    let t := targetOf (64 * a.headD 0)
    { t := t, m := who.master, part := who.part, head := decide (j % 16 = 0) || (match prev with | some v => decide (v ≠ t) | none => false)
      need := xbNeed a (a.any part.contains), read := read, write := !read } :: burstOf who read part (j + 1) (some t) r

/-- Words that `who` reads or writes, those of `part` in part, presented at their stores (R298 to R300). -/
def presentWords (s : State) (who : Who) (read : Bool) (part ws : List Nat) : State :=
  if ws.isEmpty then s
  else
    let as := accesses (masterWords who) ws.length ws
    let js := (upto as.length).map (· + who.beat)
    presents s (burstOf who read part who.beat none as) (js.filter (fun j => decide (0 < j) && decide (j % 16 = 0))).length

/-- The domain whose state a store's port shows (Tables 11-5, 11-6). -/
def arrayDom : StoreId → DomId | .ns g => ⟨11 + g.val, by omega⟩ | .ds => 20

/-- An access to a store in GATED wakes it, DS_CTL with DS_ARR, and waits 4 cycles at its port, unless a command holds the domain
(R290, R399, R456, Table 11-2). -/
def wakePort (s : State) (st : StoreId) : State :=
  let free (d : DomId) : Bool := decide (s.pwr.dom[d].forced = none)
  let ctl := decide (st = .ds) && decide (s.pwr.dom[(19 : DomId)].ps = .gated) && free 19
  let arr := decide ((portOf s st).ps = .gated) && free (arrayDom st)
  if ctl || arr then
    let s := modPort s st (fun p => { p with ps := if arr then .active else p.ps, wake := 4 })
    if ctl then touchDom s 19 else s
  else s

/-- Symbols in error of a word as it is read: those stored, and in Deep Store those of failed lanes it travels on (R284). -/
def badSyms (m : Stores) (w : Nat) : Nat :=
  look 0 m.bad w + (if isNs (64 * w) then 0 else (m.deadLanes.filter (Config.onLane w)).length)

/-- How many bad symbols a word's code corrects: one in Near Store, two in Deep Store (R273, R280). -/
def correctable (a : Nat) : Nat := if isNs a then 1 else 2

/-- How the code judges a word with bad symbols: corrected, found uncorrectable, and beyond its guarantee, which is twice
what it corrects, free: 0 passed as good, 1 corrected, 2 found uncorrectable (R273, R280, log 13). -/
def eccJudge (m : Stores) (w : Nat) : Nat :=
  let n := badSyms m w
  let k := correctable (64 * w)
  if n = 0 then 0 else if n ≤ k then 1 else if n ≤ 2 * k then 2 else (Config.eccJudge w n).val

/-- The stored word is found uncorrectable. -/
def uncorrectable (m : Stores) (w : Nat) : Bool := decide (eccJudge m w = 2)

/-- What reading the stored word finds: a corrected word is counted, in Deep Store with its lanes (R284), an uncorrectable one
counted, its address kept and logged; a poisoned word logs nothing new (R273, R274, R280). -/
def eccRead (s : State) (w : Nat) : State :=
  let n := eccJudge s.mem w
  let a := 64 * w
  if setHas s.mem.psn w then s
  else if n = 0 then s
  else if n = 1 then
    if isNs a then { s with mem := { s.mem with nsCe := sat32 s.mem.nsCe 1 } }
    else
      let count (m : List (Nat × Word)) (l : Nat) : List (Nat × Word) := put 0 m l (sat32 (look 0 m l) 1)
      { s with mem := { s.mem with
        dsCe := sat32 s.mem.dsCe 1
        laneErr := ((upto (look 0 s.mem.bad w)).map (fun k => (Config.symLane w k).val)
          ++ s.mem.deadLanes.filter (Config.onLane w)).foldl count s.mem.laneErr } }
  else if isNs a then
    logRun { s with mem := { s.mem with nsUe := sat32 s.mem.nsUe 1, nsUeAddr := BitVec.ofNat 25 a } } .nsUe locUnit a
  else
    logRun { s with mem := { s.mem with dsUe := sat32 s.mem.dsUe 1, dsUeAddr := BitVec.ofNat 30 (a - 0x40000000) } }
      .dsUe locUnit a

/-- An access to a closed port is counted (`NS_GROUP_OFF_CNT`, `DS_GROUP_OFF_CNT`), logged with its address and source,
and raises GROUP_OFF when it is a write (R109, R293). -/
def groupOff (s : State) (who : Who) (a : Nat) (write : Bool) : State :=
  let s := if isNs a then { s with mem := { s.mem with nsOff := sat32 s.mem.nsOff 1 } }
    else { s with mem := { s.mem with dsOff := sat32 s.mem.dsOff 1 } }
  let s := logRun s .groupOff who.loc a
  if write then raiseEvt s .groupOff else s

/-- What a word read returns. -/
inductive RdWord where
  /-- the word and its poison mark -/
  | data (x : BitVec 512) (psn : Bool)
  /-- owned by the other partition: out of bounds (R24) -/
  | fill
  deriving DecidableEq, Repr

/-- A word that an access by `who` reaches: not the other partition's, and at an open port (R301, Table 11-2). -/
def reaches (s : State) (who : Who) (w : Nat) : Bool :=
  !crosses s who.part (addrPart s (64 * w)) && (portOf s (storeOf (64 * w))).isOpen

/-- A read of word `w` by `who`. -/
def readWord (s : State) (who : Who) (w : Nat) : State × RdWord :=
  let a := 64 * w
  if crosses s who.part (addrPart s a) then (logRun s .partCross who.loc 0, .fill)
  else if (portOf s (storeOf a)).isOpen = false then (groupOff s who a false, .data 0 true)
  else
    let s := wakePort s (storeOf a)
    if isNs a then
      let s := countEv { s with pwr := { s.pwr with nsRd := sat32 s.pwr.nsRd 1 } } .nsRd 1
      let s := eccRead s w
      (s, .data (memWord s.mem w) (setHas s.mem.psn w || uncorrectable s.mem w))
    else if isWritten s.mem (granuleOf a) then
      let s := eccRead s w
      (s, .data (memWord s.mem w) (setHas s.mem.psn w || uncorrectable s.mem w))
    else (s, .data 0 false)

/-- A granule access of Deep Store is counted (`PWR_DS_CNT`). -/
def countGranule (s : State) : State :=
  countEv { s with pwr := { s.pwr with dsAcc := sat32 s.pwr.dsAcc 1 } } .ds 1

/-- Granules the words of an access touch, counted once each (R278). -/
def countGranules (s : State) (ws : List Nat) : State :=
  ((ws.filter (fun w => isDs (64 * w))).map (fun w => granuleOf (64 * w))).dedup.foldl (fun s _ => countGranule s) s

/-- The accesses of a read of words `ws` presented, and their granules counted. -/
def openRead (s : State) (who : Who) (ws : List Nat) : State :=
  let live := ws.filter (reaches s who)
  countGranules (presentWords s who true [] live) live

/-- Words read one after another. -/
def readWords (s : State) (who : Who) (ws : List Nat) : State × List RdWord :=
  ws.foldl (fun acc w => let r := readWord acc.1 who w; (r.1, acc.2 ++ [r.2])) (openRead s who ws, [])

/-- What becomes of a write (R24, R293). -/
inductive WrRes where
  | done
  /-- dropped: the word belongs to the other partition -/
  | crossed
  /-- refused: the port is closed -/
  | off
  deriving DecidableEq, Repr

/-- A write to the word finds contents there: not in a granule whose written bit is clear (R282). -/
def holds (m : Stores) (w : Nat) : Bool := !isDs (64 * w) || isWritten m (granuleOf (64 * w))

/-- The stores before a write to word `w`: a granule whose written bit is clear reads as zeros (R282). -/
def beforeWrite (m : Stores) (w : Nat) : Stores :=
  if holds m w then m else dropRange m (64 * w / 512 * 512) (64 * w / 512 * 512 + 512)

/-- The stored word after a write: bytes merged; poison kept by a partial write to a poisoned or uncorrectable word;
poisoned when the beat written is (R272, R274, R279). -/
def storeWord (m : Stores) (w : Nat) (x mask : BitVec 512) (psn : Bool) : Stores :=
  let m := beforeWrite m w
  let keep := decide (mask ≠ BitVec.allOnes 512) && (setHas m.psn w || uncorrectable m w)
  let m := setBytes m (64 * w) x mask
  let m := { m with bad := put 0 m.bad w 0, psn := setPut m.psn w (psn || keep) }
  if isDs (64 * w) then { m with written := setAdd m.written (granuleOf (64 * w)) } else m

/-- A write of the bytes of `mask` to word `w` by `who`. -/
def writeWord (s : State) (who : Who) (w : Nat) (x mask : BitVec 512) (psn : Bool) : State × WrRes :=
  let a := 64 * w
  if crosses s who.part (addrPart s a) then (logRun s .partCross who.loc 0, .crossed)
  else if (portOf s (storeOf a)).isOpen = false then (groupOff s who a true, .off)
  else
    let s := wakePort s (storeOf a)
    let s := if mask = BitVec.allOnes 512 ∨ holds s.mem w = false then s else eccRead s w
    let s := if isNs a then countEv { s with pwr := { s.pwr with nsWr := sat32 s.pwr.nsWr 1 } } .nsWr 1 else s
    ({ s with mem := storeWord s.mem w x mask psn }, .done)

/-- How many bytes a mask touches. -/
def maskCount (mask : BitVec 512) : Nat := ((upto 64).filter (fun i => byteAt mask i ≠ 0)).length

/-- What writing a list of words did: bytes written, bytes dropped at the partition boundary, and whether a closed port
refused one. -/
structure WrSum where
  bytes : Nat := 0
  crossed : Nat := 0
  off : Bool := false
  deriving DecidableEq, Repr

/-- Words written in order; nothing follows a refused one (R384). -/
def putWords (s : State) (who : Who) : List WordWr → Bool → State × WrSum
  | [], _ => (s, {})
  | x :: r, psn =>
    match writeWord s who x.word x.data x.mask psn with
    | (s, .done) => let t := putWords s who r psn; (t.1, { t.2 with bytes := t.2.bytes + maskCount x.mask })
    | (s, .crossed) => let t := putWords s who r psn; (t.1, { t.2 with crossed := t.2.crossed + maskCount x.mask })
    | (s, .off) => (s, { off := true })

/-- The accesses of a write presented, and their granules counted: those of the words ahead of a refused one. -/
def openWrite (s : State) (who : Who) (ws : List WordWr) : State :=
  let up := ws.takeWhile (fun w => reaches s who w.word || crosses s who.part (addrPart s (64 * w.word)))
  let live := (up.filter (fun w => reaches s who w.word)).map (·.word)
  countGranules (presentWords s who false ((up.filter (fun w => decide (w.mask ≠ BitVec.allOnes 512))).map (·.word)) live) live

/-- A write of words in one run of accesses. -/
def writeWords (s : State) (who : Who) (ws : List WordWr) (psn : Bool) : State × WrSum := putWords (openWrite s who ws) who ws psn

/-! ### Failed elements and proposed repairs (R344, R366, R367) -/

/-- A field-repair row: `USED`, `KIND`, `ARG` and the CRC-8 of its first seven bytes (Table 14-5). -/
def repairRow (kind arg : Nat) : BitVec 64 :=
  let x : BitVec 64 := BitVec.ofNat 64 (1 + kind % 8 * 2 + arg % 2 ^ 32 * 16)
  x ||| ((crc8 (bytesOf x 7)).setWidth 64 <<< 56)

/-- Caddy proposes a row and raises REPAIR_PENDING (R353, R366). -/
def proposeRow (s : State) (kind arg : Nat) (raise : Bool) : State :=
  let s := { s with fuse := { s.fuse with pend := repairRow kind arg }, u := { s.u with repairPend := true } }
  if raise then raiseEvt s .repairPending else s

/-- Physical core of a logical core, 7 when absent (Table 14-11). -/
def physOf (s : State) (c : CoreId) : Nat := fldN s.fuse.map[clOf c] (3 * (c.val % 4)) 3

/-! ### Fences (R357, R380 to R382) -/

/-- Ladle commands that a set of agents issued are lost (R171, R381). -/
def dropLadle (s : State) (p : LadSrc → Bool) : State :=
  { s with cls := s.cls.mapIdx (fun _ k => { k with
      running := k.running.filter (fun w => !p w)
      waiting := k.waiting.filter (fun w => !p w) }) }

/-- Partition of the agent a Ladle works for. -/
def ladPart (s : State) : LadSrc → Part
  | .core c => corePart c
  | .chan h => chanPart s h

/-- An agent with no item left: none waits and none runs (R381, R388). -/
def stopAg (g : AgentSt) : AgentSt := { g with items := [], run := none, wait := none }

/-- A core stopped by a task abort: it issues nothing further and shows FENCED; an instruction in progress takes, pushes
and writes nothing further, and its store queue still drains (R381). -/
def stopCore (x : Core) : Core := { x with st := .fenced, prog := [], present := none, ag := stopAg x.ag }

/-- Space a block reads. -/
def bSrcSpace (b : BlkRun) : Nat := if bKind b.entry = 0 then bSspace b.entry else tdSpace b.sd

/-- Beats of data of a transfer. -/
def xferBeats (x : Xfer) : Nat := ceilDiv x.len 256

/-- Space a transfer reads: that of the row it reads for a Ladle, or of its block's source. -/
def xferSpace (b : BlkRun) (x : Xfer) : Nat := match x.fetch with | some f => f.space | none => bSrcSpace b

/-- The transfer reads far memory. -/
def readsFar (b : BlkRun) (x : Xfer) : Bool := decide (xferSpace b x = 2) && x.src.isSome

/-- Far-memory beats of blocks that have been asked for and have not come. -/
def farOwed (bs : List BlkRun) : Nat :=
  (bs.flatMap (fun b => (b.fly.filter (readsFar b)).map (fun x => min x.issued (xferBeats x) - x.data.length))).sum

/-- A channel whose blocks are given up: the far-memory beats they asked for are discarded when they come (log 84). -/
def dropBlks (x : Chan) : Chan := { x with blks := [], drain := [], farDead := x.farDead + farOwed x.drain + farOwed x.blks }

/-- A channel stopped by a task abort: nothing further issues and the shadow is lost (R234, R381). -/
def stopChan (x : Chan) : Chan :=
  { dropBlks x with st := .fenced, shadow := none, rearmWait := none, list := none, ag := stopAg x.ag }

/-- No DRAIN runs, and its FIFO and Trivets are empty. -/
def dropDrain (x : Attach) : Attach := { x with drainRun := none, fifo := [], tri := Vector.replicate 2 {} }

/-- An attachment stopped by a task abort: it stops presenting, and the engine discards its partial step (R381). -/
def stopEa (x : Attach) : Attach :=
  { dropDrain x with st := .fenced, discard := x.panel.isSome, drainFenced := true, out := none, ag := stopAg x.ag }

/-- A task abort on the task of partition `p` (R381). -/
def abortTask (s : State) (p : Part) : State :=
  let s := dropLadle s (fun w => sameTask s p (ladPart s w))
  let s := { s with
    cores := s.cores.mapFinIdx (fun i x h => if sameTask s p (corePart ⟨i, h⟩) then stopCore x else x)
    mov := { s.mov with chans := s.mov.chans.mapFinIdx (fun i x h => if sameTask s p (chanPart s ⟨i, h⟩) then stopChan x else x) }
    eif := s.eif.mapFinIdx (fun i x h => if sameTask s p ⟨i, h⟩ then stopEa x else x)
    taps := s.taps.mapFinIdx (fun i x h => if sameTask s p (tapPart s ⟨i, h⟩) then { x with armed := false } else x)
    rmt := { s.rmt with streams := s.rmt.streams.mapFinIdx (fun i x h => if sameTask s p (streamPart s ⟨i, h⟩) then { x with wait := [] } else x) } }
  let s := poisonCtrs s (allCtrs.filter (fun c => sameTask s p (ctrPart s c)))
  let s := absorb s (fun m q => decide (m.val < 16 ∨ (32 ≤ m.val ∧ m.val < 36)) && sameTask s p q)
  modPart s (taskPart s p) (fun x => { x with aborted := true, task := false })

/-- A core fenced with its error reset due, and its task aborted (R357, R381). -/
def fenceCore (s : State) (c : CoreId) : State :=
  abortTask (modCore s c (fun x => { x with st := .fenced, errDue := true })) (corePart c)

/-- A contained error of a core: logged, then fenced. -/
def failCore (s : State) (c : CoreId) (e : Err) (detail : Nat) : State :=
  fenceCore (logRun s e (locCore c) detail) c

/-- A core that fails a hardware check is marked failed and its repair proposed (R366, R367). -/
def failCoreHw (s : State) (c : CoreId) (e : Err) (detail : Nat) : State :=
  let s := failCore s c e detail
  let s := modCore s c (fun x => { x with failed := true })
  proposeRow s 1 ((clOf c).val + 4 * physOf s c) true

/-- A contained error of a cluster: its four cores and its Ladle are fenced and error-reset, the task aborted (R357). -/
def failCluster (s : State) (k : ClusterId) (e : Err) (detail : Nat) : State :=
  let s := logRun s e (locCluster k) detail
  let s := { s with cores := s.cores.mapFinIdx (fun i x h =>
    if clOf ⟨i, h⟩ = k then { x with st := .fenced, errDue := true } else x) }
  let s := modCl s k (fun x => { x with ladFenced := true, running := none, waiting := [] })
  abortTask s (clPart k)

/-- The counter at this unit that an entry of channel `x` names in `INC_CTR`: none for a global destination, whose counter is
another unit's (R210, R235). -/
def entryCtr (x : Chan) (e : BitVec 256) : Option Ctr :=
  let away := if bKind e = 0 then decide (bDspace e = 1) else decide (tdSpace x.desc[bDdesc e] = 1)
  if bInc e = 0 ∨ away then none else some (bIncCtr e)

/-- Counters a channel fence poisons: the local `INC_CTR` of the blocks of a list from block `i` on (R235). -/
def listCtrs (m : Mover) (x : Chan) (l : RunList) (i : Nat) : List Ctr :=
  (span i (l.count - i)).filterMap (fun j => entryCtr x (look 0 m.mem (l.first + j)))

/-- A channel fence, at stream level: the error is logged by whoever raises it. It poisons the local `INC_CTR` of every block
still in progress, of an earlier list too, and of every later block of the running list (R235, R384). -/
def fenceChan (s : State) (h : ChanId) : State :=
  let x := s.mov.chans[h]
  let cs := x.blks.filterMap (fun b => entryCtr x b.entry)
    ++ (match x.list with | some l => listCtrs s.mov x l l.idx | none => [])
  let s := dropLadle (modChan s h stopChan) (fun w => decide (w = .chan h))
  cs.foldl (fun s c => poisonCtrBy s (chanPart s h) (locChan h) c) s

/-- A contained error of a channel. -/
def failChan (s : State) (h : ChanId) (e : Err) (detail : Nat) : State := fenceChan (logRun s e (locChan h) detail) h

/-- The `INC_CTR` of a drain poisoned where it is this unit's; one of a global destination is the other unit's (R255, R384). -/
def poisonDrain (s : State) (a : EaId) (inc : BitVec 2) (ddesc : Fin 16) (ctr : Ctr) : State :=
  if inc = 0 ∨ tdSpace s.eif[a].desc[ddesc] ≠ 0 then s else poisonCtrBy s (eaPart a) (locEa a) ctr

/-- A drain fence, at stream level (R255). -/
def fenceDrain (s : State) (a : EaId) : State :=
  let s := match s.eif[a].drainRun with | some d => poisonDrain s a d.inc d.ddesc d.ctr | none => s
  modEa s a (fun x => { dropDrain x with drainFenced := true })

/-- An attachment fenced with its error reset due, and its task aborted (R243, R256). -/
def fenceEa (s : State) (a : EaId) : State :=
  abortTask (modEa s a (fun x => { x with st := .fenced, errDue := true })) (eaPart a)

/-- A contained error of an attachment, which aborts the task (R243, R256). -/
def failEa (s : State) (a : EaId) (e : Err) (detail : Nat) : State := fenceEa (logRun s e (locEa a) detail) a

/-- An operation presented on a fenced stream is logged with the stream and the NACK's code (R326, R371, R374). -/
def logFenced (s : State) (t : StreamId) (loc : Nat) : State :=
  logAt s .rmtFenced Err.rmtFenced.runClass loc (some t) s.rmt.streams[t].nackCode.toNat

/-- A UNIT_FATAL error: every agent stops, every counter is poisoned, the unit enters FENCED (R382). -/
def unitFatal (s : State) (e : Err) (detail : Nat) : State :=
  let s := logRun s e locUnit detail
  let s := { s with
    u := { s.u with state := .fenced }
    cores := s.cores.mapIdx (fun _ x => stopCore x)
    cls := s.cls.mapIdx (fun _ k => { k with running := none, waiting := [] })
    mov := { s.mov with chans := s.mov.chans.mapIdx (fun _ x => stopChan x) }
    eif := s.eif.mapIdx (fun _ x => stopEa x)
    taps := s.taps.mapIdx (fun _ x => { x with armed := false })
    rmt := { s.rmt with streams := s.rmt.streams.mapIdx (fun _ x => { x with wait := [] }) } }
  poisonCtrs (absorb s (fun _ _ => true)) allCtrs

/-! ### Issue of a core instruction (R87, R91, R93, R101) -/

/-- The core may issue: its item runs, nothing has stopped it, and no PRMG of it presents. -/
def canIssue (s : State) (c : CoreId) : Bool :=
  let x := s.cores[c]
  decide (s.u.state = .running) && decide (x.st = .run) && !x.errDue && x.present.isNone

/-- Two lists share an element. -/
def meets {α : Type} [DecidableEq α] (xs ys : List α) : Bool := xs.any (fun x => decide (x ∈ ys))

/-- An instruction with needs `b` waits for an earlier one with needs `a`: a unit, a register one of them writes and the
other names, a Trivet, and, in program order, the load queue and the store queue (R87, log 10). -/
def holdsUp (a b : Needs) : Bool :=
  meets a.units b.units || meets a.writes b.reads || meets a.writes b.writes || meets a.reads b.writes
    || meets a.trivets b.trivets || (a.takes && b.takes) || (a.pushes && b.pushes)

/-- No instruction in progress on core `c` holds up one with needs `n` (R87). -/
def clear (s : State) (c : CoreId) (n : Needs) : Bool := s.cores[c].prog.all (fun p => !holdsUp p.needs n)

/-- An instruction of core `c` with needs `n` and effect `f`, once the core may issue and nothing in progress holds it up:
a program counter past instruction 2,047 raises ERR_PC_RANGE at decode (R93). An access of it that a reserved window
excludes waits for the window to end (R35). A core that may not issue changes nothing (log 10). -/
def issue (s : State) (c : CoreId) (n : Needs) (f : State → State) : State :=
  if canIssue s c && clear s c n then
    if 2048 ≤ s.cores[c].pc then failCore s c .pcRange 0 else outside s (f s)
  else s

/-- The instruction has issued: the program counter passes its `n` words (R197). -/
def retire (s : State) (c : CoreId) (n : Nat) : State :=
  progress (modCore s c (fun x => { x with pc := min 2048 (x.pc + n) })) (.core c)

/-- An instruction that always issues, with effect `f` on the state. -/
def issueNext (s : State) (c : CoreId) (n : Needs) (f : State → State) : State := issue s c n (fun s => retire (f s) c 1)

/-- Needs of an instruction of the synchronisation unit (Table 8-4). -/
def syncNeeds : Needs := { units := [.sync] }

/-- A counter register of a core raised by `n`. -/
def countOob (s : State) (c : CoreId) (n : Nat) : State := modCore s c (fun x => { x with oobWr := sat32 x.oobWr n })

/-- A read of a vector register: an empty one returns zeros (R81). -/
def readV (s : State) (c : CoreId) (v : VReg) : Bits × Bool :=
  let x := s.cores[c].v[v]
  if x.full then (x.data, x.psn) else (0, false)

/-- A write of a vector register clears its empty mark and, by its issue, the latch that holds it (R81, R95). -/
def writeV (s : State) (c : CoreId) (v : VReg) (x : Bits) (psn : Bool) : State :=
  modCore s c (fun k => { k with
    v := k.v.set v.val { full := true, data := x, psn := psn }
    latch := if k.latch = some v then none else k.latch })

/-- Vector register `v + i`, within the file. -/
def vPlus (v : VReg) (i : Nat) : VReg := ⟨(v.val + i) % 32, by omega⟩

/-- A scalar read as a signed value (R187). -/
def sInt (s : State) (c : CoreId) (r : SReg) : Int := (s.cores[c].s[r]).toInt

/-- Poison and bytes of the store block in progress once every entry in the queue is written (R102, R210). -/
def owedBytes (x : Core) : Nat × Bool :=
  let size (e : SqEntry) : Nat := match e.dst with
    | .mem ws => (ws.map (fun w => maskCount w.mask)).sum
    | .feeder _ _ _ => e.nbytes
  x.sq.foldl (fun a e => match e.blk with
    | none => a
    | some b => if b.last then (0, false) else (a.1 + size e, a.2 || e.psn)) (x.stBytes, x.stPsn)

/-- Where a core stands, for an instruction that issues (R102). -/
def markOf (x : Core) : Mark :=
  let next := match x.lq with | b :: _ => (b.pos, b.before) | [] => (x.fetch, x.ldPsn)
  { pc := x.pc, loops := x.loops, s := x.s, d := x.d, take := next.1, before := next.2, lqDone := x.lqDone && x.lq.isEmpty
    storePos := x.storePos, storeDesc := x.storeDesc, feedPos := x.feedPos
    stBytes := (owedBytes x).1, stPsn := (owedBytes x).2 }

/-- `ADV` of a descriptor: `BASE[31:0]` grows by s_n modulo 2^32, and the factor cache entry is cleared (R176). -/
def advance (s : State) (c : CoreId) (adv : Bool) (d : DReg) : State :=
  if adv then
    modCore s c (fun k => { k with
      d := k.d.set d.val (setFld k.d[d] 0 32 ((fldN k.d[d] 0 32) + k.s[d].toNat))
      factor := if k.factor = some d then none else k.factor })
  else s

end Sys2Proof.Machine
end

