-- ==== Sys2Proof/Machine/Crossbar.lean ====
section
/-! DEFINITION. A cycle of the unit crossbar: grants, parking, waits and responses of the accesses presented (R297 to R304). -/

namespace Sys2Proof.Machine

/-- The shared inbound masters present accesses of P_0 in even frame cycles and of P_1 in odd ones (R303). -/
def mayPresent (s : State) (r : XbReq) : Bool :=
  !(twoTask s && (decide (r.m = 40) || decide (r.m = 44)) && decide (r.t.val < 13)) || decide (s.fr.cyc % 2 = r.part.val)

/-- What each master presents in this cycle: its oldest access (R300). -/
def fronts (s : State) : List XbReq → List (Fin 45) → List XbReq
  | [], _ => []
  | r :: rs, seen =>
    if seen.contains r.m || !mayPresent s r then fronts s rs seen else r :: fronts s rs (r.m :: seen)

/-- The target grants nothing while it is closed, in a reserved window, or waking (R34, R35, R300, Table 11-2). -/
def shut (s : State) (t : Fin 15) : Bool :=
  windowShuts s t ||
    (if h : t.val < 8 then let p := portOf s (.ns ⟨t.val, h⟩); !p.isOpen || decide (0 < p.wake)
     else decide (t = 8) && (let p := portOf s .ds; !p.isOpen || decide (0 < p.wake)))

/-- A closed port, or one in a refresh window, is idle (R302). -/
def resting (s : State) (t : Fin 15) : Bool :=
  if h : t.val < 8 then !(portOf s (.ns ⟨t.val, h⟩)).isOpen else decide (t = 8) && (inRefresh s || !(portOf s .ds).isOpen)

/-- Capacity of a target in this cycle, as the set of its banks, slots or ports (Table 12-2). -/
def roomOf (s : State) (t : Fin 15) : Nat :=
  if shut s t then 0
  else if t.val < 8 then 255
  else if t = 8 ∨ t = 11 ∨ t = 12 then 3
  else if t = 10 then b2n (decide (s.fr.cyc % 9 = 0))
  else 1

/-- The part of its target's capacity that an access needs: banks, feeder ports, granule slots. In two-task mode each partition
has its slot of Deep Store and its cycles of NoC outbound (R298, R303). -/
def slotUse (s : State) (room : Nat) (r : XbReq) : Nat :=
  if r.t = 8 then if twoTask s then 2 ^ r.part.val else if 2 ≤ r.need then 3 else if room % 2 = 1 then 1 else 2
  else if r.t = 9 then if twoTask s && decide (s.fr.cyc % 2 ≠ r.part.val) then 2 else 1
  else if r.t.val < 8 ∨ r.t = 11 ∨ r.t = 12 then r.need
  else 1

/-- What a cycle at one target has done so far. -/
structure XbStep where
  room : Nat
  blocked : Nat := 0
  won : List XbReq := []
  half : List (Fin 45) := []
  deriving DecidableEq, Repr

/-- One access in its turn: granted when its use fits; otherwise what it needs is blocked for those behind it (R300). In two-task
mode a partial-word write to Deep Store takes its slot in two cycles and is granted in the second (R303). -/
def tryGrant (s : State) (x : XbStep) (r : XbReq) : XbStep :=
  let u := slotUse s x.room r
  if u &&& x.room = u ∧ u &&& x.blocked = 0 then
    if twoTask s ∧ r.t = 8 ∧ r.need = 2 ∧ s.xb.half.contains r.m = false then { x with room := x.room - u, half := r.m :: x.half }
    else { x with room := x.room - u, won := x.won ++ [r] }
  else { x with blocked := x.blocked ||| u }

/-- The access `a` goes ahead of `b` among new bursts at `t`: by priority, then by master number cyclically after `XB_RR_t`
(R300). -/
def ahead (s : State) (t : Fin 15) (a b : XbReq) : Bool :=
  let after (m : Fin 45) : Nat := (m.val + 89 - s.xb.rr[t].toNat % 45) % 45
  decide (priOf s b.m.val t.val < priOf s a.m.val t.val) || (decide (priOf s b.m.val t.val = priOf s a.m.val t.val) && decide (after a.m < after b.m))

/-- A new burst at its place in the order. -/
def placeBurst (s : State) (t : Fin 15) (r : XbReq) : List XbReq → List XbReq
  | [] => [r]
  | x :: xs => if ahead s t r x then r :: x :: xs else x :: placeBurst s t r xs

/-- The master that an idle port can grant to in the next cycle (R302). -/
def parkMaster (s : State) (t : Fin 15) : Nat := if s.xb.park[t] = 0x3F then s.xb.rr[t].toNat else s.xb.park[t].toNat

/-- One cycle at target `t`: bursts in progress go on, oldest first, then new bursts in their order; a port that was idle in
the cycle before grants only its park master (R299, R300, R302). -/
def grantTarget (s : State) (fs : List XbReq) (t : Fin 15) : XbStep :=
  let ps := fs.filter (fun r => decide (r.t = t))
  let goesOn (r : XbReq) : Bool := !r.head || s.xb.half.contains r.m
  let new := (ps.filter (fun r => !goesOn r)).foldl (fun l r => placeBurst s t r l) []
  let new := if s.xb.busy.contains t then new else new.filter (fun r => decide (r.m.val = parkMaster s t))
  (ps.filter goesOn ++ new).foldl (tryGrant s) { room := roomOf s t }

/-- Cycles from an access's grant until its data is on the master's path, or its write is in effect (R271, R278). -/
def latency (r : XbReq) : Nat := if r.write then 1 else if r.t = 8 then 96 else 12

/-- Responses come a cycle nearer; one that meets a tombstone is discarded and counted (R304). -/
def respCycle (x : Xbar) : Xbar :=
  let due := x.resp.filter (fun r => decide (r.left ≤ 1))
  { x with
    resp := (x.resp.filter (fun r => decide (1 < r.left))).map (fun r => { r with left := r.left - 1 })
    tomb := sat32 x.tomb (due.filter (·.dead)).length }

/-- A cycle of every target: grants move `XB_RR_t` on, and every master that presented without a grant counts it (R300). -/
def grantCycle (s : State) : Xbar :=
  let x := s.xb
  let fs := fronts s x.reqs []
  let done := (List.finRange 15).map (grantTarget s fs)
  let won := done.flatMap (·.won)
  let rr := (won.filter (·.head)).foldl (fun (v : Vector (BitVec 6) 15) r => v.set r.t.val (BitVec.ofNat 6 r.m.val)) x.rr
  { x with
    reqs := won.foldl List.erase x.reqs
    resp := x.resp ++ (won.filter (fun r => r.read || r.write)).map (fun r =>
      { t := r.t, m := r.m, part := r.part, write := r.write, left := latency r })
    rr := rr
    wait := (fs.filter (fun r => !won.contains r)).foldl (fun w r => put 0 w r.m.val (sat32 (look 0 w r.m.val) 1)) x.wait
    busy := (List.finRange 15).filter (fun t => fs.any (fun r => decide (r.t = t)) && !resting s t)
    half := done.flatMap (·.half) }

/-- A cycle of the crossbar. -/
def xbCycle (s : State) : State :=
  let s := { s with xb := respCycle s.xb }
  if s.xb.reqs.isEmpty then { s with xb := { s.xb with busy := [], half := [] } } else { s with xb := grantCycle s }

end Sys2Proof.Machine
end

