-- ==== Sys2Proof/Machine/Float.lean ====
section
/-! DEFINITION. Element formats and their arithmetic: exact values, conversion by R68, and the additions, products,
quotients and roots of R485. -/

namespace Sys2Proof.Machine

/-- A value: NaN or infinity with its sign, or (-1)^neg * m * 2^e. -/
inductive FVal where
  | nan (neg : Bool)
  | inf (neg : Bool)
  | fin (neg : Bool) (m : Nat) (e : Int)
  deriving DecidableEq, Repr

/-- How a format treats its top exponent codes (Table 3-5). -/
inductive Top where
  /-- infinities and NaNs as in IEEE 754 -/
  | ieee
  /-- E4M3: NaN at the all-ones code only -/
  | ocp
  /-- no infinity and no NaN -/
  | none
  deriving DecidableEq, Repr

/-- A floating-point format: exponent and mantissa widths, bias, top codes (Table 3-5). -/
structure FFmt where
  eb : Nat
  mb : Nat
  bias : Nat
  top : Top
  deriving DecidableEq, Repr

def fp32 : FFmt := ⟨8, 23, 127, .ieee⟩
def bf16 : FFmt := ⟨8, 7, 127, .ieee⟩
def fp16 : FFmt := ⟨5, 10, 15, .ieee⟩
def e4m3 : FFmt := ⟨4, 3, 7, .ocp⟩
def e5m2 : FFmt := ⟨5, 2, 15, .ieee⟩
def e3m2 : FFmt := ⟨3, 2, 3, .none⟩
def e2m3 : FFmt := ⟨2, 3, 1, .none⟩
def e2m1 : FFmt := ⟨2, 1, 1, .none⟩
/-- The element of MXFP8 E4M3, which packing never gives a NaN (R70). -/
def mxE4m3 : FFmt := e4m3

/-- Width in bits. -/
def FFmt.width (f : FFmt) : Nat := 1 + f.eb + f.mb
/-- Code of the largest finite magnitude (Table 3-5). -/
def FFmt.maxCode (f : FFmt) : Nat :=
  match f.top with
  | .ieee => (2 ^ f.eb - 1) * 2 ^ f.mb - 1
  | .ocp => 2 ^ (f.eb + f.mb) - 2
  | .none => 2 ^ (f.eb + f.mb) - 1
/-- Canonical NaN without its sign; a format without NaN has none, and its largest code stands here (Table 3-5). -/
def FFmt.nanCode (f : FFmt) : Nat :=
  match f.top with
  | .ieee => (2 ^ f.eb - 1) * 2 ^ f.mb + 2 ^ (f.mb - 1)
  | .ocp => 2 ^ (f.eb + f.mb) - 1
  | .none => 2 ^ (f.eb + f.mb) - 1
/-- Code of infinity without its sign. -/
def FFmt.infCode (f : FFmt) : Nat := (2 ^ f.eb - 1) * 2 ^ f.mb
/-- A sign put above a code. -/
def FFmt.signed (f : FFmt) (neg : Bool) (code : Nat) : Nat := code + b2n neg * 2 ^ (f.eb + f.mb)

/-- The value of a code (R65, R66). -/
def FFmt.decode (f : FFmt) (x : Nat) : FVal :=
  let x := x % 2 ^ f.width
  let neg := decide (2 ^ (f.eb + f.mb) ≤ x)
  let c := x % 2 ^ (f.eb + f.mb)
  let e := c / 2 ^ f.mb
  let m := c % 2 ^ f.mb
  let low : Int := 1 - (f.bias : Int) - (f.mb : Int)
  let value : FVal := if e = 0 then .fin neg m low else .fin neg (2 ^ f.mb + m) (low + (e : Int) - 1)
  match f.top with
  | .ieee => if e = 2 ^ f.eb - 1 then (if m = 0 then .inf neg else .nan neg) else value
  | .ocp => if c = 2 ^ (f.eb + f.mb) - 1 then .nan neg else value
  | .none => value

/-- m * 2^e as a whole number, rounded to nearest with ties to even, or toward zero (`rtz`). -/
def roundInt (rtz : Bool) (m : Nat) (e : Int) : Nat :=
  if 0 ≤ e then m * 2 ^ e.toNat
  else
    let k := (-e).toNat
    let q := m / 2 ^ k
    let r := m % 2 ^ k
    if rtz then q
    else if 2 * r > 2 ^ k ∨ (2 * r = 2 ^ k ∧ q % 2 = 1) then q + 1 else q

/-- Rounding of a finite magnitude into a format: its code, which may lie past the largest finite one. -/
def FFmt.roundCode (f : FFmt) (rtz : Bool) (m : Nat) (e : Int) : Nat :=
  if m = 0 then 0
  else
    let low : Int := 1 - (f.bias : Int) - (f.mb : Int)
    let q : Int := max ((Nat.log2 m : Int) + e - f.mb) low
    ((q - low).toNat) * 2 ^ f.mb + roundInt rtz m (e - q)

/-- Conversion of a value into a floating-point format (Table 3-6). `mx` is the column of MX elements. Rounding toward
zero never passes the largest finite value (log 11). -/
def FFmt.encode (f : FFmt) (rtz sat mx : Bool) (v : FVal) : Nat :=
  match v with
  | .nan neg => f.signed neg f.nanCode
  | .inf neg =>
    match f.top with
    | .ieee => f.signed neg f.infCode
    | .ocp => f.signed neg (if sat || mx then f.maxCode else f.nanCode)
    | .none => f.signed neg f.maxCode
  | .fin neg m e =>
    let c := f.roundCode rtz m e
    if c ≤ f.maxCode then f.signed neg c
    else if rtz || sat || mx then f.signed neg f.maxCode
    else match f.top with
      | .ieee => f.signed neg f.infCode
      | .ocp => f.signed neg f.nanCode
      | .none => f.signed neg f.maxCode

/-- Conversion into a two's complement integer of `n` bits, or an unsigned one (Table 3-6). -/
def toInteger (n : Nat) (sgn rtz : Bool) (v : FVal) : Nat :=
  let hi : Int := if sgn then 2 ^ (n - 1) - 1 else 2 ^ n - 1
  let lo : Int := if sgn then -(2 ^ (n - 1)) else 0
  let wrap (i : Int) : Nat := (i % 2 ^ n).toNat
  match v with
  | .nan _ => 0
  | .inf neg => wrap (if neg then lo else hi)
  | .fin neg m e =>
    let k : Int := roundInt rtz m e
    let i := if neg then -k else k
    wrap (if hi < i then hi else if i < lo then lo else i)

/-- The value of a two's complement or unsigned integer of `n` bits, times 2^e. -/
def ofInteger (n : Nat) (sgn : Bool) (e : Int) (x : Nat) : FVal :=
  let x := x % 2 ^ n
  if sgn && decide (2 ^ (n - 1) ≤ x) then .fin true (2 ^ n - x) e else .fin false x e

/-- Element width of a format, without its scale (Table 3-4); 0 for a reserved code. -/
def fmtWidth (f : Nat) : Nat :=
  if f ≤ 1 then 32 else if f ≤ 4 then 16 else if f ≤ 11 then 8 else if f ≤ 13 then 6 else if f = 14 then 4
  else if f ≤ 21 then f - 14 else if f = 22 then 1 else 0

/-- The floating-point format of a `FMT` code, if it is one. -/
def ffmtOf (f : Nat) : Option FFmt :=
  match f with
  | 0 => some fp32 | 2 => some bf16 | 3 => some fp16 | 5 => some e4m3 | 6 => some e5m2
  | 9 => some mxE4m3 | 10 => some e5m2 | 12 => some e3m2 | 13 => some e2m3 | 14 => some e2m1
  | _ => none

/-- MX formats. -/
def isMx (f : Nat) : Bool := decide (9 ≤ f ∧ f ≤ 14)

/-- The value of an element's bits (R65, R66). -/
def elemValue (f x : Nat) : FVal :=
  match ffmtOf f with
  | some g => g.decode x
  | none =>
    if f = 11 then ofInteger 8 true (-6) x
    else if f = 8 ∨ f = 22 then ofInteger (fmtWidth f) false 0 x
    else ofInteger (fmtWidth f) true 0 x

/-- Conversion of a value into an element of format `f` (R68). -/
def elemCode (f : Nat) (rtz sat : Bool) (v : FVal) : Nat :=
  match ffmtOf f with
  | some g => g.encode rtz sat (isMx f) v
  | none =>
    if f = 11 then
      match v with
      | .fin neg m e => toInteger 8 true rtz (.fin neg m (e + 6))
      | x => toInteger 8 true rtz x
    else toInteger (fmtWidth f) (decide (f ≠ 8 ∧ f ≠ 22)) rtz v

/-- `convert` of R188: R68 from one format into another. -/
def convertElem (src dst : Nat) (rtz sat : Bool) (x : Nat) : Nat := elemCode dst rtz sat (elemValue src x)

/-! ### Arithmetic (R485) -/

/-- Signed mantissa. -/
def sm (neg : Bool) (m : Nat) : Int := if neg then -(m : Int) else m

/-- a + b, exact; a NaN operand keeps its sign, the first one's before the second's; infinity less infinity is the
positive NaN (R485). An exact zero is +0.0 unless both operands are negative. -/
def fAdd (a b : FVal) : FVal :=
  match a, b with
  | .nan n, _ => .nan n
  | _, .nan n => .nan n
  | .inf n, .inf k => if n = k then .inf n else .nan false
  | .inf n, _ => .inf n
  | _, .inf n => .inf n
  | .fin na ma ea, .fin nb mb eb =>
    let e := min ea eb
    let i := sm na (ma * 2 ^ (ea - e).toNat) + sm nb (mb * 2 ^ (eb - e).toNat)
    if i = 0 then .fin (na && nb) 0 e else .fin (decide (i < 0)) i.natAbs e

/-- a * b, exact (R485). -/
def fMul (a b : FVal) : FVal :=
  match a, b with
  | .nan n, _ => .nan n
  | _, .nan n => .nan n
  | .inf n, .inf k => .inf (n ^^ k)
  | .inf n, .fin k m _ => if m = 0 then .nan false else .inf (n ^^ k)
  | .fin k m _, .inf n => if m = 0 then .nan false else .inf (n ^^ k)
  | .fin na ma ea, .fin nb mb eb => .fin (na ^^ nb) (ma * mb) (ea + eb)

/-- a / b with 40 bits past the point and a sticky bit below them, enough to round correctly into FP32 (R264, R485). -/
def fDiv (a b : FVal) : FVal :=
  match a, b with
  | .nan n, _ => .nan n
  | _, .nan n => .nan n
  | .inf _, .inf _ => .nan false
  | .inf n, .fin k _ _ => .inf (n ^^ k)
  | .fin n _ e, .inf k => .fin (n ^^ k) 0 e
  | .fin na ma ea, .fin nb mb eb =>
    if mb = 0 then (if ma = 0 then .nan false else .inf (na ^^ nb))
    else
      let k := Nat.log2 mb + 40
      let x := ma * 2 ^ k
      .fin (na ^^ nb) (2 * (x / mb) + b2n (x % mb ≠ 0)) (ea - eb - k - 1)

/-- Square root with a sticky bit, enough to round correctly into FP32 (R264, R485). -/
def fSqrt (a : FVal) : FVal :=
  match a with
  | .nan n => .nan n
  | .inf n => if n then .nan false else .inf false
  | .fin n m e =>
    if m = 0 then .fin n 0 e
    else if n then .nan false
    else
      let odd : Nat := (e % 2).toNat
      let x := m * 2 ^ (60 + odd)
      let r := isqrt x
      .fin false (2 * r + b2n (r * r ≠ x)) ((e - odd - 60) / 2 - 1)

/-- An FP32 word's value. -/
def f32 (x : Word) : FVal := fp32.decode x.toNat
/-- A value rounded to FP32 to nearest, ties to even, overflowing to infinity (R258, R485). -/
def toF32 (v : FVal) : Word := BitVec.ofNat 32 (fp32.encode false false false v)
/-- FP32 addition. -/
def addF32 (a b : Word) : Word := toF32 (fAdd (f32 a) (f32 b))
/-- FP32 multiplication. -/
def mulF32 (a b : Word) : Word := toF32 (fMul (f32 a) (f32 b))
/-- BF16 addition. -/
def addBf16 (a b : Nat) : Nat := bf16.encode false false false (fAdd (bf16.decode a) (bf16.decode b))

end Sys2Proof.Machine
end

