-- ==== Sys2Proof/Machine/Operands.lean ====
section
/-! DEFINITION. Operand forms: tensor descriptors and their checks (R57, R58), coordinates and addresses (R59 to R64),
fill values (R73), and the reads and writes of beats and rows every agent makes. -/

namespace Sys2Proof.Machine

/-! ### Fields (Table 3-1) -/

def tdBase (d : Desc) : Nat := fldN d 0 48
def tdFmt (d : Desc) : Nat := fldN d 50 5
def tdLayout (d : Desc) : Nat := fldN d 55 3
def tdRank (d : Desc) : Nat := fldN d 58 3
/-- Size of dimension k: the field plus 1. -/
def tdSize (d : Desc) (k : Nat) : Nat := fldN d (64 + 24 * k) 24 + 1
/-- Byte stride of dimension k, from 1 to 5. -/
def tdStride (d : Desc) (k : Nat) : Int := fldI d (208 + 38 * (k - 1)) 38
def tdFill (d : Desc) : Nat := fldN d 400 32
def tdPlaneStride (d : Desc) : Nat := 64 * fldN d 432 32
def tdScaleOff (d : Desc) : Int := fldI d 464 32
def tdPlanes (d : Desc) : Nat := fldN d 496 5
def tdScaleShift (d : Desc) : Nat := fldN d 501 4
def tdYield (d : Desc) : Bool := bitOf d 505
def tdSat (d : Desc) : Bool := bitOf d 506
/-- `ROUND`: toward zero when set. -/
def tdRtz (d : Desc) : Bool := bitOf d 507

/-- Layout numbers (Table 3-8). -/
def lRow : Nat := 0
def lKp2 : Nat := 1
def lKq4 : Nat := 2
def lPln : Nat := 3
def lMxb : Nat := 4

/-- Element width of the descriptor. -/
def tdWidth (d : Desc) : Nat := fmtWidth (tdFmt d)
/-- Panel layouts (R79). -/
def isPanel (d : Desc) : Bool := tdLayout d = lKp2 || tdLayout d = lKq4
/-- A plane-stored descriptor (R486). -/
def isPlane (d : Desc) : Bool :=
  tdLayout d = lPln || (tdLayout d = lMxb && decide (12 ≤ tdFmt d ∧ tdFmt d ≤ 14))

/-! ### The checks of Table 3-2 -/

/-- Formats a layout may hold (Table 3-4). -/
def fmtLayoutOk (fmt layout : Nat) : Bool :=
  match layout with
  | 0 => decide (fmt ≤ 8)
  | 1 => decide (2 ≤ fmt ∧ fmt ≤ 4)
  | 2 => decide (5 ≤ fmt ∧ fmt ≤ 11) || fmt = 14
  | 3 => fmt = 2 || decide (15 ≤ fmt ∧ fmt ≤ 22)
  | 4 => decide (9 ≤ fmt ∧ fmt ≤ 14)
  | _ => false

/-- First row of Table 3-2: reserved fields and values. -/
def tdReservedOk (d : Desc) : Bool :=
  fldN d 61 3 = 0 && fldN d 398 2 = 0 && fldN d 508 4 = 0 && decide (tdSpace d ≠ 3) && decide (tdFmt d ≤ 22)
    && decide (tdLayout d ≤ 4) && decide (1 ≤ tdRank d ∧ tdRank d ≤ 6)

/-- Second row: nothing set at or above the rank. -/
def tdRankOk (d : Desc) : Bool :=
  (upto 6).all (fun k => decide (k < tdRank d) || (tdSize d k = 1 && (k = 0 || tdStride d k = 0)))

/-- Bits of `FILL` a format uses (Table 3-7). -/
def fillMask (d : Desc) : Nat :=
  let f := tdFmt d
  if f ≤ 1 then 2 ^ 32 - 1
  else if f = 2 ∧ tdLayout d = lPln then 2 ^ 16 - 2 ^ (16 - tdPlanes d)
  else if isMx f then (2 ^ fmtWidth f - 1) + 0xFF00
  else 2 ^ fmtWidth f - 1

/-- `PLANE_CNT` and `PLANE_STRIDE` (R71, Table 3-8). -/
def planesOk (d : Desc) : Bool :=
  let n := tdPlanes d
  if isPlane d then
    (if tdFmt d = 2 then decide (9 ≤ n ∧ n ≤ 16) else n = tdWidth d) && (n ≤ 1 || decide (1 ≤ tdPlaneStride d))
  else n = 0 && (isPanel d || tdPlaneStride d = 0)

/-- The panel conditions of Table 3-8. -/
def panelOk (d : Desc) : Bool :=
  if tdLayout d = lKp2 then
    decide (2 ≤ tdRank d) && decide (tdSize d 0 ≤ 128) && decide (tdSize d 1 % 2 = 0) && tdStride d 1 = 0
  else if tdLayout d = lKq4 then
    decide (2 ≤ tdRank d) && decide (tdSize d 0 ≤ 128) && decide (tdSize d 1 % (if tdFmt d = 14 then 8 else 4) = 0)
      && tdStride d 1 = 0
  else true

/-- The scale fields (R69). -/
def scaleOk (d : Desc) : Bool :=
  if isMx (tdFmt d) then
    (span 1 5).all (fun k => tdSize d k = 1 || tdStride d k % 2 ^ tdScaleShift d = 0)
  else tdScaleOff d = 0 && tdScaleShift d = 0

/-- Third row of Table 3-2: a combination the tables of chapter 3 allow. -/
def tdComboOk (d : Desc) : Bool :=
  fmtLayoutOk (tdFmt d) (tdLayout d) && planesOk d && panelOk d && scaleOk d && (tdFill d &&& fillMask d) = tdFill d

/-- Dimensions whose strides move rows (L-ROW and planes) or panels. -/
def outerDims (d : Desc) : List Nat := if isPanel d then span 2 4 else span 1 5

/-- Lowest and highest offset the strides reach. -/
def loOff (d : Desc) : Int := (outerDims d).foldl (fun a k => a + min 0 (((tdSize d k : Int) - 1) * tdStride d k)) 0
def hiOff (d : Desc) : Int := (outerDims d).foldl (fun a k => a + max 0 (((tdSize d k : Int) - 1) * tdStride d k)) 0

/-- Beats of one panel (R79). -/
def panelBeats (d : Desc) : Nat :=
  if tdLayout d = lKp2 then tdSize d 1 else if tdFmt d = 14 then tdSize d 1 / 4 else tdSize d 1 / 2

/-- Bytes from the start of a row, plane row or panel to the end of its last in-bounds element (R60, R71, R79). -/
def rowBytes (d : Desc) : Nat :=
  if isPanel d then
    let n := tdSize d 0
    if 64 < n then 256 * (panelBeats d - 1) + 4 * (n - 64) else 256 * (panelBeats d - 2) + 4 * n
  else if isPlane d then ceilDiv (tdSize d 0) 8
  else ceilDiv (tdSize d 0 * tdWidth d) 8

/-- Fourth row: two stored planes overlap. -/
def planesApart (d : Desc) : Bool :=
  decide (tdPlanes d ≤ 1) || decide (hiOff d - loOff d + rowBytes d ≤ tdPlaneStride d)

/-- The alignment row. `rinc` leaves out its `BASE` condition (R195). -/
def tdAlignOk (d : Desc) (rinc : Bool) : Bool :=
  (rinc || tdBase d % 64 = 0) && (span 1 5).all (fun k => tdSize d k = 1 || tdStride d k % 64 = 0)

/-- First and last byte of the footprint: values, every plane, and the scale tensor of L-MXB (R58, R69). -/
def footprint (d : Desc) : Int × Int :=
  let lo : Int := tdBase d + loOff d
  let hi : Int := tdBase d + hiOff d + rowBytes d - 1 + (if isPlane d then (((tdPlanes d - 1) * tdPlaneStride d : Nat) : Int) else 0)
  if tdLayout d = lMxb then
    let sh : Int := 2 ^ tdScaleShift d
    let b : Int := tdBase d + tdScaleOff d
    (min lo (b + loOff d / sh), max hi (b + hiOff d / sh + ceilDiv (tdSize d 0) 32 - 1))
  else (lo, hi)

/-- Both ends lie in one window of Table 3-2. -/
def inWindow (lo hi : Int) : Bool :=
  decide (0 ≤ lo ∧ hi < 0x2000000) || decide (0x40000000 ≤ lo ∧ hi < 0x80000000)

/-- The range row, for unit-local space. -/
def tdRangeOk (d : Desc) : Bool := decide (tdSpace d ≠ 0) || inWindow (footprint d).1 (footprint d).2

/-- The checks of Table 3-2 in the order of its rows; the last one is the user's own. -/
def checkTd (d : Desc) (rinc : Bool) (accepts : Desc → Bool) : Option Err :=
  if !tdReservedOk d then some .tdInvalid
  else if !tdRankOk d then some .tdInvalid
  else if !tdComboOk d then some .tdInvalid
  else if !planesApart d then some .tdInvalid
  else if !tdAlignOk d rinc then some .tdAlign
  else if !tdRangeOk d then some .tdRange
  else if !accepts d then some .tdSpace
  else none

/-- The first failing check of several descriptors, in order (R100). -/
def checkTds : List (Desc × (Desc → Bool)) → Option Err
  | [] => none
  | (d, f) :: r => match checkTd d false f with | some e => some e | none => checkTds r

/-- Unit-local, with a beat layout: what VLD and VST accept (R182, R486). -/
def beatOk (d : Desc) : Bool := tdSpace d = 0 && (tdLayout d = lRow || isPanel d)
/-- Unit-local L-ROW. -/
def localRow (d : Desc) : Bool := tdSpace d = 0 && tdLayout d = lRow
/-- Unit-local. -/
def isLocal (d : Desc) : Bool := tdSpace d = 0
/-- Global (R193 to R195). -/
def isGlobal (d : Desc) : Bool := tdSpace d = 1

/-! ### Coordinates and addresses (R59, R62, R207) -/

/-- Offset of outer coordinates from dimension `k` on; none when one is out of bounds. -/
def outerOff (d : Desc) : Nat → List Int → Option Int
  | _, [] => some 0
  | k, c :: r =>
    if 0 ≤ c ∧ c < tdSize d k then
      match outerOff d (k + 1) r with
      | some x => some (x + c * tdStride d k)
      | none => none
    else none

/-- Byte address at an offset. -/
def addrAt (d : Desc) (off : Int) : Nat := ((tdBase d : Int) + off).toNat

/-- Address of the row at c_1 = o, higher coordinates 0; none out of bounds (R59, R62). -/
def rowAt (d : Desc) (o : Int) : Option Nat :=
  match outerOff d 1 [o] with | some x => some (addrAt d x) | none => none

/-- Coordinates of row index `r`, c_1 fastest, over dimensions `k` to `k + n - 1` (R207). -/
def unrank (d : Desc) : Nat → Nat → Nat → List Int
  | _, 0, _ => []
  | k, 1, r => [(if k < 6 then (r : Int) else 0)]
  | k, n + 1, r => ((r % tdSize d k : Nat) : Int) :: unrank d (k + 1) n (r / tdSize d k)

/-- Address of row index `r`; none at or beyond the row count (R207). -/
def rowOf (d : Desc) (r : Nat) : Option Nat :=
  match outerOff d 1 (unrank d 1 5 r) with | some x => some (addrAt d x) | none => none

/-- Address of panel `r`, counted over dimensions 2 and up (R79). -/
def panelOf (d : Desc) (r : Nat) : Option Nat :=
  match outerOff d 2 (unrank d 2 4 r) with | some x => some (addrAt d x) | none => none

/-- Rows a descriptor has. -/
def rowCount (d : Desc) : Nat := tdSize d 1 * tdSize d 2 * tdSize d 3 * tdSize d 4 * tdSize d 5

/-! ### Fill (R73, R74) -/

/-- `count` copies of an element of `w` bits. -/
def repeatElem (w x count : Nat) : Nat := if w = 0 then 0 else (x % 2 ^ w) * ((2 ^ (w * count) - 1) / (2 ^ w - 1))

/-- Element fill of a descriptor (Table 3-7). -/
def fillElem (d : Desc) : Nat := tdFill d % 2 ^ tdWidth d
/-- Scale fill of an MX descriptor (Table 3-7). -/
def fillScale (d : Desc) : Nat := tdFill d / 256 % 256
/-- A beat of fill values. -/
def fillBits (d : Desc) : Nat := if tdWidth d = 0 then 0 else repeatElem (tdWidth d) (fillElem d) (2048 / tdWidth d)

/-! ### Runs of bits

A run is `n` bits from bit address `ba` (eight times the byte address), read or written as the 64-byte words it
touches (R60, R61). -/

/-- Words a run touches. -/
def runWords (ba n : Nat) : List Nat := if n = 0 then [] else span (ba / 512) ((ba + n - 1) / 512 - ba / 512 + 1)

/-- Words as one number, a word of the other partition standing as `fill` (R24). -/
def joinWords (fill : Nat) : List RdWord → Nat
  | [] => 0
  | .data x _ :: r => x.toNat + 2 ^ 512 * joinWords fill r
  | .fill :: r => fill % 2 ^ 512 + 2 ^ 512 * joinWords fill r

/-- Any of the words is poisoned. -/
def anyPsn (l : List RdWord) : Bool := l.any (fun r => match r with | .data _ p => p | .fill => false)

/-- A run read: its bits and whether a word of it was poisoned. -/
def readRun (s : State) (who : Who) (ba n fill : Nat) : State × Nat × Bool :=
  let r := readWords s who (runWords ba n)
  (r.1, joinWords fill r.2 / 2 ^ (ba % 512) % 2 ^ n, anyPsn r.2)

/-- The word writes of a run holding the bits of `x`. -/
def runWrites (ba n x : Nat) : List WordWr :=
  let sh := 2 ^ (ba % 512)
  let data := x % 2 ^ n * sh
  let mask := (2 ^ n - 1) * sh
  ((runWords ba n).zipIdx).map (fun p =>
    { word := p.1, data := BitVec.ofNat 512 (data / 2 ^ (512 * p.2)), mask := BitVec.ofNat 512 (mask / 2 ^ (512 * p.2)) })

/-- The word writes of a run under a mask of its own. -/
def maskedWrites (ba n x mask : Nat) : List WordWr :=
  let sh := 2 ^ (ba % 512)
  (((runWords ba n).zipIdx).map (fun p =>
    { word := p.1, data := BitVec.ofNat 512 (x * sh / 2 ^ (512 * p.2)), mask := BitVec.ofNat 512 (mask * sh / 2 ^ (512 * p.2)) : WordWr })).filter
    (fun w => w.mask ≠ 0)

/-- Overlap of positions `c0` to `c0 + count - 1` with 0 to `size - 1`: first position inside and how many. -/
def clip (c0 : Int) (count size : Nat) : Nat × Nat :=
  let lo : Int := max 0 c0
  let hi : Int := min (size : Int) (c0 + count)
  if lo < hi then (lo.toNat, (hi - lo).toNat) else (0, 0)

/-- Elements `c0` to `c0 + count - 1` of the byte-stored row at `row`, out-of-bounds ones as fill (R61, R62). -/
def readElems (s : State) (who : Who) (d : Desc) (row : Option Nat) (c0 : Int) (count : Nat) : State × Nat × Bool :=
  let w := tdWidth d
  let blank := repeatElem w (fillElem d) count
  match row with
  | none => (s, blank, false)
  | some a =>
    let k := clip c0 count (tdSize d 0)
    if k.2 = 0 then (s, blank, false)
    else
      let r := readRun s who (8 * a + k.1 * w) (k.2 * w) (repeatElem w (fillElem d) (512 / w))
      let at_ := ((k.1 : Int) - c0).toNat * w
      (r.1, blank % 2 ^ at_ + 2 ^ at_ * r.2.1 + (blank / 2 ^ (at_ + k.2 * w)) * 2 ^ (at_ + k.2 * w), r.2.2)

/-- The word writes of elements `c0` on of the byte-stored row at `row`, and how many elements are out of bounds. -/
def writeElems (d : Desc) (row : Option Nat) (c0 : Int) (count x : Nat) : List WordWr × Nat :=
  let w := tdWidth d
  match row with
  | none => ([], count)
  | some a =>
    let k := clip c0 count (tdSize d 0)
    if k.2 = 0 then ([], count)
    else (runWrites (8 * a + k.1 * w) (k.2 * w) (x / 2 ^ (((k.1 : Int) - c0).toNat * w)), count - k.2)

/-! ### Elements inside a beat -/

/-- Element `i` of width `w`. -/
def elemAt (w : Nat) (x : Bits) (i : Nat) : Nat := x.toNat / 2 ^ (w * i) % 2 ^ w

/-- A beat from its elements of width `w`, element 0 lowest. -/
def ofElems (w : Nat) (xs : List Nat) : Nat := xs.foldr (fun x a => x % 2 ^ w + 2 ^ w * a) 0

/-- The first `n` elements of a number, of width `w`. -/
def toElems (w n x : Nat) : List Nat := (upto n).map (fun i => x / 2 ^ (w * i) % 2 ^ w)

/-! ### Rows of any layout, as the Trivet memory forms read and write them (R141, R145, R486) -/

/-- First stored plane (R71). -/
def firstPlane (d : Desc) : Nat := if tdFmt d = 2 then 16 - tdPlanes d else 0

/-- K steps that share the 32 bits of one lane of a pair of beats (R76 to R78). -/
def kPer (d : Desc) : Nat := if tdLayout d = lKp2 then 2 else if tdFmt d = 14 then 8 else 4

/-- Bit address of lane 0 at step `k` of a panel: lane m lies 32m bits further (R76 to R78). -/
def laneBit (d : Desc) (panel k : Nat) : Nat := 8 * (panel + 512 * (k / kPer d)) + k % kPer d * tdWidth d

/-- Lanes `c0` on of step `k1` of the panel at `BASE`: elements of the format's width, fill where out of bounds. -/
def readLanes (s : State) (who : Who) (d : Desc) (k1 c0 : Int) (count : Nat) : State × Nat × Bool :=
  let w := tdWidth d
  let blank := repeatElem w (fillElem d) count
  let k := clip c0 count (tdSize d 0)
  if k1 < 0 ∨ (tdSize d 1 : Int) ≤ k1 ∨ k.2 = 0 then (s, blank, false)
  else
    let r := readRun s who (laneBit d (tdBase d) k1.toNat + 32 * k.1) (32 * (k.2 - 1) + w) (fillBits d % 2 ^ 512)
    (r.1, ofElems w ((upto count).map (fun i =>
      let m : Int := c0 + i
      if 0 ≤ m ∧ m < tdSize d 0 then r.2.1 / 2 ^ (32 * (m.toNat - k.1)) else fillElem d)), r.2.2)

/-- The word writes of lanes `c0` on of step `k1`, and how many are dropped and counted: lanes at or beyond the size are
left unchanged and uncounted (R79). `top` names the bits of the last lane that are written. -/
def writeLanes (d : Desc) (k1 c0 : Int) (count x top : Nat) : List WordWr × Nat :=
  let w := tdWidth d
  let k := clip c0 count (tdSize d 0)
  let named := min count ((tdSize d 0 : Int) - c0).toNat
  if k1 < 0 ∨ (tdSize d 1 : Int) ≤ k1 ∨ k.2 = 0 then ([], named)
  else
    let first := ((k.1 : Int) - c0).toNat
    let xs := toElems w k.2 (x / 2 ^ (w * first))
    let masks := (upto k.2).map (fun i => if first + i + 1 = count then top else 2 ^ w - 1)
    (maskedWrites (laneBit d (tdBase d) k1.toNat + 32 * k.1) (32 * (k.2 - 1) + w) (ofElems 32 xs) (ofElems 32 masks),
      named - k.2)

/-- `count` columns from element `c0` of the row at c_1: whole elements of byte rows and panels, bits of the lowest
stored plane, and the bits of MXFP4 lanes side by side (R141). -/
def readRowAt (s : State) (who : Who) (d : Desc) (c1 c0 : Int) (count : Nat) : State × Nat × Bool :=
  if isPlane d then
    let bit := fillElem d / 2 ^ firstPlane d % 2
    let blank := repeatElem 1 bit count
    match rowAt d c1 with
    | none => (s, blank, false)
    | some a =>
      let k := clip c0 count (tdSize d 0)
      if k.2 = 0 then (s, blank, false)
      else
        let r := readRun s who (8 * a + k.1) k.2 (repeatElem 1 bit 512)
        let at_ := ((k.1 : Int) - c0).toNat
        (r.1, blank % 2 ^ at_ + 2 ^ at_ * r.2.1 + blank / 2 ^ (at_ + k.2) * 2 ^ (at_ + k.2), r.2.2)
  else if isPanel d then
    if tdFmt d = 14 then
      let r := readLanes s who d c1 c0 (ceilDiv count 4)
      (r.1, r.2.1 % 2 ^ count, r.2.2)
    else readLanes s who d c1 c0 count
  else readElems s who d (rowAt d c1) c0 count

/-- The word writes of `count` columns from element `c0` of the row at c_1, and the elements dropped; bit positions past
`count` of an MXFP4 lane are not written (R145). -/
def writeRowAt (d : Desc) (c1 c0 : Int) (count x : Nat) : List WordWr × Nat :=
  if isPlane d then
    match rowAt d c1 with
    | none => ([], count)
    | some a =>
      let k := clip c0 count (tdSize d 0)
      if k.2 = 0 then ([], count)
      else (runWrites (8 * a + k.1) k.2 (x / 2 ^ ((k.1 : Int) - c0).toNat), count - k.2)
  else if isPanel d then
    if tdFmt d = 14 then writeLanes d c1 c0 (ceilDiv count 4) x (2 ^ ((count - 1) % 4 + 1) - 1)
    else writeLanes d c1 c0 count x (2 ^ tdWidth d - 1)
  else writeElems d (rowAt d c1) c0 count x

/-! ### Beats of VLD, VST and the fused read and write (R79, R182, R198) -/

/-- Elements of a beat: 2,048 / w, and 512 nibbles of MXFP4. -/
def beatElems (d : Desc) : Nat := if tdWidth d = 0 then 0 else 2048 / tdWidth d

/-- Bytes of beat `b` that hold in-bounds lanes of a panel: a run from its start (R76, R77, R79). -/
def laneBytes (d : Desc) (b : Nat) : Nat := 4 * (if b % 2 = 0 then min 64 (tdSize d 0) else tdSize d 0 - 64)

/-- Where beat `b` at outer coordinate `o` lies: address and valid bytes; none when every element is out of bounds. -/
def beatAt (d : Desc) (outer : Option Nat) (b : Nat) : Option (Nat × Nat) :=
  match outer with
  | none => none
  | some a =>
    if isPanel d then
      if b < panelBeats d then some (a + 256 * b, laneBytes d b) else none
    else
      let n := tdSize d 0 * tdWidth d / 8
      if 256 * b < n then some (a + 256 * b, min 256 (n - 256 * b)) else none

/-- Outer coordinate of VLD and VST: c_1 of a row, c_2 of a panel (R182). -/
def beatOuter (d : Desc) (o : Nat) : Option Nat :=
  if isPanel d then (match outerOff d 2 [(o : Int)] with | some x => some (addrAt d x) | none => none) else rowAt d o

/-- One beat read (R61, R62). -/
def readBeat (s : State) (who : Who) (d : Desc) (pos : Option (Nat × Nat)) : State × Bits × Bool :=
  match pos with
  | none => (s, BitVec.ofNat 2048 (fillBits d), false)
  | some (a, n) =>
    let r := readRun s who (8 * a) (8 * n) (fillBits d)
    (r.1, BitVec.ofNat 2048 (r.2.1 + fillBits d / 2 ^ (8 * n) * 2 ^ (8 * n)), r.2.2)

/-- Elements of a beat that a write drops when every one is out of bounds: those of the row's own columns, or all of a
beat beyond it, but no lane at or beyond a panel's size (R61, R62, R79). -/
def beatDropped (d : Desc) (b : Nat) : Nat :=
  if isPanel d then
    laneBytes d b * 8 / tdWidth d
  else
    let n := tdSize d 0
    if b * beatElems d < n then min (beatElems d) (n - b * beatElems d) else beatElems d

/-- The word writes of one beat, and the elements it drops. -/
def writeBeat (d : Desc) (pos : Option (Nat × Nat)) (b : Nat) (x : Bits) : List WordWr × Nat :=
  match pos with
  | none => ([], beatDropped d b)
  | some (a, n) => (runWrites (8 * a) (8 * n) x.toNat, 0)

/-- Beats of one row or panel. -/
def beatsPerRow (d : Desc) : Nat :=
  if isPanel d then panelBeats d else ceilDiv (tdSize d 0 * tdWidth d) 2048

/-- Position of the i-th beat in row-major beat order (R198): outer address and beat. -/
def beatSeq (d : Desc) (i : Nat) : Option Nat × Nat :=
  let n := beatsPerRow d
  (if isPanel d then panelOf d (i / n) else rowOf d (i / n), i % n)

end Sys2Proof.Machine
end

