-- ==== Sys2Proof/Machine/Queues.lean ====
section
/-! DEFINITION. Block lists of the cores, the load queue and its fetch engine, the store queue and its path (R83 to R90,
R202 to R213). -/

namespace Sys2Proof.Machine

/-! ### The block list memory (R202, R203) -/

/-- Entry `i` of the block list memory (R202). -/
def listEntry (s : State) (i : Nat) : BitVec 256 := look 0 s.mov.mem (i % 8192)

/-- Reading an entry: a corrected error is counted, an uncorrectable one is a failure (R203). -/
def readEntry (s : State) (i : Nat) : State × Option (BitVec 256) :=
  let k : Fin 8192 := ⟨i % 8192, by omega⟩
  if s.hwf.contains (.listUe k) then (s, none)
  else if s.hwf.contains (.listCe k) then
    ({ s with mov := { s.mov with listCe := sat32 s.mov.listCe 1 } }, some (listEntry s i))
  else (s, some (listEntry s i))

/-- Beats of one row of z bytes. -/
def rowBeats (d : Desc) : Nat := ceilDiv (tdSize d 0 * tdWidth d) 2048

/-- Beats, or store-list positions, a core's block takes (R212). -/
def blockBeats (e : BitVec 256) (d : Desc) : Nat :=
  if bKind e = 0 then ceilDiv (bLen e) 256 else bCount e * rowBeats d

/-- The checks of a core's block at its start (Table 9-3, R108). -/
def coreBlockCheck (e : BitVec 256) (d : Desc) (load : Bool) : Option Err :=
  if bKind e = 0 then
    if !load && bDspace e = 3 then none
    else
      let a := if load then bSaddr e else bDaddr e
      if a % 64 ≠ 0 then some .tdAlign
      else if !inWindow (a : Int) ((a : Int) + bLen e - 1) then some .tdRange else none
  else
    match checkTd d false isLocal with
    | some x => some x
    | none => if tdLayout d = lRow then none else some .blockForm

/-! ### The load list and the load queue (R83 to R86, R210, R212) -/

/-- The descriptor a core's block uses. -/
def blockDesc (x : Core) (e : BitVec 256) (load : Bool) : Desc := x.d[if load then bSdesc e else bDdesc e]

/-- Beats the load list has still to fetch (R85). -/
def loadLeft (s : State) (c : CoreId) : Nat :=
  let x := s.cores[c]
  match x.loadList with
  | none => 0
  | some l =>
    if x.lqDone then 0
    else ((span x.fetch.block (l.count - x.fetch.block)).map
      (fun i => let e := listEntry s (l.first + i); blockBeats e (blockDesc x e true))).sum - x.fetch.beat

/-- Beats available to an instruction: in the queue, and still to fetch (R85). -/
def lqAvail (s : State) (c : CoreId) : Nat := s.cores[c].lq.length + loadLeft s c

/-- `n` free values of 64 bits as one number. -/
def drawBits : Nat → State → State × Nat
  | 0, s => (s, 0)
  | n + 1, s => let a := drawFree s; let r := drawBits n a.1; (r.1, a.2.toNat + 2 ^ 64 * r.2)

/-- Which of the `n` bytes' words from `a` on belong to the other partition (R24). -/
def foreignWords (s : State) (p : Part) (a n : Nat) : BitVec 4 :=
  BitVec.ofNat 4 (((upto 4).map (fun j => if 64 * j < n ∧ crosses s p (addrPart s (a + 64 * j)) then 2 ^ j else 0)).sum)

/-- What a COPY block reads in the place of words of the other partition: it names no fill value, so free values (R24,
log 22). -/
def copyFill (s : State) (p : Part) (a n : Nat) : State × Nat :=
  if foreignWords s p a n = 0 then (s, 0) else drawBits 8 s

/-- Beat `j` of a load block, with `d` its descriptor, read by `who` (R212). -/
def loadBeat (s : State) (c : CoreId) (who : Who) (e : BitVec 256) (d : Desc) (j : Nat) : State × Bits × Bool :=
  if bKind e = 0 then
    let n := min 256 (bLen e - 256 * j)
    let f := copyFill s (corePart c) (bSaddr e + 256 * j) n
    let r := readRun f.1 who (8 * (bSaddr e + 256 * j)) (8 * n) f.2
    (r.1, BitVec.ofNat 2048 r.2.1, r.2.2)
  else
    readBeat s who d (beatAt d (rowOf d (bFirst e + j / rowBeats d)) (j % rowBeats d))

/-- Bytes of a whole load block (R210). -/
def loadBytes (e : BitVec 256) (d : Desc) : Nat :=
  if bKind e = 0 then bLen e else bCount e * (tdSize d 0 * tdWidth d / 8)

/-- The position after `n` more beats of a block of `total` beats. -/
def stepPos (p : StreamPos) (n total : Nat) : StreamPos :=
  if p.beat + n < total then { p with beat := p.beat + n } else { block := p.block + 1, beat := 0 }

/-- The counter holds a credit that a block may take: it has reached the taken count + 1, and carries no poison (R214). -/
def creditOk (x : Counter) : Bool := !x.psn && reached x.val (x.taken + 1)

/-- The credit of the block that starts, taken (R214). -/
def takeCredit (s : State) (e : BitVec 256) : State :=
  if bCredEn e then setCtr s (bCredCtr e) { ctrOf s (bCredCtr e) with taken := (ctrOf s (bCredCtr e)).taken + 1 } else s

/-- Whether a block of partition `p` that starts has its credit; the counter's parity is checked, and one of the other partition
gives none and is logged (R24, R214, R289). -/
def askCredit (s : State) (p : Part) (loc : Nat) (e : BitVec 256) : State × Bool :=
  if !bCredEn e then (s, true)
  else if crosses s p (ctrPart s (bCredCtr e)) then (logRun s .partCross loc 0, false)
  else let s := checkParity s (bCredCtr e); (s, creditOk (ctrOf s (bCredCtr e)))

/-- The fetch engine may go on: at the start of a block that asks for a credit, the counter holds one (R214). -/
def loadCredit (s : State) (c : CoreId) : State × Bool :=
  match s.cores[c].loadList with
  | none => (s, true)
  | some l =>
    if s.cores[c].fetch.beat ≠ 0 then (s, true)
    else askCredit s (corePart c) (locCore c) (listEntry s (l.first + s.cores[c].fetch.block))

/-- Starting the block at the load position: list check bits, the checks of Table 9-3, and its credit. Answers the entry
and its descriptor, or none after the contained error it raises. Later beats of the block read the entry no more. -/
def startLoad (s : State) (c : CoreId) (l : ListRef) : State × Option (BitVec 256 × Desc) :=
  let x := s.cores[c]
  if x.fetch.beat = 0 then
    match readEntry s (l.first + x.fetch.block) with
    | (s, none) => (failCore s c .listUe 0, none)
    | (s, some e) =>
      match coreBlockCheck e (blockDesc x e true) true with
      | some err => (failCore s c err 0, none)
      | none =>
        (modCore (takeCredit s e) c (fun k => { k with loadDesc := some (blockDesc x e true), ldPsn := false }),
          some (e, blockDesc x e true))
  else
    let e := listEntry s (l.first + x.fetch.block)
    (s, some (e, match x.loadDesc with | some d => d | none => blockDesc x e true))

/-- One beat, the `k`-th of its transfer, fetched into the load queue; none when its block failed a check. -/
def fetchBeat (s : State) (c : CoreId) (k : Nat) : Option State × State :=
  let x := s.cores[c]
  match x.loadList with
  | none => (none, s)
  | some l =>
    match startLoad s c l with
    | (s, none) => (none, s)
    | (s, some (e, d)) =>
      let total := blockBeats e d
      let pos := s.cores[c].fetch
      let r := loadBeat s c ((whoFetch c).at k) e d pos.beat
      let s := r.1
      let psn := s.cores[c].ldPsn || r.2.2
      let last := decide (pos.beat + 1 = total)
      let inc : Option IncOp :=
        if last ∧ bInc e ≠ 0 then
          some { ctr := bIncCtr e, amt := if bInc e = 1 then 1 else BitVec.ofNat 32 (loadBytes e d), psn := psn }
        else none
      let s := modCore s c (fun k =>
        let p := stepPos pos 1 total
        { k with lq := k.lq ++ [{ data := r.2.1, psn := r.2.2, inc := inc, pos := pos, before := s.cores[c].ldPsn }], fetch := p, ldPsn := psn
                 loadDesc := if p.beat = 0 then none else k.loadDesc
                 lqDone := decide (l.count ≤ p.block) })
      (some s, s)

/-- The front of the load queue taken, and the increment its block makes (R210). -/
def popLq (s : State) (c : CoreId) : State × Bits × Bool :=
  match s.cores[c].lq with
  | [] => (s, 0, false)
  | b :: r =>
    let s := modCore s c (fun k => { k with lq := r })
    let s := match b.inc with
      | some i => incCtrBy s (corePart c) (locCore c) i.ctr i.amt i.psn
      | none => s
    (s, b.data, b.psn)

/-- `n` beats fetched one after another, from beat `k` of their transfer; nothing follows a contained error. -/
def fetchFrom (c : CoreId) : Nat → Nat → State → State
  | 0, _, s => s
  | n + 1, k, s =>
    match fetchBeat s c k with
    | (none, s) => s
    | (some s, _) => fetchFrom c n (k + 1) s

/-- A transfer of `n` beats: one burst (R299). -/
def fetchBeats (c : CoreId) (n : Nat) (s : State) : State := fetchFrom c n 0 s

/-! ### The store list and the store queue (R89, R90, R212, R246) -/

/-- Positions the store list has left (R89). -/
def storeLeft (s : State) (c : CoreId) : Nat :=
  let x := s.cores[c]
  match x.storeList with
  | none => 0
  | some l => ((span x.storePos.block (l.count - x.storePos.block)).map
      (fun i => let e := listEntry s (l.first + i); blockBeats e (blockDesc x e false))).sum - x.storePos.beat

/-- The entry for beat `x` at position `j` of a store block, with `d` its descriptor. -/
def storeEntry (e : BitVec 256) (d : Desc) (j feedPos : Nat) (x : Bits) (psn : Bool) (last : Bool) : SqEntry :=
  let tag : Option BlkTag := some { inc := bInc e, ctr := bIncCtr e, last := last }
  if bKind e = 0 then
    let n := min 256 (bLen e - 256 * j)
    if bDspace e = 3 then
      { dst := .feeder (bitOf e 84) feedPos x, psn := psn, nbytes := n, blk := tag }
    else { dst := .mem (runWrites (8 * (bDaddr e + 256 * j)) (8 * n) x.toNat), psn := psn, blk := tag }
  else
    let w := writeBeat d (beatAt d (rowOf d (bFirst e + j / rowBeats d)) (j % rowBeats d)) (j % rowBeats d) x
    { dst := .mem w.1, psn := psn, drop := w.2, ew := tdWidth d, blk := tag }

/-- The entry at the store position and its descriptor. The block's start reads the entry with its check bits and makes
the checks of Table 9-3; none after the contained error of one that fails. -/
def startStore (s : State) (c : CoreId) (l : ListRef) : State × Option (BitVec 256 × Desc) :=
  let k := s.cores[c]
  if k.storePos.beat = 0 then
    match readEntry s (l.first + k.storePos.block) with
    | (s, none) => (failCore s c .listUe 0, none)
    | (s, some e) =>
      match coreBlockCheck e (blockDesc k e false) false with
      | some err => (failCore s c err 0, none)
      | none => (takeCredit s e, some (e, blockDesc k e false))
  else
    let e := listEntry s (l.first + k.storePos.block)
    (s, some (e, match k.storeDesc with | some d => d | none => blockDesc k e false))

/-- A beat pushed at the next position of the store list. The contained error of a block that fails a check ends it. -/
def pushList (s : State) (c : CoreId) (x : Bits) (psn : Bool) : State :=
  match s.cores[c].storeList with
  | none => s
  | some l =>
    match startStore s c l with
    | (s, none) => s
    | (s, some (e, d)) =>
      let k := s.cores[c]
      let total := blockBeats e d
      let p := stepPos k.storePos 1 total
      let ent := storeEntry e d k.storePos.beat k.feedPos x psn (decide (k.storePos.beat + 1 = total))
      modCore s c (fun k => { k with sq := k.sq ++ [ent], storePos := p, feedPos := k.feedPos + 1
                                     storeDesc := if p.beat = 0 then none else some d })

/-- An entry with its own address pushed (R89). -/
def pushOwn (s : State) (c : CoreId) (e : SqEntry) : State := modCore s c (fun k => { k with sq := k.sq ++ [e] })

/-- One beat pushed. -/
def pushBeat (s : State) (c : CoreId) : SqPush → State
  | .list x psn => pushList s c x psn
  | .own e => pushOwn s c e

/-- A store block that starts at the store position has its credit (R214). -/
def storeCredit (s : State) (c : CoreId) : State × Bool :=
  match s.cores[c].storeList with
  | none => (s, true)
  | some l =>
    if s.cores[c].storePos.beat ≠ 0 then (s, true)
    else askCredit s (corePart c) (locCore c) (listEntry s (l.first + s.cores[c].storePos.block))

/-- Beats pushed one after another while the store queue has room and their blocks have their credits: those that still
wait (R89). Nothing follows a contained error. -/
def pushSome (c : CoreId) : List SqPush → State → State × List SqPush
  | [], s => (s, [])
  | p :: r, s =>
    if s.cores[c].errDue then (s, p :: r)
    else if 16 ≤ s.cores[c].sq.length then (s, p :: r)
    else match p with
      | .list _ _ => let q := storeCredit s c; if q.2 then pushSome c r (pushBeat q.1 c p) else (q.1, p :: r)
      | .own _ => pushSome c r (pushBeat s c p)

/-- A full store queue: the push waits and the cycle is counted (R89). -/
def sqFull (s : State) (c : CoreId) : Bool := decide (16 ≤ s.cores[c].sq.length)
/-- One cycle of that wait. -/
def stallSq (s : State) (c : CoreId) : State :=
  waitFor (modCore s c (fun k => { k with sqStall := sat32 k.sqStall 1 })) (.core c) .sq
/-- One cycle of waiting for the load queue (R85). -/
def stallLq (s : State) (c : CoreId) : State :=
  waitFor (modCore s c (fun k => { k with lqStall := sat32 k.lqStall 1 })) (.core c) .lq

/-- What an accepted store-queue entry does to its block: bytes and poison add up, and the last one makes the block's
increment (R210, R287). -/
def blockDone (s : State) (c : CoreId) (t : Option BlkTag) (bytes : Nat) (psn : Bool) : State :=
  match t with
  | none => s
  | some b =>
    let x := s.cores[c]
    let n := x.stBytes + bytes
    let p := x.stPsn || psn
    if b.last then
      let s := modCore s c (fun k => { k with stBytes := 0, stPsn := false })
      if b.inc = 0 then s
      else incCtrBy s (corePart c) (locCore c) b.ctr (if b.inc = 1 then 1 else BitVec.ofNat 32 n) p
    else modCore s c (fun k => { k with stBytes := n, stPsn := p })

/-- Feeder port of an attachment. -/
def portFifo (s : State) (a : EaId) (portB : Bool) : OpPort := if portB then s.eif[a].portB else s.eif[a].portA
/-- A feeder port changed. -/
def modFeed (s : State) (a : EaId) (portB : Bool) (f : OpPort → OpPort) : State :=
  modEa s a (fun x => if portB then { x with portB := f x.portB } else { x with portA := f x.portA })

/-- The attachment a core feeds (R242). -/
def eaOf (c : CoreId) : EaId := ⟨c.val / 8, by omega⟩

/-- The store path removes the oldest entry when its target accepts it (R89, R293); a full feeder holds it (R246). -/
def drainSq (s : State) (c : CoreId) : State :=
  match s.cores[c].sq with
  | [] => s
  | e :: r =>
    match e.dst with
    | .mem ws =>
      let s := modCore s c (fun k => { k with sq := r, wrPsn := k.wrPsn || e.psn })
      match writeWords s (whoStore c) ws e.psn with
      | (s, w) =>
        let s := countOob s c (e.drop + w.crossed * 8 / e.ew)
        if w.off then fenceCore s c
        else progress (blockDone s c e.blk w.bytes e.psn) (.core c)
    | .feeder b pos x =>
      if 16 ≤ (portFifo s (eaOf c) b).fifo.length then
        modCore s c (fun k => { k with sqStall := sat32 k.sqStall 1 })
      else
        let s := modCore s c (fun k => { k with sq := r, wrPsn := k.wrPsn || e.psn })
        let s := presentAt s ⟨11 + (eaOf c).val, by omega⟩ (whoStore c).master (corePart c) (if b then 2 else 1)
        let s := modFeed s (eaOf c) b (fun p => { p with fifo := p.fifo ++ [{ core := c, pos := pos, data := x, psn := e.psn }] })
        progress (blockDone s c e.blk e.nbytes e.psn) (.core c)

end Sys2Proof.Machine
end

