-- ==== Sys2Proof/Machine/Control.lean ====
section
/-! DEFINITION. Control and synchronisation instructions of a core: NOP, HALT, FWAIT, LYEND, LOOP, ENDL, WCNT, SIG
(R90 to R93, R179 to R181, R191, R192). -/

namespace Sys2Proof.Machine

/-- What every meaning answers (R87: a step that is not enabled changes nothing, log 10). -/
abbrev Res := Host.Outcome State Fault Refusal

/-- A remote stream serves core `c` (Table 13-1). -/
def coreStream (x : Stream) (c : CoreId) : Bool :=
  bitOf x.entry 0 && fldN x.entry 1 2 = 0 && fldN x.entry 3 5 = c.val

/-- The synchronisation unit still holds an RWT, RRD or RINC whose flits wait for admission (Table 8-4). -/
def syncBusy (s : State) (c : CoreId) : Bool := s.rmt.streams.toList.any (fun x => coreStream x c && !x.wait.isEmpty)

/-- Every earlier instruction of the core has completed (R90). -/
def allDone (s : State) (c : CoreId) : Bool := s.cores[c].prog.isEmpty

/-- No earlier instruction in progress has a memory write to make: none pushes to the store queue, and no scatter runs
or waits (R181, R192). -/
def writesDone (s : State) (c : CoreId) : Bool :=
  s.cores[c].prog.all (fun p => !p.needs.pushes && match p.cmd with | .sct .. => false | _ => true)

/-- NOP takes an issue cycle (R179). -/
def execNop (c : CoreId) (s : State) : Res := .next (issueNext s c {} id)

/-- HALT, once every earlier instruction has completed and the store queue is empty: the item completes, the load queue
is discarded, the fetch engine stops and the loop stack empties (R37, R90, R92). `LQ_DONE` becomes 1 even where the load list has
not ended, of which the spec says nothing (DESIGN CHOICE, log 83). -/
def haltCore (x : Core) : Core :=
  { x with st := .idle, lq := [], lqDone := true, loops := [], ag := { x.ag with run := none } }

/-- HALT (R90). -/
def execHalt (c : CoreId) (s : State) : Res :=
  .next (issue s c syncNeeds (fun s =>
    if allDone s c && s.cores[c].sq.isEmpty && !syncBusy s c then modCore (progress s (.core c)) c haltCore else s))

/-- FWAIT issues at cycle `f` of its item's frame, or at once when that cycle or that frame has passed (R180). -/
def execFwait (c : CoreId) (f : BitVec 24) (s : State) : Res :=
  .next (issue s c syncNeeds (fun s =>
    if syncBusy s c then s
    else if s.cores[c].ag.run = some s.fr.ctr ∧ s.fr.cyc < f.toNat then s else retire s c 1))

/-- LYEND, once every memory write and every remote operation of earlier instructions is accepted, ends the load list
(R181). It waits behind an instruction that still takes beats (log 10). -/
def execLyend (c : CoreId) (s : State) : Res :=
  .next (issue s c { units := [.sync], takes := true } (fun s =>
    if writesDone s c && s.cores[c].sq.isEmpty && !syncBusy s c then
      retire (modCore s c (fun x => { x with lq := [], lqDone := true })) c 1
    else s))

/-- Number of the ENDL that matches a LOOP, scanning `n` words from `i` at depth `k` (R93). -/
def matchEndl (m : List (Nat × BitVec 64)) : Nat → Nat → Nat → Nat
  | 0, i, _ => i
  | n + 1, i, k =>
    let op := fldN (look 0 m i) 56 8
    if op = 4 then matchEndl m n (i + 1) (k + 1)
    else if op = 5 then (if k = 0 then i else matchEndl m n (i + 1) (k - 1))
    else matchEndl m n (i + 1) k

/-- LOOP enters a loop of `IMM` + 1 iterations; at most four nest (R92, R93). -/
def execLoop (c : CoreId) (countM1 : BitVec 24) (s : State) : Res :=
  .next (issue s c {} (fun s =>
    let x := s.cores[c]
    if x.loops.length < 4 then
      let e : LoopEnt := { start := x.pc + 1, stop := matchEndl x.imem (2047 - x.pc) (x.pc + 1) 0, left := countM1.toNat }
      retire (modCore s c (fun k => { k with loops := e :: k.loops })) c 1
    else s))

/-- ENDL goes back to the first body instruction while iterations are left, and leaves the loop after the last (R92). -/
def execEndl (c : CoreId) (s : State) : Res :=
  .next (issue s c {} (fun s =>
    match s.cores[c].loops with
    | [] => s
    | e :: r =>
      if e.left = 0 then retire (modCore s c (fun k => { k with loops := r })) c 1
      else progress (modCore s c (fun k => { k with loops := { e with left := e.left - 1 } :: r, pc := e.start })) (.core c)))

/-- WCNT waits until the counter has reached s_a; a poisoned counter fails the core at once (R191). -/
def execWcnt (c : CoreId) (adv : Bool) (sa : SReg) (ctr : Ctr) (step : BitVec 14) (s : State) : Res :=
  .next (issue s c syncNeeds (fun s =>
    if syncBusy s c then s
    else
      let s := checkParity s ctr
      let t := s.cores[c].s[sa]
      if (ctrOf s ctr).psn then failCore s c .poisonConsumed 0
      else if reached (ctrOf s ctr).val t then
        retire (if adv then modCore s c (fun k => { k with s := k.s.set sa.val (t + step.setWidth 32) }) else s) c 1
      else waitFor (modCore s c (fun k => { k with wcntStall := sat32 k.wcntStall 1 })) (.core c) (.ctr ctr t)))

/-- SIG, once every earlier write of the core is accepted, increments a local counter by `IMM` + 1; it carries the
poison of the writes it covers (R109, R192). -/
def execSig (c : CoreId) (ctr : Ctr) (amtM1 : BitVec 14) (s : State) : Res :=
  .next (issue s c syncNeeds (fun s =>
    if writesDone s c && s.cores[c].sq.isEmpty && !syncBusy s c then
      retire (incCtrBy s (corePart c) (locCore c) ctr (BitVec.ofNat 32 (amtM1.toNat + 1)) s.cores[c].wrPsn) c 1
    else s))

end Sys2Proof.Machine
end

