-- ==== Sys2Proof/Machine/Move.lean ====
section
/-! DEFINITION. Vector moves of a core: VLD, VST, VMOV, VBC, VSEL, VLQ, VSQ, VREL (R97, R182 to R186). -/

namespace Sys2Proof.Machine

/-- An instruction whose descriptor checks come first: a failing one is a contained error of the core, and otherwise `f`
runs (R58, R100). -/
def withChecks (s : State) (c : CoreId) (e : Option Err) (detail : Nat) (f : State → State) : State :=
  match e with
  | some x => failCore s c x (if x = .shapeMismatch then s.cores[c].pc else detail)
  | none => f s

/-- VLD reads beat `b` at outer coordinate `o` into v_d (R182). -/
def execVld (c : CoreId) (adv : Bool) (vd : VReg) (d : DReg) (b o : BitVec 12) (s : State) : Res :=
  .next (issue s c { units := [.load], writes := [vd] } (fun s =>
    let t := s.cores[c].d[d]
    withChecks s c (checkTd t false beatOk) 0 (fun s =>
      let r := readBeat s (whoFetch c) t (beatAt t (beatOuter t o.toNat) b.toNat)
      retire (advance (writeV r.1 c vd r.2.1 r.2.2) c adv d) c 1)))

/-- VST pushes v_a with the address of beat `b` at outer coordinate `o` (R89, R182). -/
def execVst (c : CoreId) (adv : Bool) (d : DReg) (va : VReg) (b o : BitVec 12) (s : State) : Res :=
  .next (issue s c { units := [.store], reads := [va], pushes := true } (fun s =>
    let t := s.cores[c].d[d]
    withChecks s c (checkTd t false beatOk) 0 (fun s =>
      if sqFull s c then stallSq s c
      else
        let x := readV s c va
        let w := writeBeat t (beatAt t (beatOuter t o.toNat) b.toNat) b.toNat x.1
        retire (advance (pushOwn s c { dst := .mem w.1, psn := x.2, drop := w.2, ew := tdWidth t }) c adv d) c 1)))

/-- VMOV copies v_a to v_d (R183). -/
def execVmov (c : CoreId) (vd va : VReg) (s : State) : Res :=
  .next (issueNext s c { units := [.move], reads := [va], writes := [vd] } (fun s => let x := readV s c va; writeV s c vd x.1 x.2))

/-- The element VBC copies: an immediate, the upper half of a 32-bit one when e = 5, or element `u` of v_a (R184). -/
def vbcElem (s : State) (c : CoreId) (e : Nat) : VbcSrc → Nat × Bool
  | .imm x => (if e ≤ 4 then x.toNat % 2 ^ 2 ^ e else x.toNat * 2 ^ 16, false)
  | .elem va u => let r := readV s c va; (elemAt (2 ^ e) r.1 u.toNat, r.2)

/-- The register VBC reads. -/
def vbcReads : VbcSrc → List VReg
  | .imm _ => []
  | .elem va _ => [va]

/-- VBC fills v_d with one element of width 2^e (R184). -/
def execVbc (c : CoreId) (e : Fin 6) (vd : VReg) (src : VbcSrc) (s : State) : Res :=
  .next (issueNext s c { units := [.move], reads := vbcReads src, writes := [vd] } (fun s =>
    let x := vbcElem s c e.val src
    writeV s c vd (BitVec.ofNat 2048 (repeatElem (2 ^ e.val) x.1 (2 ^ (11 - e.val)))) x.2))

/-- The bits of element `u` for every set bit u of a mask (R185). -/
def maskBits (e : Nat) (m : Bits) : Bits :=
  BitVec.ofNat 2048 (ofElems (2 ^ e) ((upto (2 ^ (11 - e))).map (fun u => if bitOf m u then 2 ^ 2 ^ e - 1 else 0)))

/-- VSEL takes element u from v_b where bit u of v_m is set, and from v_a elsewhere (R185). -/
def execVsel (c : CoreId) (e : Fin 6) (vd va vb vm : VReg) (s : State) : Res :=
  .next (issueNext s c { units := [.move], reads := [va, vb, vm], writes := [vd] } (fun s =>
    let a := readV s c va
    let b := readV s c vb
    let m := readV s c vm
    let k := maskBits e.val m.1
    writeV s c vd ((b.1 &&& k) ||| (a.1 &&& ~~~k)) (a.2 || b.2 || m.2)))

/-- VLQ takes one beat from the load queue into v_d (R85, R183). -/
def execVlq (c : CoreId) (vd : VReg) (s : State) : Res :=
  .next (issue s c { units := [.load], writes := [vd], takes := true } (fun s =>
    if lqAvail s c = 0 then failCore s c .lqUnderrun 0
    else if s.cores[c].lq.isEmpty then stallLq s c
    else let r := popLq s c; retire (writeV r.1 c vd r.2.1 r.2.2) c 1))

/-- VSQ pushes v_a at the next position of the store list (R89, R183). -/
def execVsq (c : CoreId) (va : VReg) (s : State) : Res :=
  .next (issue s c { units := [.store], reads := [va], pushes := true } (fun s =>
    if storeLeft s c = 0 then failCore s c .sqOverrun 0
    else if sqFull s c || !(storeCredit s c).2 then stallSq (storeCredit s c).1 c
    else
      let x := readV s c va
      let s := pushList s c x.1 x.2
      if s.cores[c].errDue then s else retire s c 1))

/-- Registers of a VREL mask. -/
def maskRegs (mask : Word) : List VReg := (List.finRange 32).filter (fun v => bitOf mask v.val)

/-- VREL sets the empty mark of every register of its mask and invalidates a latch that holds one (R95, R97, R186). -/
def execVrel (c : CoreId) (mask : Word) (s : State) : Res :=
  .next (issueNext s c { units := [.move], writes := maskRegs mask } (fun s => modCore s c (fun k => { k with
    v := k.v.mapIdx (fun i r => if bitOf mask i then {} else r)
    latch := match k.latch with | some v => if bitOf mask v.val then none else some v | none => none })))

end Sys2Proof.Machine
end

