-- ==== Sys2Proof/Machine/Trivet.lean ====
section
/-! DEFINITION. Trivets, and what TWR, TRD and TREL do to them (chapter 6, R98 to R100, R187). -/

namespace Sys2Proof.Machine

/-- Element width of a class (Table 6-1). -/
def clsWidth : TClass → Nat
  | .w1 => 1 | .w8 => 8 | .w16 => 16 | .w32 => 32

/-- Trivet class of a descriptor's elements (Table 3-4). -/
def tdClass (d : Desc) : TClass :=
  let f := tdFmt d
  if f ≤ 1 then .w32
  else if f = 2 then (if tdLayout d = lPln then .w1 else .w16)
  else if f ≤ 4 then .w16
  else if f ≤ 11 then .w8
  else .w1

/-- An empty Trivet of a class. -/
def emptyTrivet (c : TClass) : Trivet := { cls := c }

/-- Beats held (R144). -/
def beatsHeld (t : Trivet) : Nat := ceilDiv (t.cols * (clsWidth t.cls)) 16

/-- Row `r`, zeros when not held. -/
def trivetRow (t : Trivet) (r : Nat) : Bits := if r < t.rows then t.data.getD r 0 else 0

/-- Element (r, c) (R140). -/
def trivetElem (t : Trivet) (r c : Nat) : Nat := if c < t.cols then elemAt (clsWidth t.cls) (trivetRow t r) c else 0

/-- Read beat `j` of the column-major image (R140, R144). -/
def trivetBeat (t : Trivet) (j : Nat) : Bits :=
  let w := (clsWidth t.cls)
  let n := 2048 / w
  BitVec.ofNat 2048 (ofElems w ((upto n).map (fun i => trivetElem t ((j * n + i) % 128) ((j * n + i) / 128))))

/-- Column `c`, row 0 lowest (R145). -/
def trivetColumn (t : Trivet) (c : Nat) : Nat := ofElems (clsWidth t.cls) ((upto t.rows).map (fun r => trivetElem t r c))

/-- The state with Trivet `t` of core `c` replaced. -/
def setTrivet (s : State) (c : CoreId) (t : TrivetId) (x : Trivet) : State :=
  modCore s c (fun k => { k with t := k.t.set t.val x })

/-- Rows written by a TWR, counted (R149). -/
def countRows (s : State) (c : CoreId) (n : Nat) : State :=
  countEv (modCore s c (fun k => { k with trvRow := sat32 k.trvRow n })) .trvRow n

/-- Beats read by a TRD, counted (R149). -/
def countBeats (s : State) (c : CoreId) (n : Nat) : State :=
  countEv (modCore s c (fun k => { k with trvBeat := sat32 k.trvBeat n })) .trvBeat n

/-- A Trivet that holds rows (R99, R141). -/
def putTrivet (s : State) (c : CoreId) (t : TrivetId) (cols : Nat) (rows : List (Bits × Bool)) : State :=
  setTrivet s c t { cls := s.cores[c].t[t].cls, full := true, rows := rows.length, cols := cols, data := rows.map (·.1)
                    psn := rows.any (·.2) }

/-- A Trivet filled with rows in one run, each counted (R149). -/
def fillTrivet (s : State) (c : CoreId) (t : TrivetId) (cols : Nat) (rows : List (Bits × Bool)) : State :=
  countRows (putTrivet s c t cols rows) c rows.length

/-- Rows 0 to n - 1 of the memory form, from row o_1 on (R141). -/
def twrRows (who : Who) (d : Desc) (o0 : Int) (cols : Nat) : Nat → Int → State → State × List (Bits × Bool)
  | 0, _, s => (s, [])
  | n + 1, o1, s =>
    let r := readRowAt s who d o1 o0 cols
    let rest := twrRows who d o0 cols n (o1 + 1) r.1
    (rest.1, (BitVec.ofNat 2048 r.2.1, r.2.2) :: rest.2)

/-- The checks of Table 4-2 for a TWR, after those of its descriptor (R100). -/
def twrShape (s : State) (c : CoreId) (cls : TClass) (n : Nat) (t : TrivetId) (src : TwrSrc) : Bool :=
  let x := s.cores[c].t[t]
  let run := match src with | .regs a => decide (a.val + n ≤ 32) | _ => true
  let dcls := match src with | .mem d _ _ => decide (tdClass s.cores[c].d[d] = x.cls) | _ => true
  run && decide (cls = x.cls) && dcls && !x.full

/-- The store-queue entries of one column: one for each 256 B or part of it, so that a W32 column of at most 64 rows takes
one. The rule also says that a W32 column takes two, which its first sentence gives only beyond 64 rows (DESIGN CHOICE, log
83; R145). -/
def columnEntries (t : Trivet) (d : Desc) (o0 o1 : Int) (c : Nat) : List SqEntry :=
  let w := (clsWidth t.cls)
  let per := 2048 / w
  (upto (max 1 (ceilDiv (t.rows * w) 2048))).map (fun i =>
    let n := min per (t.rows - i * per)
    let x := writeRowAt d o1 (o0 + ((i * per : Nat) : Int)) n (trivetColumn t c / 2 ^ (2048 * i) % 2 ^ (n * w))
    { dst := .mem x.1, psn := t.psn, drop := x.2, ew := max 1 (tdWidth d) })

/-- The checks of Table 4-2 for a TRD, after those of its descriptor (R100, R144, R145). -/
def trdShape (s : State) (c : CoreId) (cls : TClass) (t : TrivetId) (start m : Nat) (dst : TrdDst) : Bool :=
  let x := s.cores[c].t[t]
  let run := match dst with | .regs a => decide (a.val + m ≤ 32) | _ => true
  let dcls := match dst with | .mem d _ => decide (tdClass s.cores[c].d[d] = x.cls) | _ => true
  let room := match dst with | .mem _ _ => decide (start + m ≤ x.cols) | _ => decide (start + m ≤ beatsHeld x)
  run && decide (cls = x.cls) && dcls && x.full && room

/-- A releasing TRD marks its Trivet empty; the class stays (R99, R146). -/
def releaseTrivet (s : State) (c : CoreId) (t : TrivetId) (rel : Bool) : State :=
  if rel then setTrivet s c t (emptyTrivet s.cores[c].t[t].cls) else s

/-- Registers written one after another. -/
def writeRun (s : State) (c : CoreId) (a : VReg) (xs : List (Bits × Bool)) : State :=
  (xs.zipIdx).foldl (fun s p => writeV s c (vPlus a p.2) p.1.1 p.1.2) s

/-- TREL marks a Trivet empty and, when it names one, sets its class (R98). -/
def execTrel (c : CoreId) (t : TrivetId) (cls : Option TClass) (s : State) : Res :=
  .next (issueNext s c { units := [.trvWrite], trivets := [t] } (fun s =>
    setTrivet s c t (emptyTrivet (match cls with | some k => k | none => s.cores[c].t[t].cls))))

end Sys2Proof.Machine
end

