-- ==== Sys2Proof/Machine/Network.lean ====
section
/-! DEFINITION. The permutation network and gang mode: routes, maps, PRM, PRMG (chapter 5, R94 to R96). -/

namespace Sys2Proof.Machine

/-! ### A pass over a route word (R112, R113, R119) -/

/-- Exchange bit of a stage (R113). -/
def exchangeBit (st : Nat) : Nat := if st ≤ 10 then 10 - st else st - 10

/-- First line of switch `j` of a stage with exchange bit `l` (R113). -/
def switchLine (l j : Nat) : Nat := j % 2 ^ l + 2 * 2 ^ l * (j / 2 ^ l)

/-- The first lines of the crossed switches of a stage, as a mask (R113, R119). -/
def stageMask (l : Nat) (sw : Nat) : Nat :=
  (upto 1024).foldl (fun a j => if sw.testBit j then a + 2 ^ switchLine l j else a) 0

/-- One stage: the two lines of a crossed switch exchange their bits (R113). -/
def runStage (r : BitVec 21504) (x : Bits) (st : Nat) : Bits :=
  let l := exchangeBit st
  let m := BitVec.ofNat 2048 (stageMask l (fldN r (1024 * st) 1024))
  let t := (x ^^^ (x >>> 2 ^ l)) &&& m
  x ^^^ t ^^^ (t <<< 2 ^ l)

/-- A pass over a stored route: 21 stages in order (R113, R119). -/
def runRoute (r : BitVec 21504) (x : Bits) : Bits := (upto 21).foldl (runStage r) x

/-! ### Map descriptors (R123 to R125) -/

/-- A map: n address bits, rows of M as numbers, complement. -/
structure Affine where
  n : Nat
  rows : List Nat
  comp : Nat
  deriving DecidableEq, Repr

/-- Fields of Table 5-6. -/
def affineOf (d : Desc) : Affine :=
  let n := fldN d 0 4
  { n := n, rows := (upto n).map (fun i => fldN d (32 + 16 * i) 16), comp := fldN d 8 13 }

/-- Number of set bits. -/
def popcount (w x : Nat) : Nat := ((upto w).filter (fun i => x.testBit i)).length

/-- Parity of the set bits of a 13-bit value. -/
def parity (x : Nat) : Nat := popcount 13 x % 2

/-- The source address of output element `y`: M·y xor c (R123). -/
def affineSrc (a : Affine) (y : Nat) : Nat :=
  a.comp ^^^ ((a.rows.zipIdx).foldl (fun x p => x + parity (p.1 &&& y) * 2 ^ p.2) 0)

/-- A row reduced by an elimination basis. -/
def gfReduce (basis : List Nat) (r : Nat) : Nat := basis.foldl (fun x b => min x (x ^^^ b)) r

/-- The rows are independent over GF(2). -/
def gfIndependent : List Nat → List Nat → Bool
  | _, [] => true
  | basis, r :: rest => let x := gfReduce basis r; decide (x ≠ 0) && gfIndependent (basis ++ [x]) rest

/-- M is a permutation matrix, so the map is BPC (R125). -/
def isBpc (a : Affine) : Bool := a.rows.all (fun r => popcount 13 r = 1)

/-- The checks of R124, for `n` address bits. -/
def mapOk (d : Desc) (n : Nat) : Bool :=
  let a := affineOf d
  a.n = n && fldN d 4 4 = 0 && fldN d 21 11 = 0 && fldN d 240 272 = 0 && decide (a.comp < 2 ^ n)
    && a.rows.all (fun r => decide (r < 2 ^ n)) && fldN d (32 + 16 * n) (16 * (13 - n)) = 0 && gfIndependent [] a.rows

/-- The permutation of the elements of width `w` of a value by a map: output element y takes element S(y) (R114, R123). -/
def runMap (a : Affine) (w x : Nat) : Nat := ofElems w ((upto (2 ^ a.n)).map (fun y => x / 2 ^ (w * affineSrc a y)))

/-! ### A network use of one core (R118, R121, R135, R136) -/

/-- Kind and width of a slot tag (Table 5-3). -/
def tagKind (t : Byte) : Nat := fldN t 3 2
def tagWidth (t : Byte) : Nat := fldN t 0 3

/-- Route slot `n` of core `c`. -/
def slotOf (s : State) (c : CoreId) (n : Nat) : RouteSlot := look {} s.cores[c].routes n

/-- The route-source checks of R118, then the map checks of R124. -/
def routeCheck (s : State) (c : CoreId) (e : Nat) : RouteSrc → Option Err
  | .slot n =>
    let t := (slotOf s c n.val).tag
    if tagKind t ≠ 1 then some .routeKind else if tagWidth t ≠ e then some .shapeMismatch else none
  | .map d => if mapOk s.cores[c].d[d] (11 - e) then none else some .mapInvalid

/-- Passes a core use makes, the descriptor registers holding `ds` at issue (R125, R127). -/
def routePasses (ds : Vector Desc 16) : RouteSrc → Nat
  | .slot _ => 1
  | .map d => if isBpc (affineOf ds[d]) then 1 else 2

/-- The beat a core use makes of `x`. -/
def routeApply (s : State) (c : CoreId) (e : Nat) (ds : Vector Desc 16) (src : RouteSrc) (x : Bits) : Bits :=
  match src with
  | .slot n => runRoute (slotOf s c n.val).word x
  | .map d => BitVec.ofNat 2048 (runMap (affineOf ds[d]) (2 ^ e) x.toNat)

/-- Detail word of a sum error: program counter, source number, `MAP` (R136). -/
def sumDetail (pc num : Nat) (map : Bool) : Nat := pc % 2048 + num * 2 ^ 16 + b2n map * 2 ^ 22

/-- Source number and `MAP` of a core use. -/
def routeNum : RouteSrc → Nat × Bool
  | .slot n => (n.val, false)
  | .map d => (d.val, true)

/-- The generator's factor cache after a use: a general map is factored (R126). -/
def factorAfter (s : State) (c : CoreId) (ds : Vector Desc 16) (src : RouteSrc) : Option DReg :=
  match src with
  | .slot _ => s.cores[c].factor
  | .map d => if isBpc (affineOf ds[d]) then s.cores[c].factor else some d

/-- `n` passes counted (R138, R407). -/
def countPasses (s : State) (c : CoreId) (n : Nat) : State :=
  countEv (modCore s c (fun k => { k with netPass := sat32 k.netPass n })) .netPass n

/-- The source register of a network use: a latch hit, or an array read that fills the latch (R94 to R96). -/
def netRead (s : State) (c : CoreId) (v : VReg) : State × Bits × Bool :=
  let x := readV s c v
  if s.cores[c].latch = some v then
    (countEv (modCore s c (fun k => { k with latchHit := sat32 k.latchHit 1 })) .latchHit 1, x)
  else
    (countEv (modCore s c (fun k => { k with latch := some v, rfRd := sat32 k.rfRd 1 })) .rfRd 1, x)

/-- Sum of the elements of width 2^e of `w` bits, modulo 2^16 - 1 (R135). -/
def elemSum (e w x : Nat) : Nat := (toElems (2 ^ e) (w / 2 ^ e) x).foldl (· + ·) 0 % 65535

/-- The sum check agrees on input and output of `w` bits: the popcount always, the element sum when e is 3 or more (R135). -/
def sumsAgree (e w x y : Nat) : Bool :=
  decide (popcount w x = popcount w y) && (decide (e < 3) || decide (elemSum e w x = elemSum e w y))

/-- Lines that a latent fault inverts at the output of core `c`'s network (log 12). -/
def badLines (s : State) (c : CoreId) : Bits :=
  s.hwf.foldl (fun m f => match f with
    | .netLine d l => if d = c then m ^^^ BitVec.ofNat 2048 (2 ^ l.val) else m
    | _ => m) 0

/-- Lines that a latent fault inverts at the output of a gang pass, as one value of 8,192 bits (log 12). -/
def badGangLines (s : State) (k : ClusterId) : Nat :=
  s.hwf.foldl (fun m f => match f with | .gangLine d l => if d = k then m ^^^ 2 ^ l.val else m | _ => m) 0

/-- One network use of a core on a beat: route memory is read and corrected, the passes run, the sum check compares input
and output. None after the contained error of R121 or R136, which writes no destination. -/
def netUse (s : State) (c : CoreId) (pc e : Nat) (ds : Vector Desc 16) (src : RouteSrc) (x : Bits) : State × Option Bits :=
  let ue := match src with | .slot n => s.hwf.contains (.routeUe c n) | .map _ => false
  let ce := match src with | .slot n => s.hwf.contains (.routeCe c n) | .map _ => false
  if ue then (failCoreHw s c .routeUe 0, none)
  else
    let s := if ce then modCore s c (fun k => { k with routeCe := sat32 k.routeCe 1 }) else s
    let y := routeApply s c e ds src x ^^^ badLines s c
    let s := modCore (countPasses s c (routePasses ds src)) c (fun k => { k with factor := factorAfter s c ds src })
    if sumsAgree e 2048 x.toNat y.toNat then (s, some y)
    else (failCoreHw s c .netSum (sumDetail pc (routeNum src).1 (routeNum src).2), none)

/-- PRM passes v_a through the core's network into v_d (R114, R118, R187). -/
def execPrm (c : CoreId) (e : Fin 6) (vd va : VReg) (src : RouteSrc) (s : State) : Res :=
  .next (issue s c { units := [.net], reads := [va], writes := [vd] } (fun s =>
    match routeCheck s c e.val src with
    | some x => failCore s c x (if x = .shapeMismatch then s.cores[c].pc else 0)
    | none =>
      let r := netRead s c va
      match netUse r.1 c s.cores[c].pc e.val s.cores[c].d src r.2.1 with
      | (s, none) => s
      | (s, some y) => retire (writeV s c vd y r.2.2) c 1))

/-! ### Gang mode (R128 to R136) -/

/-- The four cores of a cluster, by logical position. -/
def coresOf (k : ClusterId) : List CoreId := [⟨4 * k.val, by omega⟩, ⟨4 * k.val + 1, by omega⟩, ⟨4 * k.val + 2, by omega⟩, ⟨4 * k.val + 3, by omega⟩]

/-- The checks of R118 and R124 on a gang use. -/
def gangCheck (s : State) (c : CoreId) (e : Nat) : GangSrc → Option Err
  | .route g =>
    let a := (slotOf s c (2 * g.val)).tag
    let b := (slotOf s c (2 * g.val + 1)).tag
    if tagKind a ≠ 2 ∨ tagKind b ≠ 3 then some .routeKind
    else if tagWidth a ≠ e ∨ tagWidth b ≠ e then some .shapeMismatch else none
  | .map d => if mapOk s.cores[c].d[d] (13 - e) then none else some .mapInvalid

/-- What the four cores must present alike: source, width, and the contents of a map descriptor (R130). -/
def gangKey (s : State) (c : CoreId) (p : Present) : GangSrc × Nat × Option Desc :=
  (p.src, p.e.val, match p.src with | .route _ => none | .map d => some s.cores[c].d[d])

/-- The presented PRMGs of a cluster, once all four cores present (R130). -/
def gangReady (s : State) (k : ClusterId) : Option (List (CoreId × Present)) :=
  (coresOf k).mapM (fun c => (s.cores[c].present).map (fun p => (c, p)))

/-- Whisk crossbar outputs toward core q': line x comes from the core that byte x names (R129, R133). -/
def whiskOut (w : BitVec 16384) (xs : List Bits) (q' : Nat) : Bits :=
  BitVec.ofNat 2048 (ofElems 1 ((upto 2048).map (fun x =>
    b2n ((xs.getD (fldN w (8 * x + 2 * q') 2) 0).getLsbD x))))

/-- A gang pass over a stored gang route: ingress slots, Whisk, egress slots (R129). -/
def gangRoute (s : State) (k : ClusterId) (g : Nat) (xs : List Bits) : List Bits :=
  let ing := List.zipWith (fun c x => runRoute (slotOf s c (2 * g)).word x) (coresOf k) xs
  let mid := (upto 4).map (whiskOut (look 0 s.cls[k].whisk g) ing)
  List.zipWith (fun c x => runRoute (slotOf s c (2 * g + 1)).word x) (coresOf k) mid

/-- The four beats of a gang as one value, the core at position 0 lowest (R128). -/
def gangValue (xs : List Bits) : Nat := ofElems 2048 (xs.map (·.toNat))

/-- A gang pass over a map of 13 - e bits (R128, R129). -/
def gangMap (a : Affine) (w : Nat) (xs : List Bits) : List Bits :=
  let y := runMap a w (gangValue xs)
  (upto 4).map (fun q => BitVec.ofNat 2048 (y / 2 ^ (2048 * q)))

/-- A gang map is general (R125). -/
def gangGeneral (s : State) (c : CoreId) : GangSrc → Bool
  | .route _ => false
  | .map d => !isBpc (affineOf s.cores[c].d[d])

/-- Check-bit errors of a gang use: those of the slots its cores read, and those of its Whisk slot (R121). -/
def gangSlotUe (s : State) (k : ClusterId) (g : Fin 32) : Option CoreId :=
  (coresOf k).find? (fun c => s.hwf.contains (.routeUe c ⟨2 * g.val, by omega⟩) || s.hwf.contains (.routeUe c ⟨2 * g.val + 1, by omega⟩))

/-- Corrected errors counted (R121). -/
def gangSlotCe (s : State) (k : ClusterId) (g : Fin 32) : State :=
  let s := (coresOf k).foldl (fun s c =>
    let n := b2n (s.hwf.contains (.routeCe c ⟨2 * g.val, by omega⟩)) + b2n (s.hwf.contains (.routeCe c ⟨2 * g.val + 1, by omega⟩))
    modCore s c (fun x => { x with routeCe := sat32 x.routeCe n })) s
  if s.hwf.contains (.whiskCe k g) then modCl s k (fun x => { x with whiskCe := sat32 x.whiskCe 1 }) else s

/-- A cluster whose Whisk fails a hardware check is marked and its repair proposed (R366, R367). -/
def failWhisk (s : State) (k : ClusterId) (e : Err) (detail : Nat) : State :=
  let s := modCl (failCluster s k e detail) k (fun x => { x with whiskFailed := true })
  proposeRow s 2 k.val true

/-- The issue of four presented PRMGs that agree (R128 to R131, R135, R136). Poison of any of the four beats reaches all
four destinations (R376). -/
def gangIssue (s : State) (k : ClusterId) (ps : List (CoreId × Present)) (src : GangSrc) (e : Nat) : State :=
  let c0 : CoreId := ⟨4 * k.val, by omega⟩
  let general := gangGeneral s c0 src
  let a : Affine := match src with | .route _ => { n := 0, rows := [], comp := 0 } | .map d => affineOf s.cores[c0].d[d]
  let rd := ps.foldl (fun acc p => let r := netRead acc.1 p.1 p.2.va; (r.1, acc.2 ++ [r.2])) (s, ([] : List (Bits × Bool)))
  let s := rd.1
  let xs := rd.2.map (·.1)
  let psn := rd.2.any (·.2)
  let ys := match src with | .route g => gangRoute s k g.val xs | .map _ => gangMap a (2 ^ e) xs
  let bad := badGangLines s k
  let ys := ys.zipIdx.map (fun y => y.1 ^^^ BitVec.ofNat 2048 (bad / 2 ^ (2048 * y.2)))
  let s := ps.foldl (fun s p => countPasses s p.1 (if general then 4 else 2)) s
  let n := if general then 2 else 1
  let s := countEv (modCl s k (fun x => { x with gangPass := sat32 x.gangPass n })) .gang n
  let s := match src with
    | .map d => if general then ps.foldl (fun (s : State) (p : CoreId × Present) => modCore s p.1 (fun x => { x with factor := some d })) s else s
    | .route _ => s
  let num := match src with | .route g => (g.val, false) | .map d => (d.val, true)
  if !sumsAgree e 8192 (gangValue xs) (gangValue ys) then failWhisk s k .gangSum (sumDetail s.cores[c0].pc num.1 num.2)
  else
    ((ps.zip ys).foldl (fun (s : State) (p : (CoreId × Present) × Bits) =>
      retire (modCore (writeV s p.1.1 p.1.2.vd p.2 psn) p.1.1 (fun x => { x with present := none })) p.1.1 1) s)

/-- The cycle in which all four cores present: mismatch, a check-bit error, or issue (R121, R130). -/
def gangStep (s : State) (k : ClusterId) (ps : List (CoreId × Present)) : State :=
  match ps with
  | [] => s
  | (c0, p0) :: _ =>
    if !(ps.all (fun q => decide (gangKey s q.1 q.2 = gangKey s c0 p0))) then failCluster s k .gangMismatch 0
    else match p0.src with
      | .route g =>
        match gangSlotUe s k g with
        | some c => failCoreHw s c .routeUe 0
        | none =>
          if s.hwf.contains (.whiskUe k g) then failWhisk s k .routeUe 0
          else gangIssue (gangSlotCe s k g) k ps p0.src p0.e.val
      | .map _ => gangIssue s k ps p0.src p0.e.val

/-- A core that presents without issuing waits for its gang; each core cycle that passes meanwhile is counted (R130, Table
15-6, log 1). -/
def gangWaits (s : State) (c : CoreId) (p : Present) : State :=
  waitFor (modCore s c (fun x => { x with present := some p })) (.core c) .gang

/-- What a PRMG holds for the issue rule. -/
def gangNeeds (p : Present) : Needs := { units := [.net], reads := [p.va], writes := [p.vd] }

/-- The core may present: it may issue, but for a PRMG of its own that presents already. -/
def canPresent (s : State) (c : CoreId) (p : Present) : Bool :=
  canIssue (modCore s c (fun x => { x with present := none })) c && clear s c (gangNeeds p)
    && (s.cores[c].present.isNone || decide (s.cores[c].present = some p))

/-- PRMG presents, and issues once all four cores of the cluster present alike (R118, R130, R187). -/
def execPrmg (c : CoreId) (e : Fin 6) (vd va : VReg) (src : GangSrc) (s : State) : Res :=
  let p : Present := { e := e, vd := vd, va := va, src := src }
  .next (if !canPresent s c p then s
    else if 2048 ≤ s.cores[c].pc then failCore s c .pcRange 0
    else match gangCheck s c e.val src with
      | some x => failCore s c x (if x = .shapeMismatch then s.cores[c].pc else 0)
      | none =>
        let t := modCore s c (fun x => { x with present := some p })
        match gangReady t (clOf c) with
        | some ps => gangStep t (clOf c) ps
        | none => gangWaits s c p)

end Sys2Proof.Machine
end

