-- ==== Sys2Proof/Machine/Ladle.lean ====
section
/-! DEFINITION. The Ladle: gather and scatter under an index tensor, merging, accumulation, variant tables (chapter 7). -/

namespace Sys2Proof.Machine

/-! ### A command and its shape (R151 to R154, R169) -/

/-- A Ladle command: who it works for, the paths of its own accesses and of its index reads, the indexed tensor, the
index tensor and, in variant mode, the table. -/
structure LadCmd where
  who : Who
  idxWho : Who
  var : Bool
  k : Nat
  slice : Desc
  idx : Desc
  tbl : Desc
  deriving DecidableEq, Repr

/-- Indices of a command. -/
def ladN (c : LadCmd) : Nat := tdSize c.idx 0
/-- The size an index must stay below (R155, R169). -/
def ladBound (c : LadCmd) : Nat := if c.var then tdSize c.tbl 0 else tdSize c.slice c.k
/-- Product of sizes of dimensions `k` to `k + n - 1`. -/
def sizeProd (d : Desc) (k : Nat) : Nat → Nat
  | 0 => 1
  | n + 1 => tdSize d k * sizeProd d (k + 1) n
/-- Passes: the coordinates above k. -/
def ladPasses (c : LadCmd) : Nat := if c.var then 1 else sizeProd c.slice (c.k + 1) (5 - c.k)
/-- Rows of one slice at one index position, for k at least 1. -/
def ladInner (c : LadCmd) : Nat := sizeProd c.slice 1 ((if c.var then tdRank c.slice else c.k) - 1)
/-- Element width. -/
def ladW (c : LadCmd) : Nat := tdWidth c.slice
/-- Elements of one row of the command shape. -/
def ladRow (c : LadCmd) : Nat := if c.k = 0 then ladN c else tdSize c.slice 0
/-- Elements of a beat. -/
def ladPer (c : LadCmd) : Nat := 2048 / ladW c
/-- Beats of one row of the command shape. -/
def ladRowBeats (c : LadCmd) : Nat := ceilDiv (ladRow c) (ladPer c)
/-- Rows of the command shape. -/
def ladRows (c : LadCmd) : Nat := if c.k = 0 then ladPasses c else ladN c * ladInner c * ladPasses c
/-- Beats of the command shape. -/
def ladBeats (c : LadCmd) : Nat := ladRows c * ladRowBeats c
/-- Merging applies: elements, and rows of 256 B or less (R156). -/
def ladMerges (c : LadCmd) : Bool := c.k = 0 || decide (ladRow c * ladW c ≤ 2048)

/-- Coordinates c_1 to c_5 of a row of the command shape, `x` standing as c_k (R154). -/
def ladCoords (c : LadCmd) (p i : Nat) (x : Int) : List Int :=
  if c.k = 0 then unrank c.slice 1 5 p
  else unrank c.slice 1 (c.k - 1) i ++ [x] ++ (if c.var then [] else unrank c.slice (c.k + 1) (5 - c.k) p)

/-- Coordinates of row `i` of a slice at an index (R152, R169). -/
def sliceCoords (c : LadCmd) (p i : Nat) (x : Int) : List Int :=
  if c.var then unrank c.slice 1 (tdRank c.slice - 1) i else ladCoords c p i x

/-- A memory operand has the command shape (R152, R153, R169). -/
def hasShape (c : LadCmd) (d : Desc) : Bool :=
  if c.var then
    tdRank d = tdRank c.slice + 1 && (upto 6).all (fun k =>
      tdSize d k = (if k < tdRank c.slice then tdSize c.slice k else if k = tdRank c.slice then ladN c else 1))
  else
    tdRank d = tdRank c.slice && (upto 6).all (fun k => tdSize d k = (if k = c.k then ladN c else tdSize c.slice k))

/-! ### The checks of Table 7-1 -/

/-- Any byte of the footprint lies in Near Store: after the range check, all of it does. -/
def inNear (d : Desc) : Bool := tdSpace d = 0 && decide ((footprint d).1 < 0x2000000)

/-- INT32, L-ROW, rank 1, Near Store: an index tensor or a variant table (R168). -/
def isIndex (d : Desc) : Bool := tdFmt d = 1 && tdLayout d = lRow && tdRank d = 1 && inNear d

/-- What a core's Ladle command accepts (R108, R486). -/
def ladAccepts (d : Desc) : Bool := isLocal d && !isPlane d

/-- The rows of Table 7-1 after the descriptor checks: `other` is a memory destination or source, `past` a register run
past v31, `ok` whether the Ladle is good and not fenced. -/
def ladCheck (c : LadCmd) (other : Option Desc) (past sct acc ok : Bool) : Option Err :=
  let far := match other with | some d => tdSpace d = 0 && !inNear d | none => false
  let mode := acc && (decide (2 < tdFmt c.slice) || decide (tdLayout c.slice ≠ lRow)
    || (match other with | some d => decide (tdFmt d ≠ tdFmt c.slice) | none => false))
  let kBad := if c.var then decide (tdRank c.slice = 6) || decide (c.k ≠ tdRank c.slice) else decide (tdRank c.slice ≤ c.k)
  if past then some .ladShape
  else if !isIndex c.idx then some .ladIndex
  else if c.var && !(isIndex c.tbl && (checkTd c.tbl false isIndex).isNone) then some .ladIndex
  else if kBad then some .ladShape
  else if (match other with | some d => !hasShape c d | none => false) then some .ladShape
  else if c.k = 0 && ((tdSpace c.slice = 0 && !inNear c.slice) || far) then some .tdSpace
  else if sct && mode then some .ladMode
  else if !ok then some .ladMode
  else none

/-- The Ladle of a cluster may take commands (R20, R172). -/
def ladUsable (s : State) (k : ClusterId) : Bool := bitOf s.u.ladleOk k.val && !s.cls[k].ladFenced

/-! ### Counters (R172) -/

def countLadOob (s : State) (k : ClusterId) (n : Nat) : State := modCl s k (fun x => { x with oob := sat32 x.oob n })
def countLadMerge (s : State) (k : ClusterId) (n : Nat) : State := modCl s k (fun x => { x with merge := sat32 x.merge n })
def countLadConf (s : State) (k : ClusterId) (n : Nat) : State := modCl s k (fun x => { x with conf := sat32 x.conf n })
def countLadReq (s : State) (k : ClusterId) (n : Nat) : State :=
  countEv (modCl s k (fun x => { x with req := sat32 x.req n })) .ladReq n
def countLadAdd (s : State) (k : ClusterId) (n : Nat) : State :=
  countEv (modCl s k (fun x => { x with adds := sat32 x.adds n })) .ladAdd n

/-! ### Places of rows -/

/-- Bit address of element 0 of a row and the distance from one element to the next. -/
structure RowPlace where
  bit : Nat
  step : Nat
  deriving DecidableEq, Repr

/-- The row at coordinates c_1 to c_5 (R59, R76 to R78). -/
def placeRow (d : Desc) (outer : List Int) : Option RowPlace :=
  if isPanel d then
    match outer with
    | k1 :: r =>
      if 0 ≤ k1 ∧ k1 < tdSize d 1 then
        match outerOff d 2 r with
        | some x => some { bit := laneBit d (addrAt d x) k1.toNat, step := 32 }
        | none => none
      else none
    | [] => none
  else
    match outerOff d 1 outer with
    | some x => some { bit := 8 * addrAt d x, step := tdWidth d }
    | none => none

/-- The element at a bit address is a pad element: its word belongs to the other partition, so that it reads as fill (R24,
R166). -/
def padAt (s : State) (p : Part) (bit : Nat) : Bool := crosses s p (addrPart s (bit / 8))

/-- Elements `c0` on of a row, pad elements of fill where the row is out of bounds. -/
def readPlace (s : State) (who : Who) (d : Desc) (p : Option RowPlace) (c0 count : Nat) : State × LadVals :=
  match p with
  | none => (s, ⟨List.replicate count (fillElem d), List.replicate count true, false⟩)
  | some p =>
    let r := readRun s who (p.bit + p.step * c0) (p.step * (count - 1) + tdWidth d) (fillBits d % 2 ^ 512)
    (r.1, ⟨(toElems p.step count r.2.1).map (· % 2 ^ tdWidth d), (upto count).map (fun i => padAt s who.part (p.bit + p.step * (c0 + i))), r.2.2⟩)

/-- The word writes of elements from `c0` on; `none` is an element not written. -/
def placeWrites (p : RowPlace) (w c0 : Nat) (xs : List (Option Nat)) : List WordWr :=
  maskedWrites (p.bit + p.step * c0) (p.step * (xs.length - 1) + w)
    (ofElems p.step (xs.map (fun x => match x with | some v => v % 2 ^ w | none => 0)))
    (ofElems p.step (xs.map (fun x => match x with | some _ => 2 ^ w - 1 | none => 0)))

/-- `n` free values: what an element is when the spec states none (log 16). -/
def drawElems : Nat → State → State × List Nat
  | 0, s => (s, [])
  | n + 1, s => let a := drawFree s; let r := drawElems n a.1; (r.1, a.2.toNat :: r.2)

/-- Elements of source width `w` moved into elements of width `wd`: bit for bit when the widths agree (R67), free values
where they do not, since no rule states them (log 16). -/
def moveElems (s : State) (w wd : Nat) (xs : List Nat) : State × List Nat :=
  if w = wd then (s, xs) else drawElems xs.length s

/-! ### Indices (R155, R168, R169, R377, R487) -/

/-- An address range reaches into the other partition's regions (R169). -/
def foreign (s : State) (p : Part) (lo hi : Nat) : Bool :=
  if isNs lo then (span (lo / 0x400000) (hi / 0x400000 - lo / 0x400000 + 1)).any (fun g => crosses s p (addrPart s (0x400000 * g)))
  else crosses s p (dsPart s lo) || crosses s p (dsPart s hi)

/-- The slice descriptor of variant entry `e`, if present (R169). -/
def variantSlice (s : State) (c : LadCmd) (e : Nat) : Option Desc :=
  let d := setFld c.slice 0 48 e
  if e = 0xFFFFFFFF ∨ e % 64 ≠ 0 then none
  else if !inWindow (footprint d).1 (footprint d).2 then none
  else if foreign s c.who.part (footprint d).1.toNat (footprint d).2.toNat then none
  else some d

/-- One index resolved: the table is read in variant mode. Answers the position, whether the entry was poisoned, and
whether it was absent. -/
def resolveIndex (s : State) (c : LadCmd) (x : Int) : State × LadPos × Bool × Bool :=
  if x < 0 ∨ (ladBound c : Int) ≤ x then (s, .out, false, false)
  else if c.var then
    let r := readRun s c.who (8 * (tdBase c.tbl + 4 * x.toNat)) 32 (fillBits c.tbl % 2 ^ 512)
    match variantSlice r.1 c r.2.1 with
    | some d => (r.1, .at_ x.toNat d, r.2.2, false)
    | none => (r.1, .out, r.2.2, true)
  else (s, .at_ x.toNat c.slice, false, false)

/-- The indices of an index beat of `n`. -/
def idxInts (n x : Nat) : List Int := (toElems 32 n x).map (fun v => (BitVec.ofNat 32 v).toInt)

/-- Indices in index beat `j`. -/
def idxCount (c : LadCmd) (j : Nat) : Nat := min 64 (ladN c - 64 * j)

/-- Beats of the index tensor (R487). -/
def idxBeats (c : LadCmd) : Nat := ceilDiv (ladN c) 64

/-- Indices of beat `j`, with the mark of the beat: 64 to a beat (R376, R487). -/
def indexBeat (c : LadCmd) (j : Nat) (s : State) : State × List Int × Bool :=
  let r := readRun s c.idxWho (8 * (tdBase c.idx + 256 * j)) (32 * idxCount c j) (fillBits c.idx % 2 ^ 512)
  (r.1, idxInts (idxCount c j) r.2.1, r.2.2)

/-- Positions resolved one after another, until one that may not be used; a missing variant is logged once. -/
def resolveAll (c : LadCmd) : List Int → State → Bool → State × List LadPos × Bool × Bool
  | [], s, lg => (s, [], false, lg)
  | x :: r, s, lg =>
    let q := resolveIndex s c x
    if q.2.2.1 then (q.1, [], true, lg)
    else
      let s := if q.2.2.2 && !lg then logRun q.1 .ladVtab c.who.loc 0 else q.1
      let t := resolveAll c r s (lg || q.2.2.2)
      (t.1, q.2.1 :: t.2.1, t.2.2)

/-- The positions of one pass from index beat `j` on, `rd` giving its beats: those before the first poisoned index or
entry, and whether there was one (R377). -/
def passPositions (c : LadCmd) (rd : Nat → State → State × List Int × Bool) : Nat → Nat → State → Bool → State × List LadPos × Bool × Bool
  | 0, _, s, lg => (s, [], false, lg)
  | n + 1, j, s, lg =>
    let b := rd j s
    if b.2.2 then (b.1, [], true, lg)
    else
      let q := resolveAll c b.2.1 b.1 lg
      if q.2.2.1 then (q.1, q.2.1, true, q.2.2.2)
      else
        let t := passPositions c rd n (j + 1) q.1 q.2.2.2
        (t.1, q.2.1 ++ t.2.1, t.2.2)

/-- The index position a pass has reached (Table 7-4). -/
def reachPos (s : State) (k : ClusterId) (n : Nat) : State := modCl s k (fun x => { x with pos := BitVec.ofNat 24 (n - 1) })

/-- Positions cut into windows of 256 with the number of the first (R156). -/
def windowsOf {α : Type} (xs : List α) : List (Nat × List α) :=
  (upto (ceilDiv xs.length 256)).map (fun w => (256 * w, (xs.drop (256 * w)).take 256))

/-! ### Gather (R152, R155 to R160, R166) -/

/-- An output beat: the row's coordinates in the command shape, its first element, its elements, which of them are pad
elements, and its poison. -/
structure LadBeat where
  outer : List Int
  c0 : Nat
  vals : List Nat
  pads : List Bool
  psn : Bool
  deriving DecidableEq, Repr

/-- Beats of the row at `p`, read from memory. -/
def readBeatsAt (who : Who) (d : Desc) (p : Option RowPlace) (n per : Nat) : Nat → Nat → State → State × List LadVals
  | 0, _, s => (s, [])
  | b + 1, h, s =>
    let r := readPlace s who d p (h * per) (min per (n - h * per))
    let t := readBeatsAt who d p n per b (h + 1) r.1
    (t.1, r.2 :: t.2)

/-- Number of the row of the command shape at position `j` of pass `p`, row `i` of its slice. -/
def rowKey (c : LadCmd) (p j i : Nat) : Nat := (p * ladN c + j) * ladInner c + i

/-- Where a command's rows come from: its own reads of memory, or rows that its channel has read, by number (R208). -/
inductive RowsFrom where
  | mem
  | got (rows : List (Nat × List LadVals))
  deriving DecidableEq, Repr

/-- The beats of every row of a slice, from row `i` on. -/
def readSlice (c : LadCmd) (f : RowsFrom) (p j x : Nat) (d : Desc) : Nat → Nat → State → State × List (List LadVals)
  | 0, _, s => (s, [])
  | n + 1, i, s =>
    let r := match f with
      | .mem => readBeatsAt c.who d (placeRow d (sliceCoords c p i x)) (ladRow c) (ladPer c) (ladRowBeats c) 0 s
      | .got rows => (s, look [] rows (rowKey c p j i))
    let t := readSlice c f p j x d n (i + 1) r.1
    (t.1, r.2 :: t.2)

/-- The output beats of the rows of one position. -/
def sliceOut (c : LadCmd) (p j : Nat) (rows : List (List LadVals)) : List LadBeat :=
  (rows.zipIdx).flatMap (fun r => (r.1.zipIdx).map (fun b =>
    { outer := ladCoords c p r.2 j, c0 := b.2 * ladPer c, vals := b.1.vals, pads := b.1.pads, psn := b.1.psn }))

/-- A slice of fill values, pad elements all (R155, R166). -/
def fillSlice (c : LadCmd) : List (List LadVals) :=
  List.replicate (ladInner c) ((upto (ladRowBeats c)).map (fun h =>
    let n := min (ladPer c) (ladRow c - h * ladPer c)
    ⟨List.replicate n (fillElem c.slice), List.replicate n true, false⟩))

/-- What a window has read: slice by index. -/
abbrev Seen := List (Nat × List (List LadVals))

/-- Positions of one window of a row gather (R156, R159). -/
def gatherRows (c : LadCmd) (k : ClusterId) (f : RowsFrom) (p : Nat) : List LadPos → Nat → Seen → State → State × List LadBeat
  | [], _, _, s => (s, [])
  | q :: r, j, seen, s =>
    let s := countLadReq s k (ladInner c)
    match q with
    | .out =>
      let t := gatherRows c k f p r (j + 1) seen (countLadOob s k 1)
      (t.1, sliceOut c p j (fillSlice c) ++ t.2)
    | .at_ x d =>
      match (if ladMerges c then seen.find? (fun e => e.1 = x) else none) with
      | some e =>
        let t := gatherRows c k f p r (j + 1) seen (countLadMerge s k 1)
        (t.1, sliceOut c p j e.2 ++ t.2)
      | none =>
        let m := readSlice c f p j x d (ladInner c) 0 s
        let t := gatherRows c k f p r (j + 1) ((x, m.2) :: seen) m.1
        (t.1, sliceOut c p j m.2 ++ t.2)

/-- Positions of a row gather whose slices are read: the first occurrence of each index in its window, or every one where
no merging applies (R156). -/
def freshPos (c : LadCmd) (ps : List LadPos) : List (Nat × LadPos) :=
  (windowsOf ps).flatMap (fun w =>
    (w.2.zipIdx w.1).foldl (fun (a : List (Nat × LadPos)) q =>
      match q.1 with
      | .out => a
      | .at_ _ _ => if ladMerges c && a.any (fun e => e.2 = q.1) then a else a ++ [(q.2, q.1)]) [])

/-- Distinct entries, in order. -/
def distinct (xs : List Nat) : List Nat := xs.foldl (fun a x => if a.contains x then a else a ++ [x]) []

/-- Cycles of a round: the most words any one bank serves, at least 1 (R157, R158). -/
def roundCost (ws : List Nat) : Nat := (upto 64).foldl (fun m b => max m (ws.filter (fun w => bankOf (64 * w) = b)).length) 1

/-- Words read for a round, by number. -/
def readDistinct (s : State) (who : Who) (ws : List Nat) : State × List (Nat × RdWord) :=
  let r := readWords s who ws
  (r.1, ws.zip r.2)

/-- The element at a bit address, from the words read. -/
def pickElem (d : Desc) (ws : List (Nat × RdWord)) (bit : Nat) : Nat × Bool :=
  match ws.find? (fun e => e.1 = bit / 512) with
  | some (_, .data x p) => (x.toNat / 2 ^ (bit % 512) % 2 ^ tdWidth d, p)
  | _ => (fillElem d, false)

/-- One round of 16 positions of an element gather: values in order, pads marked (R156, R158). -/
def gatherRound (c : LadCmd) (k : ClusterId) (row : Option RowPlace) (ps : List LadPos) (seen : List (Nat × Nat × Bool × Bool))
    (s : State) : State × List (Nat × Bool × Bool) × List (Nat × Nat × Bool × Bool) :=
  let w := ladW c
  let bitAt (x : Nat) : Nat := match row with | some r => r.bit + r.step * x | none => 0
  let xs := ps.filterMap (fun q => match q with | .at_ x _ => some x | .out => none)
  let fresh := (distinct xs).filter (fun x => !(seen.any (fun e => e.1 = x)))
  let words := distinct (fresh.map (fun x => bitAt x / 512))
  let s := countLadReq s k 1
  let s := countLadConf s k (roundCost words - 1)
  let s := countLadOob s k (ps.length - xs.length)
  let s := countLadMerge s k (xs.length - fresh.length)
  let r := readDistinct s c.who words
  let got := fresh.map (fun x => let v := pickElem c.slice r.2 (bitAt x); (x, v.1 % 2 ^ w, v.2, padAt s c.who.part (bitAt x)))
  let seen := seen ++ got
  (r.1, ps.map (fun q => match q with
    | .out => (fillElem c.slice, false, true)
    | .at_ x _ => match seen.find? (fun e => e.1 = x) with
      | some e => e.2
      | none => (fillElem c.slice, false, false)), seen)

/-- The rounds of one window (R158). -/
def gatherElems (c : LadCmd) (k : ClusterId) (row : Option RowPlace) : Nat → List LadPos → List (Nat × Nat × Bool × Bool) → State →
    State × List (Nat × Bool × Bool)
  | 0, _, _, s => (s, [])
  | n + 1, ps, seen, s =>
    let r := gatherRound c k row (ps.take 16) seen s
    let t := gatherElems c k row n (ps.drop 16) r.2.2 r.1
    (t.1, r.2.1 ++ t.2)

/-- The beats of one row of an element gather. -/
def elemOut (c : LadCmd) (p : Nat) (xs : List (Nat × Bool × Bool)) : List LadBeat :=
  (upto (ceilDiv xs.length (ladPer c))).map (fun h =>
    let b := (xs.drop (h * ladPer c)).take (ladPer c)
    { outer := ladCoords c p 0 0, c0 := h * ladPer c, vals := b.map (·.1), pads := b.map (·.2.2), psn := b.any (·.2.1) })

/-- One pass of a gather over the positions it may use. -/
def gatherPass (c : LadCmd) (k : ClusterId) (f : RowsFrom) (p : Nat) (ps : List LadPos) (s : State) : State × List LadBeat :=
  if c.k = 0 then
    let r := (windowsOf ps).foldl (fun (acc : State × List (Nat × Bool × Bool)) w =>
      let t := gatherElems c k (placeRow c.slice (ladCoords c p 0 0)) (ceilDiv w.2.length 16) w.2 [] acc.1
      (t.1, acc.2 ++ t.2)) (s, [])
    (r.1, elemOut c p r.2)
  else
    (windowsOf ps).foldl (fun (acc : State × List LadBeat) w =>
      let t := gatherRows c k f p w.2 w.1 [] acc.1
      (t.1, acc.2 ++ t.2)) (s, [])

/-- The passes of a gather: its output beats in index order, and whether a poisoned index stopped it. -/
def gatherPasses (c : LadCmd) (k : ClusterId) : Nat → Nat → Bool → State → State × List LadBeat × Bool
  | 0, _, _, s => (s, [], false)
  | n + 1, p, lg, s =>
    let q := passPositions c (indexBeat c) (idxBeats c) 0 s lg
    let g := gatherPass c k .mem p q.2.1 q.1
    let s := reachPos g.1 k q.2.1.length
    if q.2.2.1 then (s, g.2, true)
    else
      let t := gatherPasses c k n (p + 1) q.2.2.2 s
      (t.1, g.2 ++ t.2.1, t.2.2)

/-- A gather runs. -/
def runGather (c : LadCmd) (k : ClusterId) (s : State) : State × List LadBeat × Bool := gatherPasses c k (ladPasses c) 0 false s

/-- The 256 B of an output beat, masked positions holding the source's fill (R152). -/
def beatBits (c : LadCmd) (b : LadBeat) : Bits :=
  BitVec.ofNat 2048 (ofElems (ladW c) (b.vals ++ List.replicate (ladPer c - b.vals.length) (fillElem c.slice)))

/-! ### Data and pad elements (R166, R167) -/

/-- Word writes merged by word, a later one over an earlier. -/
def overWords (xs ys : List WordWr) : List WordWr :=
  ys.foldl (fun a y =>
    if a.any (fun x => x.word = y.word) then
      a.map (fun x => if x.word = y.word then { x with data := (x.data &&& ~~~y.mask) ||| (y.data &&& y.mask), mask := x.mask ||| y.mask } else x)
    else a ++ [y]) xs

/-- Bits that data elements of a command have been written to, by word. -/
abbrev Kept := List (Nat × BitVec 512)

/-- Data and pad elements of one beat as one group of word writes: a pad element yields to every data element the command
has written (R167). `track` says that pad elements may still follow. -/
def mergePads (kept : Kept) (track : Bool) (data pads : List WordWr) : Kept × List WordWr :=
  let pads := (pads.map (fun w => { w with mask := w.mask &&& ~~~(look 0 kept w.word) })).filter (fun w => w.mask ≠ 0)
  (if track then data.foldl (fun k w => put 0 k w.word (look 0 k w.word ||| w.mask)) kept else kept, overWords pads data)

/-- The word writes of the data elements of a beat and those of its pad elements, which `PAD_YIELD` leaves out (R166). -/
def dataWrites (d : Desc) (q : RowPlace) (c0 : Nat) (vals : List Nat) (pads : List Bool) : List WordWr :=
  placeWrites q (tdWidth d) c0 (List.zipWith (fun v p => if p then none else some v) vals pads)
/-- Those of its pad elements. -/
def padWrites (d : Desc) (q : RowPlace) (c0 : Nat) (vals : List Nat) (pads : List Bool) : List WordWr :=
  if tdYield d then [] else placeWrites q (tdWidth d) c0 (List.zipWith (fun v p => if p then some v else none) vals pads)

/-- The writes of a gather's memory destination: a group of words for each beat, in order, with its poison. Element values alone are moved: of a tensor with block scales no rule moves
the scales, and the model does not (DESIGN CHOICE, log 83). -/
def gatherEntries (s : State) (c : LadCmd) (d : Desc) (bs : List LadBeat) : State × List (List WordWr × Bool) :=
  let track := bs.any (fun b => b.pads.any id)
  let r := bs.foldl (fun (a : State × Kept × List (List WordWr × Bool)) b =>
    let v := moveElems a.1 (ladW c) (tdWidth d) b.vals
    match placeRow d b.outer with
    | none => (v.1, a.2.1, a.2.2 ++ [([], b.psn)])
    | some q =>
      let m := mergePads a.2.1 track (dataWrites d q b.c0 v.2 b.pads) (padWrites d q b.c0 v.2 b.pads)
      (v.1, m.1, a.2.2 ++ [(m.2, b.psn)])) (s, [], [])
  (r.1, r.2.2)

/-! ### Scatter (R153, R162 to R167) -/

/-- A scatter in progress: bits written with data elements, and the index position reached, are kept beside what it has
written. -/
structure LadRun where
  s : State
  sum : WrSum := {}
  psn : Bool := false
  stop : Option LadStop := none
  kept : Kept := []
  pos : Nat := 0
  deriving DecidableEq, Repr

/-- Words written for the command; a refused write ends it (R293). -/
def ladWrite (c : LadCmd) (ws : List WordWr) (psn : Bool) (r : LadRun) : LadRun :=
  if r.stop.isSome then r
  else
    let w := writeWords r.s c.who ws psn
    { r with
      s := w.1
      sum := { bytes := r.sum.bytes + w.2.bytes, crossed := r.sum.crossed + w.2.crossed, off := w.2.off }
      psn := r.psn || (psn && !ws.isEmpty)
      stop := if w.2.off then some .off else none }

/-- A row or an element that a scatter has taken: its position, what its index selects, its row of the slice, its
beats. -/
structure LadItem where
  pos : Nat
  sel : LadPos
  inner : Nat
  beats : List LadVals
  deriving DecidableEq, Repr

/-- The index of an item, if in bounds. -/
def itemX (i : LadItem) : Option Nat := match i.sel with | .at_ x _ => some x | .out => none

/-- Same slice row as another item (R162). -/
def sameTarget (a b : LadItem) : Bool := decide (itemX a = itemX b) && decide (a.inner = b.inner)

/-- Items in bounds. -/
def inBounds (xs : List LadItem) : List LadItem := xs.filter (fun i => (itemX i).isSome)

/-- A later beat over an earlier one of the same target: its data elements remain, and a pad element does only over
another (R162, R167). -/
def overBeat (a b : LadVals) : LadVals :=
  let yields := List.zipWith (fun p q => q && !p) a.pads b.pads
  { vals := List.zipWith (fun y (v : Nat × Nat) => if y then v.1 else v.2) yields (a.vals.zip b.vals)
    pads := List.zipWith (fun p q => p && q) a.pads b.pads
    psn := b.psn || (a.psn && yields.any id) }

/-- The latest item of each target, in order, over the items before it (R162, R167). -/
def survivors (xs : List LadItem) : List LadItem :=
  xs.foldl (fun (a : List LadItem) i =>
    match a.find? (sameTarget i) with
    | none => a ++ [i]
    | some o => a.filter (fun e => !sameTarget i e) ++ [{ i with beats := List.zipWith overBeat o.beats i.beats }]) []

/-- The items of each target, first occurrence first (R163). -/
def targets (xs : List LadItem) : List (List LadItem) :=
  xs.foldl (fun (a : List (List LadItem)) i =>
    if a.any (fun g => g.any (sameTarget i)) then a.map (fun g => if g.any (sameTarget i) then g ++ [i] else g) else a ++ [[i]]) []

/-- Place of an item's row in the indexed tensor. -/
def itemPlace (c : LadCmd) (p : Nat) (i : LadItem) : Option RowPlace :=
  match i.sel with
  | .out => none
  | .at_ x d => placeRow d (sliceCoords c p i.inner x)

/-- A beat written at a place of the indexed tensor, pad elements as R166 and R167 have them. Pad elements of a scatter
come from words of the other partition alone, so only two-task mode keeps track of the data written. -/
def writeVals (c : LadCmd) (q : RowPlace) (c0 : Nat) (b : LadVals) (r : LadRun) : LadRun :=
  let m := mergePads r.kept (twoTask r.s) (dataWrites c.slice q c0 b.vals b.pads) (padWrites c.slice q c0 b.vals b.pads)
  ladWrite c m.2 b.psn { r with kept := m.1 }

/-- One row written, beat by beat. -/
def writeRow (c : LadCmd) (p : Nat) (i : LadItem) (r : LadRun) : LadRun :=
  if r.stop.isSome then r
  else match itemPlace c p i with
    | none => r
    | some q => (i.beats.zipIdx).foldl (fun r b => writeVals c q (b.2 * ladPer c) b.1 r) { r with pos := i.pos }

/-! ### Accumulation (R163, R164) -/

/-- One addition in the destination's format (R163). -/
def ladAdd (d : Desc) (a b : Nat) : Nat :=
  if tdFmt d = 1 then (a + b) % 2 ^ 32
  else elemCode (tdFmt d) (tdRtz d) (tdSat d) (fAdd (elemValue (tdFmt d) a) (elemValue (tdFmt d) b))

/-- A beat as addends: a pad element is one like any other, unless `PAD_YIELD` skips it (R166). -/
def addends (d : Desc) (b : LadVals) : LadVals := if tdYield d then b else { b with pads := b.pads.map (fun _ => false) }

/-- Two beats added element by element, what is skipped left out; poison of either stays (R163, R164). -/
def addBeat (d : Desc) (a b : LadVals) : LadVals :=
  { vals := List.zipWith (fun (x : Nat × Bool) (y : Nat × Bool) => if x.2 then y.1 else if y.2 then x.1 else ladAdd d x.1 y.1)
      (a.vals.zip a.pads) (b.vals.zip b.pads)
    pads := List.zipWith (fun p q => p && q) a.pads b.pads, psn := a.psn || b.psn }

/-- The partial sum of a target: addends in index order (R163). -/
def partialSum (d : Desc) : List LadItem → List LadVals
  | [] => []
  | a :: r => r.foldl (fun p i => List.zipWith (addBeat d) p (i.beats.map (addends d))) (a.beats.map (addends d))

/-- Old values with a partial sum added: d := d + p (R163). An element whose addends were all skipped is not written. -/
def sumOver (d : Desc) (old p : LadVals) : LadVals :=
  { vals := List.zipWith (ladAdd d) old.vals p.vals, pads := p.pads, psn := old.psn || p.psn }

/-- A residue mismatch is due on this Ladle (R164). -/
def residueDue (s : State) (k : ClusterId) : Bool := s.hwf.contains (.ladResidue k)

/-- Additions of a target: one for each element of each addend (R172). -/
def addCount (d : Desc) (g : List LadItem) : Nat :=
  (g.map (fun i => (i.beats.map (fun b => ((addends d b).pads.filter (!·)).length)).sum)).sum

/-- The elements of a beat written, those skipped left as they are. -/
def writeSum (c : LadCmd) (q : RowPlace) (c0 : Nat) (b : LadVals) (r : LadRun) : LadRun :=
  ladWrite c (dataWrites c.slice q c0 b.vals b.pads) b.psn r

/-- A target row of a window: d := d + p, additions counted (R163, R164). -/
def addRow (c : LadCmd) (k : ClusterId) (p : Nat) (g : List LadItem) (r : LadRun) : LadRun :=
  match g with
  | [] => r
  | i :: _ =>
    if r.stop.isSome then r
    else if residueDue r.s k then { r with stop := some (.residue i.pos), pos := i.pos }
    else
      let s := countLadAdd (countLadReq r.s k 1) k (addCount c.slice g)
      match itemPlace c p i with
      | none => { r with s := s }
      | some q =>
        let m := readBeatsAt c.who c.slice (some q) (ladRow c) (ladPer c) (ladRowBeats c) 0 s
        let sums := List.zipWith (sumOver c.slice) m.2 (partialSum c.slice g)
        (sums.zipIdx).foldl (fun r b => writeSum c q (b.2 * ladPer c) b.1 r) { r with s := m.1, pos := i.pos }

/-! ### Elements (R158, R165) -/

/-- Word writes of one round, merged by word; poison by word. -/
def mergeWords (xs : List (WordWr × Bool)) : List (WordWr × Bool) :=
  xs.foldl (fun (a : List (WordWr × Bool)) x =>
    if a.any (fun y => y.1.word = x.1.word) then
      a.map (fun y => if y.1.word = x.1.word then
        ({ y.1 with data := (y.1.data &&& ~~~x.1.mask) ||| (x.1.data &&& x.1.mask), mask := y.1.mask ||| x.1.mask }, y.2 || x.2) else y)
    else a ++ [x]) []

/-- The one element of an item: its value, whether it is a pad element, and its mark. -/
def itemVal (i : LadItem) : LadVals :=
  match i.beats with
  | b :: _ => ⟨b.vals.take 1, b.pads.take 1, b.psn⟩
  | [] => ⟨[0], [false], false⟩

/-- Word of an item's element in the destination row. -/
def itemWord (q : RowPlace) (i : LadItem) : Option Nat := (itemX i).map (fun x => (q.bit + q.step * x) / 512)

/-- A round of 16 positions counted: one request, and the cycles by which the words of `fresh`, those of its items that are
not merged, hold up one bank (R158). -/
def countRound (k : ClusterId) (q : RowPlace) (fresh : List LadItem) (s : State) : State :=
  countLadConf (countLadReq s k 1) k (roundCost (distinct (fresh.filterMap (itemWord q))) - 1)

/-- Rounds of 16 positions of a window: the items of `keep` that lie in each. -/
def roundsOf (xs keep : List LadItem) : List (List LadItem) :=
  (upto (ceilDiv xs.length 16)).map (fun n =>
    let ps := ((xs.drop (16 * n)).take 16).map (·.pos)
    keep.filter (fun i => ps.contains i.pos))

/-- The surviving elements of a round written, each distinct word once (R158, R165). -/
def writeRound (c : LadCmd) (k : ClusterId) (q : RowPlace) (es : List LadItem) (r : LadRun) : LadRun :=
  if r.stop.isSome then r
  else
    let m := es.foldl (fun (a : Kept × List (WordWr × Bool)) i =>
      match itemX i with
      | none => a
      | some x =>
        let v := itemVal i
        let w := mergePads a.1 (twoTask r.s) (dataWrites c.slice q x v.vals v.pads) (padWrites c.slice q x v.vals v.pads)
        (w.1, a.2 ++ w.2.map (fun y => (y, v.psn)))) (r.kept, [])
    (mergeWords m.2).foldl (fun r w => ladWrite c [w.1] w.2 r)
      { r with s := countRound k q es r.s, kept := m.1, pos := es.foldl (fun a i => max a i.pos) r.pos }

/-- An accumulate window of elements (R163 to R165). -/
def addElems (c : LadCmd) (k : ClusterId) (q : RowPlace) (xs : List LadItem) (r : LadRun) : LadRun :=
  if r.stop.isSome then r
  else
    let gs := targets (inBounds xs)
    let r := { r with s := (roundsOf xs (gs.filterMap List.head?)).foldl (fun s es => countRound k q es s) r.s }
    match gs with
    | (i :: _) :: _ =>
      if residueDue r.s k then { r with stop := some (.residue i.pos), pos := i.pos }
      else
        let s := countLadAdd r.s k ((gs.map (addCount c.slice)).sum)
        let m := readDistinct s c.who (distinct (gs.filterMap (fun g => g.head?.bind (itemWord q))))
        let ws := gs.flatMap (fun g =>
          match g.head?.bind itemX, partialSum c.slice g with
          | some x, b :: _ =>
            let old := pickElem c.slice m.2 (q.bit + q.step * x)
            let v := sumOver c.slice ⟨[old.1], [false], old.2⟩ b
            (dataWrites c.slice q x v.vals v.pads).map (fun w => (w, v.psn))
          | _, _ => [])
        (mergeWords ws).foldl (fun r w => ladWrite c [w.1] w.2 r) { r with s := m.1, pos := (xs.getLast?.map (·.pos)).getD r.pos }
    | _ => r

/-! ### Windows and passes of a scatter -/

/-- One window of a row scatter (R162, R163, R165). -/
def scatterRows (c : LadCmd) (k : ClusterId) (p : Nat) (acc : Bool) (xs : List LadItem) (r : LadRun) : LadRun :=
  let live := inBounds xs
  if acc then
    (if ladMerges c then targets live else live.map (fun i => [i])).foldl (fun r g => addRow c k p g r) r
  else if ladMerges c then
    let keep := survivors live
    let lost := (live.filter (fun i => i.inner = 0)).length - (keep.filter (fun i => i.inner = 0)).length
    keep.foldl (fun r i => writeRow c p i r) { r with s := countLadReq (countLadMerge r.s k lost) k keep.length }
  else live.foldl (fun r i => writeRow c p i r) { r with s := countLadReq r.s k xs.length }

/-- One window of an element scatter (R162, R163, R165). -/
def scatterElems (c : LadCmd) (k : ClusterId) (p : Nat) (acc : Bool) (xs : List LadItem) (r : LadRun) : LadRun :=
  match placeRow c.slice (ladCoords c p 0 0) with
  | none => r
  | some q =>
    if acc then addElems c k q xs r
    else
      let live := inBounds xs
      let keep := survivors live
      (roundsOf xs keep).foldl (fun r es => writeRound c k q es r) { r with s := countLadMerge r.s k (live.length - keep.length) }

/-- The items of one pass: rows with their source beats, or elements, in index order. -/
def scatterItems (c : LadCmd) (ps : List LadPos) (src : List LadVals) : List LadItem :=
  if c.k = 0 then
    (ps.zipIdx).map (fun q =>
      let b := src.getD (q.2 / ladPer c) ⟨[], [], false⟩
      { pos := q.2, sel := q.1, inner := 0, beats := [⟨[b.vals.getD (q.2 % ladPer c) 0], [b.pads.getD (q.2 % ladPer c) false], b.psn⟩] })
  else
    (ps.zipIdx).flatMap (fun q => (upto (ladInner c)).map (fun i =>
      let at_ := (q.2 * ladInner c + i) * ladRowBeats c
      { pos := q.2, sel := q.1, inner := i, beats := (src.drop at_).take (ladRowBeats c) }))

/-- Where a scatter's source beats come from (R151, R153). -/
inductive SctFrom where
  /-- beats at hand: registers, or those taken from a queue -/
  | beats (xs : List (Bits × Bool))
  /-- a memory source read by `who` -/
  | mem (who : Who) (d : Desc)
  /-- rows that a channel has read, by number -/
  | got (rows : List (Nat × List LadVals))
  deriving DecidableEq, Repr

/-- Beats of the source rows one pass takes for `n` positions: (position, row of the slice, beat). -/
def passBeats (c : LadCmd) (n : Nat) : List (Nat × Nat × Nat) :=
  if c.k = 0 then (upto (ceilDiv n (ladPer c))).map (fun b => (0, 0, b))
  else (upto n).flatMap (fun j => (upto (ladInner c)).flatMap (fun i => (upto (ladRowBeats c)).map (fun b => (j, i, b))))

/-- The source beats of the rows of one pass that the positions in use need, from memory. -/
def srcFromMem (c : LadCmd) (who : Who) (d : Desc) (p : Nat) : List (Nat × Nat × Nat) → State → State × List LadVals
  | [], s => (s, [])
  | (j, i, b) :: r, s =>
    let n := min (ladPer c) (ladRow c - b * ladPer c)
    let x := readPlace s who d (placeRow d (ladCoords c p i j)) (b * ladPer c) n
    let m := moveElems x.1 (tdWidth d) (ladW c) x.2.vals
    let t := srcFromMem c who d p r m.1
    (t.1, { x.2 with vals := m.2 } :: t.2)

/-- A source row's number: one row a pass for elements. -/
def srcKey (c : LadCmd) (p j i : Nat) : Nat := if c.k = 0 then p else rowKey c p j i

/-- The source beats of one pass for the positions in use. -/
def srcBeats (c : LadCmd) (p n : Nat) (src : SctFrom) (s : State) : State × List LadVals :=
  let want := passBeats c n
  match src with
  | .beats xs =>
    let before := p * (if c.k = 0 then 1 else ladN c * ladInner c) * ladRowBeats c
    (s, (((xs.drop before).take want.length).zipIdx).map (fun b =>
      let m := ladRow c - (b.2 % ladRowBeats c) * ladPer c
      ⟨(toElems (ladW c) (ladPer c) b.1.1.toNat).take m, List.replicate (min m (ladPer c)) false, b.1.2⟩))
  | .mem who d => srcFromMem c who d p want s
  | .got rows => (s, want.map (fun w => (look [] rows (srcKey c p w.1 w.2.1)).getD w.2.2 ⟨[], [], false⟩))

/-- The windows of one pass of a scatter over the positions in use (R156, R163). -/
def scatterPass (c : LadCmd) (k : ClusterId) (acc : Bool) (src : SctFrom) (p : Nat) (ps : List LadPos) (r : LadRun) : LadRun :=
  let s := countLadOob r.s k (ps.filter (fun x => decide (x = .out))).length
  let m := srcBeats c p ps.length src s
  let items := scatterItems c ps m.2
  let per := if c.k = 0 then 256 else 256 * ladInner c
  let r := (upto (ceilDiv items.length per)).foldl (fun r w =>
    let xs := (items.drop (w * per)).take per
    if c.k = 0 then scatterElems c k p acc xs r else scatterRows c k p acc xs r) { r with s := m.1 }
  if r.stop.isSome then { r with s := reachPos r.s k (r.pos + 1) } else { r with s := reachPos r.s k ps.length }

/-- The passes of a scatter. -/
def scatterPasses (c : LadCmd) (k : ClusterId) (acc : Bool) (src : SctFrom) : Nat → Nat → Bool → LadRun → LadRun
  | 0, _, _, r => r
  | n + 1, p, lg, r =>
    if r.stop.isSome then r
    else
      let q := passPositions c (indexBeat c) (idxBeats c) 0 r.s lg
      let r := scatterPass c k acc src p q.2.1 { r with s := q.1 }
      if q.2.2.1 then { r with stop := match r.stop with | some x => some x | none => some .poisonIndex }
      else scatterPasses c k acc src n (p + 1) q.2.2.2 r

/-- A scatter runs. -/
def runScatter (c : LadCmd) (k : ClusterId) (acc : Bool) (src : SctFrom) (s : State) : LadRun :=
  scatterPasses c k acc src (ladPasses c) 0 false { s := s }

/-! ### Commands of a core (R150, R151, R171, R187) -/

/-- The register after a descriptor register: the variant table (R168). -/
def tableReg (d : DReg) : DReg := ⟨(d.val + 1) % 16, by omega⟩

/-- The Ladle command of a core, whose descriptor registers hold `d` when it issues. -/
def coreLadCmd (d : Vector Desc 16) (c : CoreId) (sliceD idxD : DReg) (k : BitVec 3) (var : Bool) : LadCmd :=
  { who := whoLadle (clOf c) (corePart c) (locCore c), idxWho := whoFetch c, var := var, k := k.toNat
    slice := d[sliceD], idx := d[idxD], tbl := d[tableReg sliceD] }

/-- The Ladle is marked failed and its repair proposed after a residue error (R164, R366, R367). -/
def failLadle (s : State) (k : ClusterId) (detail : Nat) : State :=
  proposeRow (modCl (failCluster s k .ladResidue detail) k (fun x => { x with ladFailed := true })) 3 k.val true

/-- Detail word of a residue error: index position, and the issuing agent's location above it (R164, log 17). -/
def residueDetail (pos loc : Nat) : Nat := pos % 2 ^ 24 + loc * 2 ^ 24

/-- The checks of a GTH (R100, Table 7-1). -/
def gthCheck (s : State) (c : CoreId) (m : LadCmd) (dst : GthDst) : Option Err :=
  let d := s.cores[c].d
  let own := match dst with | .mem r => [(d[r], ladAccepts)] | _ => []
  let other := match dst with | .mem r => some d[r] | _ => none
  let past := match dst with | .regs v => decide (32 < v.val + ladBeats m) | _ => false
  match checkTds (own ++ [(m.slice, ladAccepts), (m.idx, ladAccepts)]) with
  | some e => some e
  | none => ladCheck m other past false false (ladUsable s (clOf c))

/-- The checks of an SCT (R100, Table 7-1). -/
def sctCheck (s : State) (c : CoreId) (m : LadCmd) (dstD : DReg) (src : SctSrc) (acc : Bool) : Option Err :=
  let d := s.cores[c].d
  let own := match src with | .mem r => [(d[r], ladAccepts)] | _ => []
  let other := match src with | .mem r => some d[r] | _ => none
  let past := match src with | .regs v => decide (32 < v.val + ladBeats m) | _ => false
  match checkTds ([(d[dstD], ladAccepts)] ++ own ++ [(m.idx, ladAccepts)]) with
  | some e => some e
  | none => ladCheck m other past true acc (ladUsable s (clOf c))

/-- The Ladle runs a command, or others wait for it (R150). -/
def ladBusy (s : State) (k : ClusterId) : Bool := s.cls[k].running.isSome || !s.cls[k].waiting.isEmpty

/-- The Ladle takes the command of an agent: it is BUSY for it until the command completes (R150, R172). -/
def ladTakes (s : State) (k : ClusterId) (w : LadSrc) : State :=
  modCl s k (fun x => { x with running := some w, waiting := x.waiting.erase w, pos := 0 })

/-- The command of an agent has completed. -/
def ladFrees (s : State) (k : ClusterId) : State := modCl s k (fun x => { x with running := none })

/-- A command presents: an idle Ladle takes it in that cycle, and a busy one lets it wait (R150). -/
def ladPresents (s : State) (k : ClusterId) (w : LadSrc) : State :=
  if ladBusy s k then modCl s k (fun x => { x with waiting := x.waiting ++ [w] }) else ladTakes s k w

end Sys2Proof.Machine
end

