-- ==== Sys2Proof/Machine/Convert.lean ====
section
/-! DEFINITION. CVT, and what PACK and UNPK do to a group (R68 to R74, R188 to R190). -/

namespace Sys2Proof.Machine

/-! ### CVT (R188) -/

/-- The `n` elements of one conversion, from element `i0` of `x`. -/
def convertRun (sfmt dfmt : Nat) (rtz sat : Bool) (x : Bits) (i0 n : Nat) : List Nat :=
  (upto n).map (fun i => convertElem sfmt dfmt rtz sat (elemAt (fmtWidth sfmt) x (i0 + i)))

/-- CVT converts N elements of v_a into elements pd * N on of v_d; elements it does not write keep their values (R188). -/
def execCvt (c : CoreId) (vd va : VReg) (sfmt dfmt : BitVec 5) (round sat : Bool) (ps pd : BitVec 2) (s : State) : Res :=
  .next (issueNext s c { units := [.convert], reads := [va, vd], writes := [vd] } (fun s =>
    let ws := fmtWidth sfmt.toNat
    let wd := fmtWidth dfmt.toNat
    let n := 2048 / max 1 (max ws wd)
    let a := readV s c va
    let old := readV s c vd
    let new := convertRun sfmt.toNat dfmt.toNat round sat a.1 (ps.toNat * n) n
    let part := decide (n * wd < 2048)
    let keep := toElems wd (2048 / max 1 wd) old.1.toNat
    let out := keep.take (pd.toNat * n) ++ new ++ keep.drop (pd.toNat * n + n)
    writeV s c vd (BitVec.ofNat 2048 (ofElems wd out)) (a.2 || (part && old.2))))

/-! ### Packed forms (Table 8-5) -/

/-- A packed form: `FMT`, and K planes of plane-sliced BF16. -/
structure PForm where
  fmt : Nat
  planes : Nat
  deriving DecidableEq, Repr

/-- The packed form of a descriptor, when Table 8-5 has it. -/
def packedForm (d : Desc) : Option PForm :=
  if tdLayout d = lPln ∨ (tdLayout d = lMxb) then some { fmt := tdFmt d, planes := tdPlanes d } else none

/-- The form holds planes. -/
def pfPlanes (p : PForm) : Nat :=
  if p.fmt = 2 then p.planes else if 12 ≤ p.fmt then fmtWidth p.fmt else 0
/-- Beats of values, before the scale beat. -/
def pfValues (p : PForm) : Nat := if pfPlanes p = 0 then 8 else pfPlanes p
/-- P: packed beats. -/
def pfBeats (p : PForm) : Nat := pfValues p + b2n (isMx p.fmt)
/-- U: container registers. -/
def pfRegs (p : PForm) : Nat := if 15 ≤ p.fmt then 8 else 16
/-- First plane. -/
def pfFirst (p : PForm) : Nat := if p.fmt = 2 then 16 - p.planes else 0

/-- Elements 0 to 2,047 from value beats: planes, or bytes. -/
def joinValues (p : PForm) (vs : List Nat) : List Nat :=
  if pfPlanes p = 0 then vs.flatMap (toElems 8 256)
  else (upto 2048).map (fun i => (vs.zipIdx).foldl (fun a v => a + v.1 / 2 ^ i % 2 * 2 ^ (pfFirst p + v.2)) 0)

/-- The value beats of 2,048 elements. -/
def splitValues (p : PForm) (xs : List Nat) : List Nat :=
  if pfPlanes p = 0 then (upto 8).map (fun i => ofElems 8 ((xs.drop (256 * i)).take 256))
  else (span (pfFirst p) (pfPlanes p)).map (fun j => ofElems 1 (xs.map (fun x => x / 2 ^ j)))

/-- A value times 2^k. -/
def scaleVal (v : FVal) (k : Int) : FVal := match v with | .fin n m e => .fin n m (e + k) | x => x

/-- One MX element under a scale code, as BF16 (R70, R189). -/
def unpackMx (fmt scale x : Nat) : Nat :=
  if scale = 255 then bf16.nanCode
  else bf16.encode false false false (scaleVal (elemValue fmt x) ((scale : Int) - 127))

/-- UNPK: 2,048 container elements from the packed beats, scale beat last (R189). -/
def unpackGroup (p : PForm) (vs : List Nat) : List Nat :=
  let xs := joinValues p (vs.take (pfValues p))
  if isMx p.fmt then
    let sc := vs.getD (pfValues p) 0
    (xs.zipIdx).map (fun x => unpackMx p.fmt (sc / 2 ^ (8 * (x.2 / 32)) % 256) x.1)
  else if 15 ≤ p.fmt ∧ p.fmt ≤ 21 then
    let n := fmtWidth p.fmt
    xs.map (fun x => if 2 ^ (n - 1) ≤ x then x + 256 - 2 ^ n else x)
  else xs

/-- Container element width. -/
def pfWidth (p : PForm) : Nat := if 15 ≤ p.fmt then 8 else 16

/-- Container registers from their elements. -/
def containerBeats (p : PForm) (xs : List Nat) : List Bits :=
  let n := 2048 / pfWidth p
  (upto (pfRegs p)).map (fun i => BitVec.ofNat 2048 (ofElems (pfWidth p) ((xs.drop (n * i)).take n)))

/-- emax of a format (R70). -/
def mxEmax (fmt : Nat) : Int :=
  match fmt with | 9 => 8 | 10 => 15 | 12 => 4 | 13 => 2 | 14 => 2 | _ => 0

/-- floor(log2) of a non-zero finite magnitude; none of zero, infinities and NaNs. -/
def magLog (v : FVal) : Option Int := match v with | .fin _ m e => if m = 0 then none else some ((Nat.log2 m : Int) + e) | _ => none

/-- An infinity or a NaN. -/
def isSpecial (v : FVal) : Bool := match v with | .fin _ _ _ => false | _ => true

/-- One MX block from its elements' values, `none` where out of bounds: scale code and element codes (R70). -/
def packMx (fmt : Nat) (rtz sat : Bool) (xs : List (Option FVal)) : Nat × List Nat :=
  let live := xs.filterMap id
  let zero := xs.map (fun _ => 0)
  if live.any isSpecial then (255, zero)
  else
    match (live.filterMap magLog).max? with
    | none => (0, zero)
    | some m =>
      let e := max (-127) (min 127 (m - mxEmax fmt))
      ((e + 127).toNat, xs.map (fun x => match x with | some v => elemCode fmt rtz sat (scaleVal v (-e)) | none => 0))

/-- Values cut into blocks of 32. -/
def blocksOf {α : Type} (xs : List α) : List (List α) := (upto (xs.length / 32)).map (fun j => (xs.drop (32 * j)).take 32)

/-- PACK: the packed beats of 2,048 container elements; `live` tells which have an in-bounds destination (R189). -/
def packGroup (p : PForm) (rtz sat : Bool) (xs : List Nat) (live : List Bool) : List Nat :=
  if isMx p.fmt then
    let vs := List.zipWith (fun x b => if b then some (bf16.decode x) else none) xs live
    let bs := (blocksOf vs).map (packMx p.fmt rtz sat)
    splitValues p (bs.flatMap (·.2)) ++ [ofElems 8 (bs.map (·.1))]
  else splitValues p xs

/-! ### Packed beats in memory (R69, R71, R74, R189) -/

/-- Items `c0` on of a run of `size` items of `w` bits at byte address `row`; the blank value where out of bounds. -/
def readItems (s : State) (who : Who) (row : Option Nat) (w size : Nat) (c0 : Int) (count blank : Nat) : State × Nat × Bool :=
  let fillAll := repeatElem w blank count
  match row with
  | none => (s, fillAll, false)
  | some a =>
    let k := clip c0 count size
    if k.2 = 0 then (s, fillAll, false)
    else
      let r := readRun s who (8 * a + k.1 * w) (k.2 * w) (repeatElem w blank (512 / w))
      let at_ := ((k.1 : Int) - c0).toNat * w
      (r.1, fillAll % 2 ^ at_ + 2 ^ at_ * r.2.1 + fillAll / 2 ^ (at_ + k.2 * w) * 2 ^ (at_ + k.2 * w), r.2.2)

/-- The word writes of such a run, and how many items lie out of bounds. -/
def writeItems (row : Option Nat) (w size : Nat) (c0 : Int) (count x : Nat) : List WordWr × Nat :=
  match row with
  | none => ([], count)
  | some a =>
    let k := clip c0 count size
    if k.2 = 0 then ([], count)
    else (runWrites (8 * a + k.1 * w) (k.2 * w) (x / 2 ^ (((k.1 : Int) - c0).toNat * w)), count - k.2)

/-- Address of the scale row at c_1 (R69). -/
def scaleRow (d : Desc) (o1 : Int) : Option Nat :=
  match outerOff d 1 [o1] with
  | some x => some ((tdBase d : Int) + tdScaleOff d + x / 2 ^ tdScaleShift d).toNat
  | none => none

/-- Packed beat `q` of the 2,048 elements from `o0` of the row at c_1 = `o1` (R71, R74, R189). -/
def readPacked (s : State) (who : Who) (d : Desc) (p : PForm) (o0 o1 : Int) (q : Nat) : State × Nat × Bool :=
  if q = pfValues p then readItems s who (scaleRow d o1) 8 (ceilDiv (tdSize d 0) 32) (o0 / 32) 64 (fillScale d)
  else if pfPlanes p = 0 then readItems s who (rowAt d o1) 8 (tdSize d 0) (o0 + 256 * q) 256 (fillElem d)
  else
    readItems s who ((rowAt d o1).map (· + q * tdPlaneStride d)) 1 (tdSize d 0) o0 2048
      (fillElem d / 2 ^ (pfFirst p + q) % 2)

/-- Which of the 2,048 elements have an in-bounds destination. -/
def packLive (d : Desc) (o0 o1 : Int) : List Bool :=
  (upto 2048).map (fun i => (rowAt d o1).isSome && decide (0 ≤ o0 + (i : Int) ∧ o0 + (i : Int) < tdSize d 0))

/-- The store-queue entry of packed beat `q`. Elements dropped are counted once, with the first beat (R189). -/
def packEntry (d : Desc) (p : PForm) (o0 o1 : Int) (q x : Nat) (psn : Bool) (dropped : Nat) : SqEntry :=
  let ws := if q = pfValues p then writeItems (scaleRow d o1) 8 (ceilDiv (tdSize d 0) 32) (o0 / 32) 64 x
    else if pfPlanes p = 0 then writeItems (rowAt d o1) 8 (tdSize d 0) (o0 + 256 * q) 256 x
    else writeItems ((rowAt d o1).map (· + q * tdPlaneStride d)) 1 (tdSize d 0) o0 2048 x
  { dst := .mem ws.1, psn := psn, drop := if q = 0 then dropped else 0
    ew := if pfPlanes p = 0 ∧ q < 8 then 8 else if q = 0 then 1 else 2 ^ 20 }

/-- The entries PACK pushes for one group of container beats (R189, R190). -/
def packEntries (d : Desc) (p : PForm) (o0 o1 : Int) (regs : List (Bits × Bool)) : List SqEntry :=
  let live := packLive d o0 o1
  let xs := regs.flatMap (fun r => toElems (pfWidth p) (2048 / pfWidth p) r.1.toNat)
  let beats := packGroup p (tdRtz d) (tdSat d) xs live
  let psn := regs.any (·.2)
  let dropped := (live.filter (!·)).length
  (beats.zipIdx).map (fun b => packEntry d p o0 o1 b.2 b.1 psn dropped)

/-- What PACK and the D form of UNPK accept (R189). -/
def packAccepts (d : Desc) : Bool := isLocal d && (packedForm d).isSome

/-- Packed beats 0 to n - 1 of a group. -/
def readGroup (who : Who) (d : Desc) (p : PForm) (o0 o1 : Int) : Nat → Nat → State → State × List (Nat × Bool)
  | 0, _, s => (s, [])
  | n + 1, q, s =>
    let r := readPacked s who d p o0 o1 q
    let t := readGroup who d p o0 o1 n (q + 1) r.1
    (t.1, r.2 :: t.2)

/-- The checks PACK and UNPK make at decode: the descriptor, the run of registers (DEDUCED, log 20), the alignment of
o_0 (R100, R189). -/
def packCheck (d : Desc) (v : VReg) (o0 : Int) : Option Err :=
  match checkTd d false packAccepts with
  | some e => some e
  | none =>
    match packedForm d with
    | none => some .tdSpace
    | some p =>
      if 32 < v.val + pfRegs p then some .shapeMismatch
      else if o0 % 2048 ≠ 0 then some .tdAlign else none

/-- The registers UNPK writes from packed beats (R189). -/
def unpackInto (s : State) (c : CoreId) (vd : VReg) (p : PForm) (beats : List (Nat × Bool)) : State :=
  let psn := beats.any (·.2)
  writeRun s c vd ((containerBeats p (unpackGroup p (beats.map (·.1)))).map (fun b => (b, psn)))

end Sys2Proof.Machine
end

