-- ==== Sys2Proof/Machine/Flits.lean ====
section
/-! DEFINITION. Flits: headers, checks and placing on a stream (R312, R316 to R319, R322). -/

namespace Sys2Proof.Machine

/-! ### Header fields (Table 13-3) -/

def fType (f : Flit) : Nat := fldN f.hdr 0 4
def fLabel (f : Flit) : Nat := fldN f.hdr 4 12
def fSeq (f : Flit) : BitVec 10 := fld f.hdr 16 10
def fAck (f : Flit) : BitVec 10 := fld f.hdr 26 10
def fNak (f : Flit) : Bool := bitOf f.hdr 36
def fLast (f : Flit) : Bool := bitOf f.hdr 37
def fInc (f : Flit) : Nat := fldN f.hdr 38 2
def fCtr (f : Flit) : Ctr := ⟨fldN f.hdr 40 10, (f.hdr.extractLsb' 40 10).isLt⟩
def fDl (f : Flit) : Nat := fldN f.hdr 50 8
/-- Local byte address of the operation. -/
def fAddr (f : Flit) : Nat := 64 * fldN f.hdr 58 25
/-- Payload words. -/
def fWords (f : Flit) : Nat := fldN f.hdr 83 2 + 1
def fPsn (f : Flit) : Bool := bitOf f.hdr 85
def fReserved (f : Flit) : Nat := fldN f.hdr 86 2

/-- Flit types (Table 13-4). -/
def tIdle : Nat := 0
def tWr : Nat := 1
def tRdReq : Nat := 2
def tRdRsp : Nat := 3
def tInc : Nat := 4
def tAdd : Nat := 5
def tCred : Nat := 6
def tCret : Nat := 7
def tNack : Nat := 8
def tTick : Nat := 9

/-- A header before its deadline, sequence and checks are set. -/
def mkHdr (typ label inc ctr addr nw : Nat) (last psn : Bool) : BitVec 128 :=
  BitVec.ofNat 128 (typ % 16 + label % 4096 * 2 ^ 4 + b2n last * 2 ^ 37 + inc % 4 * 2 ^ 38 + ctr % 1024 * 2 ^ 40
    + addr / 64 % 2 ^ 25 * 2 ^ 58 + nw % 4 * 2 ^ 83 + b2n psn * 2 ^ 85)

/-- The header bytes that `CRC` covers: link fields and checks as 0 (R317). -/
def crcHdr (h : BitVec 128) : BitVec 128 := setFld (setFld (setFld h 4 12 0) 16 21 0) 88 40 0

/-- `CRC` over header and payload (R317). -/
def flitCrc (f : Flit) : Word := crc32c (bytesOf (crcHdr f.hdr) 16 ++ bytesOf f.data 256)

/-- `HCRC` over header bytes 0 to 10 (R317). -/
def flitHcrc (f : Flit) : Byte := crc8 (bytesOf f.hdr 11)

/-- `HCRC` recomputed, as every hop does that changes the header (R317). -/
def resealHdr (f : Flit) : Flit := { f with hdr := setFld f.hdr 88 8 (flitHcrc f).toNat }

/-- Both checks set at the source; an IDLE word carries no `CRC` (R317). -/
def sealFlit (f : Flit) : Flit :=
  let f := { f with hdr := setFld f.hdr 96 32 (if fType f = tIdle then 0 else (flitCrc f).toNat) }
  resealHdr f

/-- The label rewritten for the next hop (R314, R317). -/
def relabel (f : Flit) (label : Nat) : Flit := resealHdr { f with hdr := setFld f.hdr 4 12 label }

/-- Header and payload check, no reserved bit, type or `INC` is set (R316, R317). -/
def flitGood (f : Flit) : Bool :=
  (fldN f.hdr 88 8 = (flitHcrc f).toNat) && (fType f = tIdle || fldN f.hdr 96 32 = (flitCrc f).toNat)
    && fReserved f = 0 && decide (fType f ≤ 9) && decide (fInc f ≠ 3)

/-- Types whose acceptance spends a credit (Table 13-4). -/
def needsCredit (typ : Nat) : Bool := typ = tWr || typ = tRdReq || typ = tInc || typ = tAdd

/-! ### Stream entries (Table 13-1) -/

def stLabel (x : Stream) : Nat := fldN x.entry 9 12
def stViaNoc (x : Stream) : Bool := bitOf x.entry 21
def stViaUnit (x : Stream) : BitVec 6 := fld x.entry 22 6
def stD2 (x : Stream) : Bool := bitOf x.entry 28
def stHops (x : Stream) : Nat := fldN x.entry 30 4
def stAcceptBy (x : Stream) : Nat := fldN x.entry 34 24
def stQuota (x : Stream) : Nat := fldN x.entry 58 21
def stCredInit (x : Stream) : BitVec 16 := fld x.entry 79 16
def stBcast (x : Stream) : Bool := bitOf x.entry 95

/-- A flit of an ordinary stream, on its way to admission (R312). -/
def outFlit (x : Stream) (typ inc ctr addr nw : Nat) (last psn : Bool) (data : Bits) : OutFlit :=
  { f := { hdr := mkHdr typ (stLabel x) inc ctr addr nw last psn, data := data }
    viaNoc := stViaNoc x, viaUnit := stViaUnit x, hops := stHops x }

/-- The agent of a stream (Table 13-1). -/
def streamAgent (x : Stream) : Option Agent :=
  if !bitOf x.entry 0 then none
  else
    let id := fldN x.entry 3 5
    match fldN x.entry 1 2 with
    | 0 => some (.core ⟨id % 16, by omega⟩)
    | 1 => some (.chan ⟨id % 32, by omega⟩)
    | 2 => some (.ea ⟨id % 2, by omega⟩)
    | _ => none

/-- Flits that wait for admission on a stream (R50). -/
def offer (s : State) (t : StreamId) (fs : List OutFlit) : State := modStream s t (fun x => { x with wait := x.wait ++ fs })

/-- The WR flits of a run of beats: (address, words, data, poison) (R318, R319). -/
def wrRun (x : Stream) (inc ctr : Nat) (bs : List (Nat × Nat × Bits × Bool)) : List OutFlit :=
  (bs.zipIdx).map (fun b => outFlit x tWr inc ctr b.1.1 (b.1.2.1 - 1) (decide (b.2 + 1 = bs.length)) b.1.2.2.2 b.1.2.2.1)

/-- The INC flit that stands for a run which sends no WR flit (R319). -/
def emptyRun (x : Stream) (inc ctr : Nat) : List OutFlit :=
  if inc = 0 then [] else [outFlit x tInc 0 ctr 0 0 false false (if inc = 1 then 1 else 0)]

/-! ### RWT, RRD, RINC (R193 to R195) -/

/-- A remote instruction of core `c` on stream `t`: the synchronisation unit must be free, the stream the core's, and a
fence there is a contained error of the core (R87, R312, R326). -/
def withStream (s : State) (c : CoreId) (t : StreamId) (f : State → State) : State :=
  if syncBusy s c || !coreStream s.rmt.streams[t] c then s
  else if s.rmt.streams[t].fenced then fenceCore (logFenced s t (locCore c)) c
  else f s

/-- RWT sends n flits from v_a on, on its stream (R193). -/
def execRwt (c : CoreId) (adv : Bool) (inc : BitVec 2) (d : DReg) (va : VReg) (ctr : Ctr) (st : StreamId) (nM1 : BitVec 5)
    (s : State) : Res :=
  .next (issue s c { units := [.sync], reads := (upto (nM1.toNat + 1)).map (vPlus va) } (fun s =>
    let t := s.cores[c].d[d]
    withChecks s c (checkTd t false isGlobal) 0 (fun s =>
      withStream s c st (fun s =>
        let bs := (upto (nM1.toNat + 1)).map (fun i => let x := readV s c (vPlus va i); (tdBase t + 256 * i, 4, x.1, x.2))
        retire (advance (offer s st (wrRun s.rmt.streams[st] inc.toNat ctr.val bs)) c adv d) c 1))))

/-- What the destination of an RRD must be: unit-local Near Store (R194). -/
def rrdDst (d : Desc) : Bool := localRow d && inNear d
/-- What its source must be. -/
def rrdSrc (d : Desc) : Bool := isGlobal d && tdLayout d = lRow

/-- RRD asks for a remote tensor: one flit that carries both descriptors (R194, Table 13-4). -/
def execRrd (c : CoreId) (adv : Bool) (inc : BitVec 2) (dd sd : DReg) (ctr : Ctr) (st : StreamId) (s : State) : Res :=
  .next (issue s c syncNeeds (fun s =>
    let t := s.cores[c].d[dd]
    let u := s.cores[c].d[sd]
    withChecks s c (checkTds [(t, rrdDst), (u, rrdSrc)]) 0 (fun s =>
      withStream s c st (fun s =>
        let f := outFlit s.rmt.streams[st] tRdReq inc.toNat ctr.val 0 1 false false ((u.setWidth 2048) ||| (t.setWidth 2048 <<< 512))
        retire (advance (offer s st [f]) c adv dd) c 1))))

/-- The checks of an RINC's descriptor, with its own condition on `BASE` in the place of the alignment row (R195). -/
def rincCheck (d : Desc) (add : Bool) : Option Err :=
  match checkTd d true isGlobal with
  | some .tdSpace => if add && tdBase d % 4 ≠ 0 then some .tdAlign else some .tdSpace
  | some e => some e
  | none => if add && tdBase d % 4 ≠ 0 then some .tdAlign else none

/-- RINC sends one INC or ADD flit with the value of s_a (R195, R321). -/
def execRinc (c : CoreId) (adv add cnt : Bool) (d : DReg) (sa : SReg) (ctr : Ctr) (st : StreamId) (s : State) : Res :=
  .next (issue s c syncNeeds (fun s =>
    let t := s.cores[c].d[d]
    withChecks s c (rincCheck t add) 0 (fun s =>
      withStream s c st (fun s =>
        let x := s.cores[c].s[sa].toNat
        let f := if add then outFlit s.rmt.streams[st] tAdd 0 ctr.val (tdBase t) 0 cnt false
            (BitVec.ofNat 2048 (x + tdBase t / 4 % 16 * 2 ^ 32))
          else outFlit s.rmt.streams[st] tInc 0 ctr.val 0 0 false false (BitVec.ofNat 2048 x)
        retire (advance (offer s st [f]) c adv d) c 1))))

end Sys2Proof.Machine
end

