-- ==== Sys2Proof/Machine/Fuse.lean ====
section
/-! DEFINITION. Fused commands (R197 to R201). -/

namespace Sys2Proof.Machine

/-! ### Fields of a stage word (Tables 8-1 and 8-3) -/

def wOpc (w : BitVec 64) : Nat := fldN w 56 8
def wAdv (w : BitVec 64) : Bool := bitOf w 55
def wFlg (w : BitVec 64) : Nat := fldN w 48 7
def wDst (w : BitVec 64) : Nat := fldN w 40 8
def wSrcA (w : BitVec 64) : Nat := fldN w 32 8
def wSrcB (w : BitVec 64) : Nat := fldN w 24 8
def wImm (w : BitVec 64) : Nat := fldN w 0 24
/-- Kind of an operand byte (Table 8-2). -/
def opKind (b : Nat) : Nat := b / 32
/-- Number of an operand byte. -/
def opNum (b : Nat) : Nat := b % 32
/-- The descriptor register of an operand byte. -/
def opD (b : Nat) : DReg := ⟨b % 16, by omega⟩
/-- The scalar pair in `FLG[54:51]` (R187, R189). -/
def wPair (w : BitVec 64) : Nat := wFlg w / 8 % 16

/-- Trivet class of a `FLG` or `IMM` value. -/
def clsOfNum (n : Nat) : TClass := match n % 4 with | 0 => .w1 | 1 => .w8 | 2 => .w16 | _ => .w32

/-- The descriptor an operand byte of a stage names, as it was when the FUSE issued (R176). -/
def stageDesc (m : Mark) (b : Nat) : Desc := m.d[opD b]

/-- Packed form of a PACK or UNPK stage: the descriptor's, or the immediate's (R189). An UNPK stage with hand-over input has
no descriptor, and R189 gives the immediate's fields for the LQ form only: the model reads them for it too (DESIGN CHOICE,
log 83). -/
def stageForm (m : Mark) (w : BitVec 64) : PForm :=
  let imm : PForm := { fmt := wImm w / 32 % 32, planes := wImm w / 1024 % 16 + 1 }
  let b := if wOpc w = 0x29 then wDst w else wSrcA w
  if opKind b = 3 then (match packedForm (stageDesc m b) with | some p => p | none => imm) else imm

/-- Origin of group `g` of a stage with a descriptor: the groups follow one another along the row, then down the rows, as
the beats of a read stage do (DESIGN CHOICE, log 19). -/
def groupOrigin (m : Mark) (w : BitVec 64) (d : Desc) (g : Nat) : Int × Int :=
  let o0 := m.s[wPair w % 16].toInt
  let o1 := m.s[(wPair w + 1) % 16].toInt
  let n : Int := ceilDiv (tdSize d 0) 2048
  let b := o0 / 2048
  if g = 0 then (o0, o1)
  else if 0 ≤ b ∧ b < n then (2048 * ((b + g) % n), o1 + (b + g) / n)
  else (o0 + 2048 * g, o1)

/-! ### Groups (Table 8-6) -/

/-- Source and destination `FMT` of a CVT stage. -/
def cvtFmts (w : BitVec 64) : Nat × Nat := (wImm w % 32, wImm w / 32 % 32)

/-- Beats a stage takes for one group. -/
def groupIn (m : Mark) (w : BitVec 64) : Nat :=
  match wOpc w with
  | 0x2A => pfBeats (stageForm m w)
  | 0x29 => pfRegs (stageForm m w)
  | 0x28 => let f := cvtFmts w; max 1 (fmtWidth f.1 / max 1 (fmtWidth f.2))
  | 0x10 => wImm w % 128 + 1
  | _ => 1

/-- Beats a stage hands over for one group. -/
def groupOut (m : Mark) (w : BitVec 64) : Nat :=
  match wOpc w with
  | 0x2A => pfRegs (stageForm m w)
  | 0x29 => pfBeats (stageForm m w)
  | 0x28 => let f := cvtFmts w; max 1 (fmtWidth f.2 / max 1 (fmtWidth f.1))
  | 0x10 => 128
  | _ => 1

/-- Beats the last stage hands over when the first takes `n`. -/
def fuseOut (m : Mark) (n : Nat) (ws : List (BitVec 64)) : Nat :=
  ws.foldl (fun n w => n / groupIn m w * groupOut m w) n

/-! ### Checks at decode, stage by stage (R100, R199) -/

/-- Route source of a PRM stage. -/
def stageRoute (w : BitVec 64) : RouteSrc :=
  if wImm w / 2 ^ 23 % 2 = 1 then .map ⟨wImm w % 16, by omega⟩ else .slot ⟨wImm w % 64, by omega⟩

/-- The Trivet pair of a TWR stage: t and t + 1. -/
def stageTrivets (w : BitVec 64) : TrivetId × TrivetId :=
  (⟨opNum (wSrcB w) % 4, by omega⟩, ⟨(opNum (wSrcB w) + 1) % 4, by omega⟩)

/-- Both Trivets are empty and of the stage's class (R199). -/
def stageTrivetsOk (s : State) (c : CoreId) (w : BitVec 64) : Bool :=
  let k := clsOfNum (wFlg w)
  let ok (t : TrivetId) : Bool := decide (s.cores[c].t[t].cls = k) && !s.cores[c].t[t].full
  ok (stageTrivets w).1 && ok (stageTrivets w).2

/-- The first of two failing checks. -/
def firstErr (a b : Option Err) : Option Err := match a with | some e => some e | none => b

/-- The checks one stage's instruction makes at decode: those of its descriptors, the destination's first, as R100 orders
them, its route's or its Trivets'. -/
def stageCheck (s : State) (c : CoreId) (w : BitVec 64) : Option Err :=
  let d (b : Nat) : Desc := s.cores[c].d[opD b]
  let beats (b : Nat) : Option Err := if opKind b = 3 then checkTd (d b) false beatOk else none
  let packed (b : Nat) : Option Err := if opKind b = 3 then packCheck (d b) 0 (sInt s c ⟨wPair w % 16, by omega⟩) else none
  match wOpc w with
  | 0x08 | 0x09 | 0x28 => firstErr (beats (wDst w)) (beats (wSrcA w))
  | 0x2A => firstErr (beats (wDst w)) (packed (wSrcA w))
  | 0x29 => firstErr (packed (wDst w)) (beats (wSrcA w))
  | 0x18 => routeCheck s c (wFlg w % 8) (stageRoute w)
  | 0x10 => if stageTrivetsOk s c w then none else some .shapeMismatch
  | _ => none

/-- The first failing check of all stages. -/
def stagesCheck (s : State) (c : CoreId) : List (BitVec 64) → Option Err
  | [] => none
  | w :: r => match stageCheck s c w with | some e => some e | none => stagesCheck s c r

/-! ### Beats through the stages (R198, R200, R201) -/

/-- What one stage makes of a whole group: beats for the next stage, and beats to push, which a pack stage makes with their
own addresses. None after a contained error. -/
def stageRun (s : State) (c : CoreId) (m : Mark) (w : BitVec 64) (g : Nat) (xs : List (Bits × Bool)) :
    State × Option (List (Bits × Bool) × List SqPush) :=
  let psn := xs.any (·.2)
  match wOpc w with
  | 0x2A =>
    (s, some ((containerBeats (stageForm m w) (unpackGroup (stageForm m w) (xs.map (fun b => b.1.toNat)))).map (fun b => (b, psn)), []))
  | 0x29 =>
    let d := stageDesc m (wDst w)
    let o := groupOrigin m w d g
    (s, some ([], (packEntries d (stageForm m w) o.1 o.2 xs).map .own))
  | 0x28 =>
    let f := cvtFmts w
    let n := 2048 / max 1 (fmtWidth f.1)
    let ys := xs.flatMap (fun b => convertRun f.1 f.2 (bitOf w 10) (bitOf w 11) b.1 0 n)
    let k := 2048 / max 1 (fmtWidth f.2)
    (s, some ((upto (ceilDiv ys.length k)).map (fun i => (BitVec.ofNat 2048 (ofElems (fmtWidth f.2) ((ys.drop (k * i)).take k)), psn)), []))
  | 0x10 =>
    let k := clsOfNum (wFlg w)
    let t : Trivet := { cls := k, full := true, rows := xs.length, cols := 2048 / clsWidth k, data := xs.map (·.1), psn := psn }
    (countBeats (countRows s c xs.length) c 128, some ((upto 128).map (fun j => (trivetBeat t j, psn)), []))
  | 0x18 =>
    match xs with
    | [] => (s, some ([], []))
    | b :: _ => match netUse s c m.pc (wFlg w % 8) m.d (stageRoute w) b.1 with
      | (s, none) => (s, none)
      | (s, some y) => (s, some ([(y, b.2)], []))
  | _ => (s, some (xs, []))

/-- A fused command in progress: the beats to push, those the last stage has delivered, and whether a fault has ended it. -/
structure FRun where
  s : State
  out : List SqPush := []
  sunk : Nat := 0
  bad : Bool := false
  deriving DecidableEq, Repr

/-- Beat position a VLD or VST stage starts from (R198). A beat past the row, or an outer coordinate past dimension 1, which
the rule leaves open, goes on into the next row or the next higher dimension (DESIGN CHOICE, log 83). -/
def stageStart (d : Desc) (w : BitVec 64) : Nat := wImm w / 4096 * beatsPerRow d + wImm w % 4096

/-- The last stage's output: the store list, or the next beat position of its descriptor (R198). -/
def fuseSink (m : Mark) (w : BitVec 64) (b : Bits × Bool) (r : FRun) : FRun :=
  let p : SqPush :=
    if opKind (wDst w) = 6 then .list b.1 b.2
    else
      let d := stageDesc m (wDst w)
      let p := beatSeq d ((if wOpc w = 0x09 then stageStart d w else 0) + r.sunk)
      let x := writeBeat d (beatAt d p.1 p.2) p.2 b.1
      .own { dst := .mem x.1, psn := b.2, drop := x.2, ew := max 1 (tdWidth d) }
  { r with out := r.out ++ [p], sunk := r.sunk + 1 }

/-- A beat fed to the stages; `n` is at least their number. -/
def feedStages (c : CoreId) (m : Mark) (last : BitVec 64) : Nat → List FStage → Bits × Bool → FRun → List FStage × FRun
  | 0, st, _, r => (st, r)
  | _ + 1, [], b, r => ([], fuseSink m last b r)
  | n + 1, x :: rest, b, r =>
    if r.bad then (x :: rest, r)
    else
      let buf := x.buf ++ [b]
      if buf.length < groupIn m x.w then ({ x with buf := buf } :: rest, r)
      else match stageRun r.s c m x.w x.groups buf with
        | (s, none) => (x :: rest, { r with s := s, bad := true })
        | (s, some outs) =>
          let q := outs.1.foldl (fun (acc : List FStage × FRun) o => feedStages c m last n acc.1 o acc.2)
            (rest, { r with s := s, out := r.out ++ outs.2 })
          ({ x with buf := [], groups := x.groups + 1 } :: q.1, q.2)

/-- Input beat `i` of a first stage with a descriptor: a one-stage CVT or PACK names no start and reads from beat 0, as one
with a descriptor for its output writes from there (R198, R199; DESIGN CHOICE, log 19). -/
def fuseRead (s : State) (c : CoreId) (m : Mark) (w : BitVec 64) (i : Nat) : State × Bits × Bool :=
  let d := stageDesc m (wSrcA w)
  if wOpc w = 0x2A then
    let p := stageForm m w
    let o := groupOrigin m w d (i / max 1 (pfBeats p))
    let r := readPacked s (whoFetch c) d p o.1 o.2 (i % max 1 (pfBeats p))
    (r.1, BitVec.ofNat 2048 r.2.1, r.2.2)
  else
    let p := beatSeq d ((if wOpc w = 0x08 then stageStart d w else 0) + i)
    readBeat s (whoFetch c) d (beatAt d p.1 p.2)

/-- `ADV` of a stage word (R176, R198). -/
def stageAdvance (c : CoreId) (w : BitVec 64) (s : State) : State :=
  if wAdv w then
    (if opKind (wDst w) = 3 then advance s c true (opD (wDst w))
     else if opKind (wSrcA w) = 3 then advance s c true (opD (wSrcA w)) else s)
  else s

/-- Functional units of a stage (Table 8-6). -/
def stageUnits (w : BitVec 64) : List FUnit :=
  match wOpc w with
  | 0x08 | 0x0D => [.load]
  | 0x2A | 0x28 | 0x29 => [.convert]
  | 0x10 => [.trvWrite, .trvRead]
  | 0x18 => [.net]
  | _ => [.store]

/-- What a FUSE holds until its last stage has completed (R87, Table 8-4). -/
def fuseNeeds (stages : List (BitVec 64)) : Needs :=
  { units := stages.flatMap stageUnits
    trivets := stages.flatMap (fun w => if wOpc w = 0x10 then [(stageTrivets w).1, (stageTrivets w).2] else [])
    takes := (stages.head?.map (fun w => decide (opKind (wSrcA w) = 5))).getD false
    pushes := true }

end Sys2Proof.Machine
end

