-- ==== Sys2Proof/Machine/Tiles.lean ====
section
/-! DEFINITION. Multi-beat instructions: what one in progress does as beats, queue room and its Ladle come, and the
instructions TWR, TRD, GTH, SCT, PACK, UNPK and FUSE (R87, R89, R99, R141 to R147, R150, R189, R197 to R201, log 15). -/

namespace Sys2Proof.Machine

/-! ### An instruction in progress -/

/-- The Ladle command of a GTH or an SCT in progress. -/
def progLad (c : CoreId) (p : Prog) : Option LadCmd :=
  match p.cmd with
  | .gth _ _ _ srcD idxD k var => some (coreLadCmd p.mark.d c srcD idxD k var)
  | .sct _ _ dstD _ idxD k var _ => some (coreLadCmd p.mark.d c dstD idxD k var)
  | _ => none

/-- The Ladle has taken a GTH: it gathers, and its beats go to registers, to the store queue at list positions, or to the
store queue with their own addresses (R152, R160). A poisoned index fails the core, after the beats before it (R377). -/
def startGth (c : CoreId) (m : LadCmd) (dst : GthDst) (p : Prog) (s : State) : State × Option Prog :=
  let g := runGather m (clOf c) s
  let bits := g.2.1.map (fun b => (beatBits m b, b.psn))
  let r : State × List SqPush := match dst with
    | .regs v => (writeRun g.1 c v bits, [])
    | .queue => (g.1, bits.map (fun b => .list b.1 b.2))
    | .mem d =>
      let e := gatherEntries g.1 m p.mark.d[d] g.2.1
      (e.1, e.2.map (fun w => .own { dst := .mem w.1, psn := w.2 }))
  if g.2.2 then (failCore (pushSome c r.2 r.1).1 c .poisonIndex 0, none)
  else (r.1, some { p with ladle := false, out := r.2 })

/-- The Ladle has taken the command of an instruction in progress. -/
def startLad (c : CoreId) (p : Prog) (s : State) : State × Option Prog :=
  match p.cmd, progLad c p with
  | .gth _ _ dst _ _ _ _, some m => startGth c m dst p s
  | _, _ => (s, some { p with ladle := false })

/-- A scatter runs in its Ladle from its source beats (R153, R162 to R165). Poison it writes is covered by a later SIG
(R109). -/
def finishSct (c : CoreId) (m : LadCmd) (acc : Bool) (f : SctFrom) (s : State) : State :=
  let r := runScatter m (clOf c) acc f s
  let s := countOob (modCore r.s c (fun x => { x with wrPsn := x.wrPsn || r.psn })) c (r.sum.crossed * 8 / max 1 (ladW m))
  match r.stop with
  | none => ladFrees s (clOf c)
  | some .poisonIndex => failCore s c .poisonIndex 0
  | some (.residue p) => failLadle s (clOf c) (residueDetail p (locCore c))
  | some .off => fenceCore s c

/-- Where an SCT's source beats come from, `got` being those taken from the load queue. -/
def sctFrom (s : State) (c : CoreId) (m : LadCmd) (mark : Mark) (got : List (Bits × Bool)) : SctSrc → SctFrom
  | .regs v => .beats ((upto (ladBeats m)).map (fun i => readV s c (vPlus v i)))
  | .mem d => .mem (whoFetch c) mark.d[d]
  | .queue => .beats got

/-- What an instruction in progress does when it has taken and pushed its last beat (R99, R141, R146, R150, R189). -/
def progFinish (c : CoreId) (p : Prog) (s : State) : State :=
  match p.cmd, progLad c p with
  | .twr _ _ cls _ t _, _ => putTrivet s c t (2048 / clsWidth cls) p.got
  | .trd _ _ _ rel t _ _ _, _ => releaseTrivet s c t rel
  | .unpk _ _ vd (.queue fmt km1) _, _ =>
    unpackInto s c vd { fmt := fmt.toNat, planes := km1.toNat + 1 } (p.got.map (fun b => (b.1.toNat, b.2)))
  | .gth .., _ => ladFrees s (clOf c)
  | .sct _ _ _ src _ _ _ acc, some m => finishSct c m acc (sctFrom s c m p.mark p.got src) s
  | _, _ => s

/-- The next input beat of an instruction in progress, from the load queue or through a FUSE's descriptor. -/
def progTake (c : CoreId) (p : Prog) (s : State) : State × Bits × Bool :=
  if p.needs.takes then popLq s c
  else match p.cmd with
    | .fuse _ bM1 (w :: _) => fuseRead s c p.mark w (bM1.toNat + 1 - p.need)
    | _ => (s, 0, false)

/-- An input beat taken: a row of a TWR, a beat of the first stage of a FUSE, or one kept for the end (R142, R198, R200). -/
def progFeed (c : CoreId) (p : Prog) (s : State) (b : Bits × Bool) : State × Option Prog :=
  match p.cmd with
  | .fuse _ _ ws =>
    let q := feedStages c p.mark (ws.getLast?.getD 0) (ws.length + 1) p.stages b { s := s, sunk := p.sunk }
    if q.2.bad then (q.2.s, none)
    else (q.2.s, some { p with need := p.need - 1, stages := q.1, out := p.out ++ q.2.out, sunk := q.2.sunk })
  | .twr .. => (countRows s c 1, some { p with need := p.need - 1, got := p.got ++ [b] })
  | _ => (s, some { p with need := p.need - 1, got := p.got ++ [b] })

/-- Beats pushed by an instruction in progress: each is a beat read of a TRD (R149). -/
def progPush (c : CoreId) (p : Prog) (s : State) : State × Prog :=
  let q := pushSome c p.out s
  let n := p.out.length - q.2.length
  let s := if n = 0 then q.1 else progress q.1 (.core c)
  (match p.cmd with | .trd .. => countBeats s c n | _ => s, { p with out := q.2 })

/-- What an instruction in progress waits for (Table 15-6). -/
def progWait (p : Prog) : Option Wait :=
  if !p.out.isEmpty then some .sq else if p.ladle then some .ladle else if p.need = 0 then none else some .lq

/-- An instruction in progress goes on as far as it can: it pushes what the store queue has room for, waits for its Ladle
and for beats, and completes. None when it has completed or failed (R85, R87, R89, R150). -/
def runProg (c : CoreId) : Nat → Prog → State → State × Option Prog
  | 0, p, s => (s, some p)
  | n + 1, p, s =>
    let q := progPush c p s
    let s := q.1
    let p := q.2
    if s.cores[c].errDue then (s, none)
    else if !p.out.isEmpty then (s, some p)
    else if p.ladle then
      if s.cls[clOf c].running = some (.core c) then
        match startLad c p s with
        | (s, none) => (s, none)
        | (s, some p) => runProg c n p s
      else (s, some p)
    else if p.need = 0 then (progFinish c p s, none)
    else if p.needs.takes && s.cores[c].lq.isEmpty then (s, some p)
    else
      let b := progTake c p (progress s (.core c))
      match progFeed c p b.1 b.2 with
      | (s, none) => (s, none)
      | (s, some p) => runProg c n p s

/-- The instructions of a list go on one after another, oldest first; a core that has stopped keeps none. -/
def runList (c : CoreId) : List Prog → State → State
  | [], s => s
  | p :: r, s =>
    if s.cores[c].st ≠ .run then s
    else
      let q := runProg c (p.need + 3) p s
      runList c r (match q.2 with
        | some p => if q.1.cores[c].st = .run then modCore q.1 c (fun x => { x with prog := x.prog ++ [p] }) else q.1
        | none => q.1)

/-- The instructions in progress on core `c` go on. -/
def runProgs (c : CoreId) (s : State) : State :=
  runList c s.cores[c].prog (modCore s c (fun x => { x with prog := [] }))

/-- A multi-beat instruction issues: the program counter passes its `n` words, `adv` is made of its descriptor registers,
and it goes on from there (R87, R176). -/
def launch (s : State) (c : CoreId) (p : Prog) (n : Nat) (adv : State → State) : State :=
  runProgs c (modCore (retire (adv s) c n) c (fun x => { x with prog := x.prog ++ [p] }))

/-! ### TWR and TRD (R99, R141 to R147) -/

/-- TWR fills an empty Trivet with n rows from registers, the load queue or memory (R99, R141). -/
def execTwr (c : CoreId) (adv : Bool) (cls : TClass) (nM1 : BitVec 7) (t : TrivetId) (src : TwrSrc) (s : State) : Res :=
  let n := nM1.toNat + 1
  let needs : Needs := { units := [.trvWrite], trivets := [t], takes := decide (src = .queue)
                         reads := match src with | .regs a => (upto n).map (vPlus a) | _ => [] }
  .next (issue s c needs (fun s =>
    let td := match src with | .mem d _ _ => checkTd s.cores[c].d[d] false isLocal | _ => none
    withChecks s c td 0 (fun s =>
      if !twrShape s c cls n t src then failCore s c .shapeMismatch s.cores[c].pc
      else match src with
        | .regs a => retire (fillTrivet s c t (2048 / (clsWidth cls)) ((upto n).map (fun i => readV s c (vPlus a i)))) c 1
        | .queue =>
          if lqAvail s c < n then failCore s c .lqUnderrun 0
          else launch s c { cmd := .twr c adv cls nM1 t src, needs := needs, mark := markOf s.cores[c], need := n } 1 id
        | .mem d k cols =>
          let o0 := sInt s c ⟨k.val, by omega⟩
          let o1 := sInt s c ⟨k.val + 1, by omega⟩
          let r := twrRows (whoFetch c) s.cores[c].d[d] o0 (cols.toNat + 1) n o1 s
          retire (advance (fillTrivet r.1 c t (cols.toNat + 1) r.2) c adv d) c 1)))

/-- TRD reads beats, or columns into memory, of a full Trivet (R144, R145). -/
def execTrd (c : CoreId) (adv : Bool) (cls : TClass) (rel : Bool) (t : TrivetId) (start cntM1 : BitVec 11) (dst : TrdDst)
    (s : State) : Res :=
  let m := cntM1.toNat + 1
  let needs : Needs := { units := [.trvRead], trivets := [t]
                         writes := match dst with | .regs a => (upto m).map (vPlus a) | _ => []
                         pushes := match dst with | .regs _ => false | _ => true }
  .next (issue s c needs (fun s =>
    let td := match dst with | .mem d _ => checkTd s.cores[c].d[d] false isLocal | _ => none
    withChecks s c td 0 (fun s =>
      if !trdShape s c cls t start.toNat m dst then failCore s c .shapeMismatch s.cores[c].pc
      else
        let x := s.cores[c].t[t]
        let beats := (span start.toNat m).map (fun j => (trivetBeat x j, x.psn))
        let p : Prog := { cmd := .trd c adv cls rel t start cntM1 dst, needs := needs, mark := markOf s.cores[c] }
        match dst with
        | .regs a => retire (releaseTrivet (countBeats (writeRun s c a beats) c m) c t rel) c 1
        | .queue =>
          if storeLeft s c < m then failCore s c .sqOverrun 0
          else launch s c { p with out := beats.map (fun b => .list b.1 b.2) } 1 id
        | .mem d k =>
          let o0 := sInt s c ⟨k.val, by omega⟩
          let o1 := sInt s c ⟨k.val + 1, by omega⟩
          let es := (upto m).flatMap (fun (i : Nat) => columnEntries x s.cores[c].d[d] o0 (o1 + (i : Int)) (start.toNat + i))
          launch s c { p with out := es.map .own } 1 (fun s => advance s c adv d))))

/-! ### GTH and SCT (R150 to R153, R187) -/

/-- GTH issues a gather along dimension k: it presents to its Ladle (R150 to R152, R187). -/
def execGth (c : CoreId) (adv : Bool) (dst : GthDst) (srcD idxD : DReg) (k : BitVec 3) (var : Bool) (s : State) : Res :=
  let m := coreLadCmd s.cores[c].d c srcD idxD k var
  let needs : Needs := { units := [.ladle]
                         writes := match dst with | .regs v => (upto (min 32 (ladBeats m))).map (vPlus v) | _ => []
                         pushes := match dst with | .regs _ => false | _ => true }
  .next (issue s c needs (fun s =>
    withChecks s c (gthCheck s c m dst) 0 (fun s =>
      if dst = .queue ∧ storeLeft s c < ladBeats m then failCore s c .sqOverrun 0
      else
        launch (ladPresents s (clOf c) (.core c)) c
          { cmd := .gth c adv dst srcD idxD k var, needs := needs, mark := markOf s.cores[c], ladle := true } 1
          (fun s => advance s c adv (match dst with | .mem d => d | _ => srcD)))))

/-- SCT issues a scatter in overwrite or accumulate mode: it presents to its Ladle (R150, R151, R153, R187). -/
def execSct (c : CoreId) (adv : Bool) (dstD : DReg) (src : SctSrc) (idxD : DReg) (k : BitVec 3) (var acc : Bool) (s : State) :
    Res :=
  let m := coreLadCmd s.cores[c].d c dstD idxD k var
  let needs : Needs := { units := [.ladle], takes := decide (src = .queue)
                         reads := match src with | .regs v => (upto (min 32 (ladBeats m))).map (vPlus v) | _ => [] }
  .next (issue s c needs (fun s =>
    withChecks s c (sctCheck s c m dstD src acc) 0 (fun s =>
      if src = .queue ∧ lqAvail s c < ladBeats m then failCore s c .lqUnderrun 0
      else
        launch (ladPresents s (clOf c) (.core c)) c
          { cmd := .sct c adv dstD src idxD k var acc, needs := needs, mark := markOf s.cores[c], ladle := true
            need := if src = .queue then ladBeats m else 0 } 1
          (fun s => advance s c adv dstD))))

/-! ### PACK and UNPK (R188 to R190) -/

/-- PACK converts and splits 2,048 elements of v_a on, and pushes the packed beats with their own addresses (R189). -/
def execPack (c : CoreId) (adv : Bool) (d : DReg) (va : VReg) (k : PairId) (container : BitVec 5) (s : State) : Res :=
  let t := s.cores[c].d[d]
  let n := match packedForm t with | some p => pfRegs p | none => 0
  let needs : Needs := { units := [.convert], reads := (upto n).map (vPlus va), pushes := true }
  .next (issue s c needs (fun s =>
    let o0 := sInt s c ⟨k.val, by omega⟩
    let o1 := sInt s c ⟨k.val + 1, by omega⟩
    withChecks s c (packCheck t va o0) 0 (fun s =>
      match packedForm t with
      | none => s
      | some p =>
        let es := packEntries t p o0 o1 ((upto n).map (fun i => readV s c (vPlus va i)))
        launch s c { cmd := .pack c adv d va k container, needs := needs, mark := markOf s.cores[c], out := es.map .own } 1
          (fun s => advance s c adv d))))

/-- The registers an UNPK writes. -/
def unpkWrites (s : State) (c : CoreId) (vd : VReg) : UnpkSrc → List VReg
  | .queue fmt km1 => (upto (pfRegs { fmt := fmt.toNat, planes := km1.toNat + 1 })).map (vPlus vd)
  | .mem d _ => (upto (match packedForm s.cores[c].d[d] with | some p => pfRegs p | none => 0)).map (vPlus vd)

/-- UNPK assembles and converts 2,048 packed elements into U registers from v_d (R189, R190). -/
def execUnpk (c : CoreId) (adv : Bool) (vd : VReg) (src : UnpkSrc) (container : BitVec 5) (s : State) : Res :=
  let needs : Needs := { units := [.convert], writes := unpkWrites s c vd src
                         takes := match src with | .queue _ _ => true | _ => false }
  .next (issue s c needs (fun s =>
    match src with
    | .queue fmt km1 =>
      let p : PForm := { fmt := fmt.toNat, planes := km1.toNat + 1 }
      if 32 < vd.val + pfRegs p then failCore s c .shapeMismatch s.cores[c].pc
      else if lqAvail s c < pfBeats p then failCore s c .lqUnderrun 0
      else launch s c { cmd := .unpk c adv vd src container, needs := needs, mark := markOf s.cores[c], need := pfBeats p } 1 id
    | .mem d k =>
      let t := s.cores[c].d[d]
      let o0 := sInt s c ⟨k.val, by omega⟩
      let o1 := sInt s c ⟨k.val + 1, by omega⟩
      withChecks s c (packCheck t vd o0) 0 (fun s =>
        match packedForm t with
        | none => s
        | some p =>
          let r := readGroup (whoFetch c) t p o0 o1 (pfBeats p) 0 s
          retire (advance (unpackInto r.1 c vd p r.2) c adv d) c 1)))

/-! ### FUSE (R197 to R201) -/

/-- FUSE runs B beats through its stages (R197 to R201). -/
def execFuse (c : CoreId) (bM1 : BitVec 24) (stages : List (BitVec 64)) (s : State) : Res :=
  .next (issue s c (fuseNeeds stages) (fun s =>
    match stages, stages.getLast? with
    | first :: _, some last =>
      let n := bM1.toNat + 1
      let m := markOf s.cores[c]
      withChecks s c (stagesCheck s c stages) 0 (fun s =>
        if opKind (wSrcA first) = 5 ∧ lqAvail s c < n then failCore s c .lqUnderrun 0
        else if opKind (wDst last) = 6 ∧ storeLeft s c < fuseOut m n stages then failCore s c .sqOverrun 0
        else
          launch s c { cmd := .fuse c bM1 stages, needs := fuseNeeds stages, mark := m, need := n
                       stages := stages.map (fun w => { w := w }) } (1 + stages.length)
            (fun s => stages.foldl (fun s w => stageAdvance c w s) s))
    | _, _ => s))

end Sys2Proof.Machine
end

