-- ==== Sys2Proof/Machine/Taps.lean ====
section
/-! DEFINITION. Norm Taps and TAPC (R196, R257 to R260). -/

namespace Sys2Proof.Machine

/-- The pairwise tree over `2 ^ n` values: adjacent results added, the lower first (R258). -/
def pairTree : Nat → List Word → Word
  | 0, xs => xs.headD 0
  | n + 1, xs => pairTree n ((upto (2 ^ n)).map (fun i => addF32 (xs.getD (2 * i) 0) (xs.getD (2 * i + 1) 0)))

/-- One row's sum of squares; `n` is the tree's depth (R258). -/
def rowNorm (n : Nat) (xs : List Word) : Word := pairTree n (xs.map (fun x => mulF32 x x))

/-- The fold across rows: `k` levels from level `j` on (R258). -/
def foldLevels : Nat → Nat → Word → Vector (Option Word) 24 → Vector (Option Word) 24
  | 0, _, _, l => l
  | k + 1, j, x, l =>
    match l.toList.getD j none with
    | none => l.setIfInBounds j (some x)
    | some y => if j = 23 then l.setIfInBounds j (some (addF32 y x)) else foldLevels k (j + 1) (addF32 y x) (l.setIfInBounds j none)

/-- A row added to a tap; a poisoned row marks it, and so does a residue mismatch, which is logged (R258, R259). -/
def tapAdd (s : State) (t : TapId) (n : Nat) (xs : List Word) (psn : Bool) : State :=
  let bad := s.hwf.contains (.tapResidue t)
  let s := if bad then logRun s .tapResidue (locTap t) 0 else s
  modTap s t (fun x => { x with levels := foldLevels 24 0 (rowNorm n xs) x.levels, rows := sat32 x.rows 1, psn := x.psn || psn || bad })

/-- The value EMIT reports (R258). -/
def tapEmit (x : Tap) : Word := x.levels.toList.foldl (fun s l => match l with | some y => addF32 y s | none => s) 0

/-- A tap with every level empty (R196, R258). -/
def clearTap (x : Tap) : Tap := { x with levels := Vector.replicate 24 none, psn := false }

/-- A TAPC of core `c` on its own task's tap; the load refuses any other (R196). -/
def tapInsn (c : CoreId) (t : TapId) (n : Needs) (f : State → State) (s : State) : Res :=
  .next (issue s c n (fun s => if syncBusy s c || crosses s (corePart c) (tapPart s t) then s else retire (f s) c 1))

/-- CLEAR sets the sum to +0.0 and ends its poison (R196, R259). -/
def execClear (c : CoreId) (tap : TapId) (s : State) : Res := tapInsn c tap syncNeeds (fun s => modTap s tap clearTap) s

/-- ARM: rows that cross from the next cycle on are added (R196). -/
def execArm (c : CoreId) (tap : TapId) (s : State) : Res :=
  tapInsn c tap syncNeeds (fun s => modTap s tap (fun x => { x with armed := true })) s

/-- STOP: rows that cross from the next cycle on are not added (R196). -/
def execStop (c : CoreId) (tap : TapId) (s : State) : Res :=
  tapInsn c tap syncNeeds (fun s => modTap s tap (fun x => { x with armed := false })) s

/-- EMIT writes the sum to element 0 of v_d and +0.0 to the others (R196). -/
def execEmit (c : CoreId) (tap : TapId) (vd : VReg) (s : State) : Res :=
  tapInsn c tap { syncNeeds with writes := [vd] } (fun s => writeV s c vd ((tapEmit s.taps[tap]).setWidth 2048) s.taps[tap].psn) s

end Sys2Proof.Machine
end

