-- ==== Sys2Proof/Machine/Engine.lean ====
section
/-! DEFINITION. The Engine Interface: port programs, presentation, drains, CLIP stages (R242 to R256, R261 to R264, R473
to R475). -/

namespace Sys2Proof.Machine

/-! ### The port sequencer (R243 to R245) -/

/-- The stream a global drain or a SEND of the attachment uses (Table 10-9). -/
def eaStream (x : Attach) : StreamId := ⟨x.stream.toNat, x.stream.isLt⟩
/-- Its broadcast stream. -/
def eaBStream (x : Attach) : StreamId := ⟨x.bstream.toNat, x.bstream.isLt⟩

/-- The attachment runs an item and nothing has stopped it. -/
def eaRuns (s : State) (a : EaId) : Bool :=
  let x := s.eif[a]
  decide (s.u.state = .running) && x.ag.run.isSome && decide (x.st ≠ .halted) && decide (x.st ≠ .fenced) && !x.errDue

/-- The sequencer reaches its next port word: no PANEL presents, no wait and no CLIP stage is open (R245). -/
def atWord (s : State) (a : EaId) : Bool :=
  let x := s.eif[a]
  x.panel.isNone && decide (x.clipLeft = 0) && !x.thrAdded && !x.clipSent

/-- Reading a word of the port program: a corrected error is counted, an uncorrectable one fences the attachment before
the word takes effect (R243). -/
def readPort (s : State) (a : EaId) (f : State → State) : State :=
  let w : Fin 512 := ⟨s.eif[a].word % 512, by omega⟩
  if s.hwf.contains (.eifUe a w) then failEa s a .eifUe 0
  else f (if s.hwf.contains (.eifCe a w) then modEa s a (fun x => { x with ce := sat32 x.ce 1 }) else s)

/-- A port word taken at its place in the program. -/
def portWord (s : State) (a : EaId) (f : State → State) : State :=
  if eaRuns s a && atWord s a then readPort s a f else s

/-- The next word (R245). -/
def nextWord (s : State) (a : EaId) (st : EState) : State :=
  progress (modEa s a (fun x => { x with word := x.word + 1, st := st })) (.ea a)

/-- PANEL starts to present T cycles of operands (R247). -/
def execPanel (a : EaId) (mode : BitVec 2) (haM1 hbM1 : BitVec 4) (srcA srcB : Fin 8) (tM1 : BitVec 11) (ctl : BitVec 24)
    (s : State) : Res :=
  let p : Panel := { mode := mode, ha := haM1.toNat + 1, hb := hbM1.toNat + 1, srcA := srcA, srcB := srcB, t := tM1.toNat + 1, ctl := ctl }
  .next (portWord s a (fun s => progress (modEa s a (fun x => { x with
    panel := some p, pos := 0, st := .panel, out := none, discard := false
    portA := { x.portA with hold := none, store := [], scales := [] }
    portB := { x.portB with hold := none, store := [], scales := [] } })) (.ea a)))

/-! ### Presentation (R246 to R249) -/

/-- The last position taken from a core; positions count from 0, and 0 here is "none" (R246). -/
def lastTaken (p : OpPort) (c : CoreId) : Nat := look 0 p.lastPos c.val

/-- Duplicates at the head of a FIFO discarded, and how many (R246). -/
def dropDups (p : OpPort) : List FeedBeat → Nat → List FeedBeat × Nat
  | [], n => ([], n)
  | b :: r, n => if b.pos < lastTaken p b.core then dropDups p r (n + 1) else (b :: r, n)

/-- Duplicates of one port discarded and counted. -/
def dedup (s : State) (a : EaId) (isB : Bool) : State :=
  let p := portFifo s a isB
  let d := dropDups p p.fifo 0
  modEa (modFeed s a isB (fun p => { p with fifo := d.1 })) a (fun x => { x with dup := sat32 x.dup d.2 })

/-- What a port finds at the head of its FIFO. -/
inductive Head where
  | empty
  | wrong
  | beat (b : FeedBeat)
  deriving DecidableEq, Repr

/-- The head of a port that takes from core `src` of the attachment (R246). -/
def headOf (p : OpPort) (a : EaId) (src : Fin 8) : Head :=
  match p.fifo with
  | [] => .empty
  | b :: _ => if b.core.val = 8 * a.val + src.val then .beat b else .wrong

/-- The head taken: its position becomes the last one taken from its core. -/
def takeHead (p : OpPort) (b : FeedBeat) : OpPort :=
  { p with fifo := p.fifo.drop 1, lastPos := put 0 p.lastPos b.core.val (b.pos + 1) }

/-- Scale groups of a port over the whole PANEL (R249). -/
def scaleGroups (t h : Nat) : Nat := t / h / 8

/-- Scale groups that must be in before fresh beat `i`: groups 0 and 1 first, then one ahead of the data (R249). -/
def scalesBefore (t h i : Nat) : Nat := min (scaleGroups t h) (i / 8 + 2)

/-- Scale groups that must be in before presentation `j`; none outside MXFP4 (R249). -/
def scalesDue (p : Panel) (h j : Nat) : Nat := if p.mode = 2 then scalesBefore p.t h (j / h) else 0

/-- Scale groups that the side channel of a port carries between the presentation before `j` and `j` (R249, R474). -/
def newScales (x : OpPort) (p : Panel) (h j : Nat) : List (BitVec 1024 × Bool) :=
  (x.scales.take (scalesDue p h j)).drop (if j = 0 then 0 else scalesDue p h (j - 1))

/-- Scale beats taken as they reach the head, until `want` groups are in; true when a beat of another core is met. -/
def takeScales (a : EaId) (isB : Bool) (src : Fin 8) (want : Nat) : Nat → State → State × Bool
  | 0, s => (s, false)
  | n + 1, s =>
    let s := dedup s a isB
    let p := portFifo s a isB
    if want ≤ p.scales.length then (s, false)
    else match headOf p a src with
      | .empty => (s, false)
      | .wrong => (s, true)
      | .beat b => takeScales a isB src want n (modFeed s a isB (fun p => { takeHead p b with scales := p.scales ++ [(b.data.setWidth 1024, b.psn)] }))

/-- What one port presents at `j`: a beat from the hold latch, one kept in the panel store, or the head of the FIFO. -/
inductive Offer where
  | held (x : Bits × Bool)
  | stored (x : Bits × Bool)
  | fresh (b : FeedBeat)
  | none
  | wrong
  deriving DecidableEq, Repr

/-- The offer of a port with hold `h` (R247, R249, R250). -/
def offerOf (p : OpPort) (a : EaId) (src : Fin 8) (j h : Nat) (want : Nat) : Offer :=
  if j % h ≠ 0 then (match p.hold with | some x => .held x | .none => .none)
  else match p.store[j / h]? with
    | some x => .stored x
    | .none =>
      if p.scales.length < want then .none
      else match headOf p a src with
        | .empty => .none
        | .wrong => .wrong
        | .beat b => .fresh b

/-- The beat of an offer. -/
def offerBeat : Offer → Option (Bits × Bool)
  | .held x | .stored x => some x
  | .fresh b => some (b.data, b.psn)
  | .none | .wrong => .none

/-- The port after presenting its offer. -/
def afterOffer (p : OpPort) : Offer → OpPort
  | .held _ | .none | .wrong => p
  | .stored x => { p with hold := some x }
  | .fresh b => { takeHead p b with hold := some (b.data, b.psn), store := p.store ++ [(b.data, b.psn)] }

/-- A fresh presentation, not one of the latch. -/
def isFresh : Offer → Bool | .held _ => false | _ => true

/-- Presentation `j` made: counts, the engine port, and the end of the PANEL after the last one (R248, R473). -/
def present (s : State) (a : EaId) (p : Panel) (oa ob : Offer) (xa xb : Bits × Bool) : State :=
  let x := s.eif[a]
  let j := x.pos
  let fresh := b2n (isFresh oa) + b2n (isFresh ob)
  let s := countEv (countEv s .feed fresh) .hold (2 - fresh)
  let out : PortOut := { a := xa.1, b := xb.1, aPsn := xa.2, bPsn := xb.2, mode := p.mode
                         ctl := if j = 0 then some p.ctl else none
                         sca := newScales x.portA p p.ha j, scb := newScales x.portB p p.hb j }
  let s := modEa s a (fun x => { x with
    portA := afterOffer x.portA oa, portB := afterOffer x.portB ob, out := some out, discard := false, pos := j + 1
    feed := sat32 x.feed fresh, holdCnt := sat32 x.holdCnt (2 - fresh) })
  if j + 1 < p.t then progress s (.ea a)
  else nextWord (modEa s a (fun x => { x with
    panel := none, portA := { x.portA with hold := none, store := [], scales := [] }
    portB := { x.portB with hold := none, store := [], scales := [] } })) a .idle

/-- A cycle in which the next presentation waits (R248). -/
def starve (s : State) (a : EaId) : State :=
  waitFor (modEa s a (fun x => { x with starve := sat32 x.starve 1 })) (.ea a) .panel

/-- A presentation is made once both ports can present; until then the cycle is counted (R246 to R249). -/
def execPresentation (a : EaId) (s : State) : Res :=
  .next (match s.eif[a].panel with
    | none => s
    | some p =>
      if !eaRuns s a then s
      else
        let j := s.eif[a].pos
        let wa := scalesDue p p.ha j
        let wb := scalesDue p p.hb j
        let ra := takeScales a false p.srcA wa (wa + 1) s
        let rb := takeScales a true p.srcB wb (wb + 1) ra.1
        if ra.2 || rb.2 then failEa rb.1 a .eifSource 0
        else
          let s := dedup (dedup rb.1 a false) a true
          let x := s.eif[a]
          let oa := offerOf x.portA a p.srcA j p.ha wa
          let ob := offerOf x.portB a p.srcB j p.hb wb
          match offerBeat oa, offerBeat ob with
          | some xa, some xb => present s a p oa ob xa xb
          | _, _ =>
            if (oa = .wrong ∧ ob ≠ .none) ∨ (ob = .wrong ∧ oa ≠ .none) then failEa s a .eifSource 0 else starve s a)

/-! ### Drains (R251 to R255, R475) -/

/-- Drain destinations (Table 10-4, R252). -/
def drainAccepts (d : Desc) : Bool :=
  let f := tdFmt d
  let row := tdLayout d = lRow && (f = 0 || f = 2 || f = 3 || f = 5 || f = 6)
  let mx := tdLayout d = lMxb && decide (9 ≤ f ∧ f ≤ 14)
  let pln := tdLayout d = lPln && f = 2
  (tdSpace d = 0 && (row || mx || pln)) || (tdSpace d = 1 && row)

/-- DRAIN hands a drain to the drain sequencer (R245, R251, R255). -/
def execDrain (a : EaId) (trn tap : Bool) (ddesc : Fin 16) (inc : BitVec 2) (ctr : Ctr) (tilesM1 ofs : BitVec 7) (first : BitVec 24)
    (s : State) : Res :=
  let r : DrainRun := { trn := trn, tap := tap, ddesc := ddesc, inc := inc, ctr := ctr, tiles := tilesM1.toNat + 1
                        ofs := ofs.toNat, first := first.toNat }
  .next (if s.eif[a].drainRun.isSome then s
    else portWord s a (fun s =>
      let x := s.eif[a]
      let d := x.desc[ddesc]
      if x.drainFenced then nextWord (poisonDrain s a inc ddesc ctr) a .idle
      else
        let s := modEa s a (fun x => { x with drainRun := some r })
        match checkTd d false drainAccepts with
        | some e => nextWord (fenceDrain (logRun s e (locEa a) 0) a) a .idle
        | none =>
          if tdSpace d = 1 ∧ s.rmt.streams[eaStream x].fenced then
            nextWord (fenceDrain (logFenced s (eaStream x) (locEa a)) a) a .idle
          else nextWord s a .idle))

/-- Byte address of destination row `r` and its offset from `BASE` (R207, R251). -/
def drainRowAt (d : Desc) (r : Nat) : Option Int := outerOff d 1 (unrank d 1 5 r)

/-- One accumulator value in a byte destination: FP32 bits unchanged, else converted (R252). -/
def drainElem (d : Desc) (x : Word) : Nat :=
  if tdFmt d = 0 then x.toNat else elemCode (tdFmt d) (tdRtz d) (tdSat d) (f32 x)

/-- In-bounds elements among the 128 of a row. -/
def drainLive (d : Desc) (ofs : Nat) : Nat := min 128 (tdSize d 0 - 128 * ofs)

/-- The word writes of one row at a local destination (R252): values, planes, scales. -/
def drainWrites (d : Desc) (ofs : Nat) (off : Int) (xs : List Word) : List WordWr :=
  let row := addrAt d off
  let c0 : Int := 128 * ofs
  if isMx (tdFmt d) then
    let live := (upto 128).map (fun i => decide (i < drainLive d ofs))
    let vs := List.zipWith (fun x b => if b then some (f32 x) else none) xs live
    let bs := (blocksOf vs).map (packMx (tdFmt d) (tdRtz d) (tdSat d))
    let es := bs.flatMap (·.2)
    let scale := ((tdBase d : Int) + tdScaleOff d + off / 2 ^ tdScaleShift d).toNat
    let vals := if isPlane d then (upto (tdPlanes d)).flatMap (fun j =>
        (writeItems (some (row + j * tdPlaneStride d)) 1 (tdSize d 0) c0 128 (ofElems 1 (es.map (fun e => e / 2 ^ j)))).1)
      else (writeItems (some row) 8 (tdSize d 0) c0 128 (ofElems 8 es)).1
    vals ++ (writeItems (some scale) 8 (ceilDiv (tdSize d 0) 32) (4 * ofs) 4 (ofElems 8 (bs.map (·.1)))).1
  else if tdLayout d = lPln then
    let es := xs.map (fun x => bf16.encode (tdRtz d) (tdSat d) false (f32 x))
    (upto (tdPlanes d)).flatMap (fun j =>
      (writeItems (some (row + j * tdPlaneStride d)) 1 (tdSize d 0) c0 128 (ofElems 1 (es.map (fun e => e / 2 ^ (16 - tdPlanes d + j))))).1)
  else (writeItems (some row) (tdWidth d) (tdSize d 0) c0 128 (ofElems (tdWidth d) (xs.map (drainElem d)))).1

/-- Whether a row sends any flit to a global destination (R252, R319). -/
def rowSends (d : Desc) (r : DrainRun) (i : Nat) : Bool := (drainRowAt d (r.first + i)).isSome && decide (0 < drainLive d r.ofs)

/-- No later row of the run that row `i` belongs to sends a flit: a tile with `INC` 0b01, else the whole DRAIN (R319). -/
def lastSender (d : Desc) (r : DrainRun) (i : Nat) : Bool :=
  let stop := if r.inc = 1 then 128 * (i / 128 + 1) else 128 * r.tiles
  (span (i + 1) (stop - (i + 1))).all (fun j => !rowSends d r j)

/-- The flits of one row at a global destination: whole words up to the last in-bounds element, zeros beyond it. -/
def drainFlits (x : Stream) (d : Desc) (r : DrainRun) (i : Nat) (xs : List Word) (psn : Bool) : List OutFlit :=
  match drainRowAt d (r.first + i) with
  | none => []
  | some off =>
    let w := tdWidth d
    let live := drainLive d r.ofs
    let bits := ofElems w ((xs.take live).map (drainElem d))
    let words := ceilDiv (live * w) 512
    let a := addrAt d off + 16 * w * r.ofs
    let n := ceilDiv words 4
    (upto n).map (fun k => outFlit x tWr r.inc.toNat r.ctr.val (a + 256 * k) (min 4 (words - 4 * k) - 1)
      (decide (k + 1 = n) && lastSender d r i) psn (BitVec.ofNat 2048 (bits / 2 ^ (2048 * k))))

/-- Flits of a drain, and of a CLIP stage, as their stream holds them. -/
def rowFlits (fs : List OutFlit) : List OutFlit := fs.map (fun o => { o with row := true })
def clipFlits (fs : List OutFlit) : List OutFlit := fs.map (fun o => { o with clip := true })

/-- A stream of the attachment holds a flit that is not yet accepted and satisfies `f`. -/
def eaWaits (s : State) (a : EaId) (f : OutFlit → Bool) : Bool :=
  (List.finRange 64).any (fun t => decide (streamAgent s.rmt.streams[t] = some (.ea a)) && s.rmt.streams[t].wait.any f)

/-- The words of a converted row are issued: written here, or offered as flits (R251 to R253, R255). `i` is its row number in
the DRAIN. -/
def drainRowOut (s : State) (a : EaId) (r : DrainRun) (i : Nat) (xs : List Word) (psn : Bool) : State × DrainRun :=
  let x := s.eif[a]
  let d := x.desc[r.ddesc]
  let r := { r with psn := r.psn || psn }
  let dropped := match drainRowAt d (r.first + i) with | none => 128 | some _ => 128 - drainLive d r.ofs
  let s := modEa s a (fun x => { x with oobWr := sat32 x.oobWr dropped })
  if tdSpace d = 1 then
    (offer s (eaStream x) (rowFlits (drainFlits s.rmt.streams[eaStream x] d r i xs psn)), r)
  else match drainRowAt d (r.first + i) with
    | none => (s, r)
    | some off =>
      let w := writeWords s (whoDrain a) (drainWrites d r.ofs off xs) psn
      let s := modEa w.1 a (fun x => { x with oobWr := sat32 x.oobWr (w.2.crossed * 8 / max 1 (tdWidth d)) })
      (if w.2.off then fenceDrain s a else s, { r with bytes := r.bytes + w.2.bytes })

/-- The end of a tile or of the DRAIN: increments, or the INC flit of a run that sent nothing (R255, R319). -/
def drainMark (s : State) (a : EaId) (r : DrainRun) (tile : Bool) : State × DrainRun :=
  let d := s.eif[a].desc[r.ddesc]
  let due := if tile then decide (r.inc = 1) else decide (r.inc = 2)
  if s.eif[a].drainFenced || !due then (s, if tile && decide (r.inc = 1) then { r with psn := false } else r)
  else if tdSpace d = 1 then
    let from_ := if tile then r.sent - 128 else 0
    let sends := (span from_ (r.sent - from_)).any (rowSends d r)
    let t := eaStream s.eif[a]
    (if sends then s else offer s t (rowFlits (emptyRun s.rmt.streams[t] r.inc.toNat r.ctr.val)), { r with psn := false })
  else (incCtrBy s (eaPart a) (locEa a) r.ctr (if tile then 1 else BitVec.ofNat 32 r.bytes) r.psn, { r with psn := false })

/-- The DRAIN ends once its last write has been accepted (R245, R255). -/
def drainEnds (s : State) (a : EaId) : State :=
  match s.eif[a].drainRun with
  | some r => if 128 * r.tiles ≤ r.sent ∧ eaWaits s a (·.row) = false then modEa s a (fun x => { x with drainRun := none }) else s
  | none => s

/-- The oldest row leaves the drain FIFO, its write accepted; the end of a tile or of the DRAIN makes its increment (R253,
R255). -/
def rowLeaves (s : State) (a : EaId) (r : DrainRun) : State :=
  let r := { r with sent := r.sent + 1 }
  let s := modEa s a (fun x => { x with fifo := x.fifo.drop 1 })
  let q := if r.sent % 128 = 0 then drainMark s a r true else (s, r)
  let q := if 128 * r.tiles ≤ r.sent then drainMark q.1 a q.2 false else q
  drainEnds (if q.1.eif[a].drainFenced then q.1 else modEa q.1 a (fun x => { x with drainRun := some q.2 })) a

/-- The oldest row in its last issue cycle: toward another unit its flits are offered, and it leaves once they have been
accepted; a fenced stream takes none, which fences the drain (R253, R255, R326). -/
def issueRow (s : State) (a : EaId) (r : DrainRun) (x : DrainRow) : State :=
  let t := eaStream s.eif[a]
  let away := decide (tdSpace s.eif[a].desc[r.ddesc] = 1)
  if x.out then if eaWaits s a (·.row) then s else rowLeaves s a r
  else if away && rowSends s.eif[a].desc[r.ddesc] r x.num && s.rmt.streams[t].fenced then fenceDrain (logFenced s t (locEa a)) a
  else if away && eaWaits s a (·.row) then s
  else
    let q := drainRowOut s a r x.num x.vals x.psn
    if q.1.eif[a].drainFenced then q.1
    else if eaWaits q.1 a (·.row) then
      modEa q.1 a (fun e => { e with drainRun := some q.2, fifo := e.fifo.mapIdx (fun i y => if i = 0 then { y with out := true } else y) })
    else rowLeaves q.1 a q.2

/-- Issue cycles of a row (Table 10-4). -/
def issueCycles (d : Desc) : Nat := if tdLayout d = lPln && decide (tdFmt d = 2) && decide (9 ≤ tdPlanes d) then 2 else 1

/-- A row enters the drain FIFO: it is issued from the second cycle on (R253). -/
def enterFifo (x : Attach) (r : DrainRun) (i : Nat) (vals : List Word) (psn : Bool) : Attach :=
  { x with fifo := x.fifo ++ [{ num := i, vals := vals, psn := psn, wait := 2, left := issueCycles x.desc[r.ddesc] }] }

/-- The drain Trivet of a tile (R254). -/
def triOf (tile : Nat) : Fin 2 := ⟨tile % 2, by omega⟩

/-- Column `c` of a tile's rows (R254). -/
def tileColumn (tile : List (BitVec 4096)) (c : Nat) : List Word := tile.map (fun x => fld x (32 * c) 32)

/-- The running DRAIN whose next column can be read now: its tile is in, two cycles have passed, and the FIFO has room (R254). -/
def columnDue (x : Attach) : Option DrainRun :=
  match x.drainRun with
  | none => none
  | some r =>
    let t := x.tri[triOf (r.cols / 128)]
    if r.trn && decide (x.st ≠ .halted) && decide (t.rows.length = 128) && decide (t.wait = 0) && decide (x.fifo.length < 4) then some r
    else none

/-- The next column is read and enters the drain FIFO; the last one empties the drain Trivet, and the next tile's first column
is read no earlier than the next cycle (R254). -/
def readColumn (x : Attach) (r : DrainRun) (same : Bool) : Attach :=
  let k := triOf (r.cols / 128)
  let t := x.tri[k]
  let x := enterFifo x r r.cols (tileColumn t.rows (r.cols % 128)) t.psn
  let tri := if r.cols % 128 = 127 then x.tri.set k.val {} else x.tri
  let n := triOf (r.cols / 128 + 1)
  { x with
    drainRun := some { r with cols := r.cols + 1 }
    tri := if same then tri.set n.val { tri[n] with wait := max 1 tri[n].wait } else tri }

/-- The column that frees the drain Trivet for the next row, where it can be read in this cycle (R254, R475). -/
def freeing (x : Attach) : Option DrainRun :=
  match columnDue x with
  | some r => if r.row % 128 = 0 ∧ r.cols + 129 = r.row then some r else none
  | none => none

/-- Rows of the engine are taken and discarded: under a fence, an abort or a partition reset (R255, R381, Table 14-10). -/
def discards (s : State) (a : EaId) : Bool :=
  s.eif[a].drainFenced || decide (s.eif[a].st = .fenced) || decide (0 < s.parts[taskPart s (eaPart a)].resetWin)

/-- `EA_a_DRN_HOLD`: a stop holds the port, no DRAIN wants a row, the FIFO holds four rows, or the row's drain Trivet is not
yet free (R253, R254, R475). -/
def drainHold (s : State) (a : EaId) : Bool :=
  let x := s.eif[a]
  if discards s a then false
  else if decide (x.st = .halted) then true
  else match x.drainRun with
    | none => true
    | some r =>
      decide (128 * r.tiles ≤ r.row) || decide (4 ≤ x.fifo.length)
        || (r.trn && decide (r.row % 128 = 0) && !x.tri[triOf (r.row / 128)].rows.isEmpty && (freeing x).isNone)

/-- A row taken by a running DRAIN: tapped, then into the drain FIFO, or on the transposed path into its drain Trivet (R253,
R254, R257). -/
def drainTake (s : State) (a : EaId) (r : DrainRun) (row : BitVec 4096) (psn : Bool) : State :=
  let xs := (upto 128).map (fun c => (fld row (32 * c) 32 : Word))
  let tap : TapId := ⟨a.val, by omega⟩
  let s := if r.tap && s.taps[tap].armed then tapAdd s tap 7 xs psn else s
  let take (x : Attach) : Attach :=
    if r.trn then
      let x := match freeing x with | some q => readColumn x q true | none => x
      let k := triOf (r.row / 128)
      { x with tri := x.tri.set k.val { rows := x.tri[k].rows ++ [row], psn := x.tri[k].psn || psn, wait := 2 } }
    else enterFifo x r r.row xs psn
  progress (modEa s a (fun x =>
    let x := take x
    { x with drainRun := x.drainRun.map (fun q => { q with row := q.row + 1 }) })) (.ea a)

/-- The drain port's master has an access that waits for its grant (R253). -/
def drainBusy (s : State) (a : EaId) : Bool := s.xb.reqs.any (fun r => decide (r.m = (whoDrain a).master))

/-- The oldest row in a cycle: ready from its second cycle on, it takes its issue cycles, and waits for grants and reserved
windows (R35, R253). -/
def issueFront (s : State) (a : EaId) : State :=
  match s.eif[a].drainRun, s.eif[a].fifo with
  | some r, x :: rest =>
    if 0 < x.wait then s
    else if 1 < x.left then modEa s a (fun e => { e with fifo := { x with left := x.left - 1 } :: rest })
    else if drainBusy s a then s
    else outside s (issueRow s a r x)
  | _, _ => s

/-- A cycle of an attachment's drain sequencer: a column is read, the oldest row is issued, and what waits comes nearer. Rows
already taken are written also while the partition is stopped (R253, R254, R475). -/
def drainCycle (s : State) (a : EaId) : State :=
  if s.eif[a].drainRun.isNone then s
  else
    let s := modEa s a (fun x => match columnDue x with | some r => readColumn x r false | none => x)
    modEa (issueFront s a) a (fun x => { x with
      fifo := x.fifo.map (fun y => { y with wait := y.wait - 1 })
      tri := x.tri.map (fun t => { t with wait := t.wait - 1 }) })

/-- The engine presents an accumulator row: taken, discarded under a fence or an abort, or held and counted (R253, R255,
R475). -/
def execDrainRow (a : EaId) (row : BitVec 4096) (psn : Bool) (s : State) : Res :=
  .next (if drainHold s a then modEa s a (fun x => { x with drainStall := sat32 x.drainStall 1 })
    else
      let s := countEv (modEa s a (fun x => { x with drainRows := sat32 x.drainRows 1 })) .drainRow 1
      if discards s a then s
      else match s.eif[a].drainRun with
        | none => s
        | some r => drainTake s a r row psn)

/-! ### Waits (R256) -/

/-- One cycle of a WAITC or of a CLIP WAIT: the threshold rises once, then the counter is compared. `done` continues. -/
def waitStep (s : State) (a : EaId) (ctr : Ctr) (step : BitVec 14) (done : State → State) : State :=
  let s := if s.eif[a].thrAdded then s else modEa s a (fun x => { x with thr := x.thr + step.setWidth 32, thrAdded := true })
  let s := checkParity s ctr
  if (ctrOf s ctr).psn then failEa s a .poisonConsumed 0
  else if reached (ctrOf s ctr).val s.eif[a].thr then done (modEa s a (fun x => { x with thrAdded := false }))
  else waitFor (modEa s a (fun x => { x with st := if x.clipLeft = 0 then .wait else x.st })) (.ea a) (.ctr ctr s.eif[a].thr)

/-- WAITC raises the threshold and waits until the counter reaches it (R256). -/
def execWaitc (a : EaId) (ctr : Ctr) (step : BitVec 14) (s : State) : Res :=
  let x := s.eif[a]
  let here := x.panel.isNone && decide (x.clipLeft = 0) && !x.clipSent
  .next (if !(eaRuns s a && here) then s
    else
      let go := fun s => waitStep s a ctr step (fun s => nextWord s a .idle)
      if x.thrAdded then go s else readPort s a go)

/-! ### CLIP stages (R261 to R264, R313) -/

/-- CLIP opens its S stages (R261). -/
def execClip (a : EaId) (sM1 : Fin 8) (s : State) : Res :=
  .next (portWord s a (fun s => nextWord (modEa s a (fun x => { x with clipLeft := sM1.val + 1 })) a .clip))

/-- A stage has completed; the last one completes the CLIP word (R261). -/
def stageDone (s : State) (a : EaId) : State :=
  let n := s.eif[a].clipLeft
  nextWord (modEa s a (fun x => { x with
    clipLeft := n - 1, clipSent := false, clipStep := if n = 1 then sat32 x.clipStep 1 else x.clipStep })) a (if n = 1 then .idle else .clip)

/-- A stage word taken in its turn; while a reserved window excludes an access of it, it waits (R35). -/
def stage (s : State) (a : EaId) (f : State → State) : State :=
  let x := s.eif[a]
  if eaRuns s a && x.panel.isNone && decide (0 < x.clipLeft) && !x.thrAdded && !x.clipSent then outside s (readPort s a f) else s

/-- V replaced. -/
def setClipV (s : State) (a : EaId) (v : Word) (psn : Bool) : State := modEa s a (fun x => { x with clipV := v, clipVPsn := psn })

/-- EMIT: V is the sum of the selected taps' values, in tap order from +0.0 (R261). -/
def execClipEmit (a : EaId) (mask : BitVec 3) (s : State) : Res :=
  .next (stage s a (fun s =>
    let ts := (List.finRange 3).filter (fun t => bitOf mask t.val)
    let v := ts.foldl (fun v t => addF32 v (tapEmit s.taps[t])) 0
    stageDone (setClipV s a v (ts.any (fun t => s.taps[t].psn))) a))

/-- A 64-byte word written into this unit by the clip unit; a refused write fences the attachment (R293). The counter, if
any, follows the write. -/
def clipWrite (s : State) (a : EaId) (addr : Nat) (x : BitVec 512) (psn : Bool) (ctr : Option Ctr) : State :=
  let w := writeWords s (whoDrain a) [{ word := addr / 64, data := x, mask := BitVec.allOnes 512 }] psn
  if w.2.off then fenceEa w.1 a
  else match ctr with
    | some c => incCtrBy w.1 (eaPart a) (locEa a) c 1 psn
    | none => w.1

/-- The stage's flit waits for acceptance, and its end with it. -/
def clipSend (s : State) (a : EaId) (t : StreamId) (f : OutFlit) : State :=
  if s.rmt.streams[t].fenced then stageDone (fenceDrain (logFenced s t (locEa a)) a) a
  else progress (modEa (offer s t (clipFlits [f])) a (fun x => { x with clipSent := true })) (.ea a)

/-- A stage after its direct writes, unless one of them fenced the attachment. -/
def unlessFenced (s : State) (a : EaId) (f : State → State) : State := if s.eif[a].errDue then s else f s

/-- The slot a SEND writes: V, `UNIT_ADDR`, `CLIP_STEP` (Table 10-6). -/
def slotBits (s : State) (a : EaId) : BitVec 512 :=
  BitVec.ofNat 512 (s.eif[a].clipV.toNat + s.u.addr.toNat * 2 ^ 32 + s.eif[a].clipStep.toNat % 2 ^ 16 * 2 ^ 48)

/-- SEND writes a collector slot, in its own unit directly, and increments the destination counter (R261, R262). -/
def execSend (a : EaId) (ddesc : Fin 16) (ctr : Ctr) (idx : BitVec 24) (s : State) : Res :=
  .next (stage s a (fun s =>
    let x := s.eif[a]
    let d := x.desc[ddesc]
    let addr := (tdBase d % 2 ^ 32 + 64 * idx.toNat) % 2 ^ 32
    if tdBase d / 2 ^ 32 = s.u.addr.toNat then
      unlessFenced (clipWrite s a addr (slotBits s a) x.clipVPsn (some ctr)) a (fun s => stageDone s a)
    else
      clipSend s a (eaStream x) (outFlit s.rmt.streams[eaStream x] tWr 1 ctr.val addr 0 true x.clipVPsn ((slotBits s a).setWidth 2048))))

/-- The WAIT stage (R256, R261). -/
def execClipWait (a : EaId) (ctr : Ctr) (step : BitVec 14) (s : State) : Res :=
  let x := s.eif[a]
  .next (if !(eaRuns s a && decide (0 < x.clipLeft) && !x.clipSent) then s
    else
      let go := fun s => waitStep s a ctr step (fun s => stageDone s a)
      if x.thrAdded then go s else readPort s a go)

/-- The slots a SUM reads; one of the other partition reads as the descriptor's fill (R24, R261). -/
def sumSlots (who : Who) (d : Desc) : Nat → Nat → State → State × List (BitVec 512 × Bool)
  | 0, _, s => (s, [])
  | n + 1, i, s =>
    let r := readRun s (who.at i) (8 * (tdBase d + 64 * i)) 512 (fillBits d % 2 ^ 512)
    let t := sumSlots who d n (i + 1) r.1
    (t.1, (BitVec.ofNat 512 r.2.1, r.2.2) :: t.2)

/-- SUM adds N slots in order and checks their tags; a stale one leaves V at +0.0 (R263). -/
def execSum (a : EaId) (ddesc : Fin 16) (nM1 : BitVec 24) (s : State) : Res :=
  .next (stage s a (fun s =>
    let x := s.eif[a]
    let r := sumSlots (whoDrain a) x.desc[ddesc] (nM1.toNat + 1) 0 s
    let stale := r.2.findIdx? (fun q => decide (fldN q.1 48 16 ≠ x.clipStep.toNat % 2 ^ 16))
    let vals := r.2.map (fun q => (fld q.1 0 32 : Word))
    let v := (vals.drop 1).foldl addF32 (vals.headD 0)
    let psn := r.2.any (·.2)
    match stale with
    | some i => stageDone (setClipV (logRun r.1 .clipStale (locEa a) i) a 0 psn) a
    | none => stageDone (setClipV r.1 a v psn) a))

/-- n at most M, both FP32 (R264). -/
def leF32 (n m : Word) : Bool :=
  match f32 n with
  | .nan _ => false
  | _ => if bitOf n 31 then true else decide (n.toNat ≤ m.toNat)

/-- The scale of R264 from the sum in V; none when the sum is not finite. -/
def clipScale (v m : Word) : Option Word :=
  match f32 v with
  | .nan _ => none
  | .inf false => none
  | x =>
    let n := toF32 (fSqrt x)
    some (if leF32 n m then 0x3F800000 else toF32 (fDiv (f32 m) (f32 n)))

/-- SCALE turns the summed square norm into the clipping scale (R264). -/
def execScale (a : EaId) (m : Word) (s : State) : Res :=
  .next (stage s a (fun s =>
    let x := s.eif[a]
    match clipScale x.clipV m with
    | some v => stageDone (setClipV s a v x.clipVPsn) a
    | none => stageDone (setClipV (raiseEvt (logRun s .clipNonfinite (locEa a) 0) .clipNonfinite) a 0 x.clipVPsn) a))

/-- A route entry a BCAST skips (R313). -/
def routeSkipped (d2 : Bool) (e : Word) : Bool :=
  let hops := fldN e 19 4
  let self := bitOf e 23
  fldN e 24 8 ≠ 0 || decide (8 < hops) || (hops = 0 && !bitOf e 12 && !self) || (hops = 1 && d2)

/-- The flit of a route entry (R313). -/
def bcastFlit (e : Word) (ctr addr : Nat) (v : Word) (psn : Bool) : OutFlit :=
  { f := { hdr := mkHdr tWr (fldN e 0 12) 1 ctr addr 0 true psn, data := v.setWidth 2048 }
    viaNoc := bitOf e 12, viaUnit := fld e 13 6, hops := fldN e 19 4 }

/-- The route entries of a table with their poison, in table order; a word of the other partition reads as the descriptor's
fill (R24, R261). -/
def routeEntries (who : Who) (d : Desc) : Nat → Nat → State → State × List (Word × Bool)
  | 0, _, s => (s, [])
  | n + 1, i, s =>
    let r := readRun s (who.at i) (8 * (tdBase d + 4 * i)) 32 (fillBits d % 2 ^ 512)
    let t := routeEntries who d n (i + 1) r.1
    (t.1, (BitVec.ofNat 32 r.2.1, r.2.2) :: t.2)

/-- The stage goes on in table order: words for this unit are written at their turn, and a word for another waits for its
flit's acceptance. A table word's poison is the written word's (R261, R313, R379). -/
def bcastGo (a : EaId) : List (Word × Bool) → State → State
  | [], s => stageDone (modEa s a (fun x => { x with clipTodo := [] })) a
  | e :: rest, s =>
    let x := s.eif[a]
    let psn := x.clipVPsn || e.2
    let t := eaBStream x
    if bitOf e.1 23 then unlessFenced (clipWrite s a x.clipAddr (x.clipV.setWidth 512) psn (some x.clipCtr)) a (bcastGo a rest)
    else if s.rmt.streams[t].fenced then bcastGo a rest (fenceDrain (logFenced s t (locEa a)) a)
    else
      let s := offer s t (clipFlits [bcastFlit e.1 x.clipCtr.val x.clipAddr x.clipV psn])
      progress (modEa s a (fun x => { x with clipSent := true, clipTodo := rest })) (.ea a)

/-- BCAST writes V to every route entry's unit, in its own unit directly (R261, R313). -/
def execBcast (a : EaId) (ddesc : Fin 16) (ctr : Ctr) (s : State) : Res :=
  .next (stage s a (fun s =>
    let x := s.eif[a]
    let addr := tdBase x.desc[(⟨(ddesc.val + 1) % 16, by omega⟩ : Fin 16)] % 2 ^ 32
    let d2 := stD2 s.rmt.streams[eaBStream x]
    let r := routeEntries (whoDrain a) x.desc[ddesc] (tdSize x.desc[ddesc] 0) 0 s
    let s := match r.2.findIdx? (fun e => routeSkipped d2 e.1) with
      | some i => logRun r.1 .rmtLabel (locEa a) i
      | none => r.1
    bcastGo a (r.2.filter (fun e => !routeSkipped d2 e.1)) (modEa s a (fun x => { x with clipAddr := addr, clipCtr := ctr }))))

/-- The flit of a stage has been accepted: the stage goes on, once the attachment runs and no reserved window excludes what it
writes next (R35, R250, R261). -/
def clipAccepted (s : State) (a : EaId) : State :=
  let x := s.eif[a]
  if x.clipSent && eaRuns s a && !eaWaits s a (·.clip) then
    outside s (bcastGo a x.clipTodo (modEa s a (fun x => { x with clipSent := false })))
  else s

/-- A drain whose flits have been accepted: its row leaves, or it ends (R245, R253). -/
def drainAccepted (s : State) (a : EaId) : State :=
  match s.eif[a].drainRun, s.eif[a].fifo with
  | some r, x :: _ => if x.out && !eaWaits s a (·.row) then rowLeaves s a r else s
  | some _, [] => drainEnds s a
  | none, _ => s

/-- STORE writes V as a 64-byte word at `BASE` (R261). -/
def execStore (a : EaId) (ddesc : Fin 16) (s : State) : Res :=
  .next (stage s a (fun s =>
    let x := s.eif[a]
    unlessFenced (clipWrite s a (tdBase x.desc[ddesc]) (x.clipV.setWidth 512) x.clipVPsn none) a (fun s => stageDone s a)))

/-- END completes the item once presentations, drains and stages have finished (R37, R245). -/
def execEndw (a : EaId) (s : State) : Res :=
  let x := s.eif[a]
  .next (if x.drainRun.isSome then s
    else portWord s a (fun s => modEa (progress s (.ea a)) a (fun x => { x with st := .idle, ag := { x.ag with run := none } })))

end Sys2Proof.Machine
end

