-- ==== Sys2Proof/Machine/Index.lean ====
section
/-! DEFINITION. Blocks of a channel as they start, and index streams: the rows that the channel of an INDEX block reads for
its Ladle, and what the Ladle gives it to carry (R152 to R170, R208 to R211, R487). -/

namespace Sys2Proof.Machine

/-! ### Blocks in progress (R206 to R213, R218) -/

/-- Spaces of a block's source and destination: 0 unit-local, 1 global, 2 far memory (R209). -/
def bDstSpace (b : BlkRun) : Nat := if bKind b.entry = 0 then bDspace b.entry else tdSpace b.dd

/-- Traffic class: READ, WRITE, REMOTE (Table 9-2). -/
def blkClass (b : BlkRun) : Fin 3 :=
  if bDstSpace b = 2 then 1 else if bSrcSpace b = 1 ∨ bDstSpace b = 1 then 2 else 0

/-- An address with a base added: modulo 2^32 under bits [47:32], modulo 2^48 in far memory (R211). -/
def addBase (space addr base : Nat) : Nat :=
  if space = 2 then (addr + base) % 2 ^ 48 else addr / 2 ^ 32 * 2 ^ 32 + (addr % 2 ^ 32 + base % 2 ^ 32) % 2 ^ 32

/-- A descriptor with a base added to its `BASE` (R211). -/
def descBase (d : Desc) (base : Nat) : Desc := setFld d 0 48 (addBase (tdSpace d) (tdBase d) base)

/-- A block as it starts: the channel's bases added where `SREL` and `DREL` say so (R211). -/
def openBlock (x : Chan) (e : BitVec 256) (idx : Nat) : BlkRun :=
  let sb := if bSrel e then x.src.toNat else 0
  let db := if bDrel e then x.dst.toNat else 0
  if bKind e = 0 then
    { entry := setFld (setFld e 34 48 (addBase (bSspace e) (bSaddr e) sb)) 84 48 (addBase (bDspace e) (bDaddr e) db), idx := idx }
  else { entry := e, idx := idx, sd := descBase x.desc[bSdesc e] sb, dd := descBase x.desc[bDdesc e] db }

/-- Blocks with the `i`-th replaced. -/
def setBlk (s : State) (h : ChanId) (i : Nat) (b : BlkRun) : State := modChan s h (fun x => { x with blks := setAt x.blks i b })

/-- A channel counts dropped elements (R63). -/
def countChanOob (s : State) (h : ChanId) (n : Nat) : State := modChan s h (fun x => { x with oobWr := sat32 x.oobWr n })

/-- Width of the elements a block drops. -/
def blkWidth (b : BlkRun) : Nat := if bKind b.entry = 0 then 8 else max 1 (tdWidth b.dd)

/-- The channel's stream. -/
def chanStream (x : Chan) : StreamId := ⟨x.stream.toNat, x.stream.isLt⟩

/-! ### The Ladle command of an INDEX block (R150, R208) -/

/-- The Ladle command of an INDEX block (R208): the variant table is the descriptor after the slice's. Its index beats come
through the channel's port (R487). -/
def chanLadCmd (s : State) (h : ChanId) (b : BlkRun) : LadCmd :=
  let e := b.entry
  let d := s.mov.chans[h].desc
  { who := whoLadle (bClu e) (chanPart s h) (locChan h), idxWho := whoChan s h 0, var := bVar e, k := bK e
    slice := if bSct e then b.dd else b.sd, idx := d[bIdesc e], tbl := d[tableReg (if bSct e then bDdesc e else bSdesc e)] }

/-- Index beats the command reads: every pass reads its own (R487). -/
def idxWanted (m : LadCmd) : Nat := ladPasses m * idxBeats m

/-- The index beats a channel has read, as pass `p` of its command takes them. -/
def idxReader (m : LadCmd) (got : List MovBeat) (p j : Nat) (s : State) : State × List Int × Bool :=
  let b := got.getD (p * idxBeats m + j) { data := 0, psn := false, pad := 0 }
  (s, idxInts (idxCount m j) b.data.toNat, b.psn)

/-- The positions of every pass from `p` on, and whether a poisoned index or variant entry stopped them (R377). -/
def resolvePasses (m : LadCmd) (got : List MovBeat) : Nat → Nat → Bool → State → State × List (List LadPos) × Bool
  | 0, _, _, s => (s, [], false)
  | n + 1, p, lg, s =>
    let q := passPositions m (idxReader m got p) (idxBeats m) 0 s lg
    if q.2.2.1 then (q.1, [q.2.1], true)
    else
      let t := resolvePasses m got n (p + 1) q.2.2.2 q.1
      (t.1, q.2.1 :: t.2.1, t.2.2)

/-! ### Rows that the channel reads (R156, R170, R208) -/

/-- A row of a descriptor as the channel reads it. -/
def fetchRow (key n : Nat) (d : Desc) (outer : List Int) : List FetchRow :=
  match placeRow d outer with
  | some q => [{ key := key, space := tdSpace d, bit := q.bit, step := q.step, w := tdWidth d, n := n }]
  | none => []

/-- Bytes a row spans. -/
def fetchLen (r : FetchRow) : Nat := ceilDiv (r.bit % 8 + r.step * (r.n - 1) + r.w) 8

/-- Rows of a gather from far memory: each slice that no earlier position of its window has read (R156). -/
def gatherFetch (m : LadCmd) (pos : List (List LadPos)) : List FetchRow :=
  (pos.zipIdx).flatMap (fun q => (freshPos m q.1).flatMap (fun e =>
    match e.2 with
    | .out => []
    | .at_ x d => (upto (ladInner m)).flatMap (fun i => fetchRow (rowKey m q.2 e.1 i) (ladRow m) d (sliceCoords m q.2 i x))))

/-- Rows of a gather from another unit, each asked for by its own request, with the row of the destination that its response
writes; merging does not apply (R208). -/
def globalFetch (m : LadCmd) (dd : Desc) (pos : List (List LadPos)) : List FetchRow :=
  (pos.zipIdx).flatMap (fun q => (q.1.zipIdx).flatMap (fun e =>
    match e.1 with
    | .out => []
    | .at_ x d => (upto (ladInner m)).flatMap (fun i =>
      match placeRow dd (ladCoords m q.2 i e.2) with
      | some t => (fetchRow (rowKey m q.2 e.2 i) (ladRow m) d (sliceCoords m q.2 i x)).map (fun r => { r with dst := some (t.bit / 8) })
      | none => [])))

/-- Source rows of a scatter: those of the positions in use (R170, R208). -/
def scatterFetch (m : LadCmd) (sd : Desc) (pos : List (List LadPos)) : List FetchRow :=
  (pos.zipIdx).flatMap (fun q =>
    if m.k = 0 then (if q.1.isEmpty then [] else fetchRow q.2 q.1.length sd (ladCoords m q.2 0 0))
    else (upto q.1.length).flatMap (fun j => (upto (ladInner m)).flatMap (fun i => fetchRow (rowKey m q.2 j i) (ladRow m) sd (ladCoords m q.2 i j))))

/-- Number of a destination row that an accumulate command reads from far memory, by its place. -/
def oldKey (m : LadCmd) (bit : Nat) : Nat := ladRows m + bit

/-- Destination rows of an accumulate scatter into far memory, each once (R163, R208). -/
def oldFetch (m : LadCmd) (pos : List (List LadPos)) : List FetchRow :=
  (pos.zipIdx).foldl (fun (a : List FetchRow) q => q.1.foldl (fun a e =>
    match e with
    | .out => a
    | .at_ x d => (upto (ladInner m)).foldl (fun a i =>
      (fetchRow 0 (ladRow m) d (sliceCoords m q.2 i x)).foldl (fun a r =>
        if a.any (fun y => y.bit = r.bit) then a else a ++ [{ r with key := oldKey m r.bit }]) a) a) a) []

/-- Bytes of a row's beats as one number, each with its length. -/
def joinParts : List (MovBeat × Nat) → Nat
  | [] => 0
  | (b, n) :: r => b.data.toNat % 2 ^ (8 * n) + 2 ^ (8 * n) * joinParts r

/-- Some beat that holds bytes `lo` to `hi` of the row is poisoned. -/
def partsPsn : Nat → List (MovBeat × Nat) → Nat → Nat → Bool
  | _, [], _, _ => false
  | at_, (b, n) :: r, lo, hi => (b.psn && decide (lo < at_ + n) && decide (at_ ≤ hi)) || partsPsn (at_ + n) r lo hi

/-- A row that is in, as beats of the Ladle: elements moved into the command's width, pad elements where a word of this unit
belongs to the other partition (R24, R166). -/
def rowVals (s : State) (p : Part) (m : LadCmd) (r : FetchRow) (xs : List (MovBeat × Nat)) : State × List LadVals :=
  let v := joinParts xs / 2 ^ (r.bit % 8)
  let es := moveElems s r.w (ladW m) ((toElems r.step r.n v).map (· % 2 ^ r.w))
  (es.1, (upto (ceilDiv r.n (ladPer m))).map (fun h =>
    let n := min (ladPer m) (r.n - h * ladPer m)
    let lo := (r.bit % 8 + r.step * (h * ladPer m)) / 8
    { vals := (es.2.drop (h * ladPer m)).take n
      pads := (upto n).map (fun i => decide (r.space = 0) && padAt s p (r.bit + r.step * (h * ladPer m + i)))
      psn := partsPsn 0 xs lo (lo + (r.step * (n - 1) + r.w) / 8) }))

/-! ### What the Ladle gives the channel to carry (R152, R162 to R167, R208) -/

/-- Output beats with the same row of the command shape, one after another, as rows of words that write something. -/
def groupRows (bs : List (List Int × List WordWr × Bool)) : List (List (WordWr × Bool)) :=
  ((bs.foldl (fun (a : List (List Int × List (WordWr × Bool))) b =>
    let ws := b.2.1.map (fun w => (w, b.2.2))
    match a.reverse with
    | (o, xs) :: r => if o = b.1 then ((o, xs ++ ws) :: r).reverse else a ++ [(b.1, ws)]
    | [] => [(b.1, ws)]) []).map (·.2)).filter (fun ws => !ws.isEmpty)

/-- A gather's rows for its destination. -/
def gatherOut (m : LadCmd) (k : ClusterId) (f : RowsFrom) (dd : Desc) (pos : List (List LadPos)) (s : State) :
    State × List (List (WordWr × Bool)) :=
  let r := (pos.zipIdx).foldl (fun (a : State × List LadBeat) q =>
    let t := gatherPass m k f q.2 q.1 a.1
    (reachPos t.1 k q.1.length, a.2 ++ t.2)) (s, [])
  let e := gatherEntries r.1 m dd r.2
  (e.1, groupRows ((r.2.zip e.2).map (fun x => (x.1.outer, x.2))))

/-- Rows that a scatter into far memory, or toward another unit, gives its channel: the rows so far, the bits written with
data elements, and the destination rows as they stand. -/
structure FarRun where
  s : State
  out : List (List (WordWr × Bool)) := []
  kept : Kept := []
  olds : List (Nat × List LadVals) := []
  stop : Option LadStop := none
  deriving DecidableEq, Repr

/-- The words of a row's beats. -/
def farWords (m : LadCmd) (q : RowPlace) (bs : List LadVals) (pads : Bool) (r : FarRun) : FarRun :=
  let t := (bs.zipIdx).foldl (fun (a : Kept × List (WordWr × Bool)) b =>
    let w := mergePads a.1 (twoTask r.s) (dataWrites m.slice q (b.2 * ladPer m) b.1.vals b.1.pads)
      (if pads then padWrites m.slice q (b.2 * ladPer m) b.1.vals b.1.pads else [])
    (w.1, a.2 ++ w.2.map (fun y => (y, b.1.psn)))) (r.kept, [])
  { r with kept := t.1, out := if t.2.isEmpty then r.out else r.out ++ [t.2] }

/-- A row of an overwrite scatter. -/
def farRow (m : LadCmd) (p : Nat) (i : LadItem) (r : FarRun) : FarRun :=
  match itemPlace m p i with
  | none => r
  | some q => farWords m q i.beats true r

/-- A target row of an accumulate scatter: d := d + p over the row as it stands (R163, R164). -/
def farAdd (m : LadCmd) (k : ClusterId) (p : Nat) (g : List LadItem) (r : FarRun) : FarRun :=
  match g with
  | [] => r
  | i :: _ =>
    if r.stop.isSome then r
    else if residueDue r.s k then { r with stop := some (.residue i.pos) }
    else match itemPlace m p i with
      | none => r
      | some q =>
        let sums := List.zipWith (sumOver m.slice) (look [] r.olds (oldKey m q.bit)) (partialSum m.slice g)
        farWords m q sums false { r with
          s := countLadAdd (countLadReq r.s k 1) k (addCount m.slice g), olds := put [] r.olds (oldKey m q.bit) sums }

/-- One window of rows (R156, R162, R163). -/
def farWindow (m : LadCmd) (k : ClusterId) (acc : Bool) (p : Nat) (xs : List LadItem) (r : FarRun) : FarRun :=
  let live := inBounds xs
  if acc then (if ladMerges m then targets live else live.map (fun i => [i])).foldl (fun r g => farAdd m k p g r) r
  else
    let keep := if ladMerges m then survivors live else live
    let lost := (live.filter (fun i => i.inner = 0)).length - (keep.filter (fun i => i.inner = 0)).length
    keep.foldl (fun r i => farRow m p i r) { r with s := countLadReq (countLadMerge r.s k lost) k keep.length }

/-- A row scatter's rows for far memory or another unit, from the rows that are in. -/
def scatterOut (m : LadCmd) (k : ClusterId) (acc : Bool) (got : List (Nat × List LadVals)) (pos : List (List LadPos)) (s : State) : FarRun :=
  (pos.zipIdx).foldl (fun r q =>
    if r.stop.isSome then r
    else
      let s := countLadOob r.s k (q.1.filter (fun x => decide (x = .out))).length
      let m' := srcBeats m q.2 q.1.length (.got got) s
      let items := scatterItems m q.1 m'.2
      let per := 256 * ladInner m
      let r := (upto (ceilDiv items.length per)).foldl (fun r w => farWindow m k acc q.2 ((items.drop (w * per)).take per) r) { r with s := m'.1 }
      { r with s := reachPos r.s k q.1.length }) { s := s, olds := got }

/-- A scatter into this unit, from the rows that are in. -/
def scatterHere (m : LadCmd) (k : ClusterId) (acc : Bool) (got : List (Nat × List LadVals)) (pos : List (List LadPos)) (s : State) : LadRun :=
  (pos.zipIdx).foldl (fun r q => if r.stop.isSome then r else scatterPass m k acc (.got got) q.2 q.1 r) { s := s }

/-- Rows of fill that the Ladle itself writes in a gather from another unit, none under `PAD_YIELD` (R208). -/
def fillRows (m : LadCmd) (k : ClusterId) (dd : Desc) (pos : List (List LadPos)) (s : State) : LadRun :=
  (pos.zipIdx).foldl (fun r q => (q.1.zipIdx).foldl (fun r e =>
    let r := { r with s := reachPos (countLadReq r.s k (ladInner m)) k (e.2 + 1), pos := e.2 }
    match e.1 with
    | .at_ _ _ => r
    | .out =>
      (upto (ladInner m)).foldl (fun r i =>
        match placeRow dd (ladCoords m q.2 i e.2) with
        | none => r
        | some t =>
          let v := moveElems r.s (ladW m) (tdWidth dd) (List.replicate (ladRow m) (fillElem m.slice))
          ladWrite m (padWrites dd t 0 v.2 (v.2.map (fun _ => true))) false { r with s := v.1 })
        { r with s := countLadOob r.s k 1 }) r) { s := s }

/-! ### The stages of an INDEX block -/

/-- Why an INDEX block ends early takes effect (R164, R235, R293, R377). -/
def stopIndex (s : State) (h : ChanId) (k : ClusterId) : LadStop → State
  | .residue p => failLadle s k (residueDetail p (locChan h))
  | .poisonIndex => failChan s h .poisonIndex 0
  | .off => fenceChan s h

/-- The rows the Ladle gave the channel, and why it stops; a run toward another unit that sends no WR flit sends its INC
flit (R208, R319). A command that has left nothing to carry stops at once. -/
def toOut (s : State) (h : ChanId) (i : Nat) (b : BlkRun) (out : List (List (WordWr × Bool))) (stop : Option LadStop) : State :=
  match (if out.isEmpty then stop else none) with
  | some x => stopIndex s h (bClu b.entry) x
  | none =>
    let empty := out.isEmpty && decide (bDstSpace b = 1) && decide (bInc b.entry ≠ 0)
    let t := chanStream s.mov.chans[h]
    let x : Xfer := { src := none, dst := none, len := 0, issued := 8, flit := true }
    let s := if empty then offer s t (emptyRun s.rmt.streams[t] (bInc b.entry) (bIncCtr b.entry).val) else s
    setBlk s h i { b with stage := .out, row := 0, off := 0, out := out, stop := stop, fetch := [], got := [], part := [], fly := if empty then [x] else [] }

/-- The Ladle runs with every row it needs in (R208). -/
def runIndex (s : State) (h : ChanId) (i : Nat) (b : BlkRun) : State :=
  let m := chanLadCmd s h b
  let k := bClu b.entry
  let s := progress s (.chan h)
  if bSct b.entry then
    if isLocal b.dd then
      let r := scatterHere m k (bAcc b.entry) b.got b.pos s
      let s := countChanOob r.s h (r.sum.crossed * 8 / blkWidth b)
      toOut s h i { b with bytes := b.bytes + r.sum.bytes, psn := b.psn || r.psn } [] (r.stop <|> b.stop)
    else
      let r := scatterOut m k (bAcc b.entry) b.got b.pos s
      toOut r.s h i b r.out (r.stop <|> b.stop)
  else if isGlobal b.sd then toOut s h i b [] b.stop
  else
    let r := gatherOut m k (if isLocal b.sd then .mem else .got b.got) b.dd b.pos s
    toOut r.1 h i b r.2 b.stop

/-- The last index beat is in: the Ladle resolves the indices, and the channel reads the rows that the Ladle needs of it, if
any. In a gather from another unit the Ladle writes the rows of fill first, so that data remains over them (R167, R208). -/
def planIndex (s : State) (h : ChanId) (i : Nat) (b : BlkRun) : State :=
  let m := chanLadCmd s h b
  let q := resolvePasses m b.idxGot (ladPasses m) 0 false s
  let b := { b with pos := q.2.1, stop := if q.2.2 then some .poisonIndex else none }
  let fetches : List FetchRow :=
    if bSct b.entry then scatterFetch m b.sd q.2.1 ++ (if bAcc b.entry && !isLocal b.dd then oldFetch m q.2.1 else [])
    else if isGlobal b.sd then globalFetch m b.dd q.2.1
    else if isLocal b.sd then [] else gatherFetch m q.2.1
  let r : LadRun := if !bSct b.entry && isGlobal b.sd then fillRows m (bClu b.entry) b.dd q.2.1 q.1 else { s := q.1 }
  let b := { b with bytes := b.bytes + r.sum.bytes, stage := .fetch, row := 0, off := 0, fetch := fetches }
  match r.stop with
  | some x => stopIndex r.s h (bClu b.entry) x
  | none => if fetches.isEmpty then runIndex (setBlk r.s h i b) h i b else setBlk r.s h i b

/-- The Ladle has taken the command of a channel: its index beats are read next (R150, R487). -/
def startIndex (s : State) (h : ChanId) : State :=
  progress (modChan s h (fun c => { c with
    st := .run, blks := c.blks.map (fun b => if bKind b.entry = 2 ∧ b.stage = .wait then { b with stage := .index } else b) })) (.chan h)

end Sys2Proof.Machine
end

