-- ==== Sys2Proof/Machine/Mover.lean ====
section
/-! DEFINITION. The Stream Mover: blocks, transfers, beat slots, far memory, re-arms and list ends (R202 to R241). -/

namespace Sys2Proof.Machine

/-! ### Rows and transfers (R206 to R208, R218) -/

/-- Bytes of a row of a descriptor. -/
def rowLen (d : Desc) : Nat := tdSize d 0 * tdWidth d / 8

/-- Rows that the channel carries: one for COPY, those of R207, and those an INDEX block reads or carries in its present
stage (R208). -/
def blkRows (b : BlkRun) : Nat :=
  if bKind b.entry = 0 then 1
  else if bKind b.entry = 1 then bCount b.entry
  else match b.stage with
    | .fetch => b.fetch.length
    | .out => b.out.length
    | _ => 0

/-- One row of a block: source, destination, bytes, the words a Ladle has laid out for it, and the row read for a Ladle. -/
structure RowInfo where
  src : Option Nat
  dst : Option Nat
  len : Nat
  out : List (WordWr × Bool) := []
  fetch : Option FetchRow := none
  deriving DecidableEq, Repr

/-- Row `i` of a block. -/
def rowInfo (b : BlkRun) (i : Nat) : RowInfo :=
  if bKind b.entry = 0 then { src := some (bSaddr b.entry), dst := some (bDaddr b.entry), len := bLen b.entry }
  else if bKind b.entry = 1 then
    { src := rowOf b.sd (bFirst b.entry + i), dst := rowOf b.dd (bFirst b.entry + i), len := rowLen b.sd }
  else if b.stage = .fetch then
    match b.fetch[i]? with
    | some r => { src := some (r.bit / 8), dst := r.dst, len := fetchLen r, fetch := if r.dst.isNone then some r else none }
    | none => { src := none, dst := none, len := 0 }
  else
    match b.out[i]? with
    | some ws => { src := none, dst := (ws.head?).map (fun w => 64 * w.1.word), len := 64 * ws.length, out := ws }
    | none => { src := none, dst := none, len := 0 }

/-- The row sends or writes something: its destination is in bounds, and it is not a row of pad elements that
`PAD_YIELD` leaves unwritten (R207, R319). -/
def rowGoes (b : BlkRun) (i : Nat) : Bool :=
  let r := rowInfo b i
  r.dst.isSome && !(r.src.isNone && decide (bKind b.entry = 1) && tdYield b.dd)

/-- Words at the front of a row that one transfer carries: up to `n`, in one 4 KiB block of far memory, and one after another
where a flit carries them (R218). -/
def cutWords (far flit : Bool) : Nat → List (WordWr × Bool) → Nat
  | 0, _ => 0
  | _, [] => 0
  | _, [_] => 1
  | n + 1, x :: y :: r =>
    if n = 0 then 1
    else if (far && decide (x.1.word / 64 ≠ y.1.word / 64)) || (flit && decide (x.1.word + 1 ≠ y.1.word)) then 1
    else 1 + cutWords far flit n (y :: r)

/-- Bytes of the transfer that begins at byte `off` of a row (R218): one flit toward a global destination, one request
for a global source, else at most 16 KiB and within 4 KiB of a far address. Where pad elements of a row toward another unit
are left unsent, a flit also ends where the owner of its source may change, every 4 MiB. -/
def cutLen (b : BlkRun) (r : RowInfo) (off : Nat) : Nat :=
  let rest := r.len - off
  if !r.out.isEmpty then 64 * cutWords (bDstSpace b = 2) (bDstSpace b = 1) (if bDstSpace b = 1 then 4 else 256) (r.out.drop (off / 64))
  else if bSrcSpace b = 1 then rest
  else if bDstSpace b = 1 then
    let own := match r.src with
      | some a => if bKind b.entry = 1 ∧ tdYield b.dd then 0x400000 - (a + off) % 0x400000 else 256
      | none => 256
    min (min 256 own) rest
  else
    let far (space : Nat) (a : Option Nat) : Nat := match space, a with
      | 2, some x => 4096 - (x + off) % 4096
      | _, _ => 16384
    let sp := match r.fetch with | some f => f.space | none => bSrcSpace b
    min rest (min 16384 (min (far sp r.src) (far (bDstSpace b) r.dst)))

/-- Minimum efficient size of an endpoint, in beats (Table 9-5). -/
def minBeats (space : Nat) (a : Option Nat) : Nat :=
  match space with
  | 2 => 8
  | 0 => match a with | some x => if isNs x then 1 else 2 | none => 1
  | _ => 1

/-- 64-byte words that the source range of a transfer touches (R225). -/
def xferWords (x : Xfer) : Nat := match x.src with | some a => ceilDiv (a % 64 + x.len) 64 | none => ceilDiv x.len 64

/-- The transfer asks another unit for its bytes. -/
def asks (b : BlkRun) (x : Xfer) : Bool := decide (bSrcSpace b = 1) && x.src.isSome

/-- Where a row lies for the minimum efficient size: a row out of bounds costs what one in bounds does (R62, R225). -/
def rowAddr (b : BlkRun) (d : Desc) (a : Option Nat) : Option Nat :=
  match a with
  | some x => some x
  | none => if bKind b.entry = 1 then some (tdBase d % 2 ^ 32) else none

/-- Beat slots a transfer costs (R225); a read request costs one (R218). -/
def xferSlots (b : BlkRun) (x : Xfer) : Nat :=
  if asks b x then 1
  else
    let sides := max (if x.out.isEmpty then minBeats (xferSpace b x) (rowAddr b b.sd x.src) else 1)
      (if x.fetch.isSome then 1 else minBeats (bDstSpace b) (rowAddr b b.dd x.dst))
    max (max (xferBeats x) (ceilDiv (xferWords x) 4)) sides

/-- The transfer at the cursor, and the block with the cursor past it. -/
def nextXfer (b : BlkRun) : Xfer × BlkRun :=
  let r := rowInfo b b.row
  let n := cutLen b r b.off
  let ws := (r.out.drop (b.off / 64)).take (n / 64)
  let x : Xfer :=
    if r.out.isEmpty then
      { src := r.src.map (· + b.off), dst := r.dst.map (· + b.off), len := n, fetch := r.fetch
        flit := (decide (bSrcSpace b = 1) && r.src.isSome) || (decide (bDstSpace b = 1) && r.fetch.isNone && rowGoes b b.row) }
    else { src := none, dst := (ws.head?).map (fun w => 64 * w.1.word), len := n, out := ws, flit := decide (bDstSpace b = 1) }
  (x, if b.off + n < r.len then { b with off := b.off + n } else { b with row := b.row + 1, off := 0 })

/-- Rows are left to cut into transfers. -/
def moreRows (b : BlkRun) : Bool := decide (b.row < blkRows b)

/-- Every row has been cut into transfers; an INDEX block gets its last rows when its command has run. -/
def atEnd (b : BlkRun) : Bool := (decide (bKind b.entry ≠ 2) || decide (b.stage = .out)) && decide (blkRows b ≤ b.row)

/-- The last beat of the block has issued (R230). -/
def blkIssued (b : BlkRun) : Bool := atEnd b && b.fly.all (fun x => decide (xferSlots b x ≤ x.issued))

/-- Transfers outstanding (R220): an INDEX block counts as one while its command runs, plus its own transfers of far-memory
and global rows. -/
def outstanding (x : Chan) : Nat :=
  (x.blks.map (fun b => if bKind b.entry = 2 then 1 + (b.fly.filter (fun y => readsFar b y || asks b y || (y.fetch.isNone && !isLocal b.dd))).length
    else b.fly.length)).sum

/-! ### Reading and placing beats -/

/-- Every 32-bit, 16-bit or other element of a beat multiplied by the scale word, but for pad elements (R207). -/
def scaleBeat (b : BlkRun) (m : MovBeat) : MovBeat :=
  if bKind b.entry = 1 && bScl b.entry then
    let w := tdWidth b.dd
    let xs := ((toElems w (2048 / w) m.data.toNat).zipIdx).map (fun e =>
      if m.pad.getLsbD (e.2 * w / 512) then e.1
      else elemCode (tdFmt b.dd) (tdRtz b.dd) (tdSat b.dd) (fMul (elemValue (tdFmt b.dd) e.1) (f32 b.scale)))
    { m with data := BitVec.ofNat 2048 (ofElems w xs), psn := m.psn || b.scalePsn }
  else m

/-- Beat `k` of a transfer from a unit-local source, or of a row of fill. -/
def readMovBeat (s : State) (h : ChanId) (p : Fin 4) (b : BlkRun) (x : Xfer) (k : Nat) : State × MovBeat :=
  match x.src with
  | none => (s, { data := BitVec.ofNat 2048 (fillBits b.sd), psn := bScl b.entry && decide (bKind b.entry = 1) && b.scalePsn, pad := 15 })
  | some a =>
    let a := a + 256 * k
    let n := min 256 (x.len - 256 * k)
    let pad := foreignWords s (chanPart s h) a n
    let f := if bKind b.entry = 0 then copyFill s (chanPart s h) a n else (s, fillBits b.sd % 2 ^ 512)
    let r := readRun f.1 ((whoChan s h p).at k) (8 * a) (8 * n) f.2
    (r.1, scaleBeat b { data := BitVec.ofNat 2048 r.2.1, psn := r.2.2, pad := pad })

/-- The words of one beat written to `a`, less pad elements under `PAD_YIELD` (R207). -/
def beatWrites (b : BlkRun) (a n : Nat) (m : MovBeat) : List WordWr :=
  let ws := runWrites (8 * a) (8 * n) m.data.toNat
  if decide (bKind b.entry ≠ 0) && tdYield b.dd then (ws.zipIdx.filter (fun w => !m.pad.getLsbD w.2)).map (·.1) else ws

/-- Poison of a transfer. -/
def xferPsn (x : Xfer) : Bool := x.data.any (·.psn) || x.out.any (·.2)

/-- Word writes, one group after another; nothing follows a refused one. -/
def putGroups (who : Who) : List (List WordWr × Bool) → State → State × WrSum
  | [], s => (s, {})
  | g :: r, s =>
    let w := putWords s who g.1 g.2
    if w.2.off then w
    else
      let t := putGroups who r w.1
      (t.1, { bytes := t.2.bytes + w.2.bytes, crossed := t.2.crossed + w.2.crossed, off := t.2.off })

/-- A transfer's words written: its beats follow one another at the crossbar (R299). -/
def writeGroups (who : Who) (gs : List (List WordWr × Bool)) (s : State) : State × WrSum :=
  putGroups who gs (openWrite s who (gs.flatMap (·.1)))

/-- What a transfer writes at its destination: the words a Ladle laid out for it, or its beats in order. -/
def xferWrites (b : BlkRun) (x : Xfer) : List (List WordWr × Bool) :=
  if !x.out.isEmpty then x.out.map (fun w => ([w.1], w.2))
  else match x.dst with
    | none => []
    | some a => (x.data.zipIdx).map (fun m => (beatWrites b (a + 256 * m.2) (min 256 (x.len - 256 * m.2)) m.1, m.1.psn))

/-! ### Remote transfers (R194, R208, R226) -/

/-- A one-row descriptor of `n` elements of format `fmt` at `base`. -/
def lineDesc (base space fmt n fill : Nat) : Desc :=
  BitVec.ofNat 512 (base % 2 ^ 48 + space * 2 ^ 48 + fmt * 2 ^ 50 + 2 ^ 58 + (n - 1) % 2 ^ 24 * 2 ^ 64 + fill % 2 ^ 32 * 2 ^ 400)

/-- The RD_REQ flit of a remote read: a COPY asks for its bytes as INT8 elements, an INDEX block for one row, and only
the COPY's request carries the block's increment (R208, R210, R320, log 23). -/
def readReq (t : Stream) (b : BlkRun) (x : Xfer) : OutFlit :=
  let isCopy := decide (bKind b.entry = 0)
  let fmt := if isCopy then 7 else tdFmt b.sd
  let n := if isCopy then x.len else tdSize b.sd 0
  let u := lineDesc (x.src.getD 0) 1 fmt n (tdFill b.sd)
  let d := lineDesc (x.dst.getD 0) 0 fmt n (tdFill b.dd)
  outFlit t tRdReq (if isCopy then bInc b.entry else 0) (bIncCtr b.entry).val 0 1 false false
    ((u.setWidth 2048) ||| (d.setWidth 2048 <<< 512))

/-- Some row from `i` on sends a flit. -/
def laterSends (b : BlkRun) (i : Nat) : Bool := (span i (blkRows b - i)).any (rowGoes b)

/-- The bits of a flit's words that its transfer names: the bytes up to the row's end, or those a Ladle laid out. -/
def flitMask (x : Xfer) : Nat :=
  if x.out.isEmpty then 2 ^ (8 * x.len) - 1 else ofElems 512 (x.out.map (fun w => w.1.mask.toNat))

/-- The WR flit of a transfer; `b` has its cursor past it. Bits of its words that the transfer does not name are free values
(R318, log 24). -/
def writeFlit (s : State) (t : Stream) (b : BlkRun) (x : Xfer) (bits : Nat) (psn : Bool) : State × OutFlit :=
  let mask := flitMask x
  let full := 2 ^ (512 * ceilDiv x.len 64) - 1
  let rest := if mask = full then (s, 0) else drawBits 32 s
  let data := (bits &&& mask) ||| (rest.2 &&& (full - mask))
  let last := decide (b.off = 0) && !laterSends b b.row
  (rest.1, outFlit t tWr (bInc b.entry) (bIncCtr b.entry).val (x.dst.getD 0) (ceilDiv x.len 64 - 1) last psn (BitVec.ofNat 2048 data))

/-- A transfer toward another unit whose words are all pad elements that `PAD_YIELD` leaves unwritten sends no flit; as the
last of its run it sends the INC flit, which adds the bytes of the others and no more (R207, R319). -/
def yieldedFlit (t : Stream) (b : BlkRun) : List OutFlit :=
  if b.off = 0 ∧ !laterSends b b.row then emptyRun t (bInc b.entry) (bIncCtr b.entry).val else []

/-- Admission as the Mover sees it: credits and quota, less the flits already read and not yet accepted (R226). -/
def admits (t : Stream) : Bool := decide (t.wait.length < t.cred.toNat) && decide (t.wait.length < t.qleft)

/-! ### Beat slots (R216 to R224) -/

/-- The partition's agents are stopped by a preemption or a halt (R457). -/
def stopped (s : State) (p : Part) : Bool := s.parts[taskPart s p].halted || s.parts[taskPart s p].preempted

/-- The beat a channel would issue next: its block's position among the blocks in progress, the block past that
transfer's start, the transfer, and the transfers before it. -/
structure NextBeat where
  at_ : Nat
  blk : BlkRun
  x : Xfer
  before : List Xfer
  deriving DecidableEq, Repr

/-- Next beat of one block: of its youngest transfer, or of a new one within the limit of R220. -/
def nextOf (i : Nat) (b : BlkRun) (room : Bool) : Option NextBeat :=
  match b.fly.reverse with
  | x :: r =>
    if x.issued < xferSlots b x then some { at_ := i, blk := b, x := x, before := r.reverse }
    else if moreRows b && room then
      let n := nextXfer b
      some { at_ := i, blk := n.2, x := n.1, before := b.fly }
    else none
  | [] =>
    if moreRows b && room then
      let n := nextXfer b
      some { at_ := i, blk := n.2, x := n.1, before := [] }
    else none

/-- The next index beat of an INDEX block, which goes ahead of the channel's other beats (R487). -/
def nextIdx (x : Chan) : Option NextBeat :=
  ((x.blks.zipIdx).find? (fun b => decide (bKind b.1.entry = 2) && decide (b.1.stage = .index))).map (fun b =>
    { at_ := b.2, blk := b.1, x := { src := none, dst := none, len := 256 }, before := b.1.fly })

/-- The next beat of a channel. -/
def nextBeat (x : Chan) : Option NextBeat :=
  match nextIdx x with
  | some n => some n
  | none => ((x.blks.zipIdx).filterMap (fun b => nextOf b.2 b.1 (decide (outstanding x < 8)))).head?

/-- The beat is one of an index tensor. -/
def isIdxBeat (n : NextBeat) : Bool := decide (bKind n.blk.entry = 2) && decide (n.blk.stage = .index)

/-- What a cycle has carried so far (R224). -/
structure Caps where
  toNoc : Bool := false
  fromNoc : Bool := false
  ds : Nat := 0
  deriving DecidableEq, Repr

/-- The beat sends a flit now. -/
def sendsFlit (n : NextBeat) : Bool := n.x.flit && decide (n.x.issued = 0)

/-- The caps a beat needs: toward the NoC, from the NoC, Deep Store. -/
def capsOf (t : Stream) (n : NextBeat) : Bool × Bool × Bool :=
  ((decide (bDstSpace n.blk = 2) && n.x.dst.isSome) || (n.x.flit && stViaNoc t), readsFar n.blk n.x,
    decide (xferSpace n.blk n.x = 0) && (match n.x.src with | some a => !isNs a | none => false))

/-- A channel is ready (R222). A fenced stream does not hold it back: presenting on it is what fails (R326). -/
def chanReady (s : State) (h : ChanId) (k : Caps) (x : Fin 3) : Bool :=
  let c := s.mov.chans[h]
  match nextBeat c with
  | none => false
  | some n =>
    let t := s.rmt.streams[chanStream c]
    let need := capsOf t n
    decide (blkClass n.blk = x) && decide (c.st ≠ .fenced) && !stopped s (chanPart s h) && !(need.1 && k.toNoc) && !(need.2.1 && k.fromNoc)
      && !(need.2.2 && (decide (4 ≤ k.ds) || inRefresh s)) && (!sendsFlit n || t.fenced || admits t)

/-- The next ready channel of a class after `last`, among those of partition `p` (R222, R223). -/
def nextReady (s : State) (p : Part) (k : Caps) (x : Fin 3) (last : Nat) : Option ChanId :=
  ((span 1 32).map (fun i => (⟨(last + i) % 32, by omega⟩ : ChanId))).find?
    (fun h => sameTask s p (chanPart s h) && chanReady s h k x)

/-- An index beat of channel `h` is read through port `p`; the last one lets the Ladle resolve the indices (R487). -/
def issueIdx (s : State) (h : ChanId) (p : Fin 4) (n : NextBeat) : State :=
  let m := chanLadCmd s h n.blk
  let j := n.blk.idxGot.length % idxBeats m
  let r := readRun s ((whoChan s h p).at j) (8 * (tdBase m.idx + 256 * j)) (32 * idxCount m j) (fillBits m.idx % 2 ^ 512)
  let b := { n.blk with idxGot := n.blk.idxGot ++ [{ data := BitVec.ofNat 2048 r.2.1, psn := r.2.2, pad := 0 }] }
  if b.idxGot.length < idxWanted m then setBlk r.1 h n.at_ b else planIndex (setBlk r.1 h n.at_ b) h n.at_ b

/-- One beat of channel `h` issues through port `p` (R218, R219, R226). -/
def issueBeat (s : State) (h : ChanId) (p : Fin 4) (n : NextBeat) : State :=
  let c := s.mov.chans[h]
  let st := chanStream c
  let t := s.rmt.streams[st]
  let k := n.x.issued
  let s := countEv (modChan s h (fun x => { x with beats := sat32 x.beats 1, st := .run })) .movBeat 1
  let s := progress s (.chan h)
  let s := if readsFar n.blk n.x || (decide (bDstSpace n.blk = 2) && n.x.dst.isSome) then presentAt s 9 (whoChan s h p).master (chanPart s h) 1 else s
  let put (s : State) (x : Xfer) : State := setBlk s h n.at_ { n.blk with fly := n.before ++ [{ x with issued := k + 1, port := p }] }
  if isIdxBeat n then issueIdx s h p n
  else if sendsFlit n && t.fenced then fenceChan (logFenced s st (locChan h)) h
  else if asks n.blk n.x then put (offer s st [readReq t n.blk n.x]) n.x
  else if readsFar n.blk n.x then put s n.x
  else if !n.x.out.isEmpty then
    if sendsFlit n then
      let f := writeFlit s t n.blk n.x (ofElems 512 (n.x.out.map (fun w => w.1.data.toNat))) (n.x.out.any (·.2))
      put (offer f.1 st [f.2]) n.x
    else put s n.x
  else if k < xferBeats n.x then
    let r := readMovBeat s h p n.blk n.x k
    let yields := decide (bKind n.blk.entry = 1) && tdYield n.blk.dd && (upto (ceilDiv n.x.len 64)).all (fun i => r.2.pad.getLsbD i)
    let x := { n.x with data := n.x.data ++ [r.2] }
    if !sendsFlit n then put r.1 x
    else if yields then put (offer r.1 st (yieldedFlit t n.blk)) { x with flit := !(yieldedFlit t n.blk).isEmpty }
    else
      let f := writeFlit r.1 t n.blk n.x r.2.data.toNat r.2.psn
      put (offer f.1 st [f.2]) x
  else put s n.x

/-- Class with first claim in a cycle (Table 9-4). -/
def firstClaim (split : BitVec 3) (cyc : Nat) : Fin 3 :=
  let c := cyc % 20
  let b : Nat × Nat := match split.toNat with
    | 0 => (10, 17) | 1 => (14, 18) | 2 => (8, 16) | 3 => (12, 14) | 4 => (16, 18) | 5 => (6, 12) | 6 => (10, 14) | _ => (18, 19)
  if c < b.1 then 0 else if c < b.2 then 1 else 2

/-- The order classes are tried in (R222). -/
def classOrder (f : Fin 3) : List (Fin 3) := f :: ([0, 1, 2] : List (Fin 3)).filter (fun x => x ≠ f)

/-- Place of `last[x]` of a partition. -/
def lastIdx (p : Part) (x : Fin 3) : Fin 6 := ⟨3 * p.val + x.val, by omega⟩

/-- The partition whose channels a port serves (R223). -/
def portPart (s : State) (p : Fin 4) : Part := if twoTask s then ⟨p.val / 2, by omega⟩ else 0

/-- One port's grant in a cycle. A beat whose access a reserved window excludes keeps its slot's turn for a later cycle (R35). -/
def grantPort (acc : State × Caps) (p : Fin 4) : State × Caps :=
  let s := acc.1
  let k := acc.2
  if s.mov.bucket[p] < 64 then acc
  else
    let q := portPart s p
    match (classOrder (firstClaim s.mov.split s.fr.cyc)).filterMap (fun x =>
        (nextReady s q k x (s.mov.last[lastIdx q x]).val).map (fun h => (x, h))) with
    | [] => acc
    | (x, h) :: _ =>
      match nextBeat s.mov.chans[h] with
      | none => acc
      | some n =>
        let need := capsOf s.rmt.streams[chanStream s.mov.chans[h]] n
        let t := { s with mov := { s.mov with
          bucket := s.mov.bucket.set p.val (s.mov.bucket[p] - 64), last := s.mov.last.set (lastIdx q x).val h } }
        (outside s (issueBeat t h p n), { toNoc := k.toNoc || need.1, fromNoc := k.fromNoc || need.2.1, ds := k.ds + b2n need.2.2 })

/-- A bucket gains a cycle's tokens (R216). -/
def refill (g : Regulator) (b : Nat) : Nat := min (b + g.rate.toNat) (64 * g.depth.toNat)

/-- The Mover's buckets gain a cycle's tokens. -/
def refillMover (s : State) : State :=
  { s with mov := { s.mov with fed := true, bucket := s.mov.bucket.mapFinIdx (fun i b h => refill (s.mov.reg[i]) b) } }

/-- Channels that only admission holds back show WAIT_ADMIT (Table 9-8, Table 15-6). -/
def markAdmit (s : State) (h : ChanId) : State :=
  let c := s.mov.chans[h]
  match nextBeat c with
  | some n =>
    let t := s.rmt.streams[chanStream c]
    if sendsFlit n && !t.fenced && !admits t then waitFor (modChan s h (fun x => { x with st := .waitAdmit })) (.chan h) .admission else s
  | none => s

/-- One cycle of the Stream Mover: every port is granted a beat of a ready channel by the split profile (R222). In two-task mode
each partition keeps the caps of R224 over its own ports (R25, R223, R303). -/
def execBeatSlotGrant (s : State) : Res :=
  .next (if s.u.state = .running then
      let r := ([0, 1] : List (Fin 4)).foldl grantPort (refillMover s, {})
      let r := ([2, 3] : List (Fin 4)).foldl grantPort (r.1, if twoTask s then {} else r.2)
      (List.finRange 32).foldl markAdmit r.1
    else s)

/-! ### Block start (R213, R214) -/

/-- Table 7-1 for an INDEX block whose descriptors pass Table 3-2: far memory and other units only for whole rows, and no
accumulation in another unit's memory (R170, log 25). -/
def indexRest (s : State) (h : ChanId) (b : BlkRun) : Option Err :=
  let m := chanLadCmd s h b
  let other := if bSct b.entry then b.sd else b.dd
  let away := !isLocal b.sd || !isLocal b.dd
  let e := ladCheck m (some other) false (bSct b.entry) (bAcc b.entry) (ladUsable s (bClu b.entry))
  if decide (m.k = 0) && away then
    (match e with | some .ladIndex => some .ladIndex | some .ladShape => some .ladShape | _ => some .tdSpace)
  else
    match e with
    | some e => some e
    | none => if bSct b.entry && bAcc b.entry && isGlobal b.dd then some .ladMode else none

/-- The checks of an INDEX block's operands (Tables 3-2 and 7-1). -/
def indexCheck (s : State) (h : ChanId) (b : BlkRun) : Option Err :=
  match checkTds [(b.sd, fun d => !isPlane d), (b.dd, fun d => !isPlane d), ((chanLadCmd s h b).idx, fun d => !isPlane d)] with
  | some e => some e
  | none => indexRest s h b

/-- A unit-local range of a COPY block lies in one window. -/
def copyRange (space a n : Nat) : Bool := decide (space ≠ 0) || inWindow (a : Int) ((a : Int) + n - 1)

/-- The checks of a channel's block at its start (Table 9-3). -/
def blockCheck (s : State) (h : ChanId) (b : BlkRun) : Option Err :=
  let e := b.entry
  if bKind e = 0 then
    if bSaddr e % 64 ≠ 0 ∨ bDaddr e % 64 ≠ 0 then some .tdAlign
    else if bDspace e = 1 ∧ bLen e % 64 ≠ 0 then some .blockForm
    else if !copyRange (bSspace e) (bSaddr e) (bLen e) || !copyRange (bDspace e) (bDaddr e) (bLen e) then some .tdRange
    else none
  else if bKind e = 1 then
    match checkTds [(b.sd, fun _ => true), (b.dd, fun _ => true)] with
    | some x => some x
    | none =>
      if tdLayout b.sd ≠ lRow ∨ tdLayout b.dd ≠ lRow ∨ tdFmt b.sd ≠ tdFmt b.dd ∨ tdSize b.sd 0 ≠ tdSize b.dd 0 then some .blockForm
      else if bScl e && decide (tdFmt b.dd ≠ 0) && decide (tdFmt b.dd ≠ 2) then some .blockForm
      else none
  else indexCheck s h b

/-- The Stream Mover port through which a block that starts reads its scale word. -/
def chanPort (s : State) (h : ChanId) : Fin 4 := if twoTask s && chanPart s h = 1 then 2 else 0

/-- A block whose checks hold starts: the scale word is read, an INDEX block presents its Ladle command, and a run
toward another unit that sends no WR flit sends its INC flit (R207, R208, R319). A scale word in a region of the other
partition has no descriptor and so no fill value: it reads as a free value (R24, DESIGN CHOICE, log 83). -/
def beginBlock (s : State) (h : ChanId) (b : BlkRun) : State :=
  let c := s.mov.chans[h]
  let t := chanStream c
  let f := copyFill s (chanPart s h) c.scaleAddr.toNat 4
  let r := if bKind b.entry = 1 && bScl b.entry then readRun f.1 (whoChan s h (chanPort s h)) (8 * c.scaleAddr.toNat) 32 f.2 else (s, 0, false)
  let b := { b with scale := BitVec.ofNat 32 r.2.1, scalePsn := r.2.2 }
  let empty := decide (bKind b.entry = 1) && decide (bDstSpace b = 1) && decide (bInc b.entry ≠ 0) && !laterSends b 0
  let x : Xfer := { src := none, dst := none, len := 0, issued := 8, flit := true }
  let s := if empty then offer r.1 t (emptyRun r.1.rmt.streams[t] (bInc b.entry) (bIncCtr b.entry).val) else r.1
  let b := if empty then { b with fly := [x] } else b
  let s := modChan s h (fun c => { c with
    blks := c.blks ++ [b], st := if bKind b.entry = 2 then .waitLadle else .run
    list := c.list.map (fun l => { l with idx := l.idx + 1 }) })
  let s := progress s (.chan h)
  if bKind b.entry = 2 then ladPresents s (bClu b.entry) (.chan h) else s

/-! ### Completion (R210, R219, R230 to R232) -/

/-- The transfer may complete: its beats have landed and its slots have been spent; a flit has been accepted; a response
has been written (R219). -/
def xferDone (b : BlkRun) (x : Xfer) : Bool :=
  if asks b x then x.answered
  else decide (xferSlots b x ≤ x.issued) && (!x.out.isEmpty || decide (xferBeats x ≤ x.data.length)) && (!x.flit || x.accepted)

/-- The first transfer of a channel that may complete: its block and its place. Transfers of one block complete in their
order, so that where rows meet the last in row-major order remains (R64). Answers of another unit come in any order. -/
def firstDone (c : Chan) : Option (Nat × BlkRun × Nat × Xfer) :=
  ((c.blks.zipIdx).flatMap (fun b => ((if bSrcSpace b.1 = 1 then b.1.fly else b.1.fly.take 1).zipIdx).filterMap (fun x =>
    if xferDone b.1 x.1 then some (b.2, b.1, x.2, x.1) else none))).head?

/-- Elements of a beat as tap 2 reads them: 64 FP32, or 128 BF16 widened exactly (R257). -/
def tapElems (fmt : Bool) (x : Bits) : List Word :=
  if fmt then (toElems 16 128 x.toNat).map (fun v => BitVec.ofNat 32 (v * 2 ^ 16)) else (toElems 32 64 x.toNat).map (BitVec.ofNat 32)

/-- Beats that a channel writes to a unit-local destination cross tap 2 when it is armed for that channel (R257). -/
def tapBeats (s : State) (h : ChanId) (xs : List (Bits × Bool)) : State :=
  xs.foldl (fun s b =>
    let t := s.taps[(2 : TapId)]
    if t.armed && decide (t.ch.toNat = h.val) then tapAdd s 2 (if t.fmt then 7 else 6) (tapElems t.fmt b.1) b.2 else s) s

/-- Word writes as beats of four words, what they do not write being 0. -/
def wordBeats (ws : List WordWr) (psn : Bool) : List (Bits × Bool) :=
  (upto (ceilDiv ws.length 4)).map (fun k =>
    (BitVec.ofNat 2048 (ofElems 512 (((ws.drop (4 * k)).take 4).map (fun w => (w.data &&& w.mask).toNat))), psn))

/-- The beats of a transfer as they are written: positions past its bytes are 0, and words that a Ladle laid out are seen
four to a beat (R257). -/
def writtenBeats (b : BlkRun) (x : Xfer) : List (Bits × Bool) :=
  if !x.out.isEmpty then wordBeats (x.out.map (·.1)) (xferPsn x)
  else ((x.data.zipIdx).filter (fun m => !(tdYield b.dd && decide (bKind b.entry ≠ 0) && decide (m.1.pad = 15)))).map (fun m =>
    (BitVec.ofNat 2048 (m.1.data.toNat % 2 ^ (8 * min 256 (x.len - 256 * m.2))), m.1.psn))

/-- Words that leave for far memory over the NoC. -/
def farWrites (s : State) (ws : List WordWr) : State := { s with pins := { s.pins with farWr := s.pins.farWr ++ ws } }

/-- The writes of a transfer take effect; answers bytes written and whether a closed port refused one. -/
def landXfer (s : State) (h : ChanId) (b : BlkRun) (x : Xfer) : State × Nat × Bool :=
  if asks b x || x.fetch.isSome then (s, 0, false)
  else if x.dst.isNone then (countChanOob s h (if x.len = 0 then 0 else 8 * x.len / blkWidth b), 0, false)
  else if bDstSpace b = 1 then (s, 0, false)
  else if bDstSpace b = 2 then
    let ws := (xferWrites b x).flatMap (·.1)
    (farWrites s ws, (ws.map (fun w => maskCount w.mask)).sum, false)
  else
    let r := writeGroups (whoChan s h x.port) (xferWrites b x) s
    let s := if r.2.off then r.1 else tapBeats r.1 h (writtenBeats b x)
    (countChanOob s h (r.2.crossed * 8 / blkWidth b), r.2.bytes, r.2.off)

/-- A transfer that read a row for a Ladle has landed: with the row's last bytes the row is in, and with the last row the Ladle
runs (R208). -/
def landFetch (s : State) (h : ChanId) (i : Nat) (b : BlkRun) (x : Xfer) : State :=
  match x.fetch with
  | none => s
  | some r =>
    let part := b.part ++ (x.data.zipIdx).map (fun m => (m.1, min 256 (x.len - 256 * m.2)))
    let whole := decide (r.bit / 8 + fetchLen r ≤ x.src.getD 0 + x.len)
    let v := if whole then rowVals s (chanPart s h) (chanLadCmd s h b) r part else (s, [])
    let b := if whole then { b with part := [], got := put [] b.got r.key v.2 } else { b with part := part }
    let s := setBlk v.1 h i b
    if whole && !moreRows b && b.fly.isEmpty then runIndex s h i b else s

/-- The increment of a block made at this unit: for a global destination the flits carry it, and a remote COPY's response
does (R210). -/
def blockInc (s : State) (h : ChanId) (b : BlkRun) : State :=
  let e := b.entry
  if bInc e = 0 ∨ bDstSpace b = 1 ∨ (bSrcSpace b = 1 ∧ bKind e = 0) then s
  else incCtrBy s (chanPart s h) (locChan h) (bIncCtr e) (if bInc e = 1 then 1 else BitVec.ofNat 32 b.bytes) b.psn

/-- The running list of a channel that ends with its item has been carried out: the item completes (R37). -/
def endItem (c : Chan) : Chan :=
  match c.list with
  | some l => if c.blks.isEmpty && decide (l.count ≤ l.idx) then { c with list := none, st := .idle, ag := { c.ag with run := none } } else c
  | none => c

/-- A channel that runs apart from items and frames (R228). -/
def isPersistent (h : ChanId) : Bool := decide (28 ≤ h.val)

/-- Block `i` leaves the channel once nothing of it is outstanding, and makes its increment (R210). One whose Ladle command
stopped early ends as its stop has it. -/
def closeBlock (s : State) (h : ChanId) (i : Nat) : State :=
  match s.mov.chans[h].blks[i]? with
  | none => s
  | some b =>
    if !(blkIssued b && b.fly.isEmpty) then s
    else match b.stop with
    | some x => stopIndex s h (bClu b.entry) x
    | none =>
      let s := blockInc (modChan s h (fun c => { c with blks := c.blks.eraseIdx i })) h b
      let s := if s.cls[bClu b.entry].running = some (.chan h) ∧ bKind b.entry = 2 then ladFrees s (bClu b.entry) else s
      if isPersistent h then s else modChan s h endItem

/-- The first block with nothing left to carry. -/
def firstClosed (c : Chan) : Option Nat := ((c.blks.zipIdx).find? (fun b => blkIssued b.1 && b.1.fly.isEmpty)).map (·.2)

/-- TRANSFER_COMPLETE: the oldest transfer whose last write its target now accepts completes; with it, perhaps, its block
and its item (R210, R219). -/
def execTransferComplete (h : ChanId) (s : State) : Res :=
  let c := s.mov.chans[h]
  .next (outside s (match firstDone c with
    | some (i, b, j, x) =>
      let r := landXfer s h b x
      if r.2.2 then fenceChan r.1 h
      else
        let b := { b with fly := b.fly.eraseIdx j, bytes := b.bytes + r.2.1, psn := b.psn || (x.fetch.isNone && xferPsn x) }
        let s := landFetch (setBlk r.1 h i b) h i b x
        let s := if asks b x && !moreRows b && b.fly.isEmpty && decide (bKind b.entry = 2) then runIndex s h i b else s
        closeBlock (progress s (.chan h)) h i
    | none =>
      match firstClosed c with
      | some i => closeBlock (progress s (.chan h)) h i
      | none => s))

/-! ### Far memory (R52, R219, R227, R234) -/

/-- The oldest transfer of blocks `bs` with a beat issued to far memory and not yet back: its block's place, the block, its
place. -/
def farWaiting (bs : List BlkRun) : Option (Nat × BlkRun × Nat × Xfer) :=
  ((bs.zipIdx).flatMap (fun b => (b.1.fly.zipIdx).filterMap (fun x =>
    if readsFar b.1 x.1 && decide (x.1.data.length < min x.1.issued (xferBeats x.1)) then some (b.2, b.1, x.2, x.1) else none))).head?

/-- A late beat is counted, and in real-time mode raises FAR_LATE once per channel and frame (R52, R227). -/
def farLate (s : State) (h : ChanId) : State :=
  let c := s.mov.chans[h]
  let s := modChan s h (fun c => { c with farLate := sat32 c.farLate 1 })
  if c.rt && decide (c.farLateFrame ≠ some s.fr.ctr) then
    raiseEvt (logRun (modChan s h (fun c => { c with farLateFrame := some s.fr.ctr })) .farLate (locChan h) 0) .farLate
  else s

/-- A far-memory beat of a transfer that a reset drains: with its last beat the transfer is written (R356). -/
def farDrains (s : State) (h : ChanId) (data : Bits) : State :=
  let c := s.mov.chans[h]
  match farWaiting c.drain with
  | none => s
  | some (i, b, j, x) =>
    let x := { x with data := x.data ++ [scaleBeat b { data := data, psn := false, pad := 0 }] }
    let done := xferDone b x
    let b' := { b with fly := if done then b.fly.eraseIdx j else setAt b.fly j x }
    let s := modChan s h (fun c => { c with drain := if b'.fly.isEmpty then c.drain.eraseIdx i else setAt c.drain i b' })
    if done then (landXfer s h b x).1 else s

/-- FAR_RESPONSE: a far-memory beat arrives and is used (R52). The beats of a channel arrive in the order they were asked for:
first those that a stop no longer waits for, which are discarded, then those of transfers that a reset drains (R304, R356, log
84). -/
def execFarResponse (h : ChanId) (data : Bits) (cycles : Nat) (s : State) : Res :=
  let c := s.mov.chans[h]
  .next (if 0 < c.farDead then modChan s h (fun c => { c with farDead := c.farDead - 1 })
    else if c.drain ≠ [] then farDrains s h data
    else match farWaiting c.blks with
    | none => s
    | some (i, b, j, x) =>
      let m := scaleBeat b { data := data, psn := false, pad := 0 }
      let s := setBlk s h i { b with fly := setAt b.fly j { x with data := x.data ++ [m] } }
      if s.fr.farBound < cycles then farLate s h else s)

/-- A transfer of the block touches a far address. -/
def touchesFar (b : BlkRun) (addr : Nat) : Bool :=
  b.fly.any (fun x =>
    let holds (a : Option Nat) : Bool := match a with | some a => decide (a ≤ addr) && decide (addr < a + x.len) | none => false
    (readsFar b x && holds x.src) || (decide (bDstSpace b = 2) && x.fetch.isNone && holds x.dst))

/-- The block in progress that a translation fault at `addr` belongs to: the first whose transfer touches the address (R234). -/
def faultBlock (c : Chan) (addr : Nat) : Option BlkRun := c.blks.find? (fun b => touchesFar b addr)

/-- FAR_XLATE: a translation fault on a far-memory transfer aborts the task and poisons its counters (R234). -/
def execFarXlate (h : ChanId) (addr : BitVec 48) (s : State) : Res :=
  .next (match faultBlock s.mov.chans[h] addr.toNat with
    | none => s
    | some b =>
      let s := { s with mov := { s.mov with
        faultCh := BitVec.ofNat 5 h.val, faultBlk := BitVec.ofNat 12 b.idx, faultFrame := BitVec.ofNat 15 s.fr.ctr.toNat, faultAddr := addr } }
      abortTask (logRun s .farXlate (locChan h) 0) (chanPart s h))

/-! ### Re-arms and list ends (R228 to R232, R239) -/

/-- A re-arm takes effect: the list and bases that govern every block from now on (R230). -/
def takeRearm (c : Chan) (r : Rearm) : Chan :=
  { c with src := r.src, dst := r.dst, list := some { first := r.first, count := r.count, idx := 0 }, st := .run }

/-- An accepted re-arm: into the shadow while a list runs, at once when the channel is idle (R229, R230). -/
def acceptRearm (c : Chan) (r : Rearm) : Chan := if c.list.isSome then { c with shadow := some r } else takeRearm c r

/-- The re-arm the staged registers hold (R229, Table 9-9). -/
def staged (c : Chan) : Rearm :=
  { first := c.raFirst.toNat, count := c.raCount.toNat + 1
    src := c.raSrcL.setWidth 48 ||| (c.raSrcH.setWidth 48 <<< 32), dst := c.raDstL.setWidth 48 ||| (c.raDstH.setWidth 48 <<< 32) }

/-- A re-arm submitted: a list that breaks R202 and a re-arm at a full shadow are refused (R229, R231, R239). -/
def submitRearm (h : ChanId) (s : State) : State :=
  let c := s.mov.chans[h]
  let r := staged c
  if !isPersistent h || decide (c.st = .fenced) || decide (s.u.state ≠ .running) then s
  else if 8192 < r.first + r.count then logRefused s .listRange (locChan h) 0
  else if c.shadow.isSome then
    raiseEvt (logRun (modChan s h (fun c => { c with rearmBusy := sat32 c.rearmBusy 1 })) .rearmBusy (locChan h) 0) .rearmBusy
  else modChan s h (fun c => acceptRearm c r)

/-- REARM: a write of 1 to `MOV_RA_GO`; channels 0 to 27 have no such register (R229). -/
def execRearm (h : ChanId) (s : State) : Res := .next (submitRearm h s)

/-- A work-list re-arm that waited enters the shadow, and its item completes (R228, R231). -/
def shadowNext (c : Chan) : Chan :=
  match c.rearmWait with
  | some r => { c with shadow := some r, rearmWait := none, ag := { c.ag with run := none } }
  | none => { c with shadow := none }

/-- LIST_END: the running list of a persistent channel has issued its last beat. A pending re-arm takes effect, a looping
list starts again, or the channel goes idle (R230, R232). -/
def execListEnd (h : ChanId) (s : State) : Res :=
  let c := s.mov.chans[h]
  .next (match c.list with
    | none => s
    | some l =>
      if isPersistent h && decide (c.st ≠ .fenced) && decide (l.count ≤ l.idx) && c.blks.all blkIssued then
        modChan s h (fun c => match c.shadow with
          | some r => shadowNext (takeRearm c r)
          | none => if c.loop then { c with list := some { l with idx := 0 } } else { c with list := none, st := .idle })
      else s)

end Sys2Proof.Machine
end

