-- ==== Sys2Proof/Machine/Sequencers.lean ====
section
/-! DEFINITION. Work-list items, the fetch engine, the store path and the Ladle's own queue (R37, R83, R84, R89, R150,
R170, R208, R228). -/

namespace Sys2Proof.Machine

/-! ### Item start (R37, R54, R433) -/

/-- Frame `f` lies before, at, or after the present frame (R33). -/
def framePast (s : State) (f : Word) : Bool := decide (f ≠ s.fr.ctr) && decide ((s.fr.ctr - f).toNat < 2 ^ 31)

/-- The cycle an item may start at has come. -/
def itemDue (s : State) (w : WorkItem) : Bool :=
  framePast s w.frame || (decide (w.frame = s.fr.ctr) && decide (w.item.offset ≤ s.fr.cyc))

/-- The first and count fields of a list in an item (Table 17-7). -/
def itemList (f : BitVec 192) (lo cnt : Nat) : ListRef := { first := fldN f lo 13, count := fldN f cnt 12 + 1 }

/-- A core starts an item: program counter, lists and stream positions are fresh, the latch invalid, the queues empty
(R37, R83, R95). -/
def startCore (x : Core) (w : WorkItem) (rest : List WorkItem) : Core :=
  let f := w.item.fields
  let ll := if bitOf f 11 then some (itemList f 12 25) else none
  { x with
    st := .run, pc := fldN f 0 11, loops := [], loadList := ll
    storeList := if bitOf f 37 then some (itemList f 38 51) else none
    fetch := {}, storePos := {}, loadDesc := none, storeDesc := none, ldPsn := false, stBytes := 0, stPsn := false, wrPsn := false
    lqDone := ll.isNone, lq := [], feedPos := 0, latch := none, itemIdx := w.idx
    ag := { x.ag with items := rest, run := some w.frame, wait := none } }

/-- The last position taken from a core returns to "none" when it starts an item (R246). -/
def clearPos (p : OpPort) (c : CoreId) : OpPort := { p with lastPos := put 0 p.lastPos c.val 0 }

/-- A channel starts an item: a list, or on a persistent channel a re-arm, which waits while the shadow is full (R228,
R231). -/
def startChan (x : Chan) (h : ChanId) (w : WorkItem) (rest : List WorkItem) : Chan :=
  let f := w.item.fields
  let l := itemList f 0 13
  let x := { x with ag := { x.ag with items := rest, run := some w.frame, wait := none } }
  if isPersistent h then
    let r : Rearm := { first := l.first, count := l.count, src := fld f 32 48, dst := fld f 80 48 }
    if x.shadow.isSome then { x with rearmWait := some r }
    else let x := acceptRearm x r; { x with ag := { x.ag with run := none } }
  else { x with list := some { first := l.first, count := l.count, idx := 0 }, st := .run }

/-- An attachment starts an item at its first port word; the drain Trivets are empty (R245, R254). -/
def startEa (x : Attach) (w : WorkItem) (rest : List WorkItem) : Attach :=
  { dropDrain x with
    word := fldN w.item.fields 0 9, st := .idle, panel := none, thrAdded := false, clipLeft := 0, clipSent := false
    ag := { x.ag with items := rest, run := some w.frame, wait := none } }

/-- A domain is ACTIVE, or in GATED and wakes on the access (R399). -/
def domReady (s : State) (d : DomId) : Bool := decide (s.pwr.dom[d].ps = .active) || decide (s.pwr.dom[d].ps = .gated)

/-- The agent is between items, nothing stops it, and its cluster logic or its attachment is powered (R37, R399). -/
def canStart (s : State) (ag : Agent) : Bool :=
  decide (s.u.state = .running) && (agOf s ag).run.isNone && !stopped s (agPart s ag) &&
  match ag with
  | .core c => decide (s.cores[c].st = .idle) && domReady s ⟨3 + c.val / 4, by omega⟩ && domReady s ⟨7 + c.val / 4, by omega⟩
  | .chan h => decide (s.mov.chans[h].rearmWait = none)
  | .ea a => decide (s.eif[a].st ≠ .fenced) && decide (s.eif[a].st ≠ .halted) && domReady s 23

/-- ITEM_START: the agent's next item starts at the later of its offset and the completion of the item before it. An item
of a fenced channel completes in that cycle and does not run (R37, R235). -/
def execItemStart (ag : Agent) (s : State) : Res :=
  .next (match (agOf s ag).items with
    | [] => s
    | w :: rest =>
      if canStart s ag && itemDue s w then
        match ag with
        | .core c =>
          let s := progress (modCore s c (fun x => startCore x w rest)) ag
          modEa s (eaOf c) (fun x => { x with portA := clearPos x.portA c, portB := clearPos x.portB c })
        | .chan h =>
          if s.mov.chans[h].st = .fenced then modChan s h (fun x => { x with ag := { x.ag with items := rest } })
          else progress (modChan s h (fun x => startChan x h w rest)) ag
        | .ea a => progress (modEa s a (fun x => startEa x w rest)) ag
      else s)

/-! ### Fetch engine and store path (R83, R84, R89, R216) -/

/-- Beats the block at the fetch position has left. -/
def blockLeft (s : State) (c : CoreId) : Nat :=
  let x := s.cores[c]
  match x.loadList with
  | none => 0
  | some l =>
    if x.lqDone then 0
    else
      let e := listEntry s (l.first + x.fetch.block)
      let d := match x.loadDesc with | some d => d | none => blockDesc x e true
      blockBeats e d - x.fetch.beat

/-- FETCH_TRANSFER: the fetch engine issues a transfer of n beats of one block when the load queue has room for them, the
block its credit, and the fetch bucket the tokens; a transfer that only tokens hold back is counted. Instructions that wait
for beats go on (R84, R85, R214, R216, R217). -/
def execFetchTransfer (c : CoreId) (nM1 : Fin 4) (s : State) : Res :=
  let n := nM1.val + 1
  let x := s.cores[c]
  .next (if decide (s.u.state = .running) && decide (x.st = .run) && !x.errDue && decide (n ≤ blockLeft s c)
      && decide (x.lq.length + n ≤ 16) then
      let q := loadCredit s c
      let s := q.1
      let b := refill x.reg x.bucket
      if !q.2 then s
      else if b < 64 * n then modCore s c (fun k => { k with bucket := b, fed := true, regStall := sat32 k.regStall 1 })
      else
        outside s (runProgs c (progress (fetchBeats c n (modCore s c (fun k => { k with bucket := b - 64 * n, fed := true }))) (.core c)))
    else s)

/-- STORE_PATH_WRITE: the store path removes the oldest entry of the store queue when its target accepts it, and
instructions that wait for room go on (R89); a reserved window holds it (R35). In a fenced unit nothing is written (R380,
R382). -/
def execStorePathWrite (c : CoreId) (s : State) : Res :=
  .next (if s.cores[c].errDue || decide (s.u.state = .fenced) then s else outside s (runProgs c (drainSq s c)))

/-! ### LADLE_START and BLOCK_START (R150, R202, R214) -/

/-- Order of the waiting commands: cores by position, then channels by number. -/
def ladOrder : LadSrc → Nat
  | .core c => c.val
  | .chan h => 16 + h.val

/-- The waiting command that is next. -/
def ladNext (ws : List LadSrc) : Option LadSrc :=
  ws.foldl (fun (a : Option LadSrc) w => match a with | none => some w | some v => if ladOrder w < ladOrder v then some w else some v) none

/-- Commands the Ladle may take: none of a channel whose partition is stopped, which issues nothing (R457). -/
def ladMay (s : State) (ws : List LadSrc) : List LadSrc :=
  ws.filter (fun w => match w with | .core _ => true | .chan h => !stopped s (chanPart s h))

/-- The Ladle has taken a command: its agent's instruction goes on, or its INDEX block reads its index beats. -/
def ladRuns (s : State) : LadSrc → State
  | .core c => runProgs c s
  | .chan h => startIndex s h

/-- LADLE_START: the command before has completed, and the Ladle takes the next waiting one (R150). -/
def execLadleStart (cl : ClusterId) (s : State) : Res :=
  .next (if s.cls[cl].running.isSome then s
    else match ladNext (ladMay s s.cls[cl].waiting) with
      | none => s
      | some w => outside s (ladRuns (ladTakes s cl w) w))

/-- A block with `CRED_EN` takes its credit, or waits and is counted (R214). -/
def withCredit (s : State) (h : ChanId) (e : BitVec 256) (f : State → State) : State :=
  let q := askCredit s (chanPart s h) (locChan h) e
  if q.2 then f (takeCredit q.1 e)
  else waitFor (modChan q.1 h (fun c => { c with st := .waitCred, credStall := sat32 c.credStall 1 })) (.chan h) (.credit (bCredCtr e))

/-- The entry of the next block: read with its check bits once, and not again while it waits for its credit (R203). -/
def nextEntry (s : State) (h : ChanId) (l : RunList) : State × Option (BitVec 256) :=
  if s.mov.chans[h].st = .waitCred then (s, some (listEntry s (l.first + l.idx))) else readEntry s (l.first + l.idx)

/-- A block whose checks hold starts, and an idle Ladle takes its command in that cycle (R150). -/
def startBlock (s : State) (h : ChanId) (b : BlkRun) : State :=
  let free := !ladBusy s (bClu b.entry)
  let s := beginBlock s h b
  if bKind b.entry = 2 ∧ free then ladRuns s (.chan h) else s

/-- BLOCK_START: the next block of the running list, once every beat of the block before has issued (R202, R214). -/
def execBlockStart (h : ChanId) (s : State) : Res :=
  let c := s.mov.chans[h]
  .next (outside s (match c.list with
    | none => s
    | some l =>
      if decide (s.u.state = .running) && decide (c.st ≠ .fenced) && !stopped s (chanPart s h) && decide (l.idx < l.count)
          && c.blks.all blkIssued && decide (outstanding c < 8) then
        match nextEntry s h l with
        | (s, none) => failChan s h .listUe 0
        | (s, some e) =>
          withCredit s h e (fun s =>
            let b := openBlock s.mov.chans[h] e l.idx
            match blockCheck s h b with
            | some x => failChan s h x 0
            | none => startBlock s h b)
      else s))

end Sys2Proof.Machine
end

