-- ==== Sys2Proof/Machine/Plan.lean ====
section
/-! DEFINITION. Clocks and frame lengths, domain states, the sequence and the power plan of the present frame and of the frames
ahead (R5, R32, R38 to R41, R277, R290, R397 to R404, R433 to R435). -/

namespace Sys2Proof.Machine

/-! ### Clocks (R5, R32, R34, R36, R467) -/

/-- Core cycles in two reference units (R32). -/
def clk2 : Bin → Nat | .h => 30 | .s => 27 | .e => 24

/-- Fused bin (Table 14-4); 3 is reserved. -/
def fusedBin (s : State) : Nat := fldN s.fuse.shadow[(0 : Fin 64)] 14 2

/-- Bin of a code. -/
def binOf : Nat → Bin | 0 => .h | 1 => .s | _ => .e

/-- `FRAME_CYCLES` by the frame controller's own period (R32, R460). -/
def frameCycles (s : State) : Nat := s.fr.own.period.toNat * clk2 s.fr.clk / 2

/-- Cycles of frame `n`: one more in an even frame at S with an odd period (R32). -/
def frameLenOf (s : State) (n : Word) : Nat :=
  frameCycles s + b2n (decide (s.fr.clk = .s) && decide (s.fr.own.period.toNat % 2 = 1) && decide (n.toNat % 2 = 0))

/-- The droop reserve in cycles (R34). -/
def droopReserve (s : State) : Nat := frameCycles s * s.fr.own.droopRsv.toNat / 1000

/-- Cycles of the frame so far at the full clock: every three cycles under the divider take the time of four (R55, R410). -/
def elapsed (s : State) : Nat := s.fr.cyc + s.pwr.divFrame / 3

/-! ### Domain states (R397, R398, R418) -/

/-- The store a domain serves. -/
def domStore (d : DomId) : Option StoreId :=
  if h : 11 ≤ d.val ∧ d.val < 19 then some (.ns ⟨d.val - 11, by omega⟩) else if d.val = 19 ∨ d.val = 20 then some .ds else none

/-- Domains of a store: its bank group's, or DS_CTL and DS_ARR together (R290). -/
def storeDoms : StoreId → List DomId
  | .ns g => [⟨11 + g.val, by omega⟩]
  | .ds => [19, 20]

/-- `PSTATE` of a domain: a bank group and DS_ARR show it in their store's status too (Tables 11-5, 11-6, 16-7). -/
def domState (s : State) (d : DomId) : PState :=
  if h : 11 ≤ d.val ∧ d.val < 19 then s.mem.groups[d.val - 11].port.ps else if d.val = 20 then s.mem.ds.ps else s.pwr.dom[d].ps

/-- The state of a domain set. -/
def setDomState (s : State) (d : DomId) (p : PState) : State :=
  if h : 11 ≤ d.val ∧ d.val < 19 then modPort s (.ns ⟨d.val - 11, by omega⟩) (fun x => { x with ps := p })
  else if d.val = 20 then modPort s .ds (fun x => { x with ps := p })
  else modDom s d (fun x => { x with ps := p })

/-- A domain works, or is clock-gated and wakes on an access (Table 11-2). -/
def domUp (s : State) (d : DomId) : Bool := decide (domState s d = .active) || decide (domState s d = .gated)

/-- Depth of a state, coded as `CAP` (Table 16-7). -/
def depthOf : PState → Nat | .active => 0 | .gated => 1 | .retain => 2 | .off => 3 | .entering => 0 | .waking => 0

/-- State of a depth. -/
def stateOf : Nat → PState | 0 => .active | 1 => .gated | 2 => .retain | _ => .off

/-- The unit's Blend uses an attachment or a tap: an attachment has work or a port program, a store list feeds one, or a core's
program has a TAPC (Table 16-1). -/
def usesEif (s : State) : Bool :=
  s.bl.templates.any (fun t => t.2.items.any (fun i => decide (48 ≤ i.1) && !i.2.isEmpty))
    || s.eif.toList.any (fun x => !x.prog.isEmpty)
    || s.mov.mem.any (fun e => decide (bKind e.2 = 0) && decide (bDspace e.2 = 3))
    || s.cores.toList.any (fun x => x.imem.any (fun w => decide (wOpc w.2 = 0x3F)))

/-- Deepest state of a domain (Table 16-1, R277); DS_CTL goes OFF only while DS_ARR is in RETAIN or OFF. -/
def deepest (s : State) (d : DomId) : Nat :=
  let n := d.val
  if n = 0 then 0
  else if n = 1 ∨ n = 21 ∨ n = 22 then 1
  else if n = 2 then 2
  else if n < 7 then 3
  else if n < 11 then (if bitOf s.u.clEn (n - 7) then 2 else 3)
  else if n < 19 then (if bitOf s.mem.retain (n - 11) then 2 else 3)
  else if n = 19 then (if domState s 20 = .retain ∨ domState s 20 = .off then 3 else 2)
  else if n = 20 then 3
  else if usesEif s then 1 else 3

/-- Cycles to enter a state (Table 16-2). -/
def entryOf : Nat → Nat | 0 => 0 | 1 => 1 | _ => 32
/-- Cycles to leave a state (Table 16-2). -/
def exitOf : Nat → Nat | 0 => 0 | 1 => 4 | 2 => 1800 | _ => 60000
/-- Break-even of a state (Table 16-2). -/
def breakEven : Nat → Nat | 2 => 9000 | 3 => 375000 | _ => 0

/-- The power manager's choice for an interval of `g` cycles under `cap`, where no state deeper than `deep` is allowed (R401). -/
def pickState (deep cap g : Nat) : Nat :=
  match ([3, 2, 1] : List Nat).find? (fun k =>
    decide (k ≤ deep) && decide (k ≤ cap) && decide (breakEven k ≤ g) && decide (entryOf k + exitOf k ≤ g)) with
  | some k => k
  | none => 0

/-! ### Sequences (R38 to R41, R433) -/

/-- Template of an entry of the sequence table; beyond the table, an empty one. -/
def templateOf (s : State) (e : Nat) : Template := look {} s.bl.templates (match s.bl.entries[e]? with | some x => x.template | none => 0)

/-- Items of an agent in a template. -/
def itemsOf (t : Template) (n : Nat) : List Item := look [] t.items n

/-- Entry `i` of the sequence table. -/
def seqEntry (s : State) (i : Nat) : SeqEnt :=
  match s.bl.entries[i]? with | some e => e | none => { template := 0, layerEnd := true, seqEnd := true, repeats := 1, next := 0 }

/-- The pending change is due at the end of an entry whose last frame was `n` (R40, R41). -/
def changeDue (x : PartSt) (e : SeqEnt) (n : Word) : Bool :=
  x.nextPending &&
  match x.nextWhen.toNat with
  | 0 => e.seqEnd
  | 1 => e.layerEnd
  | 2 => e.layerEnd && decide ((n - x.seqAt).toNat < 2 ^ 31)
  | _ => false

/-! ### The plan (R400 to R404, R435) -/

/-- A plan interval of a domain: [a, b), its cap, and whether it is an idle frame's, to which the picker does not apply. -/
structure PlanIv where
  a : Nat
  b : Nat
  cap : Nat
  idle : Bool
  deriving DecidableEq, Repr

/-- The idle cap of a domain. -/
def idleCapOf (s : State) (d : DomId) : Nat := s.bl.idleCap[d].toNat

/-- Where a partition stands in its sequence. -/
structure PlanPos where
  idle : Bool
  entry : Nat
  left : Nat
  pend : Bool
  deriving DecidableEq, Repr

/-- The position that a partition's state gives. -/
def posOfPart (x : PartSt) : PlanPos := { idle := x.idle || !x.task, entry := x.entry, left := x.left, pend := x.nextPending }

/-- The state chosen for an interval, as a depth: the picker's, or in an idle frame the cap itself (R401, R402). -/
def chosen (deep : Nat) (i : PlanIv) : Nat := if i.idle then min i.cap deep else pickState deep i.cap (i.b - i.a)

/-- The intervals `js` of DS_ARR have it in RETAIN or OFF over the cycles of `i`. -/
def restsOver (js : List PlanIv) (i : PlanIv) : Bool := js.any (fun j => decide (j.a ≤ i.a) && decide (i.b ≤ j.b) && decide (2 ≤ chosen 3 j))

/-- The state chosen for an interval of a domain; DS_CTL goes OFF only where the plan has DS_ARR, with intervals `js`, in RETAIN or
OFF (Table 16-1, R401). -/
def planState (s : State) (js : List PlanIv) (d : DomId) (i : PlanIv) : Nat :=
  chosen (if d.val = 19 then (if restsOver js i then 3 else 2) else deepest s d) i

/-- The intervals of a frame for a domain: its template's, or the whole of an idle frame (R400, R402). -/
def planAt (s : State) (q : PlanPos) (d : DomId) : List PlanIv :=
  if !q.idle then
    ((templateOf s q.entry).intervals.filter (fun i => i.dom = d.val)).map (fun i => { a := i.a, b := i.b, cap := i.cap, idle := false })
  else if idleCapOf s d = 0 then [] else [{ a := 0, b := frameCycles s, cap := idleCapOf s d, idle := true }]

/-- The intervals of a partition's present frame for a domain. -/
def partPlan (s : State) (p : Part) (d : DomId) : List PlanIv := planAt s (posOfPart s.parts[p]) d

/-- The partition a domain belongs to in two-task mode; none when it is shared (R403). -/
def domPart (s : State) (d : DomId) : Option Part :=
  let n := d.val
  if 3 ≤ n ∧ n < 11 then some (if (n - 3) % 4 < 2 then 0 else 1)
  else if h : 11 ≤ n ∧ n < 19 then some (groupPart s ⟨n - 11, by omega⟩)
  else none

/-- Two intervals' common cycles; a shared domain goes to GATED at most (R403). -/
def meetIv (x y : PlanIv) : Option PlanIv :=
  let a := max x.a y.a
  let b := min x.b y.b
  if a < b then some { a := a, b := b, cap := 1, idle := x.idle && y.idle } else none

/-- The intervals in force for a domain in the present frame. -/
def domPlan (s : State) (d : DomId) : List PlanIv :=
  if !twoTask s then partPlan s 0 d
  else match domPart s d with
    | some p => partPlan s p d
    | none => (partPlan s 0 d).flatMap (fun x => (partPlan s 1 d).filterMap (meetIv x))

/-! ### The frames ahead (R291, R323, R324) -/

/-- The position at the end of an entry that frame `n` ends. -/
def endEntry (s : State) (p : Part) (n : Word) (q : PlanPos) : PlanPos :=
  let x := s.parts[p]
  let e := seqEntry s q.entry
  if q.pend && changeDue x e n then
    let f := s.bl.seqs[x.nextSeq].first
    { idle := false, entry := f, left := (seqEntry s f).repeats - 1, pend := false }
  else if e.seqEnd then { q with idle := true, left := 0 }
  else { q with entry := e.next, left := (seqEntry s e.next).repeats - 1 }

/-- The position after one more frame; a change asked for in idle frames is taken when it comes. -/
def nextPos (s : State) (p : Part) (n : Word) (q : PlanPos) : PlanPos :=
  if q.idle then q else if 0 < q.left then { q with left := q.left - 1 } else endEntry s p n q

/-- The present position of a partition. -/
def planPos (s : State) (p : Part) : PlanPos :=
  let x := s.parts[p]
  if x.entryEnd then endEntry s p (s.fr.ctr - 1) (posOfPart x) else posOfPart x

/-- The position `k` frames ahead. -/
def posAhead (s : State) (p : Part) : Nat → PlanPos
  | 0 => planPos s p
  | k + 1 => nextPos s p (s.fr.ctr + BitVec.ofNat 32 k) (posAhead s p k)

/-- The plan puts store `st` into RETAIN or OFF from cycle `lo` on of the frame `k` frames ahead. A shared store never closes in
two-task mode (R403). -/
def closesIn (s : State) (st : StoreId) (k lo : Nat) : Bool :=
  decide (s.u.state = .running) && (storeDoms st).any (fun d =>
    match (if twoTask s then domPart s d else some 0) with
    | none => false
    | some p =>
      let q := posAhead s p k
      (planAt s q d).any (fun i => decide (lo ≤ i.a) && decide (2 ≤ planState s (planAt s q 20) d i)))

/-- A closure of the store is planned within the next frame (R291, R323). -/
def closesSoon (s : State) (st : StoreId) : Bool := closesIn s st 0 s.fr.cyc || closesIn s st 1 0

end Sys2Proof.Machine
end

