-- ==== Sys2Proof/Machine/Remote.lean ====
section
/-! DEFINITION. The Remote Engine and the NoC port: admission, labels, inbound operations, credits, forwarding (R50 to R53,
R312 to R327, R335, R383, R385). -/

namespace Sys2Proof.Machine

/-! ### Label entries (Table 13-2) -/

def lbValid (e : BitVec 128) : Bool := bitOf e 0
def lbDeliver (e : BitVec 128) : Bool := bitOf e 1
def lbNext (e : BitVec 128) : Nat := fldN e 2 12
def lbViaNoc (e : BitVec 128) : Bool := bitOf e 14
def lbViaUnit (e : BitVec 128) : BitVec 6 := fld e 15 6
def lbOwner (e : BitVec 128) : Part := partOfBit (bitOf e 21)
def lbSrcUnit (e : BitVec 128) : Nat := fldN e 22 16
def lbSrcStream (e : BitVec 128) : StreamId := ⟨fldN e 38 6, (e.extractLsb' 38 6).isLt⟩
/-- First byte of the window. -/
def lbWinLo (e : BitVec 128) : Nat := 4096 * fldN e 44 19
/-- First byte past the window. -/
def lbWinHi (e : BitVec 128) : Nat := lbWinLo e + 4096 * (fldN e 63 18 + 1)
def lbRdOk (e : BitVec 128) : Bool := bitOf e 81
def lbQuota (e : BitVec 128) : Nat := fldN e 82 21
def lbCred (e : BitVec 128) : Nat := fldN e 103 16

/-- Entry of a label; an unlisted one is not valid. -/
def labelOf (s : State) (l : Nat) : BitVec 128 := look 0 s.rmt.labels l
/-- What is kept for a label. -/
def labSt (s : State) (l : Nat) : LabelSt := look {} s.rmt.labSt l
/-- What is kept for a label, changed. -/
def modLab (s : State) (l : Nat) (f : LabelSt → LabelSt) : State :=
  { s with rmt := { s.rmt with labSt := put {} s.rmt.labSt l (f (labSt s l)) } }
/-- The store of a label's window. -/
def winStore (e : BitVec 128) : StoreId := storeOf (lbWinLo e)

/-- The link's registers changed. -/
def modLink (s : State) (f : Link → Link) : State := { s with lnk := f s.lnk }

/-! ### Admission (R50, R322) -/

/-- The flit spends a credit: its type needs one, and a broadcast stream always holds one (R313, R322). -/
def spends (x : Stream) (o : OutFlit) : Bool := needsCredit (fType o.f) && !stBcast x

/-- Quota left for the flit in this frame; a broadcast stream counts link and NoC apart (R313). -/
def quotaLeft (x : Stream) (o : OutFlit) : Nat := if stBcast x && o.viaNoc then x.qleftNoc else x.qleft

/-- The flit at the head may be accepted in this cycle (R50); a CRET needs a slot of the quota (R324). -/
def mayAccept (s : State) (x : Stream) (o : OutFlit) : Bool :=
  (!spends x o || decide (0 < x.cred.toNat)) && decide (0 < quotaLeft x o) && (o.cret || decide (s.fr.cyc ≤ stAcceptBy x))
    && (o.viaNoc || decide (s.lnk.st = .up))

/-- A flit as it leaves: its deadline frame, and both checks (R53, R317). -/
def stamped (s : State) (x : Stream) (f : Flit) : Flit :=
  sealFlit { f with hdr := setFld f.hdr 50 8 ((s.fr.ctr.toNat + 1 + b2n (stD2 x)) % 256) }

/-- A flit sent over the NoC to a unit of this chip, or toward the link. -/
def sendOut (s : State) (viaNoc : Bool) (unit : BitVec 6) (f : Flit) : State :=
  let s := countFlit s
  if viaNoc then { s with rmt := { s.rmt with noc := s.rmt.noc ++ [(unit, f)] } } else modLink s (fun l => { l with tx := l.tx ++ [f] })

/-- The first flit of a channel not yet accepted is (R219). -/
def markAccepted : List BlkRun → List BlkRun
  | [] => []
  | b :: r =>
    match b.fly.findIdx? (fun x => x.flit && !x.accepted) with
    | some i => { b with fly := b.fly.mapIdx (fun j x => if j = i then { x with accepted := true } else x) } :: r
    | none => b :: markAccepted r

/-- The crossbar master that presents an accepted flit: the core's store path, the Mover port that read it, or the
attachment's drain port (Table 12-1, log 80). -/
def flitMaster (x : Stream) (s : State) : Fin 45 :=
  match streamAgent x with
  | some (.core c) => (whoStore c).master
  | some (.chan h) =>
    match (s.mov.chans[h].blks.flatMap (·.fly)).find? (fun y => y.flit && !y.accepted) with
    | some y => (whoChan s h y.port).master
    | none => (whoChan s h 0).master
  | some (.ea a) => (whoDrain a).master
  | none => 40

/-- An accepted flit at Remote outbound or NoC outbound (R300, R322); a CRET is the Remote Engine's own. -/
def presentFlit (s : State) (t : StreamId) (x : Stream) (o : OutFlit) : State :=
  if o.cret then s else presentAt s (if o.viaNoc then 9 else 10) (flitMaster x s) (streamPart s t) 1

/-- What an acceptance does for the stream's agent: a channel's transfer is written, a CLIP stage may end (R219, R261). -/
def accepted (s : State) (t : StreamId) : State :=
  match streamAgent s.rmt.streams[t] with
  | some (.chan h) => progress (modChan s h (fun c => { c with blks := markAccepted c.blks })) (.chan h)
  | some (.ea a) => clipAccepted (drainAccepted (progress s (.ea a)) a) a
  | some (.core c) => progress s (.core c)
  | none => s

/-- What waits on a fenced stream fails: a core is fenced, a channel or a drain as R235 and R255 state, and a CLIP stage ends
(R326). -/
def failStream (s : State) (t : StreamId) : State :=
  let ag := streamAgent s.rmt.streams[t]
  let s := modStream s t (fun x => { x with wait := x.wait.filter (·.cret) })
  match ag with
  | some (.core c) => fenceCore (logFenced s t (locCore c)) c
  | some (.chan h) => fenceChan (logFenced s t (locChan h)) h
  | some (.ea a) => clipAccepted (fenceDrain (logFenced s t (locEa a)) a) a
  | none => s

/-- FLIT_ACCEPT: the flit at the head of a stream is accepted once credit, quota and `ACCEPT_BY` allow it, and spends a
credit and a slot; till then its agent waits (R50, R322). On a fenced stream the operation fails (R326). -/
def flitAccept (st : StreamId) (s : State) : State :=
  let x := s.rmt.streams[st]
  match x.wait with
    | [] => s
    | o :: rest =>
      if x.fenced then if x.wait.all (·.cret) then s else failStream s st
      else if mayAccept s x o then
        let s := sendOut (presentFlit s st x o) o.viaNoc o.viaUnit (stamped s x o.f)
        let s := modStream s st (fun x => { x with
          wait := rest
          cred := if spends x o then x.cred - 1 else x.cred
          qleft := if stBcast x && o.viaNoc then x.qleft else x.qleft - 1
          qleftNoc := if stBcast x && o.viaNoc then x.qleftNoc - 1 else x.qleftNoc
          acc := sat32 x.acc 1
          asked := if fType o.f = tRdReq then x.asked + 1 else x.asked })
        if o.cret then s else accepted s st
      else
        match streamAgent x with
        | some ag => waitFor s ag .admission
        | none => s

/-- FLIT_ACCEPT (R50). -/
def execFlitAccept (st : StreamId) (s : State) : Res := .next (flitAccept st s)

/-! ### Return routes (R320, R323 to R325) -/

/-- A flit on a label's return route waits for a slot of that route's quota (R320, R323). -/
def sendRet (s : State) (l : Nat) (typ inc ctr addr nw dl : Nat) (last psn : Bool) (data : Bits) : State :=
  let e := labelOf s l
  let f := sealFlit { hdr := setFld (mkHdr typ (lbNext e) inc ctr addr nw last psn) 50 8 dl, data := data }
  { s with rmt := { s.rmt with ret := s.rmt.ret ++ [{ label := l, f := f, viaNoc := lbViaNoc e, viaUnit := lbViaUnit e }] } }

/-- The label's return route has a slot left in this frame. -/
def retRoom (s : State) (l : Nat) : Bool := decide ((labSt s l).used < lbQuota (labelOf s l))

/-- Waiting flits of NoC return routes go out while their quotas last; the others keep their order. -/
def flushNocGo : List RetFlit → State → State × List RetFlit
  | [], s => (s, [])
  | r :: rs, s =>
    if r.viaNoc && retRoom s r.label then
      flushNocGo rs (sendOut (modLab s r.label (fun x => { x with used := x.used + 1 })) true r.viaUnit r.f)
    else
      let t := flushNocGo rs s
      (t.1, r :: t.2)

/-- NoC return routes served. -/
def flushNoc (s : State) : State :=
  let r := flushNocGo s.rmt.ret s
  { r.1 with rmt := { r.1.rmt with ret := r.2 } }

/-- No credit is granted against a store that is closed, about to close, planned to close within the next frame, or recalled
(R291, R323, R324). -/
def credHeld (s : State) (e : BitVec 128) : Bool :=
  let p := portOf s (winStore e)
  !p.isOpen || p.closing || p.recalled || closesSoon s (winStore e)

/-- The payload of a CRED flit with one grant (R323). -/
def grantBits (stream count : Nat) (back : Bool) : Bits :=
  BitVec.ofNat 2048 (stream + b2n back * 2 ^ 14 + 2 ^ 15 + count % 2 ^ 16 * 2 ^ 16)

/-- The return count of a label goes out as a CRED flit, and its credits are outstanding again (R291, R323). -/
def sendCred (s : State) (l : Nat) : State :=
  let e := labelOf s l
  let n := min 65535 (labSt s l).ret
  let s := modLab s l (fun x => { x with ret := x.ret - n })
  let s := modPort s (winStore e) (fun p => { p with hold := p.hold + n })
  sendRet s l tCred 0 0 0 0 0 false false (grantBits (lbSrcStream e).val n false)

/-- The first label whose return count may go out by the link (`viaNoc` off) or over the NoC. -/
def credLabel (s : State) (viaNoc : Bool) : Option Nat :=
  (s.rmt.labSt.find? (fun x =>
    let e := labelOf s x.1
    decide (0 < x.2.ret) && lbValid e && lbDeliver e && (lbViaNoc e == viaNoc) && !credHeld s e && retRoom s x.1)).map (·.1)

/-- Return counts of NoC routes go out at once (R323); `n` bounds the labels served. -/
def credNoc : Nat → State → State
  | 0, s => s
  | n + 1, s =>
    match credLabel s true with
    | some l => credNoc n (flushNoc (sendCred s l))
    | none => s

/-- One credit back to a label that returns them, in the cycle after the flit has taken effect or was dropped (R291, R313,
R323). -/
def giveBack (s : State) (l : Nat) : State :=
  let e := labelOf s l
  if lbCred e = 0 then s
  else
    let s := modPort s (winStore e) (fun p => { p with hold := p.hold - 1 })
    credNoc 1 (modLab s l (fun x => { x with ret := x.ret + 1 }))

/-! ### Inbound operations (R319 to R327) -/

/-- A counter named by an inbound flit poisoned; one of the other partition is left as R24 states (R325, R385). -/
def poisonNamed (s : State) (l : Nat) (c : Ctr) : State :=
  if crosses s (lbOwner (labelOf s l)) (ctrPart s c) then logRun s .partCross locUnit 0 else poisonCtr s c

/-- A refusal: logged here with its code, answered by a NACK on the label's return route, the counter poisoned, and the
label shut for later operations (R325, R385). -/
def refuse (s : State) (l : Nat) (f : Flit) (e : Err) (log : Bool) : State :=
  let src := lbSrcStream (labelOf s l)
  let s := if log then logAt s e 0 locUnit (some src) 0 else s
  let s := modLink s (fun k => { k with nackCnt := sat32 k.nackCnt 1 })
  let s := poisonNamed s l (fCtr f)
  let s := modLab s l (fun x => { x with nacked := true })
  flushNoc (sendRet s l tNack 0 0 0 0 0 false false (BitVec.ofNat 2048 (e.value + src.val * 2 ^ 16 + fldN f.hdr 0 32 * 2 ^ 32)))

/-- What a discarded flit on a shut label does: it is counted, and poisons the counter it would have raised (R385). -/
def discardShut (s : State) (l : Nat) (f : Flit) : State :=
  let s := { s with err := { s.err with rmtDrop := sat32 s.err.rmtDrop 1 } }
  if (fLast f && decide (fInc f ≠ 0)) || decide (fType f = tInc) || decide (fType f = tAdd) then poisonNamed s l (fCtr f) else s

/-- Lateness of an operation as it is applied (R53): counted, and on a stream marked `DEADLINE` raised once per stream and
frame, naming the source unit, the stream and the deadline frame (logs 21 and 26). The frame of which an event is raised once
is the present one, not the deadline frame (DESIGN CHOICE, log 83). -/
def lateness (s : State) (l : Nat) (f : Flit) : State :=
  let e := labelOf s l
  let d := (s.fr.ctr.toNat + 256 - fDl f) % 256
  if 128 ≤ d then s
  else if !Config.deadlineMark (lbSrcUnit e) (lbSrcStream e).val then { s with fr := { s.fr with late := sat32 s.fr.late 1 } }
  else
    let s := { s with fr := { s.fr with dlMiss := sat32 s.fr.dlMiss 1 } }
    let key := (lbSrcUnit e * 64 + (lbSrcStream e).val, s.fr.ctr)
    if s.fr.missRaised.contains key then s
    else
      let s := { s with fr := { s.fr with missRaised := key :: s.fr.missRaised } }
      let due := (s.fr.ctr - BitVec.ofNat 32 d).toNat
      raiseEvt (logAt s .deadlineMiss 0 locUnit (some (lbSrcStream e)) (lbSrcUnit e * 2 ^ 16 + due % 2 ^ 16)) .deadlineMiss

/-- The stream whose read request a response answers: the first one toward the responder with a request open (log 27). -/
def askedBy (s : State) (l : Nat) : Option StreamId :=
  (List.finRange 64).find? (fun t =>
    let x := s.rmt.streams[t]
    bitOf x.entry 0 && decide (fldN x.entry 96 16 = lbSrcUnit (labelOf s l)) && decide (0 < x.asked + x.tomb.toNat))

/-- Words of a flit's payload as word writes. -/
def flitWords (f : Flit) : List WordWr :=
  (upto (fWords f)).map (fun i => { word := fAddr f / 64 + i, data := BitVec.ofNat 512 (fldN f.data (512 * i) 512), mask := BitVec.allOnes 512 })

/-- The run's bookkeeping after a flit has written `n` bytes, and the increment of its last flit (R319). -/
def runStep (s : State) (l : Nat) (f : Flit) (n : Nat) : State :=
  let x := labSt s l
  let sum := x.pending + (if fInc f = 2 then BitVec.ofNat 32 n else 0)
  let psn := x.runPsn || fPsn f
  if fLast f then
    let s := modLab s l (fun x => { x with pending := 0, runPsn := false })
    if fInc f = 0 then s
    else incCtrBy s (lbOwner (labelOf s l)) locUnit (fCtr f) (if fInc f = 1 then 1 else sum) psn
  else modLab s l (fun x => { x with pending := sum, runPsn := psn })

/-- The words of an operation lie inside the label's window (R325). -/
def inWin (e : BitVec 128) (lo n : Nat) : Bool := decide (lbWinLo e ≤ lo ∧ lo + n ≤ lbWinHi e)

/-- The first read transfer of a channel that a response row answers: its rows' destination holds the address (log 27). -/
def answers (addr : Nat) (x : Xfer) : Bool :=
  x.flit && !x.answered && (match x.dst with | some d => decide (d ≤ addr ∧ addr < d + x.len) | none => false)

/-- The response to a channel's read request is written: the transfer it answers is marked, with its bytes and poison
when the block makes its own increment (R208, R219). -/
def markAnswered (addr : Nat) (psn : Bool) : List BlkRun → List BlkRun
  | [] => []
  | b :: r =>
    match (if bSrcSpace b = 1 then b.fly.findIdx? (answers addr) else none) with
    | some i => { b with
        fly := b.fly.mapIdx (fun j x => if j = i then { x with answered := true } else x)
        bytes := b.bytes + ((b.fly[i]?).map (·.len)).getD 0, psn := b.psn || psn } :: r
    | none => b :: markAnswered addr psn r

/-- A response's last flit answers its request. -/
def answered (s : State) (t : StreamId) (f : Flit) (psn : Bool) : State :=
  let s := modStream s t (fun x => { x with asked := x.asked - 1 })
  match streamAgent s.rmt.streams[t] with
  | some (.chan h) => progress (modChan s h (fun c => { c with blks := markAnswered (fAddr f) psn c.blks })) (.chan h)
  | _ => s

/-- A WR, or the write of an RD_RSP: words into the window (R318, R319). A write at a closed port is refused (R293). -/
def applyWr (s : State) (l : Nat) (f : Flit) (done : State → State) : State :=
  let e := labelOf s l
  if !inWin e (fAddr f) (64 * fWords f) then refuse s l f .rmtRange true
  else
    let w := writeWords s (whoInbound (lbOwner e)) (flitWords f) (fPsn f)
    if w.2.off then refuse w.1 l f .groupOff false
    else done (runStep (lateness w.1 l f) l f w.2.bytes)

/-- The source descriptor of a read request lies in the window, and its rows can be read (R320). -/
def reqOk (e : BitVec 128) (d : Desc) : Bool :=
  match checkTd d false localRow with
  | some _ => false
  | none => decide ((lbWinLo e : Int) ≤ (footprint d).1 ∧ (footprint d).2 < (lbWinHi e : Int))

/-- The flits of one row of a response: (address, words, data, poison). -/
def rowFlits' (s : State) (who : Who) (sd dd : Desc) (r a : Nat) : State × List (Nat × Nat × Bits × Bool) :=
  let n := rowLen dd
  let m := readElems s who sd (rowOf sd r) 0 (8 * n / max 1 (tdWidth sd))
  let tail := if n % 64 = 0 then (m.1, 0) else drawBits 8 m.1
  let data := m.2.1 % 2 ^ (8 * n) + tail.2 % 2 ^ (8 * (ceilDiv n 64 * 64 - n)) * 2 ^ (8 * n)
  (tail.1, (upto (ceilDiv n 256)).map (fun k =>
    (a + 256 * k, ceilDiv (min 256 (n - 256 * k)) 64, BitVec.ofNat 2048 (data / 2 ^ (2048 * k)), m.2.2)))

/-- The flits of a response, row by row; a row out of bounds of the destination sends none (R320). -/
def respFlits (who : Who) (sd dd : Desc) : Nat → Nat → State → State × List (Nat × Nat × Bits × Bool)
  | 0, _, s => (s, [])
  | n + 1, r, s =>
    match rowOf dd r with
    | none => respFlits who sd dd n (r + 1) s
    | some a =>
      let x := rowFlits' s who sd dd r a
      let t := respFlits who sd dd n (r + 1) x.1
      (t.1, x.2 ++ t.2)

/-- A read request's source descriptor as this unit sees it, and its destination descriptor as the requester's rows lie
(R194, R320, Table 13-4). -/
def reqDescs (f : Flit) : Desc × Desc :=
  let here (d : Desc) : Desc := setFld (setFld d 32 16 0) 48 2 0
  (here (fld f.data 0 512), here (fld f.data 512 512))

/-- RD_REQ applied: the rows are read and sent back on the label's return route (R320). -/
def applyRdReq (s : State) (l : Nat) (f : Flit) : State :=
  let e := labelOf s l
  let d := reqDescs f
  if !lbRdOk e || !reqOk e d.1 then refuse s l f .rmtRange true
  else
    let s := lateness s l f
    let r := respFlits (whoInbound (lbOwner e)) d.1 d.2 (rowCount d.1) 0 s
    let s := (r.2.zipIdx).foldl (fun (s : State) x =>
      sendRet s l tRdRsp (fInc f) (fCtr f).val x.1.1 (x.1.2.1 - 1) (fDl f) (decide (x.2 + 1 = r.2.length)) x.1.2.2.2 x.1.2.2.1) r.1
    giveBack (flushNoc s) l

/-- INC applied (R321). -/
def applyInc (s : State) (l : Nat) (f : Flit) : State :=
  let s := lateness s l f
  giveBack (incCtrBy s (lbOwner (labelOf s l)) locUnit (fCtr f) (fld f.data 0 32) (fPsn f)) l

/-- ADD applied: x modulo 2^32 onto the INT32 word, by a partial-word write, then perhaps the counter (R321). -/
def applyAdd (s : State) (l : Nat) (f : Flit) : State :=
  let e := labelOf s l
  let k := fldN f.data 32 4
  let who := whoInbound (lbOwner e)
  if !inWin e (fAddr f) 64 then refuse s l f .rmtRange true
  else
    let w := fAddr f / 64
    if crosses s who.part (addrPart s (64 * w)) then giveBack (logRun (lateness s l f) .partCross locUnit 0) l
    else if (portOf s (storeOf (64 * w))).isOpen = false then refuse (groupOff s who (64 * w) true) l f .groupOff false
    else
      let s := countGranules (presentWords (lateness s l f) who false [w] [w]) [w]
      let x : BitVec 512 := if holds s.mem w then memWord s.mem w else 0
      let p := holds s.mem w && (setHas s.mem.psn w || uncorrectable s.mem w)
      let v := fld x (32 * k) 32 + fld f.data 0 32
      let t := writeWord s who w (v.setWidth 512 <<< (32 * k)) ((0xFFFFFFFF#512) <<< (32 * k)) (fPsn f || p)
      let s := modLink t.1 (fun n => { n with addCnt := sat32 n.addCnt 1 })
      let s := if fLast f then incCtrBy s who.part locUnit (fCtr f) 1 (fPsn f || p) else s
      giveBack s l

/-- A grant, or a recall, for one stream (R323, R324). A count holds at 16 bits (log 28). A recalled stream gives back
what it held, behind every flit accepted earlier. -/
def takeGrant (s : State) (g : Nat) : State :=
  let t : StreamId := ⟨g % 64, by omega⟩
  let x := s.rmt.streams[t]
  let n := g / 2 ^ 16 % 2 ^ 16
  if g / 2 ^ 14 % 2 = 1 then
    let o : OutFlit := { outFlit x tCret 0 0 0 0 false false (BitVec.ofNat 2048 x.cred.toNat) with cret := true }
    modStream s t (fun x => { x with cred := 0, recalled := true, wait := o :: x.wait })
  else if g / 2 ^ 15 % 2 = 1 then
    modStream s t (fun x => { x with cred := BitVec.ofNat 16 (min 65535 (x.cred.toNat + n)), recalled := x.recalled && decide (n = 0) })
  else s

/-- CRED applied: up to 32 grants (R323). -/
def applyCred (s : State) (f : Flit) : State := (upto 32).foldl (fun s j => takeGrant s (fldN f.data (64 * j) 64)) s

/-- CRET applied: the credits given back are outstanding no more (R291, R324). -/
def applyCret (s : State) (l : Nat) (f : Flit) : State :=
  modPort s (winStore (labelOf s l)) (fun p => { p with hold := p.hold - fldN f.data 0 32 })

/-- NACK applied: the stream is fenced, with the code (R326, R374). -/
def applyNack (s : State) (f : Flit) : State :=
  modStream s ⟨fldN f.data 16 6, (f.data.extractLsb' 16 6).isLt⟩ (fun x => { x with fenced := true, nackCode := fld f.data 0 16 })

/-- RD_RSP applied: written as a WR is, without a credit; an answer to a request from before a reset is discarded and
counted (R320, R358). -/
def applyRsp (s : State) (l : Nat) (f : Flit) : State :=
  match askedBy s l with
  | some t =>
    if 0 < s.rmt.streams[t].tomb.toNat then
      if fLast f then modStream s t (fun x => { x with tomb := x.tomb - 1 }) else s
    else applyWr s l f (fun s => if fLast f then answered s t f (fPsn f) else s)
  | none => applyWr s l f id

/-- A flit on a valid deliver label (R314, R325, R383, R385). -/
def deliver (s : State) (l : Nat) (f : Flit) : State :=
  let credited := needsCredit (fType f)
  if credited && (labSt s l).nacked then discardShut s l f
  else if credited && decide (s.u.state = .fenced) then refuse s l f .unitFenced true
  else if credited && decide (0 < s.parts[taskPart s (lbOwner (labelOf s l))].resetWin) then refuse s l f .rmtReset true
  else
    match fType f with
    | 1 => applyWr s l f (fun s => giveBack s l)
    | 2 => applyRdReq s l f
    | 3 => if s.u.state = .fenced then s else applyRsp s l f
    | 4 => applyInc s l f
    | 5 => applyAdd s l f
    | 6 => applyCred s f
    | 7 => applyCret s l f
    | 8 => applyNack s f
    | _ => s

/-! ### The receiving side (R315 to R317, R332, R335) -/

/-- A flit discarded on its checks: counted, and on the link the first one asks for a replay (R317, R332). -/
def crcFail (s : State) (link : Bool) : State :=
  modLink s (fun l => { l with crc := sat32 l.crc 1, nakDue := l.nakDue || (link && !l.nakOut) })

/-- A flit discarded on its sequence number, which asks for a replay (R332). -/
def seqFail (s : State) : State := modLink s (fun l => { l with nakDue := l.nakDue || !l.nakOut })

/-- What `ACK` and `NAK` of a received header do: flits before `ACK` leave the replay buffer, and on a `NAK` the rest are
resent from there (R332). -/
def takeAck (s : State) (f : Flit) : State :=
  modLink s (fun l =>
    let keep := l.replay.filter (fun r => !(decide (1 ≤ (fAck f - r.seq).toNat ∧ (fAck f - r.seq).toNat ≤ 128)))
    { l with replay := keep, resend := if fNak f then keep else l.resend.filter (fun r => keep.contains r) })

/-- Lane `l`, an active one, goes out and the ready spare takes its place; the lane out of use retrains as the candidate spare
(R333). -/
def swapLane (l : LaneId) (s : State) : State :=
  if s.lnk.spareReady && decide (s.lnk.spare.toNat ≠ l.val) && !bitOf s.lnk.laneFail l.val then
    logRun (modLink s (fun k => { k with spareReady := false, spare := BitVec.ofNat 3 l.val, candidate := some l })) .lnkLaneSpare locLink 0
  else s

/-- A symbol that the FEC corrects on lane `l`: counted; at the threshold a lane is swapped, and a spare is not ready (R333). -/
def laneError (s : State) (l : LaneId) : State :=
  let s := modLink s (fun k => { k with
    laneErr := k.laneErr.set l.val (sat32 k.laneErr[l] 1), laneWin := k.laneWin.set l.val (k.laneWin[l] + 1) })
  if s.lnk.laneWin[l] < s.lnk.laneThr.toNat then s
  else if s.lnk.spare.toNat = l.val then modLink s (fun k => { k with spareReady := false })
  else swapLane l s

/-- The FEC's findings in the flit position that arrives: a corrected codeword is counted with its symbols' lanes, an
uncorrectable one is counted (R329, R333). -/
def fecFinds (s : State) : State :=
  let ls := (List.finRange 5).filter (fun l => s.hwf.contains (.fecCe l))
  let s := if ls.isEmpty then s else ls.foldl laneError (modLink s (fun k => { k with fecCe := sat32 k.fecCe 1 }))
  let s := if s.hwf.contains .fecUe then modLink s (fun k => { k with fecUe := sat32 k.fecUe 1 }) else s
  { s with hwf := s.hwf.filter (fun x => match x with | .fecCe _ | .fecUe => false | _ => true) }

/-- A flit position of the link arrives in a unit whose link is up. -/
def linkIn (s : State) (link : Bool) : State := if link && decide (s.lnk.st = .up) then fecFinds s else s

/-- A flit of the given kind arrives: on the link it is taken only in sequence and intact (R332), over the NoC only intact
(R317). -/
def arrive (s : State) (link : Bool) (f : Flit) (use : State → State) : State :=
  if link then
    if s.lnk.st ≠ .up then s
    else if !flitGood f then crcFail s true
    else
      let s := takeAck s f
      if fSeq f ≠ s.lnk.expSeq then seqFail s
      else use (countFlit (modLink s (fun l => { l with expSeq := l.expSeq + 1, nakOut := false, nakDue := false, nakTimes := 0 })))
  else if !flitGood f then crcFail s false
  else use (countFlit s)

/-- A flit on a label without a valid entry is discarded and counted (R315). -/
def badLabel (s : State) (l : Nat) : State :=
  logRun (modLink s (fun k => { k with labelCnt := sat32 k.labelCnt 1 })) .rmtLabel locUnit l

/-- A flit on a forward label goes on with its next label: over the NoC at once, out of the link when the entry's quota
has a slot (R335). -/
def forward (s : State) (l : Nat) (f : Flit) : State :=
  let e := labelOf s l
  let g := relabel { f with hdr := setFld f.hdr 16 21 0 } (lbNext e)
  let s := modLink s (fun k => { k with fwd := sat32 k.fwd 1 })
  if lbViaNoc e then { s with rmt := { s.rmt with noc := s.rmt.noc ++ [(lbViaUnit e, g)] } }
  else modLink s (fun k => { k with fwdBuf := k.fwdBuf ++ [(l, g)] })

/-- The forward buffer is full for this flit (R335). -/
def fwdFull (s : State) (f : Flit) : Bool :=
  let e := labelOf s (fLabel f)
  lbValid e && !lbDeliver e && !lbViaNoc e && decide (128 ≤ s.lnk.fwdBuf.length)

/-- A flit handled by the entry of the label it carries (R314, R315, R335). -/
def byLabel (s : State) (f : Flit) : State :=
  let l := fLabel f
  let e := labelOf s l
  if !lbValid e then badLabel s l
  else if lbDeliver e then deliver s l f
  else forward s l f

/-- A flit that finds the forward buffer full is discarded, counted, and on the link requested again (R335). -/
def fwdOverflow (s : State) (link : Bool) : State :=
  let s := modLink s (fun l => { l with fwdOvf := sat32 l.fwdOvf 1 })
  if link then seqFail s else s

/-- An inbound flit of type `t`. -/
def inbound (t : Nat) (link : Bool) (f : Flit) (s : State) : Res :=
  .next (if fType f ≠ t ∨ heldInReset s then s
    else
    let s := linkIn s link
    if flitGood f && fwdFull s f && (!link || (decide (s.lnk.st = .up) && decide (fSeq f = s.lnk.expSeq))) then fwdOverflow s link
    else arrive s link f (fun s => byLabel s f))

/-- WR (R318, R319, R325). -/
def execWr (link : Bool) (f : Flit) (s : State) : Res := inbound tWr link f s
/-- RD_REQ (R320). -/
def execRdReq (link : Bool) (f : Flit) (s : State) : Res := inbound tRdReq link f s
/-- RD_RSP (R320). -/
def execRdRsp (link : Bool) (f : Flit) (s : State) : Res := inbound tRdRsp link f s
/-- INC (R321). -/
def execInc (link : Bool) (f : Flit) (s : State) : Res := inbound tInc link f s
/-- ADD (R321). -/
def execAdd (link : Bool) (f : Flit) (s : State) : Res := inbound tAdd link f s
/-- CRED (R323, R324). -/
def execCred (link : Bool) (f : Flit) (s : State) : Res := inbound tCred link f s
/-- CRET (R324). -/
def execCret (link : Bool) (f : Flit) (s : State) : Res := inbound tCret link f s
/-- NACK (R326). -/
def execNack (link : Bool) (f : Flit) (s : State) : Res := inbound tNack link f s

/-- FLIT_FORWARD: a flit on a forward label is sent on (R335). -/
def execFlitForward (link : Bool) (f : Flit) (s : State) : Res :=
  if fType f = tIdle ∨ fType f = tTick then .next s else inbound (fType f) link f s

/-- FLIT_CRC_FAIL: a flit arrives that fails its checks and is discarded (R316, R317, R329, R332). -/
def execFlitCrcFail (link : Bool) (_f : Flit) (s : State) : Res :=
  .next (if heldInReset s || (link && decide (s.lnk.st ≠ .up)) then s else crcFail (linkIn s link) link)

/-- IDLE: a word that carries only `ACK` and `NAK`; one that fails its checks is discarded (R316, R317, R332). -/
def execIdle (f : Flit) (s : State) : Res :=
  .next (if s.lnk.st ≠ .up ∨ fType f ≠ tIdle then s
    else if !flitGood f then crcFail (linkIn s true) true else takeAck (linkIn s true) f)

/-- RECALL: two frames before a planned closure every source whose window lies in the store is told to give its credits
back, and no more are granted until the store reopens (R323, R324). Without such a closure in the plan nothing is recalled. -/
def execRecall (st : StoreId) (s : State) : Res :=
  let ls := (s.rmt.labels.filter (fun x => lbValid x.2 && lbDeliver x.2 && decide (winStore x.2 = st))).map (·.1)
  .next (if (portOf s st).recalled || !closesIn s st 2 0 then s
    else
      let s := modPort s st (fun p => { p with recalled := true })
      flushNoc (ls.foldl (fun s l =>
        sendRet s l tCred 0 0 0 0 0 false false (grantBits (lbSrcStream (labelOf s l)).val 0 true)) s))

/-- A recall ends when the plan no longer closes the store, an open one (R291, R324). -/
def recallOver (s : State) (st : StoreId) : State :=
  let p := portOf s st
  if p.recalled && p.isOpen && !p.closing && !closesSoon s st && !closesIn s st 2 0 then modPort s st (fun p => { p with recalled := false })
  else s

/-- Every store, in number order. -/
def allStores : List StoreId := (List.finRange 8).map StoreId.ns ++ [.ds]

/-- A cycle of the return routes: what may go over the NoC goes (R323). -/
def routeCycle (s : State) : State :=
  let s := allStores.foldl recallOver s
  credNoc s.rmt.labSt.length (flushNoc s)

end Sys2Proof.Machine
end

