-- ==== Sys2Proof/Machine/Link.lean ====
section
/-! DEFINITION. The link port: slots, replay, lanes, training and retraining, tick markers (R44 to R49, R328 to R336). -/

namespace Sys2Proof.Machine

/-! ### Tick markers (R46, R336) -/

/-- The payload of a TICK flit sent in frame N, `late` cycles into it (R336). -/
def markerBits (s : State) (n : Word) (late : Nat) : Bits :=
  BitVec.ofNat 2048 (n.toNat + late % 2 ^ 16 * 2 ^ 32 + s.fr.own.period.toNat * 2 ^ 64 + s.bl.masterAddr.toNat * 2 ^ 96
    + s.bl.hops % 256 * 2 ^ 112)

/-- Every reserved byte of a marker is 0 (R336). -/
def markerOk (f : Flit) : Bool :=
  decide (fldN f.data 48 16 = 0) && decide (f.data.toNat / 2 ^ 120 = 0)

/-- Period a marker carries. -/
def markerPeriod (f : Flit) : Nat := fldN f.data 64 32

/-- A skew as `TICK_STAT` holds it, signed, in cycles. -/
def skewBits (k : Int) : BitVec 16 := BitVec.ofInt 16 (max (-32768) (min 32767 k))

/-- The skew that a marker whose flit position began to arrive `since` cycles ago shows: this unit's tick of the marker's number
less the master's, which lies at the arrival less the link's latency and less the forwarding delay of bytes 4 to 5 (R45, R336,
Table 18-9). -/
def markerSkew (s : State) (f : Flit) (since : Fin 16) : Int :=
  let k : Int := (fld f.data 0 32 - s.fr.ctr).toInt
  let len : Int := frameLenOf s (if k < 0 then s.fr.ctr - 1 else s.fr.ctr)
  k * len - (elapsed s - since.val) + s.lnk.lat.toNat + fldN f.data 32 16

/-- TICK_MARKER: a marker on the link disciplines an anchor's tick generator by at most one reference unit; another period
and a skew beyond 32 cycles are reported (R31, R45, R46, R336). A unit that is late shortens its next frame. A bad marker is
missing (R336). -/
def execTickMarker (f : Flit) (since : Fin 16) (s : State) : Res :=
  .next (if s.lnk.st ≠ .up ∨ fType f ≠ tTick then s
    else if !flitGood f then modLink (linkIn s true) (fun l => { l with crc := sat32 l.crc 1 })
    else
      let skew := markerSkew s f since
      let s := countFlit (takeAck (linkIn s true) f)
      if !markerOk f || decide (s.fr.own.src ≠ 2) then s
      else
        let s := if markerPeriod f ≠ s.fr.own.period.toNat then
            raiseEvt (logRun s .tickPeriod locUnit (markerPeriod f)) .tickUnlock
          else s
        let wide := decide (32 < skew.natAbs)
        let s := if wide then raiseEvt (logRun s .tickSkew locUnit 0) .tickUnlock else s
        { s with fr := { s.fr with
          marker := some (fld f.data 0 32), holdover := false, missed := 0, absent := 0, lost := false, unlock := wide, skew := skewBits skew, adj := if 0 < skew then -1 else if skew < 0 then 1 else 0 } })

/-! ### Slots (R330, R332) -/

/-- Slots of the replay budget (R49). -/
def replayBudget (s : State) : Nat := s.fr.linkSlots * s.fr.replayRsv / 1000

/-- A flit as the slot carries it: link fields set, header check recomputed (R317, R330). -/
def onLine (s : State) (seq : BitVec 10) (f : Flit) : Flit :=
  resealHdr { f with hdr := setFld (setFld (setFld f.hdr 16 10 seq.toNat) 26 10 s.lnk.expSeq.toNat) 36 1 (b2n s.lnk.nakDue) }

/-- The slot's word leaves with the acknowledgement; a replay asked for is then awaited, and counted for this flit (R332). -/
def putLine (s : State) (f : Flit) : State :=
  modLink s (fun l => { l with
    out := some f, nakOut := l.nakOut || l.nakDue, nakTimes := if l.nakDue then l.nakTimes + 1 else l.nakTimes, nakDue := false })

/-- The next new flit: accepted flits first, then forwarded ones with a slot left in their entry's quota, then responses
and returns with one left on their route (log 29). -/
def nextNew (s : State) : Option (State × Flit) :=
  match s.lnk.tx with
  | f :: r => some (modLink s (fun l => { l with tx := r }), f)
  | [] =>
    match s.lnk.fwdBuf.find? (fun x => retRoom s x.1) with
    | some x =>
      some (modLab (modLink s (fun l => { l with fwdBuf := l.fwdBuf.erase x })) x.1 (fun y => { y with used := y.used + 1 }), x.2)
    | none =>
      match s.rmt.ret.find? (fun x => !x.viaNoc && retRoom s x.label) with
      | some x =>
        let s := countFlit { s with rmt := { s.rmt with ret := s.rmt.ret.erase x } }
        some (modLab s x.label (fun y => { y with used := y.used + 1 }), x.f)
      | none => none

/-- Credits of link routes are put in order for the slot when nothing else goes (R323). -/
def withCred (s : State) : State :=
  if s.rmt.ret.any (fun x => !x.viaNoc && retRoom s x.label) then s
  else match credLabel s false with | some l => sendCred s l | none => s

/-- A replayed flit is counted; a frame beyond the replay budget is counted and logged once (R332). -/
def countReplay (s : State) : State :=
  let n := s.lnk.rplFrame + 1
  let past := decide (s.lnk.rplFrame ≤ replayBudget s) && decide (replayBudget s < n)
  let s := modLink s (fun l => { l with rpl := sat32 l.rpl 1, rplFrame := n, rplOver := if past then sat32 l.rplOver 1 else l.rplOver })
  if past then logRun s .lnkReplayOver locLink 0 else s

/-- An IDLE word (R316, R317). -/
def idleWord : Flit := { hdr := 0, data := 0 }

/-- Number of the slot that the frame's cycle lies in; a frame has the slots that begin and end before its nominal length (R32,
R49, R330). -/
def slotNow (s : State) : Option Nat := let k := s.fr.cyc / 9; if k < frameCycles s / 9 then some k else none

/-- LINK_SLOT: one word leaves in each slot: the tick marker in slot 0, a replay, a new flit, or an IDLE word (R330, R332). -/
def execLinkSlot (s : State) : Res :=
  .next (match slotNow s with
  | none => s
  | some k =>
    if s.lnk.st ≠ .up ∨ s.lnk.slotUsed = some (s.fr.ctr, k) then s
    else
    let s := modLink s (fun l => { l with slotUsed := some (s.fr.ctr, k) })
    if s.fr.own.treeOut && s.fr.ticked && decide (s.fr.cyc < 9) && decide (s.lnk.markerFrame ≠ some s.fr.ctr) then
      let f := sealFlit { hdr := mkHdr tTick 0 0 0 0 0 false false, data := markerBits s s.fr.ctr s.fr.cyc }
      countFlit (modLink (putLine s (onLine s 0 f)) (fun l => { l with markerFrame := some s.fr.ctr }))
    else
      match s.lnk.resend with
      | r :: rest => countReplay (modLink (putLine s (onLine s r.seq r.f)) (fun l => { l with resend := rest }))
      | [] =>
        if 128 ≤ s.lnk.replay.length then putLine s (onLine s 0 idleWord)
        else
          match nextNew (withCred s) with
          | some (s, f) =>
            let q := s.lnk.nextSeq
            modLink (putLine s (onLine s q f)) (fun l => { l with nextSeq := q + 1, replay := l.replay ++ [{ seq := q, f := f }] })
          | none => putLine s (onLine s 0 idleWord))

/-- NAK_RETRY: the flit asked for has not arrived in time, and the request is repeated (R332). -/
def execNakRetry (s : State) : Res :=
  .next (if s.lnk.st = .up ∧ s.lnk.nakOut then modLink s (fun l => { l with nakDue := true }) else s)

/-! ### Lanes (R333) -/

/-- LANE_SWAP: an active lane has lost lock, and the ready spare takes its place (R333). -/
def execLaneSwap (l : LaneId) (s : State) : Res := .next (swapLane l s)

/-- Core cycles of 65,536 superframes, 14.26 ms (R333). -/
def superframes (s : State) : Nat := 71303168 * clk2 s.fr.clk / 100

/-- A cycle of the lanes' counts: with 65,536 superframes they start afresh, and a spare that stayed below the threshold is ready
again (R333). -/
def laneCycle (s : State) : State :=
  let l := s.lnk
  if l.st ≠ .up then s
  else if l.winCyc + 1 < superframes s then modLink s (fun l => { l with winCyc := l.winCyc + 1 })
  else
    let k := l.spare.toNat
    let good := !bitOf l.laneFail k && l.candidate.isNone && decide (l.laneWin.toList.getD k 0 < l.laneThr.toNat)
    modLink s (fun l => { l with winCyc := 0, laneWin := Vector.replicate 5 0, spareReady := l.spareReady || good })

/-- SPARE_READY_TIMEOUT: the candidate has not become ready within 1 s and is marked failed (R333). -/
def execSpareReadyTimeout (l : LaneId) (s : State) : Res :=
  .next (if s.lnk.candidate = some l then
      modLink s (fun k => { k with candidate := none, laneFail := k.laneFail ||| (1#5 <<< l.val) })
    else s)

/-- CANDIDATE_SPARE_READY: the candidate becomes ready in time and is the new spare (R333). -/
def execCandidateSpareReady (l : LaneId) (s : State) : Res :=
  .next (if s.lnk.candidate = some l then
      modLink s (fun k => { k with candidate := none, spare := BitVec.ofNat 3 l.val, spareReady := true })
    else s)

/-! ### Training (R331, R334, R341) -/

/-- An attempt to retrain is logged (R334). -/
def logRetrain (s : State) : State := logRun s .lnkRetrain locLink 0

/-- LINK_RETRAIN: the link has lost an active lane with no spare ready, or has asked 8 times for one flit, and retrains as
a whole (R332, R334). -/
def execLinkRetrain (lostLane : Option LaneId) (s : State) : Res :=
  let active (l : LaneId) : Bool := decide (s.lnk.spare.toNat ≠ l.val) && !bitOf s.lnk.laneFail l.val
  .next (if s.lnk.st = .up ∧ ((lostLane.any active = true ∧ s.lnk.spareReady = false) ∨ 8 ≤ s.lnk.nakTimes) then
      logRetrain (modLink s (fun l => { l with st := .retraining, fails := 0, retrain := sat32 l.retrain 1 }))
    else s)

/-- RETRAIN_DONE: the link comes up and resends from the first flit not acknowledged; or it tries again; after three
failures in a row it is lost (R334). -/
def execRetrainDone (ok : Bool) (s : State) : Res :=
  .next (if s.lnk.st ≠ .retraining then s
    else if ok then
      modLink s (fun l => { l with st := .up, fails := 0, resend := l.replay, nakOut := false, nakDue := false, nakTimes := 0 })
    else if s.lnk.fails = 2 then
      logRun (modLink s (fun l => { l with st := .lost, fails := 3 })) .lnkDown locLink 0
    else logRetrain (modLink s (fun l => { l with fails := l.fails + 1 })))

/-- Equaliser settings that a training finds: free values, since the spec gives none (R337, log 84). -/
def newTxP : Nat → State → State
  | 0, s => s
  | n + 1, s =>
    let r := drawFree s
    newTxP n (modLink r.1 (fun l => { l with txP := l.txP.mapIdx (fun i x => if i = n then fld r.2 0 32 else x) }))

/-- Training ends: UP with its measured latency, or DOWN and repeated in the background (R331, R341). -/
def trainLink (s : State) (ok : Bool) (lat : BitVec 16) : State :=
  if !ok then logRun (modLink s (fun l => { l with st := .down })) .lnkTrain locLink 0
  else if 512 < lat.toNat then logRun (modLink s (fun l => { l with st := .down, lat := lat })) .lnkRtt locLink 0
  else modLink (newTxP 5 s) (fun l => { l with
    st := .up, lat := lat, winCyc := 0, laneWin := Vector.replicate 5 0, spareReady := !bitOf l.laneFail l.spare.toNat, nextSeq := 0, expSeq := 0, replay := [], resend := []
    nakDue := false, nakOut := false, nakTimes := 0, fails := 0 })

/-- LINK_TRAIN: training at bring-up or in the background ends (R341); a detached unit's link carries nothing (R351). -/
def execLinkTrain (ok : Bool) (lat : BitVec 16) (s : State) : Res :=
  .next (if (s.lnk.st = .down ∨ s.lnk.st = .training) ∧ 5 ≤ s.u.step ∧ s.u.state ≠ .detached then trainLink s ok lat else s)

end Sys2Proof.Machine
end

