-- ==== Sys2Proof/Machine/Contexts.lean ====
section
/-! DEFINITION. Stopping a partition, saving and restoring contexts, the resets of cores, clusters and partitions, and the
start of a task (R101 to R107, R250, R356 to R358, R443, R457, R458). -/

namespace Sys2Proof.Machine

/-! ### Numbers of the parts -/

/-- Every core, in number order. -/
def allCores : List CoreId := List.finRange 16
/-- Every channel, in number order. -/
def allChans : List ChanId := List.finRange 32
/-- Cores of the task of partition `p`. -/
def taskCores (s : State) (p : Part) : List CoreId := allCores.filter (fun c => sameTask s p (corePart c))
/-- Channels of the task of partition `p`. -/
def taskChans (s : State) (p : Part) : List ChanId := allChans.filter (fun h => sameTask s p (chanPart s h))
/-- Attachments of the task of partition `p`. -/
def taskEas (s : State) (p : Part) : List EaId := (List.finRange 2).filter (fun a => sameTask s p (eaPart a))
/-- Clusters of the task of partition `p`. -/
def taskCls (s : State) (p : Part) : List ClusterId := (List.finRange 4).filter (fun k => sameTask s p (clPart k))

/-- The agents with their numbers (R433). -/
def allAgents : List (Nat × Agent) :=
  (List.finRange 16).map (fun c => (c.val, Agent.core c)) ++ (List.finRange 32).map (fun h => (16 + h.val, Agent.chan h))
    ++ (List.finRange 2).map (fun a => (48 + a.val, Agent.ea a))

/-! ### Interruption (R101, R102, R250, R457) -/

/-- The store queue drains as far as its targets accept (R102, R105). -/
def drainAll (c : CoreId) : Nat → State → State
  | 0, s => s
  | n + 1, s => if s.cores[c].sq.isEmpty then s else drainAll c n (drainSq s c)

/-- The load queue is discarded, and the fetch position returns to that of the next beat to take as `m` marks it (R102). -/
def rewind (x : Core) (m : Mark) : Core :=
  { x with
    lq := [], fetch := m.take, ldPsn := m.before, lqDone := m.lqDone
    loadDesc := if m.take.block = x.fetch.block ∧ m.take.beat ≠ 0 then x.loadDesc else none }

/-- An instruction in progress completes before an interruption is taken: one that is no tile instruction, and an SCT in
accumulate mode (R101, R171). -/
def mustFinish (p : Prog) : Bool :=
  match p.cmd with
  | .pack .. | .unpk .. => true
  | .sct _ _ _ _ _ _ _ acc => acc
  | _ => false

/-- Such an instruction completes at once: its Ladle serves it, the beats it needs are fetched, and what it pushes drains
(log 15). -/
def finishProg (c : CoreId) : Nat → Prog → State → State
  | 0, _, s => s
  | n + 1, p, s =>
    let s := if p.ladle && decide (s.cls[clOf c].running ≠ some (.core c)) then ladTakes s (clOf c) (.core c) else s
    let s := if p.needs.takes then fetchBeats c (p.need - s.cores[c].lq.length) s else s
    let s := drainAll c s.cores[c].sq.length s
    match runProg c (p.need + 3) p s with
    | (s, none) => s
    | (s, some p) => finishProg c n p s

/-- The instructions of core `c` that complete before an interruption. -/
def finishProgs (s : State) (c : CoreId) : State :=
  let ps := s.cores[c].prog
  let s := modCore s c (fun x => { x with prog := ps.filter (fun p => !mustFinish p) })
  (ps.filter mustFinish).foldl (fun s p => finishProg c (p.out.length + 2) p s) s

/-- The tile instructions in progress are abandoned and counted: the core stands where it stood when the oldest of them
issued, every `ADV` since undone (R101, R102, R176, log 15). The entries they pushed that a full feeder still holds are
dropped, since the restart pushes them again. -/
def abandon (x : Core) : Core :=
  match x.prog with
  | [] => rewind x (markOf x)
  | p :: _ =>
    let m := p.mark
    let x := rewind x m
    { x with
      pc := m.pc, loops := m.loops, s := m.s, d := m.d, storePos := m.storePos, storeDesc := m.storeDesc
      feedPos := m.feedPos, stBytes := m.stBytes, stPsn := m.stPsn, factor := none, prog := []
      sq := x.sq.filter (fun e => match e.dst with | .feeder _ pos _ => decide (pos < m.feedPos) | .mem _ => true)
      restart := sat32 x.restart x.prog.length }

/-- A core stops: its input latch is invalid, its tile instructions are abandoned, a presented PRMG is taken back (R95,
R101, R102, R171). -/
def interruptCore (x : Core) (st : CState) : Core :=
  if x.st = .fenced then x else { abandon x with st := st, present := none, latch := none }

/-- An attachment stops: the engine discards the partial step, the hold latches are invalid, and the present PANEL will
restart at presentation 0 (R250, R474). -/
def interruptEa (x : Attach) : Attach :=
  if x.st = .fenced then x
  else { x with
    st := .halted, discard := x.panel.isSome, out := none, pos := 0
    portA := { x.portA with hold := none }, portB := { x.portB with hold := none } }

/-- Every agent of the task stops in one cycle (R457). Channels issue no further beat because the partition is stopped. -/
def stopTask (s : State) (p : Part) (preempt : Bool) : State :=
  let st : CState := if preempt then .preempted else .halted
  let cs := taskCores s p
  let s := cs.foldl finishProgs s
  let s := cs.foldl (fun s c => drainAll c s.cores[c].sq.length s) s
  let s := { s with cores := s.cores.mapFinIdx (fun i x h => if sameTask s p (corePart ⟨i, h⟩) then interruptCore x st else x) }
  let s := dropLadle s (fun w => match w with | .core c => sameTask s p (corePart c) | .chan _ => false)
  let s := { s with eif := s.eif.mapFinIdx (fun i x h => if sameTask s p ⟨i, h⟩ then interruptEa x else x) }
  modPart s (taskPart s p) (fun x => { x with halted := !preempt, preempted := preempt, stopFrame := s.fr.ctr })

/-! ### Saving a context (R104 to R106, R443) -/

/-- First address of a core's save slot (R104). -/
def slotAddr (s : State) (c : CoreId) : Nat :=
  if twoTask s then (s.u.saveBase[corePart c]).toNat + (c.val % 8) * 0x24000 else (s.u.saveBase[(0 : Fin 2)]).toNat + c.val * 0x24000

/-- Code of a Trivet class (R98). -/
def clsCode : TClass → Nat | .w1 => 0 | .w8 => 1 | .w16 => 2 | .w32 => 3
/-- Class of a code. -/
def clsOfCode : Nat → TClass | 0 => .w1 | 1 => .w8 | 2 => .w16 | _ => .w32

/-- A loop entry as the header holds it. -/
def loopBits (e : LoopEnt) : Nat := e.start % 2 ^ 11 + e.stop % 2 ^ 11 * 2 ^ 11 + e.left % 2 ^ 24 * 2 ^ 22
/-- A stream position as the header holds it. -/
def posBits (p : StreamPos) : Nat := p.block % 2 ^ 12 + p.beat % 2 ^ 24 * 2 ^ 12
/-- A Trivet as the header holds it. -/
def trivetBits (t : Trivet) : Nat := clsCode t.cls + b2n t.full * 4 + t.rows * 2 ^ 3 + t.cols * 2 ^ 11

/-- Bit k is set when v_k is non-empty (`CORE_VMASK`). -/
def vmask (x : Core) : Nat := ((List.finRange 32).map (fun k => b2n x.v[k].full * 2 ^ k.val)).sum

/-- The 256-byte header of a save slot (Table 17-8). -/
def headerBits (x : Core) : Bits :=
  let loops := ((x.loops.reverse.zipIdx).map (fun e => loopBits e.1 * 2 ^ (8 * (32 + 8 * e.2)))).sum
  let tri := ((List.finRange 4).map (fun k => trivetBits x.t[k] * 2 ^ (8 * (64 + 4 * k.val)))).sum
  BitVec.ofNat 2048 (x.pc % 2 ^ 11 + x.loops.length * 2 ^ 16
    + (b2n x.lqDone + b2n x.loadList.isSome * 2 + b2n x.storeList.isSome * 4) * 2 ^ 24
    + vmask x * 2 ^ 32 + posBits x.fetch * 2 ^ 64 + posBits x.storePos * 2 ^ 128 + x.itemIdx % 128 * 2 ^ 192 + loops + tri)

/-- A value of 64 × `n` bytes as words from address `a`. -/
def wordsAt (a n : Nat) (x : Nat) : List WordWr :=
  (upto n).map (fun i => { word := a / 64 + i, data := BitVec.ofNat 512 (x / 2 ^ (512 * i)), mask := BitVec.allOnes 512 })

/-- What a save writes, in order: (words, poison) (R105, Table 4-4). -/
def saveBeats (x : Core) (a : Nat) : List (List WordWr × Bool) :=
  let regs := ((List.finRange 16).map (fun i => x.s[i].toNat * 2 ^ (32 * i.val))).sum
  let vs := (List.finRange 32).filterMap (fun k =>
    if x.v[k].full then some (wordsAt (a + 0x600 + 256 * k.val) 4 x.v[k].data.toNat, x.v[k].psn) else none)
  let ts := (List.finRange 4).flatMap (fun k =>
    if x.t[k].full then (upto x.t[k].rows).map (fun r => (wordsAt (a + 0x2800 + 0x8000 * k.val + 256 * r) 4 (trivetRow x.t[k] r).toNat, x.t[k].psn))
    else [])
  [(wordsAt a 4 (headerBits x).toNat, false), (wordsAt (a + 0x100) 1 regs, false)]
    ++ (List.finRange 16).map (fun i => (wordsAt (a + 0x140 + 64 * i.val) 1 x.d[i].toNat, false)) ++ vs ++ ts

/-- Cycles of a save (Table 4-3). -/
def saveCycles (x : Core) : Nat :=
  30 + ((List.finRange 32).filter (fun k => x.v[k].full)).length + ((List.finRange 4).map (fun k => if x.t[k].full then x.t[k].rows else 0)).sum

/-- A core's context written to its save slot (R105). -/
def saveCore (s : State) (c : CoreId) : State :=
  let x := s.cores[c]
  let w := writeGroups (whoStore c) (saveBeats x (slotAddr s c)) s
  modCore w.1 c (fun k => { k with saveCyc := BitVec.ofNat 32 (saveCycles x) })

/-- The cores of a stopped task that have a context to save; a fenced one has none to resume (R104). -/
def savedCores (s : State) (p : Part) : List CoreId :=
  (taskCores s p).filter (fun c => decide (s.cores[c].st = .preempted) || decide (s.cores[c].st = .halted))

/-- The contexts of a stopped task saved. -/
def saveTask (s : State) (p : Part) : State :=
  modPart ((savedCores s p).foldl saveCore s) (taskPart s p) (fun x => { x with saved := true })

/-- The first word that the saves of cores `cs` would write at a closed port, with its core: a command whose save meets one is
refused (R293). -/
def saveShut (s : State) (cs : List CoreId) : Option (CoreId × Nat) :=
  (cs.flatMap (fun c => (saveBeats s.cores[c] (slotAddr s c)).flatMap (fun g => g.1.map (fun w => (c, 64 * w.word))))).find?
    (fun x => !(portOf s (storeOf x.2)).isOpen)

/-! ### Restoring a context (R105, R107, R443) -/

/-- `n` words of a slot read as one value, and whether any was poisoned. -/
def readSlot (s : State) (c : CoreId) (a n : Nat) : State × Nat × Bool :=
  let r := readWords s (whoFetch c) ((upto n).map (fun i => a / 64 + i))
  let val (w : RdWord) : Nat := match w with | .data x _ => x.toNat | .fill => 0
  let psn (w : RdWord) : Bool := match w with | .data _ p => p | .fill => false
  (r.1, (r.2.zipIdx.map (fun w => val w.1 * 2 ^ (512 * w.2))).sum, r.2.any psn)

/-- A header is well formed (R443). -/
def headerOk (h : Bits) : Bool :=
  decide (fldN h 16 8 ≤ 4) && decide (fldN h 200 56 = 0) && decide (h.toNat / 2 ^ 640 = 0) &&
  (upto 4).all (fun k =>
    let t := fld h (8 * (64 + 4 * k)) 32
    decide (fldN t 3 8 ≤ 128) && decide (fldN t 11 12 ≤ 2048))

/-- A stream position of a header. -/
def posOf (h : Bits) (lo : Nat) : StreamPos := { block := fldN h lo 12, beat := fldN h (lo + 12) 24 }

/-- Loop entry `j` of a header. -/
def loopOf (h : Bits) (j : Nat) : LoopEnt :=
  let e := fld h (8 * (32 + 8 * j)) 64
  { start := fldN e 0 11, stop := fldN e 11 11, left := fldN e 22 24 }

/-- What a header sets, every register and Trivet empty (R107). -/
def restoreHeader (x : Core) (h : Bits) : Core :=
  { x with
    pc := fldN h 0 11
    loops := ((upto (fldN h 16 8)).map (loopOf h)).reverse
    lqDone := bitOf h 24
    loadList := if bitOf h 25 then x.loadList else none
    storeList := if bitOf h 26 then x.storeList else none
    fetch := posOf h 64, storePos := posOf h 128, itemIdx := fldN h 192 7
    loadDesc := none, storeDesc := none, lq := [], sq := [], prog := [], latch := none, factor := none
    v := Vector.replicate 32 {}
    t := Vector.ofFn (fun k => { cls := clsOfCode (fldN h (8 * (64 + 4 * k.val)) 2) }) }

/-- One saved vector register read back. -/
def restoreV (c : CoreId) (a : Nat) (s : State) (k : VReg) : State :=
  let r := readSlot s c (a + 0x600 + 256 * k.val) 4
  modCore r.1 c (fun x => { x with v := x.v.set k.val { full := true, data := BitVec.ofNat 2048 r.2.1, psn := r.2.2 } })

/-- One saved Trivet read back, row by row. -/
def restoreT (c : CoreId) (a : Nat) (h : Bits) (s : State) (k : TrivetId) : State :=
  let t := fld h (8 * (64 + 4 * k.val)) 32
  let r := (upto (fldN t 3 8)).foldl (fun (q : State × List Bits × Bool) i =>
    let m := readSlot q.1 c (a + 0x2800 + 0x8000 * k.val + 256 * i) 4
    (m.1, q.2.1 ++ [BitVec.ofNat 2048 m.2.1], q.2.2 || m.2.2)) (s, [], false)
  let y : Trivet := { cls := clsOfCode (fldN t 0 2), full := true, rows := fldN t 3 8, cols := fldN t 11 12, data := r.2.1, psn := r.2.2 }
  modCore r.1 c (fun x => { x with t := x.t.set k.val y })

/-- A core's context read back from its save slot (R105, R107); a bad header restores nothing (R443). -/
def restoreCore (s : State) (c : CoreId) : State :=
  let a := slotAddr s c
  let r := readSlot s c a 4
  let h : Bits := BitVec.ofNat 2048 r.2.1
  if !headerOk h then failCore r.1 c .saveRange 0
  else
    let m := readSlot (modCore r.1 c (fun x => restoreHeader x h)) c (a + 0x100) 1
    let s := modCore m.1 c (fun x => { x with s := Vector.ofFn (fun i => BitVec.ofNat 32 (m.2.1 / 2 ^ (32 * i.val))) })
    let n := readSlot s c (a + 0x140) 16
    let s := modCore n.1 c (fun x => { x with d := Vector.ofFn (fun i => BitVec.ofNat 512 (n.2.1 / 2 ^ (512 * i.val))) })
    let s := ((List.finRange 32).filter (fun k => bitOf h (32 + k.val))).foldl (restoreV c a) s
    ((List.finRange 4).filter (fun k => bitOf h (8 * (64 + 4 * k.val) + 2))).foldl (restoreT c a h) s

/-! ### Resuming (R458) -/

/-- A work item whose frame moves on by `k`. -/
def shiftItem (k : Word) (w : WorkItem) : WorkItem := { w with frame := w.frame + k }
/-- An agent's items and present item move on by `k` frames (R458). -/
def shiftAg (k : Word) (g : AgentSt) : AgentSt := { g with items := g.items.map (shiftItem k), run := g.run.map (· + k) }

/-- A core goes on from where it stopped. -/
def resumeCore (k : Word) (x : Core) : Core :=
  let x := { x with ag := shiftAg k x.ag }
  if x.st = .preempted ∨ x.st = .halted then { x with st := if x.ag.run.isSome then .run else .idle } else x

/-- An attachment goes on: its PANEL restarts at presentation 0 (R250). -/
def resumeEa (k : Word) (x : Attach) : Attach :=
  let x := { x with ag := shiftAg k x.ag, discard := false }
  if x.st = .halted then
    { x with st := if x.panel.isSome then .panel else if x.clipLeft ≠ 0 then .clip else if x.thrAdded then .wait else .idle }
  else x

/-- The task of partition `p` resumes in the present frame with the work of the frame it stopped in (R458). -/
def resumeTask (s : State) (p : Part) : State :=
  let q := s.parts[taskPart s p]
  let k := s.fr.ctr - q.stopFrame
  let cs := (taskCores s p).filter (fun c => decide (s.cores[c].st = .preempted) || decide (s.cores[c].st = .halted))
  let s := if q.saved then cs.foldl restoreCore s else s
  let s := { s with
    cores := s.cores.mapFinIdx (fun i x h => if sameTask s p (corePart ⟨i, h⟩) then resumeCore k x else x)
    mov := { s.mov with chans := s.mov.chans.mapFinIdx (fun i x h =>
      if sameTask s p (chanPart s ⟨i, h⟩) then { x with ag := shiftAg k x.ag } else x) }
    eif := s.eif.mapFinIdx (fun i x h => if sameTask s p ⟨i, h⟩ then resumeEa k x else x) }
  let s := (taskEas s p).foldl clipAccepted s
  modPart s (taskPart s p) (fun x => { x with halted := false, preempted := false, saved := false })

/-! ### Reset levels (R356 to R358, R449) -/

/-- State elements of Table 4-1 at reset and at task start (R80): registers from the Blend's core section, everything
else empty; `pc` is the entry of the first work-list item. -/
def freshCore (x : Core) (i : CoreInit) (pc : Nat) : Core :=
  { x with
    st := .idle, v := Vector.replicate 32 {}, t := Vector.ofFn (fun k => { cls := i.cls[k] }), s := i.s, d := i.d, pc := pc
    loops := [], loadList := none, storeList := none, fetch := {}, storePos := {}, loadDesc := none, storeDesc := none
    ldPsn := false, stBytes := 0, stPsn := false, wrPsn := false, lqDone := false, lq := [], sq := [], feedPos := 0
    latch := none, factor := none, present := none, prog := [], errDue := false, itemIdx := 0, ag := {}
    bucket := 64 * (x.reg.depth.toNat / 2) }

/-- The counters of a `CORE_n` block at 0 (R449). -/
def clearCoreRegs (x : Core) : Core :=
  { x with
    oobWr := 0, lqStall := 0, sqStall := 0, rfRd := 0, latchHit := 0, restart := 0, saveCyc := 0, routeCe := 0, gangWait := 0
    netPass := 0, trvRow := 0, trvBeat := 0, regStall := 0, wcntStall := 0 }

/-- The stream of an agent drops what waits for admission: only accepted operations are drained (Table 14-10). -/
def dropWaiting (s : State) (f : Stream → Bool) : State :=
  { s with rmt := { s.rmt with streams := s.rmt.streams.mapIdx (fun _ x => if f x then { x with wait := [] } else x) } }

/-- A core reset: the store queue drains, its reads are absorbed, then the core is fresh; a fence stays (R111, R356, R449). The
program counter becomes 0: Table 4-1 gives the entry of the first work-list item, and a core without a task has none, while
Table 4-6 gives 0x000 (DESIGN CHOICE, log 83). -/
def resetCoreTo (s : State) (c : CoreId) (unfence : Bool) : State :=
  let s := absorb s (fun m _ => decide (m.val = c.val))
  let s := if s.cores[c].st = .fenced then s else drainAll c s.cores[c].sq.length s
  let s := dropLadle s (fun w => decide (w = .core c))
  let s := dropWaiting s (fun x => coreStream x c)
  modCore s c (fun x =>
    let keep := decide (x.st = .fenced) && (!unfence || x.failed)
    let y := clearCoreRegs (freshCore x s.bl.cores[c] 0)
    if keep then { y with st := .fenced } else y)

/-- The blocks of a channel whose Ladle command is lost end there, without their increments (R171, log 84). -/
def loseIndex (k : ClusterId) (x : Chan) : Chan :=
  let lost (b : BlkRun) : Bool := decide (bKind b.entry = 2) && decide (bClu b.entry = k)
  if x.blks.any lost then
    { x with
      blks := x.blks.filter (fun b => !lost b), farDead := x.farDead + farOwed (x.blks.filter lost)
      st := if x.st = .waitLadle then .run else x.st }
  else x

/-- A cluster reset: its four cores and its Ladle, which loses its commands (R171, R356, R449). A fence stays unless the reset
is a partition's. -/
def resetClusterTo (s : State) (k : ClusterId) (unfence : Bool) : State :=
  let s := (coresOf k).foldl (fun s c => resetCoreTo s c unfence) s
  let s := absorb s (fun m _ => decide (m.val = 32 + k.val))
  let s := { s with mov := { s.mov with chans := s.mov.chans.map (loseIndex k) } }
  modCl s k (fun x => { x with
    running := none, waiting := [], pos := 0, ladFenced := x.ladFenced && (!unfence || x.ladFailed)
    whiskCe := 0, gangPass := 0, oob := 0, merge := 0, waitCnt := 0, conf := 0, adds := 0, req := 0 })

/-- What waits on a stream is accepted while it may be; `n` bounds the flits. -/
def acceptAll (t : StreamId) : Nat → State → State
  | 0, s => s
  | n + 1, s =>
    match s.rmt.streams[t].wait with
    | o :: _ => if !s.rmt.streams[t].fenced && mayAccept s s.rmt.streams[t] o then acceptAll t n (flitAccept t s) else s
    | [] => s

/-- A transfer whose first beat has issued finishes (Table 14-10): its last beats are read and it is written. One that waits for
far memory is answered, and is written when its beats have come. A flit is sent by its stream, and the answer to a read
request meets a tombstone (R358). -/
def drainXfer (h : ChanId) (s : State) (b : BlkRun) (x : Xfer) : State × Option Xfer :=
  if x.flit || asks b x || x.fetch.isSome || decide (x.issued = 0) then (s, none)
  else if readsFar b x then
    let x := { x with issued := max x.issued (xferSlots b x) }
    if xferDone b x then ((landXfer s h b x).1, none) else (s, some x)
  else
    let left := xferSlots b x - x.issued
    let r := (upto left).foldl (fun (q : State × Xfer) _ =>
      if x.out.isEmpty && decide (q.2.issued < xferBeats x) then
        let m := readMovBeat q.1 h q.2.port b q.2 q.2.issued
        (m.1, { q.2 with issued := q.2.issued + 1, data := q.2.data ++ [m.2] })
      else (q.1, { q.2 with issued := q.2.issued + 1 })) (s, x)
    ((landXfer r.1 h b r.2).1, none)

/-- A channel's transfers in flight drained. -/
def drainChan (s : State) (h : ChanId) : State :=
  if s.mov.chans[h].st = .fenced then s
  else
    let t := chanStream s.mov.chans[h]
    let s := if streamAgent s.rmt.streams[t] = some (.chan h) then acceptAll t s.rmt.streams[t].wait.length s else s
    s.mov.chans[h].blks.foldl (fun s b =>
      let r := b.fly.foldl (fun (q : State × List Xfer) x => let y := drainXfer h q.1 b x; (y.1, q.2 ++ y.2.toList)) (s, [])
      if r.2.isEmpty then r.1 else modChan r.1 h (fun c => { c with drain := c.drain ++ [{ b with fly := r.2 }] })) s

/-- A channel after a partition reset: nothing runs, no shadow, its registers at their reset values (R358, R449). -/
def freshChan (x : Chan) : Chan :=
  { x with
    st := .idle, list := none, blks := [], shadow := none, rearmWait := none, ag := {}
    raSrcL := 0, raSrcH := 0, raDstL := 0, raDstH := 0, raFirst := 0, raCount := 0
    rearmBusy := 0, oobWr := 0, farLate := 0, beats := 0, credStall := 0, farLateFrame := none }

/-- An attachment after a reset of its partition: program and descriptors kept, everything else at reset (R358, R449). -/
def freshEa (x : Attach) : Attach :=
  { prog := x.prog, desc := x.desc, stream := x.stream, streamEn := x.streamEn, bstream := x.bstream, bstreamEn := x.bstreamEn
    discard := x.panel.isSome }

/-- A tap emptied and disarmed (R258). -/
def freshTap (x : Tap) : Tap := { ch := x.ch, fmt := x.fmt, owner := x.owner }

/-- A stream after a reset of its partition: requests not yet answered leave tombstones (R358, R449). -/
def freshStream (x : Stream) : Stream := { entry := x.entry, tomb := x.tomb + BitVec.ofNat 32 x.asked }

/-- Credits of a label that are outstanding, by its own counts (R291). -/
def labHeld (s : State) (x : Nat × BitVec 128) : Nat := lbCred x.2 - (labSt s x.1).ret

/-- Labels of the task of partition `p` that deliver and return credits, with their entries. -/
def credLabels (s : State) (p : Part) : List (Nat × BitVec 128) :=
  s.rmt.labels.filter (fun x => lbValid x.2 && lbDeliver x.2 && decide (0 < lbCred x.2) && sameTask s p (lbOwner x.2))

/-- The hold counts give up what the labels of a partition hold (R291). -/
def dropHolds (s : State) (p : Part) : State :=
  (credLabels s p).foldl (fun s x => modPort s (winStore x.2) (fun q => { q with hold := q.hold - labHeld s x })) s

/-- What a unit keeps per label, for the labels of a partition after its reset (R319, R385). -/
def freshLabels (s : State) (p : Part) : State :=
  { s with rmt := { s.rmt with
      labSt := s.rmt.labSt.filter (fun x => !sameTask s p (lbOwner (labelOf s x.1)))
      ret := s.rmt.ret.filter (fun r => !sameTask s p (lbOwner (labelOf s r.label))) } }

/-- A partition reset, of both partitions in one-task mode (R358). The transfers of its channels drain before its clusters lose
their commands. -/
def resetPart (s : State) (p : Part) : State :=
  let s := (taskChans s p).foldl drainChan s
  let s := (taskCls s p).foldl (fun s k => resetClusterTo s k true) s
  let s := dropHolds s p
  let s := freshLabels s p
  let s := { s with
    cores := s.cores.mapFinIdx (fun i x h => if sameTask s p (corePart ⟨i, h⟩) then { x with ag := {} } else x)
    mov := { s.mov with chans := s.mov.chans.mapFinIdx (fun i x h => if sameTask s p (chanPart s ⟨i, h⟩) then freshChan x else x) }
    eif := s.eif.mapFinIdx (fun i x h => if sameTask s p ⟨i, h⟩ then freshEa x else x)
    taps := s.taps.mapFinIdx (fun i x h => if sameTask s p (tapPart s ⟨i, h⟩) then freshTap x else x)
    rmt := { s.rmt with streams := s.rmt.streams.mapFinIdx (fun i x h => if sameTask s p (streamPart s ⟨i, h⟩) then freshStream x else x) }
    cnt := s.cnt.filter (fun x => !sameTask s p (partOfBit (decide (s.u.cntSplit.toNat * 64 ≤ x.1)))) }
  modPart s (taskPart s p) (fun x => { brkEn := x.brkEn, brk := x.brk, seqAt := x.seqAt, nextSeq := x.nextSeq, nextWhen := x.nextWhen
                                       idle := decide (s.u.state = .running), resetWin := 30000 })

/-! ### Starting a task (R33, R80, R217, R256, R258, R277, R285, R319, R322) -/

/-- The frame's work joins the lists of every agent of the task (R37, R433). -/
def pushWork (s : State) (p : Part) (frame : Word) : State :=
  let t := templateOf s s.parts[taskPart s p].entry
  (allAgents.filter (fun x => sameTask s p (agPart s x.2))).foldl (fun s x =>
    let ws := ((itemsOf t x.1).zipIdx).map (fun i => ({ frame := frame, idx := i.2, item := i.1 } : WorkItem))
    if ws.isEmpty then s else modAg s x.2 (fun g => { g with items := g.items ++ ws })) s

/-- A sequence begins at its first entry with fresh repeat counts (R41). -/
def beginSeq (s : State) (p : Part) (q : Fin 16) : State :=
  let e := s.bl.seqs[q].first
  modPart s p (fun x => { x with
    seq := q, entry := e, left := (match s.bl.entries[e]? with | some y => y.repeats - 1 | none => 0), idle := false, entryEnd := false })

/-- Groups of a starting task that no mark keeps lose their contents to the program (R277). -/
def undefGroups (s : State) (p : Part) : State :=
  ((List.finRange 8).filter (fun g => sameTask s p (groupPart s g) && !bitOf s.mem.retain g.val)).foldl
    (fun s g => { s with mem := undefGroup s.mem g s.fresh, fresh := s.fresh + 1 }) s

/-- Counters of a starting task at their initial values (R285). -/
def initCounters (s : State) (p : Part) : State :=
  let mine (c : Ctr) : Bool := sameTask s p (ctrPart s c)
  let old := s.cnt.filter (fun x => !sameTask s p (partOfBit (decide (s.u.cntSplit.toNat * 64 ≤ x.1))))
  (allCtrs.filter mine).foldl (fun s c =>
    let v := look 0 s.bl.counters c.val
    if v = 0 then s else setCtr s c { val := v }) { s with cnt := old }

/-- Hold counts of the stores that windows of a starting task lie in: each label's `CRED` (R291, R322). -/
def initHolds (s : State) (p : Part) : State :=
  (credLabels s p).foldl (fun s x => modPort s (winStore x.2) (fun q => { q with hold := q.hold + lbCred x.2 })) s

/-- A stream's credits and quotas at task start (R312, R322). -/
def startStream (x : Stream) : Stream :=
  { x with cred := fld x.entry 79 16, recalled := false, wait := [], qleft := stQuota x, qleftNoc := if stBcast x then stQuota x else 0 }

/-- First port of a partition's Stream Mover ports, and how many (R303, R217). -/
def portsOf (s : State) (p : Part) : List (Fin 4) := if twoTask s then (if p = 0 then [0, 1] else [2, 3]) else [0, 1, 2, 3]

/-- Stream Mover buckets half full and grants at their starting order (R217, R222). -/
def startMover (s : State) (p : Part) : State :=
  let ps := portsOf s p
  { s with mov := { s.mov with
      bucket := s.mov.bucket.mapFinIdx (fun i b h => if ps.contains ⟨i, h⟩ then 64 * (s.mov.reg[i].depth.toNat / 2) else b)
      last := s.mov.last.mapIdx (fun i l => if i / 3 = p.val then 31 else l) } }

/-- The task of partition `p` starts in the present frame with sequence `q`. -/
def startTask (s : State) (p : Part) (q : Fin 16) : State :=
  let s := dropHolds s p
  let s := freshLabels s p
  let s := beginSeq (modPart s p (fun x => { x with
    task := true, started := true, start := none, late := false, aborted := false, halted := false, preempted := false })) p q
  let t := templateOf s s.parts[p].entry
  let pcOf (n : Nat) : Nat := match itemsOf t n with | i :: _ => fldN i.fields 0 11 | [] => 0
  let s := { s with
    cores := s.cores.mapFinIdx (fun i x h => if sameTask s p (corePart ⟨i, h⟩) then freshCore x s.bl.cores[i] (pcOf i) else x)
    eif := s.eif.mapFinIdx (fun i x h => if sameTask s p ⟨i, h⟩ then { x with thr := s.bl.eifThr[i] } else x)
    taps := s.taps.mapFinIdx (fun i x h =>
      if sameTask s p (tapPart s ⟨i, h⟩) then { x with armed := false, psn := false, levels := Vector.replicate 24 none } else x)
    rmt := { s.rmt with streams := s.rmt.streams.mapFinIdx (fun i x h => if sameTask s p (streamPart s ⟨i, h⟩) then startStream x else x) } }
  let s := initHolds (initCounters (undefGroups (startMover s p) p) p) p
  pushWork s p s.fr.ctr

end Sys2Proof.Machine
end

