-- ==== Sys2Proof/Machine/Power.lean ====
section
/-! DEFINITION. The command window, power domains and their plan, store ports, the energy check, supply events, ageing, and
the refresh and scrub windows (R275, R280 to R284, R290 to R292, R347, R397 to R416, R454 to R456). -/

namespace Sys2Proof.Machine

/-! ### The command window (R42, R347, R374, R455) -/

/-- A command completes: `BUSY` 0, `DONE` 1, `RESULT`, and CMD_DONE (R455). -/
def cmdDone (s : State) (code result : Nat) : State :=
  raiseEvt { s with cmd := { s.cmd with busy := false, done := true, code := BitVec.ofNat 8 code, result := BitVec.ofNat 16 result } } .cmdDone

/-- A command refused with `e`: logged, and shown in `RESULT` (R374, R455). -/
def cmdRefuse (s : State) (code : Nat) (e : Err) (detail : Nat) : State := cmdDone (logRefused s e locUnit detail) code e.value

/-- A command whose effect takes `n` cycles, and completes with its `RESULT` after them (R347, R356). -/
def cmdTimed (s : State) (code n : Nat) : State :=
  { s with cmd := { s.cmd with busy := true, done := false, code := BitVec.ofNat 8 code, left := n } }

/-- A command whose save meets the closed port of the store at address `x.2` is refused (R293). -/
def saveRefused (s : State) (x : CoreId × Nat) (code : Nat) : State := cmdDone (groupOff s (whoStore x.1) x.2 true) code Err.groupOff.value

/-- A command that completes later: `BUSY` stays 1 (R455). -/
def cmdStart (s : State) (code : Nat) : State := { s with cmd := { s.cmd with busy := true, done := false, code := BitVec.ofNat 8 code } }

/-- A command with code `code` reaches the window: while another is in progress it is refused and `CMD_STAT` stays (R42,
R455). A unit without AON power, or whose fuses were refused, takes none (R341). -/
def command (s : State) (f : State → State) : State :=
  if !s.pwr.aonOk || fuseDead s then s
  else if s.cmd.busy then logRefused s .cmdBusy locUnit 0 else f s

/-! ### Domain states (R397, R398) -/

/-- A store's port opens when every domain of it works; a recall of its credits ends with it (R290, R324). -/
def openPort (s : State) (st : StoreId) : State :=
  if (storeDoms st).all (domUp s) then modPort s st (fun p => { p with isOpen := true, recalled := false }) else s

/-- A domain is OFF, or leaves it. -/
def isOff (s : State) (d : DomId) : Bool :=
  decide (domState s d = .off) || (decide (domState s d = .waking) && decide (s.pwr.dom[d].goal = .off))

/-- What leaving OFF does to a domain's contents. The written bits are all set when DS_CTL leaves OFF only where DS_ARR has
stayed powered (R277, R282, R399). -/
def leaveOff (s : State) (d : DomId) : State :=
  if h : 11 ≤ d.val ∧ d.val < 19 then { s with mem := clearGroup s.mem ⟨d.val - 11, by omega⟩ }
  else if d.val = 20 then { s with mem := { clearDs s.mem with arrLost := !domUp s 19 } }
  else if d.val = 19 then
    if s.mem.arrLost || isOff s 20 then { s with mem := { s.mem with arrLost := false } } else { s with mem := { s.mem with allWritten := true } }
  else if h : 3 ≤ d.val ∧ d.val < 7 then
    (coresOf ⟨d.val - 3, by omega⟩).foldl (fun s c => modCore s c (fun x => { x with lq := [], sq := [], prog := [], latch := none, factor := none })) s
  else s

/-- The cycles of an entry or a wake have passed: the state is reached, and after a wake the port opens (R398, R399). -/
def domArrive (s : State) (d : DomId) : State :=
  match domState s d with
  | .entering => setDomState s d s.pwr.dom[d].goal
  | .waking =>
    let s := if s.pwr.dom[d].goal = .off then leaveOff s d else s
    let s := modDom (setDomState s d .active) d (fun x => { x with goal := .active })
    match domStore d with | some st => openPort s st | none => s
  | _ => s

/-- A domain starts to enter `goal`, which takes its entry cycles (R398). -/
def beginEntry (s : State) (d : DomId) : State := modDom (setDomState s d .entering) d (fun x => { x with timer := 32 })

/-- A domain is to enter state `k`: GATED at once; RETAIN and OFF after its store's port has closed (R292, R401). -/
def enterState (s : State) (d : DomId) (k : Nat) : State :=
  if k = 0 ∨ domUp s d = false then s
  else if k = 1 then (if domState s d = .active then setDomState s d .gated else s)
  else
    let s := modDom s d (fun x => { x with goal := stateOf k })
    match domStore d with
    | some st => modPort s st (fun p => { p with closing := true })
    | none => beginEntry s d

/-- A domain begins its wake; a sleep whose port has not closed is cancelled and counted (R292, R401). -/
def beginWake (s : State) (d : DomId) : State :=
  match domState s d with
  | .gated => setDomState s d .active
  | .retain | .off | .entering => modDom (setDomState s d .waking) d (fun x => { x with timer := exitOf (depthOf x.goal) })
  | _ =>
    match domStore d with
    | some st =>
      if (portOf s st).closing && decide (s.pwr.dom[d].goal ≠ .active) then
        let s := modDom s d (fun x => { x with goal := .active })
        let more := (storeDoms st).any (fun e => decide (s.pwr.dom[e].goal ≠ .active) && domUp s e)
        modPort s st (fun p => { p with closing := more, recalled := false, skip := sat32 p.skip 1 })
      else s
    | none => s

/-! ### The plan (R400 to R404, R435) -/

/-- POWER_INTERVAL_START: the interval that begins in this cycle puts the domain into the state chosen for it (R401, R402). -/
def execPowerIntervalStart (d : DomId) (s : State) : Res :=
  .next (if s.u.state ≠ .running ∨ s.pwr.dom[d].planned = false then s
    else match (domPlan s d).find? (fun i => i.a = s.fr.cyc) with
      | none => s
      | some i =>
        let k := planState s (domPlan s 20) d i
        enterState (modDom s d (fun x => { x with cap := BitVec.ofNat 3 i.cap, until_ := if i.idle then none else some i.b })) d k)

/-- PORT_CLOSE: the port of a store due to enter RETAIN or OFF closes once both counts are 0 (R292). -/
def execPortClose (st : StoreId) (s : State) : Res :=
  let p := portOf s st
  .next (if p.closing && decide (p.hold = 0) && decide (inFlight s st = 0) then
      let s := modPort s st (fun p => { p with isOpen := false, closing := false })
      ((storeDoms st).filter (fun d => decide (s.pwr.dom[d].goal ≠ .active) && domUp s d)).foldl beginEntry s
    else s)

/-- The partition's pending sequence has ended its idle frames' plan (R402). -/
def wakesIdle (s : State) (d : DomId) : Bool :=
  let due (p : Part) : Bool := s.parts[p].idle && s.parts[p].nextPending
  match (if twoTask s then domPart s d else some 0) with
  | some p => due p
  | none => due 0 || due 1

/-- WAKE: the domain begins its wake so that it is ACTIVE at the end of its interval (R401, R402). -/
def execWake (d : DomId) (s : State) : Res :=
  let k := match domState s d with | .gated => 1 | .active => 0 | _ => depthOf s.pwr.dom[d].goal
  let due := match s.pwr.dom[d].until_ with | some b => decide (b ≤ s.fr.cyc + exitOf k) | none => false
  .next (if decide (s.u.state = .running) && (due || wakesIdle s d) then beginWake s d else s)

/-- GATED_AFTER_IDLE: while no Blend runs, a domain idle for 16 cycles enters GATED (R404). -/
def execGatedAfterIdle (d : DomId) (s : State) : Res :=
  .next (if d.val ≠ 0 ∧ s.u.state ≠ .running ∧ s.u.state ≠ .fenced ∧ domState s d = .active ∧ s.pwr.dom[d].forced = none then
      setDomState s d .gated
    else s)

/-- PWR_FORCE holds a domain at a cap until the next start tick (R456). -/
def cmdPwrForce (d cap : Nat) (s : State) : State :=
  command s (fun s =>
    if s.u.state ≠ .ready ∧ s.u.state ≠ .configWait ∧ s.u.state ≠ .tested then cmdRefuse s 0x70 .cmdState 0
    else if h : 0 < d ∧ d < 24 then
      let e : DomId := ⟨d, h.2⟩
      if deepest s e < cap then cmdRefuse s 0x70 .pwrPlan 0
      else
        let s := modDom s e (fun x => { x with forced := some (BitVec.ofNat 2 cap) })
        let s := if cap ≤ 1 then (if domUp s e then setDomState s e (stateOf cap) else beginWake s e) else
          let s := match domStore e with | some st => modPort s st (fun p => { p with isOpen := false }) | none => s
          beginEntry (modDom s e (fun x => { x with goal := stateOf cap })) e
        cmdDone s 0x70 0
    else cmdRefuse s 0x70 .pwrPlan 0)

/-- PWR_FORCE (R456). -/
def execPwrForce (d : BitVec 5) (cap : BitVec 2) (s : State) : Res := .next (cmdPwrForce d.toNat cap.toNat s)

/-- The start tick puts the plan in force: what a command held is released, and every domain works or wakes (R400, R404). -/
def planInForce (s : State) : State :=
  (List.finRange 24).foldl (fun s d =>
    let s := modDom s d (fun x => { x with planned := true, forced := none })
    if domState s d = .active then s else beginWake s d) s

/-- No Blend runs any more: no plan is in force (R404). -/
def planOver (s : State) : State :=
  { s with pwr := { s.pwr with dom := s.pwr.dom.mapIdx (fun _ x => { x with planned := false, cap := 0, until_ := none }) } }

/-! ### Energy (R406 to R408) -/

/-- Peak of a domain in units of 10 mW (Tables 1-7 and 16-3). -/
def peakOf (b : Bin) (d : Nat) : Nat :=
  let pick (h s e : Nat) : Nat := match b with | .h => h | .s => s | .e => e
  if d = 0 then 40 else if d = 1 then pick 220 178 141 else if d = 2 then pick 160 130 102 else if d < 7 then pick 300 243 192
  else if d < 11 then pick 60 49 38 else if d < 19 then pick 90 73 58 else if d = 19 then pick 120 97 77
  else if d = 20 then pick 280 227 179 else if d = 21 then 240 else if d = 22 then 80 else pick 200 162 128

/-- Energy of one event in units of 0.1 pJ (Table 16-4). -/
def eventCost (b : Bin) : List Nat :=
  match b with
  | .h => [60, 70, 1200, 200, 20, 400, 1100, 150, 150, 100, 10, 80, 120, 10, 600, 3000]
  | .s => [54, 63, 1080, 180, 18, 360, 990, 135, 135, 90, 9, 72, 108, 9, 540, 3000]
  | .e => [48, 56, 960, 160, 16, 320, 880, 120, 120, 80, 8, 64, 96, 8, 480, 3000]

/-- One core cycle as a fraction of nanoseconds (R407). -/
def cycleNs : Bin → Nat × Nat | .h => (2, 3) | .s => (20, 27) | .e => (5, 6)

/-- Static term of a domain over the frame, in units of 10^-4 W cycles: 30, 10 or 2 percent of its peak by state, and the
whole peak of AON and the link (R407). -/
def staticOf (s : State) (b : Bin) (d : DomId) : Nat :=
  let x := s.pwr.dom[d]
  if d.val = 0 ∨ d.val = 21 ∨ d.val = 22 then peakOf b d.val * 100 * s.fr.cyc
  else peakOf b d.val * (30 * x.cycActive + 10 * x.cycGated + 2 * x.cycRetain)

/-- Energy of the frame, rounded up to whole nJ (R407, R408). -/
def frameEnergy (s : State) : Nat :=
  let b := s.bl.bin
  let st := ((List.finRange 24).map (staticOf s b)).sum
  let ev := (List.zipWith (· * ·) s.pwr.ev.toList (eventCost b)).sum
  let t := cycleNs b
  ceilDiv (st * t.1 + ev * t.2) (10000 * t.2)

/-- Declared energy of a partition's frame: its template's, or the idle plan's (R408). -/
def declaredOf (s : State) (p : Part) : Nat :=
  if s.parts[p].task && !s.parts[p].idle then (templateOf s s.parts[p].entry).energy else s.bl.eIdle

/-- Declared energy of the frame; in two-task mode the two frames' together (log 30). -/
def declaredEnergy (s : State) : Nat := if twoTask s then declaredOf s 0 + declaredOf s 1 else declaredOf s 0

/-- Counts of a frame start afresh (R407). -/
def clearEnergy (s : State) : State :=
  { s with pwr := { s.pwr with
      ev := Vector.replicate 16 0, dom := s.pwr.dom.mapIdx (fun _ x => { x with cycActive := 0, cycGated := 0, cycRetain := 0 }) } }

/-- The check of a frame of the run at the tick that ends it (R408). -/
def energyCheck (s : State) : State :=
  let m := frameEnergy s
  let e := declaredEnergy s
  let s := { s with pwr := { s.pwr with measE := BitVec.ofNat 32 m, declE := BitVec.ofNat 32 e } }
  if e < m then
    let s := { s with pwr := { s.pwr with overCnt := sat32 s.pwr.overCnt 1 } }
    raiseEvt (logRun s .pwrOverplan locUnit (m - e)) .powerOverplan
  else s

/-- One cycle of every domain in the state it is in; entry and wake cycles count as ACTIVE (R407). -/
def countDomCycles (s : State) : State :=
  { s with pwr := { s.pwr with dom := s.pwr.dom.mapFinIdx (fun i x h =>
      match domState s ⟨i, h⟩ with
      | .gated => { x with cycGated := x.cycGated + 1 }
      | .retain => { x with cycRetain := x.cycRetain + 1 }
      | .off => x
      | _ => { x with cycActive := x.cycActive + 1 }) } }

/-! ### Supply (R55, R409 to R412) -/

/-- VWARN: the 3/4 divider takes effect; a fall during the return hold starts the hold again (R410). -/
def execVwarn (s : State) : Res := .next (if s.pwr.vresetHold || !s.pwr.aonOk then s else { s with pwr := { s.pwr with divider := true } })

/-- DROOP: the full clock returns and the episode is recorded (R410). -/
def execDroop (s : State) : Res :=
  let n := s.pwr.divEpisode
  .next (if s.pwr.divider then
      let s := { s with pwr := { s.pwr with
        divider := false, divEpisode := 0, droopLog := sat32 s.pwr.droopLog 1
        droopLong := if s.pwr.droopLong.toNat < n then sat32 0 n else s.pwr.droopLong } }
      raiseEvt (logRun s .droop locUnit n) .droop
    else s)

/-- The debt exceeds the reserve, and that has not been raised for the frame (R55). -/
def exhausts (s : State) : Bool :=
  decide (s.u.state = .running) && decide (droopReserve s < s.pwr.divFrame / 3) && !s.pwr.exhausted

/-- DROOP_EXHAUSTED is raised. -/
def raiseExhausted (s : State) : State := raiseEvt (logRun s .droopExhausted locUnit 0) .droopExhausted

/-- DROOP_EXHAUSTED: the debt exceeds the reserve, once for the frame (R55). -/
def execDroopExhausted (s : State) : Res :=
  .next (if exhausts s then raiseExhausted { s with pwr := { s.pwr with exhausted := true } } else s)

/-! ### Ageing (R413 to R416) -/

/-- `VID_MAX`, `VID_START` and `BASE_OK` (Table 14-4). -/
def vidMax (s : State) : Nat := fldN s.fuse.shadow[(2 : Fin 64)] 0 8
def vidStart (s : State) : Nat := fldN s.fuse.shadow[(2 : Fin 64)] 8 8
def baseOk (s : State) : Bool := bitOf s.fuse.shadow[(2 : Fin 64)] 16

/-- Baseline of monitor `i` (Table 14-4). -/
def baseline (s : State) (i : Nat) : Nat := fldN (s.fuse.shadow[3 + i / 8]?.getD 0) (8 * (i % 8)) 8

/-- Clock period in 1/27 ps. -/
def period27 : Bin → Nat | .h => 18000 | .s => 20000 | .e => 22500

/-- The ageing of a round: the largest of its monitors', or 0 (R413). -/
def ageOf (s : State) (round : List (BitVec 16)) : Nat :=
  (round.zipIdx).foldl (fun m x =>
    let b := baseline s x.2
    max m (if x.2 < 12 then x.1.toNat - b else b - x.1.toNat)) 0

/-- The highest clock an aged unit supports, coded as `MAX_CLK`: the fastest whose period covers the ageing that the
voltage does not (R415). -/
def maxClock (s : State) (delta : Nat) : Nat :=
  let need := period27 (binOf (fusedBin s)) + 27 * delta - 81 * (vidMax s - vidStart s)
  if need ≤ 18000 then 0 else if need ≤ 20000 then 1 else if need ≤ 22500 then 2 else 3

/-- AGED is reported (R415). -/
def reportAged (s : State) (delta : Nat) : State :=
  let s := { s with pwr := { s.pwr with aged := true, maxClk := BitVec.ofNat 2 (maxClock s delta) } }
  raiseEvt (logRun s .aged locUnit delta) .aged

/-- Delay in 1/27 ps that the applied VID and the present clock cover (R414, R415). -/
def margin27 (s : State) : Nat :=
  81 * (s.pwr.vid.toNat - vidStart s) + (period27 s.fr.clk - period27 (binOf (fusedBin s)))

/-- A complete round: its ageing, and a report when a run's margin does not cover it (R413, R415, R416). -/
def endRound (s : State) : State :=
  if !baseOk s then { s with pwr := { s.pwr with round := [], monNext := 0 } }
  else
    let d := ageOf s s.pwr.round
    let s := { s with pwr := { s.pwr with round := [], monNext := 0, delta := BitVec.ofNat 16 d } }
    if s.u.state = .running ∧ margin27 s < 27 * d then reportAged s d else s

/-- One code sampled from the next monitor. -/
def takeSample (s : State) (code : BitVec 16) : State :=
  let i := s.pwr.monNext % 28
  let s := { s with pwr := { s.pwr with
    mon := s.pwr.mon.mapIdx (fun j x => if j = i then code else x), round := s.pwr.round ++ [code], monNext := i + 1 } }
  if i = 27 then endRound s else s

/-- The cycle may have a sample: outside RUNNING any, and in a run one of each tick guard, in no frame with droop (R411, R413). -/
def maySample (s : State) : Bool :=
  !heldInReset s && (decide (s.u.state ≠ .running)
    || (decide (frameCycles s ≤ s.fr.cyc + 64) && decide (s.fr.cyc < frameCycles s) && decide (s.pwr.divFrame = 0)
      && decide (s.pwr.sampled ≠ some s.fr.ctr)))

/-- AGEING_SAMPLE: one monitor, in the tick guard while RUNNING, and not in a frame with droop (R411, R413). -/
def execAgeingSample (code : BitVec 16) (s : State) : Res :=
  .next (if maySample s then
      takeSample (if s.u.state = .running then { s with pwr := { s.pwr with sampled := some s.fr.ctr } } else s) code
    else s)

/-! ### Refresh and scrub windows (R275, R280, R281, R284) -/

/-- A stored word read and put right: corrected in place, or rewritten with the poison syndrome (R275, R280). -/
def scrubWord (s : State) (w : Nat) : State :=
  let bad := uncorrectable s.mem w
  let s := eccRead s w
  { s with mem := { s.mem with bad := put 0 s.mem.bad w 0, psn := if bad then setAdd s.mem.psn w else s.mem.psn } }

/-- Words with symbols in error in an address range, in address order, put right. -/
def scrubRange (s : State) (lo hi : Nat) : State :=
  ((s.mem.bad.map (·.1)).filter (fun w => decide (lo ≤ 64 * w) && decide (64 * w < hi))).foldl scrubWord s

/-- PATROL_SCRUB: 128 words of each bank of group `FRAME_CTR` mod 8; a group in RETAIN or OFF is skipped (R275). -/
def execPatrolScrub (s : State) : Res :=
  let g : GroupId := ⟨s.fr.ctr.toNat % 8, by omega⟩
  let d : DomId := ⟨11 + g.val, by omega⟩
  .next (if s.u.state ≠ .running ∨ s.fr.cyc ≠ s.fr.scrubOff ∨ !domUp s d then s
    else
      let s := wakePort s (.ns g)
      let lo := 0x400000 * g.val + 0x10000 * s.mem.groups[g].scrubPos.toNat
      let s := scrubRange s lo (lo + 0x10000)
      { s with mem := { s.mem with groups := s.mem.groups.set g.val { s.mem.groups[g] with scrubPos := s.mem.groups[g].scrubPos + 1 } } })

/-- Lanes of a lane group: its 256 data lanes, then its 8 spares (R283). -/
def groupLanes (g : Nat) : List Nat := span (256 * g) 256 ++ span (8192 + 8 * g) 8

/-- A lane that has reached the threshold, or fails training, at its group's recalibration; one already out of use stays
out. A failed lane without a spare has its symbols corrected on every read (R284). -/
def badLane (failed : List Nat) (g : Fin 32) (s : State) (l : Nat) : State :=
  if s.mem.outLanes.contains l || s.mem.deadLanes.contains l then s
  else if s.mem.spares[g] < 8 then
    logRun { s with mem := { s.mem with
      outLanes := setAdd s.mem.outLanes l, spares := s.mem.spares.set g.val (s.mem.spares[g] + 1), lastSwap := s.mem.lastSwap.set g.val (BitVec.ofNat 8 l) } } .dsLaneSpare locUnit l
  else if failed.contains l then
    let n := s.mem.laneFail[g] + 1
    let s := logRun { s with mem := { s.mem with deadLanes := setAdd s.mem.deadLanes l, laneFail := s.mem.laneFail.set g.val n } } .dsLaneNospare locUnit l
    if 3 ≤ n then unitFatal s .dsLaneFatal l else s
  else s

/-- Recalibration of lane group `g` (R284). -/
def recalibrate (s : State) (failed : List Nat) (g : Fin 32) : State :=
  let ls := groupLanes g.val
  let hit := ls.filter (fun l => failed.contains l || decide (s.mem.laneThr.toNat ≤ (look 0 s.mem.laneErr l).toNat))
  let s := hit.foldl (badLane failed g) s
  { s with mem := { s.mem with laneErr := s.mem.laneErr.filter (fun x => !ls.contains x.1) } }

/-- The cycle in which a refresh window starts (R34). -/
def refreshStarts (s : State) : Bool :=
  let p := s.fr.refP
  let x := s.fr.cyc - s.fr.refPhase
  decide (s.fr.refPhase ≤ s.fr.cyc) && decide (0 < p) && decide (x % p = 0) && decide (x / p < s.fr.refW)

/-- The corrected symbols that the controller has attributed to lanes since it last looked (R284). -/
def countLanes (s : State) (lanes : List (Nat × Nat)) : State :=
  { s with mem := { s.mem with laneErr := lanes.foldl (fun m x => put 0 m x.1 (sat32 (look 0 m x.1) x.2)) s.mem.laneErr } }

/-- DS_REFRESH_WINDOW: 64 rows refreshed, a lane group recalibrated, 32 granules scrubbed; while DS_ARR is in RETAIN or OFF
the array refreshes itself (R280, R281, R284, R400). -/
def execDsRefreshWindow (lanes : List (Nat × Nat)) (failed : List Nat) (s : State) : Res :=
  .next (if s.u.state ≠ .running ∨ !refreshStarts s then s
    else if !domUp s 20 then s
    else
      let s := recalibrate (countLanes s (lanes.filter (fun x => x.1 < 8448))) failed ⟨s.mem.refCnt.toNat % 32, by omega⟩
      let lo := 0x40000000 + 512 * s.mem.scrubPos.toNat
      let s := scrubRange s lo (lo + 512 * 32)
      { s with mem := { s.mem with refCnt := sat32 s.mem.refCnt 1, refRow := s.mem.refRow + 64, scrubPos := s.mem.scrubPos + 32 } })

end Sys2Proof.Machine
end

