-- ==== Sys2Proof/Machine/Ticks.lean ====
section
/-! DEFINITION. Ticks and frames: taking a tick, lock and holdover, sequences, overrun, the watchdog, breakpoints, start ticks
(R31 to R56, R387 to R390, R402, R408, R457, R458, R462 to R465, R471). -/

namespace Sys2Proof.Machine

/-! ### What a tick finds of its source (R46 to R48, R471) -/

/-- `MISSED` counts up to 15 (Table 18-9). -/
def missOne (f : FrameCtl) : FrameCtl := { f with missed := min 15 (f.missed + 1), good := 0 }

/-- A pulse with a valid number, at the measured skew. An anchor measures skew and holdover by its markers. -/
def goodTick (s : State) (skew : Int) : State :=
  if s.fr.own.src = 2 then
    { s with fr := { s.fr with good := if s.fr.missed = 0 ∧ s.fr.unlock = false then s.fr.good + 1 else 0 } }
  else
    let wide := decide (32 < skew.natAbs)
    let s := { s with fr := { s.fr with
      missed := 0, absent := 0, lost := false, holdover := false, skew := skewBits skew, unlock := wide, good := if wide then 0 else s.fr.good + 1 } }
    if wide then raiseEvt (logRun s .tickSkew locUnit 0) .tickUnlock else s

/-- The tick's effect on `TICK_STAT`: taken by the unit itself, with no valid number, or good. -/
def tickSource (s : State) (self valid : Bool) (skew : Int) : State :=
  if self then { s with fr := { missOne s.fr with holdover := true, absent := s.fr.absent + 1 } }
  else if !valid then { s with fr := { missOne s.fr with absent := 0, lost := false } }
  else goodTick s skew

/-! ### What ends with a frame -/

/-- Per-frame counts of the Remote Engine and the link start afresh (R49, R50, R312, R320, R332). -/
def freshQuotas (s : State) : State :=
  let str := s.rmt.streams.mapIdx (fun _ x => { x with qleft := stQuota x, qleftNoc := if stBcast x then stQuota x else 0 })
  let lst := (s.rmt.labSt.map (fun x => (x.1, { x.2 with used := 0 }))).filter (fun x => x.2 ≠ {})
  let rmt := { s.rmt with streams := str, labSt := lst }
  let s := { s with rmt := rmt, lnk := { s.lnk with rplFrame := 0 } }
  credNoc s.rmt.labSt.length (flushNoc s)

/-- The frame counter and everything that is kept per frame (R33, R55, R371, R401). -/
def newFrame (s : State) (n : Word) : State :=
  let debt := BitVec.ofNat 32 (s.pwr.divFrame / 3)
  { s with
    fr := { s.fr with
      ctr := n, cyc := 0, ticked := true, droopDebt := debt, missRaised := s.fr.missRaised.filter (fun k => decide ((n - k.2).toNat < 128)) }
    err := { endLogCycle s.err with seen := [] }
    pwr := { s.pwr with
      divFrame := 0, exhausted := false, dom := s.pwr.dom.mapIdx (fun _ x => { x with until_ := none, cap := 0 }) } }

/-! ### Overrun (R54) -/

/-- An agent still has work of a frame that has ended; a fenced channel never has (R37). -/
def agentLate (s : State) (ag : Agent) : Bool :=
  let g := agOf s ag
  let fenced := match ag with | .chan h => decide (s.mov.chans[h].st = .fenced) | _ => false
  !fenced && (g.run.isSome || !g.items.isEmpty)

/-- An agent still has work of a frame before frame `n`. -/
def agentOlder (s : State) (ag : Agent) (n : Word) : Bool :=
  let g := agOf s ag
  agentLate s ag && ((match g.run with | some f => decide (f ≠ n) | none => false) || g.items.any (fun w => decide (w.frame ≠ n)))

/-- The lowest-numbered agent of a task for which `f` holds. -/
def firstAgent (s : State) (p : Part) (f : Agent → Bool) : Option Nat :=
  (allAgents.find? (fun x => sameTask s p (agPart s x.2) && f x.2)).map (·.1)

/-- A task runs on partition `p` and nothing has stopped it, a UNIT_FATAL error included (R382). -/
def runs (s : State) (p : Part) : Bool :=
  let x := s.parts[p]
  decide (s.u.state = .running) && x.task && !x.halted && !x.preempted && !x.aborted

/-- OVERRUN of partition `p` at the tick after frame `n` (R54). -/
def overrunCheck (n : Word) (s : State) (p : Part) : State :=
  if !runs s p then s
  else match firstAgent s p (agentLate s) with
    | none => modPart s p (fun x => { x with late := false })
    | some i =>
      let s := modPart { s with fr := { s.fr with ovr := sat32 s.fr.ovr 1 } } p (fun x => { x with late := true })
      let _ := n
      raiseEvt (logRun s .overrun (locPart p) i) .overrun

/-- A second tick finds work of a frame before frame `n` still undone: the task aborts (R54). -/
def overrunAbort (n : Word) (s : State) (p : Part) : State :=
  if !runs s p then s
  else match firstAgent s p (fun a => agentOlder s a n) with
    | none => s
    | some i => abortTask (logRun s .overrunAbort (locPart p) i) p

/-! ### Sequences (R38 to R43, R402) -/

/-- A pending change takes effect (R41). -/
def takeChange (s : State) (p : Part) (frame : Word) : State :=
  let s := modPart s p (fun x => { x with nextPending := false })
  pushWork (beginSeq s p s.parts[p].nextSeq) p frame

/-- The partition's step at a tick: a further frame of its entry, the end of the entry, or the start of a pending sequence
in idle frames. -/
def seqStep (s : State) (p : Part) : State :=
  if !runs s p then s
  else
    let x := s.parts[p]
    let wait := x.nextFrom
    let s := modPart s p (fun x => { x with nextFrom := x.nextFrom - 1 })
    if x.idle then (if x.nextPending && decide (wait = 0) then takeChange s p s.fr.ctr else s)
    else if 0 < x.left then pushWork (modPart s p (fun x => { x with left := x.left - 1 })) p s.fr.ctr
    else modPart s p (fun x => { x with entryEnd := true })

/-- SEQ_ENTRY_END: the repeat count has run out; a pending change takes effect, the partition goes idle at `SEQ_END`, or the
next entry begins (R38, R39, R41). At a `SEQ_END` with a change pending that is not due, the partition goes idle with SEQ_IDLE,
and the change is taken as one asked for in idle frames (DESIGN CHOICE, log 83). -/
def execSeqEntryEnd (p : Part) (s : State) : Res :=
  let x := s.parts[p]
  let e := seqEntry s x.entry
  let frame := if x.halted || x.preempted then x.stopFrame else s.fr.ctr
  .next (if !(x.task && x.entryEnd) then s
    else if changeDue x e (frame - 1) then takeChange s p frame
    else if e.seqEnd then raiseEvt (modPart s p (fun x => { x with idle := true, entryEnd := false })) .seqIdle
    else pushWork (modPart s p (fun x => { x with entry := e.next, left := (seqEntry s e.next).repeats - 1, entryEnd := false })) p frame)

/-! ### Start ticks (R33, R48, R281) -/

/-- The start tick of a task asked for on partition `p`; `lock` is `LOCK` at the start of the cycle. -/
def startTick (lock : Bool) (s : State) (p : Part) : State :=
  match s.parts[p].start with
  | none => s
  | some r =>
    if r.frame ≠ s.fr.ctr then s
    else if s.u.state = .running then startTask s p r.seq
    else if s.u.state = .ready ∧ lock then
      startTask (planInForce { s with u := { s.u with state := .running } }) p r.seq
    else if s.u.state = .ready then
      logRefused (modPart s p (fun x => { x with start := none, started := false })) .tickNolock locUnit 0
    else s

/-! ### Stops at a tick (R101, R457, R458, R465) -/

/-- A PREEMPT accepted before this frame takes effect: the partition stops and its contexts are saved (R457). One that a
reset, an abort or a halt has overtaken is discarded with ERR_CMD_STATE (R484). -/
def preemptTick (s : State) (p : Part) : State :=
  if s.parts[p].preemptDue then
    let s := modPart s p (fun x => { x with preemptDue := false })
    if runs s p then
      let t := stopTask s p true
      match saveShut t (savedCores t p) with
      | some x => saveRefused s x 0x40
      | none => cmdDone (saveTask t p) 0x40 0
    else cmdDone s 0x40 Err.cmdState.value
  else s

/-- A RESUME accepted before this frame takes effect (R458). -/
def resumeTick (s : State) (p : Part) : State :=
  if s.parts[p].resumeDue then cmdDone (resumeTask (modPart s p (fun x => { x with resumeDue := false })) p) 0x41 0 else s

/-- A breakpoint whose frame this is halts its partition (R465). One that an abort in the same cycle overtakes clears its
enable bit and does nothing more (R484); `ran` tells whether the partition ran as the cycle began. -/
def breakTick (ran : Bool) (s : State) (p : Part) : State :=
  let x := s.parts[p]
  if x.brkEn ∧ x.brk = s.fr.ctr ∧ (ran ∨ runs s p) then
    let s := modPart s p (fun x => { x with brkEn := false })
    if runs s p then stopTask s p false else s
  else s

/-! ### The watchdog (R387 to R390) -/

/-- The partition's task is in idle frames (R388, R402). -/
def inIdleFrames (s : State) (p : Part) : Bool := s.parts[taskPart s p].idle

/-- The agent waits, as Table 15-6 states, and for what. No agent of a partition in idle frames waits (R388). -/
def waiting (s : State) (ag : Agent) : Option Wait :=
  if inIdleFrames s (agPart s ag) then none
  else match ag with
  | .core c =>
    let x := s.cores[c]
    if x.ag.run.isNone ∨ x.st ≠ .run then none
    else if x.present.isSome then some .gang
    else match x.prog.findSome? progWait with | some w => some w | none => x.ag.wait
  | .chan h =>
    let x := s.mov.chans[h]
    match x.st with
    | .waitCred => (match x.ag.wait with | some w => some w | none => some .transfers)
    | .waitAdmit => some .admission
    | .waitLadle => some .ladle
    | .fenced => none
    | _ => if 0 < outstanding x then some .transfers else none
  | .ea a =>
    let x := s.eif[a]
    if x.ag.run.isNone ∨ x.st = .fenced then none
    else if x.panel.isSome then some .panel else if x.thrAdded then x.ag.wait else none

/-- The condition of a wait holds (R389). -/
def waitOver (s : State) (ag : Agent) (w : Wait) : Bool :=
  match w with
  | .ctr c t => (ctrOf s c).psn || reached (ctrOf s c).val t
  | .credit c => creditOk (ctrOf s c)
  | .lq => (match ag with | .core c => !s.cores[c].lq.isEmpty | _ => false)
  | .sq => (match ag with | .core c => decide (s.cores[c].sq.length < 16) | _ => false)
  | .ladle => s.cls.toList.any (fun k => k.running.isNone && k.waiting.any (fun v => match v with
      | .core c => decide (ag = .core c) | .chan h => decide (ag = .chan h)))
  | .admission => s.rmt.streams.toList.any (fun x => decide (streamAgent x = some ag) && !x.fenced &&
      (match x.wait with | o :: _ => mayAccept s x o | [] => false))
  | .panel => (match ag with
      | .ea a => (match execPresentation a s with | .next t => decide (t.eif[a].pos ≠ s.eif[a].pos ∨ t.eif[a].panel = none) | _ => false)
      | _ => false)
  | .gang | .transfers => false

/-- The counter an agent waits on, as R390's detail word. -/
def waitDetail : Option Wait → Nat
  | some (.ctr c _) => c.val
  | some (.credit c) => c.val
  | _ => 0xFFFF

/-- The stall count of an agent after a frame; `s0` is the state before the tick, whose waits and stops are those of the
frame just ended (R387 to R389). -/
def watchAgent (s0 s : State) (ag : Agent) : State :=
  if stopped s0 (agPart s0 ag) then s
  else
    let w := waiting s0 ag
    let held := match w with | some w => waitOver s0 ag w | none => false
    modAg s ag (fun g =>
      if g.progressed || held then { g with progressed := false, stall := 0 }
      else if w.isSome then { g with stall := sat32 g.stall 1, stallOn := waitDetail w } else g)

/-- STALL_CYCLE: an agent's stall count has reached `PROG_WDT`, and it is aborted (R387, R390, R391). -/
def execStallCycle (ag : Agent) (s : State) : Res :=
  let g := agOf s ag
  let n := g.stallOn
  .next (if s.err.wdt = 0 ∨ g.stall.toNat < s.err.wdt.toNat then s
    else
      let s := modAg { s with err := { s.err with stallCnt := sat32 s.err.stallCnt 1 } } ag (fun g => { g with stall := 0 })
      match ag with
      | .core c => failCore s c .stallCycle n
      | .chan h => failChan s h .stallCycle n
      | .ea a => failEa s a .stallCycle n)

/-! ### Taking a tick -/

/-- Partitions that run a task of their own: P_0 alone in one-task mode (R22). -/
def taskParts (s : State) : List Part := if twoTask s then [0, 1] else [0]

/-- What a frame of the run leaves to its end: overrun, a debt beyond the reserve not raised before, sequences, stops and starts,
in the order of R56. -/
def runTick (s0 s : State) (lock : Bool) : State :=
  let n := s0.fr.ctr
  let ps := taskParts s0
  let s := ps.foldl (overrunCheck n) s
  let s := if exhausts s0 then raiseExhausted s else s
  let s := ps.foldl (overrunAbort n) s
  let s := ps.foldl (fun s p => if s0.parts[p].resumeDue then resumeTick s p else seqStep s p) s
  let s := ps.foldl (startTick lock) s
  ps.foldl preemptTick (ps.foldl (fun s p => breakTick (runs s0 p) s p) s)

/-- The unit takes a tick: `num` is the number behind a pulse, `self` when no pulse came (R33, R47, R471). -/
def takeTick (s : State) (num : Option Word) (self : Bool) (skew : Int) : State :=
  let run := decide (s.u.state = .running)
  let next := s.fr.ctr + 1
  let valid := match num with | some v => !run || decide (v = next) | none => false
  let n := if run then next else (match num with | some v => v | none => next)
  let e := energyCheck s
  let t := freshQuotas (tickSource (newFrame s n) self valid skew)
  let t := runTick s t s.fr.lock
  let t := if run then allAgents.foldl (fun t x => watchAgent s t x.2) t else t
  let t := if run ∧ e.pwr.overCnt ≠ s.pwr.overCnt then
      raiseEvt (logRun t .pwrOverplan locUnit (frameEnergy s - declaredEnergy s)) .powerOverplan
    else t
  let t := if run then { t with pwr := { t.pwr with measE := e.pwr.measE, declE := e.pwr.declE, overCnt := e.pwr.overCnt } } else t
  clearEnergy t

/-- TICK: a pulse of the tree. One that comes more than 32 cycles before its tick is due is ignored and counted as missed
(R471). -/
def execTick (num : Option Word) (skew : Int) (s : State) : Res :=
  .next (if heldInReset s then s
    else if s.fr.ticked ∧ elapsed s + 32 < frameLenOf s s.fr.ctr then { s with fr := missOne s.fr }
    else takeTick s num false skew)

/-- TICK_SELF: no pulse has come 32 cycles after the tick was due, and the unit takes it itself (R47, R471). -/
def execTickSelf (s : State) : Res :=
  .next (if heldInReset s || !s.fr.ticked || decide (elapsed s < frameLenOf s s.fr.ctr + 32) then s else takeTick s none true 0)

/-- LOCK becomes 1 in the cycle after the fourth good tick in a row (R48). -/
def execLock (s : State) : Res := .next (if 4 ≤ s.fr.good then { s with fr := { s.fr with lock := true } } else s)

/-- TICK_LOST: markers or pulses have been missing for 4 ticks in a row (R47). -/
def execTickLost (s : State) : Res :=
  .next (if 4 ≤ s.fr.absent ∧ s.fr.lost = false then
      raiseEvt (logRun { s with fr := { s.fr with lost := true } } .tickLost locUnit 0) .tickLost
    else s)

/-! ### The tick generator (R44 to R47) -/

/-- The generator's period has elapsed since its last pulse, which came 6 cycles before the unit took it back (R46, R471). -/
def generatorDue (s : State) : Bool :=
  !s.fr.ticked || decide ((2 * frameLenOf s s.fr.ctr : Int) + s.fr.adj * clk2 s.fr.clk ≤ 2 * ((elapsed s : Int) + 6))

/-- TICK_GENERATOR: the tick master, or an anchor disciplined by its markers, drives a pulse and its number into the chip's
tree; an anchor without a marker for the tick is in holdover (R44 to R47). -/
def execTickGenerator (s : State) : Res :=
  let src := s.fr.own.src.toNat
  .next (if heldInReset s || !(src = 1 || src = 2) || !generatorDue s then s
    else
      let n := match s.fr.marker with | some v => v + 1 | none => (match s.pins.tickOut with | some v => v + 1 | none => s.fr.ctr + 1)
      let s := if src = 2 ∧ s.fr.marker = none then
          { s with fr := { missOne s.fr with holdover := true, absent := s.fr.absent + 1 } }
        else s
      { s with
        fr := { s.fr with marker := none, adj := 0 }
        pins := { s.pins with tickOut := some n, tickTimes := s.pins.tickTimes + 1 } })

end Sys2Proof.Machine
end

