-- ==== Sys2Proof/Machine/Registers.lean ====
section
/-! DEFINITION. The register window: what a read of each offset returns, and the RWF registers with their fields, their
reserved encodings and their reset values (R9 to R11, R444 to R452, R460 to R464, and the register tables of every
chapter). -/

namespace Sys2Proof.Machine

/-! ### Codes of states -/

/-- `UNIT_STAT.STATE` (Table 14-12). -/
def UState.code : UState → Nat
  | .powered => 0 | .addressed => 1 | .tested => 2 | .ready => 3 | .configWait => 4 | .running => 5 | .fenced => 6 | .detached => 7
/-- `PSTATE` (Table 11-5). -/
def PState.code : PState → Nat | .active => 0 | .gated => 1 | .retain => 2 | .off => 3 | .entering => 4 | .waking => 5
/-- `CORE_STAT.STATE` (Table 4-6). -/
def CState.code : CState → Nat | .idle => 0 | .run => 1 | .preempted => 2 | .halted => 3 | .fenced => 4
/-- `MOV_CH_STAT.STATE` (Table 9-8). -/
def ChState.code : ChState → Nat | .idle => 0 | .run => 1 | .waitCred => 2 | .waitAdmit => 3 | .waitLadle => 4 | .fenced => 5
/-- `EIF_STAT.STATE` (Table 10-10). -/
def EState.code : EState → Nat | .idle => 0 | .panel => 1 | .wait => 2 | .clip => 3 | .halted => 4 | .fenced => 5
/-- `LNK_STAT.STATE` (Table 13-8). -/
def LState.code : LState → Nat | .down => 0 | .training => 1 | .up => 2 | .retraining => 3 | .lost => 4

/-- A word from its number. -/
def rw (n : Nat) : Word := BitVec.ofNat 32 n

/-- Word `i` of a wider register, low word first (R445). -/
def wordOf {n : Nat} (x : BitVec n) (i : Nat) : Word := fld x (32 * i) 32

/-- The logical core is offered: its position holds a physical core (R19). -/
def offered (s : State) (c : CoreId) : Bool := decide (physOf s c ≠ 7)

/-! ### Reads -/

/-- `UNIT_STAT` (Table 14-12). -/
def unitStat (s : State) : Word :=
  rw (s.u.state.code + s.u.step % 8 * 16 + b2n s.u.fast * 128 + b2n s.u.blendOk * 256 + s.u.lcores % 32 * 512
    + s.u.gangOk.toNat * 2 ^ 14 + s.u.ladleOk.toNat * 2 ^ 18 + s.u.eaOk.toNat * 2 ^ 22 + b2n s.u.repairPend * 2 ^ 24)

/-- `UNIT_ID` (Table 14-11). -/
def unitId (s : State) : Word :=
  let f := s.fuse.shadow[(0 : Fin 64)]
  rw (s.u.addr.toNat + fldN f 0 6 * 2 ^ 16 + fldN f 6 8 * 2 ^ 22)

/-- `TASK_CFG` (Table 18-3). -/
def taskCfg (s : State) : Word :=
  rw (b2n s.u.taskMode + s.u.clEn.toNat * 2 + s.u.nsOwner.toNat * 2 ^ 5 + s.u.dsBound.toNat * 2 ^ 13 + s.u.cntSplit.toNat * 2 ^ 17)

/-- `CMD_STAT` (Table 18-6). -/
def cmdStat (s : State) : Word := rw (b2n s.cmd.busy + b2n s.cmd.done * 2 + s.cmd.code.toNat * 256 + s.cmd.result.toNat * 65536)

/-- `TICK_CFG` (Table 18-8). -/
def tickCfgBits (c : TickCfg) : Word :=
  rw (c.period.toNat + c.droopRsv.toNat * 2 ^ 20 + c.src.toNat * 2 ^ 27 + b2n c.treeOut * 2 ^ 29)

/-- `TICK_STAT` (Table 18-9). -/
def tickStat (s : State) : Word :=
  rw (b2n s.fr.lock + b2n s.fr.holdover * 2 + b2n s.fr.unlock * 4 + s.fr.missed % 16 * 8 + s.fr.skew.toNat * 256)

/-- `SEQ_NEXT_p` (Table 2-3). -/
def seqNextBits (x : PartSt) : Word := rw (x.nextSeq.val + x.nextWhen.toNat * 256 + b2n x.nextPending * 2 ^ 31)

/-- `SEQ_STAT_p`; `SEQ_STAT_1` reads 0 in one-task mode (Table 18-10). -/
def seqStat (s : State) (p : Part) : Word :=
  let x := s.parts[p]
  if p = 1 ∧ !twoTask s then 0
  else rw (x.seq.val + x.entry % 256 * 16 + x.left % 65536 * 4096 + b2n x.idle * 2 ^ 28 + b2n x.late * 2 ^ 29
    + b2n (x.halted || x.preempted) * 2 ^ 30 + b2n x.aborted * 2 ^ 31)

/-- `PWR_DOM_STAT_d` (Table 16-7). -/
def domStat (s : State) (d : DomId) : Word :=
  rw ((domState s d).code + s.pwr.dom[d].cap.toNat * 8 + b2n s.pwr.dom[d].planned * 64)

/-- `DBG_STAT` (Table 18-12). -/
def dbgStat (s : State) : Word :=
  rw (b2n (bitOf s.fuse.shadow[(0 : Fin 64)] 16) + b2n s.tapSession * 2 + b2n s.parts[(0 : Fin 2)].halted * 4 + b2n s.parts[(1 : Fin 2)].halted * 8
    + b2n s.parts[(0 : Fin 2)].preempted * 16 + b2n s.parts[(1 : Fin 2)].preempted * 32)

/-- UNIT and CAD blocks. -/
def readUnit (s : State) (o : Nat) : Word :=
  look 0 [(0x0, unitStat s), (0x4, unitId s), (0x8, rw s.u.katFail.toNat), (0xC, rw s.u.katMov.toNat), (0x10, s.u.testAge),
    (0x14, s.u.testMaxAge), (0x18, taskCfg s), (0x1C, s.u.saveBase[(0 : Fin 2)]), (0x20, s.u.saveBase[(1 : Fin 2)]), (0x30, rw s.u.evtStat.toNat),
    (0x34, rw s.u.evtMask.toNat), (0x1004, s.cmd.arg[(0 : Fin 4)]), (0x1008, s.cmd.arg[(1 : Fin 4)]), (0x100C, s.cmd.arg[(2 : Fin 4)]),
    (0x1010, s.cmd.arg[(3 : Fin 4)]), (0x1014, cmdStat s), (0x1020, rw s.ld.miss.toNat)] o

/-- TICK block. -/
def readTick (s : State) (o : Nat) : Word :=
  let p0 := s.parts[(0 : Fin 2)]
  let p1 := s.parts[(1 : Fin 2)]
  look 0 [(0x2000, tickCfgBits s.fr.cfg), (0x2004, s.fr.ctr), (0x2008, tickStat s), (0x2010, seqNextBits p0), (0x2014, seqNextBits p1),
    (0x2018, p0.seqAt), (0x201C, p1.seqAt), (0x2020, seqStat s 0), (0x2024, seqStat s 1), (0x2030, s.fr.dlMiss), (0x2034, s.fr.ovr),
    (0x2038, s.fr.late), (0x203C, s.fr.droopDebt), (0x2040, rw s.fr.frameLen), (0x2044, rw s.fr.schedEnd), (0x2048, rw s.fr.refPhase),
    (0x204C, rw (s.fr.refW % 1024 + s.fr.refP * 1024)), (0x2050, rw s.fr.scrubOff), (0x2054, rw (s.fr.replayRsv + s.fr.linkSlots * 256)),
    (0x2058, rw s.fr.farBound)] o

/-- PWR and AGE blocks. -/
def readPwr (s : State) (o : Nat) : Word :=
  if h : 0x3000 ≤ o ∧ o < 0x3060 then domStat s ⟨(o - 0x3000) / 4, by omega⟩
  else if h : 0x4100 ≤ o ∧ o < 0x4170 then rw (s.pwr.mon[(o - 0x4100) / 4]'(by omega)).toNat
  else look 0 [(0x3100, s.pwr.measE), (0x3104, s.pwr.declE), (0x3108, s.pwr.overCnt), (0x310C, s.pwr.droopLog), (0x3110, s.pwr.droopLong),
    (0x3114, rw s.pwr.vid.toNat), (0x3120, s.pwr.nsRd), (0x3124, s.pwr.nsWr), (0x3128, s.pwr.dsAcc), (0x312C, s.pwr.flits),
    (0x4000, rw (s.pwr.vidPlan.toNat + b2n s.pwr.aged * 256 + s.pwr.maxClk.toNat * 512 + b2n s.pwr.noBase * 2048)),
    (0x4004, rw s.pwr.delta.toNat)] o

/-- Which field-repair rows are used (`FUSE_FIELD_USED`). -/
def fieldUsed (s : State) : Nat := ((List.finRange 8).map (fun i => b2n (bitOf s.fuse.shadow[56 + i.val] 0) * 2 ^ i.val)).sum

/-- A core, the Whisk or the Ladle of the cluster is marked failed (R367). -/
def clFailed (s : State) (k : ClusterId) : Bool :=
  s.cls[k].whiskFailed || s.cls[k].ladFailed || (coresOf k).any (fun c => s.cores[c].failed)

/-- `FUSE_MAP_c` (Table 14-11); bit 15 shows the failed mark. -/
def fuseMap (s : State) (k : ClusterId) : Word := rw (s.fuse.map[k].toNat % 2 ^ 15 + b2n (clFailed s k) * 2 ^ 15)

/-- FUSE block. -/
def readFuse (s : State) (o : Nat) : Word :=
  if h : 0x5000 ≤ o ∧ o < 0x5200 then wordOf (s.fuse.shadow[(o - 0x5000) / 8]'(by omega)) ((o - 0x5000) / 4 % 2)
  else if h : 0x5210 ≤ o ∧ o < 0x5220 then fuseMap s ⟨(o - 0x5210) / 4, by omega⟩
  else if h : 0x5240 ≤ o ∧ o < 0x5270 then s.fuse.key[(o - 0x5240) / 4]'(by omega)
  else look 0 [(0x5200, s.fuse.crc), (0x5204, rw (fieldUsed s)), (0x5208, wordOf s.fuse.pend 0), (0x520C, wordOf s.fuse.pend 1)] o

/-- `ERR_STAT` (Table 15-8). -/
def errStat (s : State) : Word := rw (s.err.count + s.err.next.toNat * 128 + b2n s.err.firstV * 2 ^ 13 + b2n s.err.hwSince * 2 ^ 14)

/-- ERR and DBG blocks. -/
def readErr (s : State) (o : Nat) : Word :=
  if h : 0x6010 ≤ o ∧ o < 0x6020 then s.err.cls[(o - 0x6010) / 4]'(by omega)
  else if 0x6030 ≤ o ∧ o < 0x6040 then wordOf s.err.first ((o - 0x6030) / 4)
  else if h : 0x6100 ≤ o ∧ o < 0x6500 then wordOf (s.err.ent[(o - 0x6100) / 16]'(by omega)) ((o - 0x6100) / 4 % 4)
  else look 0 [(0x6000, errStat s), (0x6008, s.err.lost), (0x600C, rw s.err.wdt.toNat), (0x6020, s.err.stallCnt), (0x6024, s.err.rmtDrop),
    (0x7000, dbgStat s), (0x7004, rw (b2n s.parts[(0 : Fin 2)].brkEn + b2n s.parts[(1 : Fin 2)].brkEn * 2)), (0x7008, s.parts[(0 : Fin 2)].brk),
    (0x700C, s.parts[(1 : Fin 2)].brk)] o

/-- XB block; `o` is the offset in it. -/
def readXb (s : State) (o : Nat) : Word :=
  if o < 45 * 64 then (if o / 4 % 16 < 15 then rw (priOf s (o / 64) (o / 4 % 16)) else 0)
  else if h : 0xC00 ≤ o ∧ o < 0xC3C then rw (s.xb.park[(o - 0xC00) / 4]'(by omega)).toNat
  else if h : 0xD00 ≤ o ∧ o < 0xD3C then rw (s.xb.rr[(o - 0xD00) / 4]'(by omega)).toNat
  else if 0xE00 ≤ o ∧ o < 0xEB4 then look 0 s.xb.wait ((o - 0xE00) / 4)
  else if o = 0xF00 then s.xb.split else if o = 0xF04 then s.xb.tomb else 0

/-- `NS_G_STAT_g` (Table 11-5). -/
def groupStat (s : State) (g : GroupId) : Word :=
  let x := s.mem.groups[g]
  rw (x.port.ps.code + b2n x.port.isOpen * 8 + b2n x.bad * 16 + x.scrubPos.toNat * 32 + inFlight s (.ns g) % 256 * 2 ^ 11 + x.port.hold % 4096 * 2 ^ 19)

/-- The Deep Store controller refreshes the array itself: outside RUNNING, and while DS_ARR is in RETAIN or OFF (R281). -/
def selfRef (s : State) : Bool := decide (s.u.state ≠ .running) || decide (s.mem.ds.ps = .retain) || decide (s.mem.ds.ps = .off)

/-- `DS_STAT` (Table 11-6). -/
def dsStat (s : State) : Word :=
  let x := s.mem.ds
  rw (x.ps.code + b2n x.isOpen * 8 + b2n (selfRef s) * 16 + inFlight s .ds % 256 * 32 + x.hold % 4096 * 2 ^ 13)

/-- NS and DS blocks; `o` counts from 0x2_0000. -/
def readStore (s : State) (o : Nat) : Word :=
  if h : 0x100 ≤ o ∧ o < 0x180 then
    let g : GroupId := ⟨(o - 0x100) / 16, by omega⟩
    look 0 [(0, groupStat s g), (4, s.mem.groups[g].port.deferCnt), (8, s.mem.groups[g].port.skip)] (o % 16)
  else if h : 0x8100 ≤ o ∧ o < 0x8180 then
    let j : Fin 32 := ⟨(o - 0x8100) / 4, by omega⟩
    rw (s.mem.spares[j] % 16 + s.mem.laneFail[j] % 4 * 16 + s.mem.lastSwap[j].toNat * 256)
  else look 0 [(0x0, rw s.mem.retain.toNat), (0x4, s.mem.nsCe), (0x8, s.mem.nsUe), (0xC, rw s.mem.nsUeAddr.toNat), (0x10, s.mem.nsOff),
    (0x8000, dsStat s), (0x8004, s.mem.dsCe), (0x8008, s.mem.dsUe), (0x800C, rw s.mem.dsUeAddr.toNat), (0x8010, s.mem.refCnt),
    (0x8014, rw s.mem.scrubPos.toNat), (0x8018, rw s.mem.laneThr.toNat), (0x801C, s.mem.dsOff), (0x8020, rw s.mem.laneSel.toNat),
    (0x8024, look 0 s.mem.laneErr s.mem.laneSel.toNat)] o

/-- `MOV_CH_CFG` (Table 9-7). -/
def chanCfg (s : State) (h : ChanId) : Word :=
  let x := s.mov.chans[h]
  rw (b2n (decide (28 ≤ h.val)) + b2n x.loop * 2 + b2n x.owner * 4 + b2n x.rt * 8 + x.stream.toNat * 16 + b2n x.streamEn * 1024)

/-- `BLOCK` of a channel: the block in progress, else the next one. -/
def chanBlock (x : Chan) : Nat := match x.blks with | b :: _ => b.idx | [] => (match x.list with | some l => l.idx | none => 0)

/-- `MOV_CH_STAT` (Table 9-8). -/
def chanStat (x : Chan) : Word :=
  rw (x.st.code + b2n x.shadow.isSome * 8 + min 8 (outstanding x) * 16 + chanBlock x % 4096 * 256)

/-- A `MOV_CH_c` block (Table 9-6). -/
def readChan (s : State) (h : ChanId) (o : Nat) : Word :=
  let x := s.mov.chans[h]
  look 0 [(0x0, chanStat x), (0x4, chanCfg s h), (0x8, wordOf x.src 0), (0xC, rw (fldN x.src 32 16)), (0x10, wordOf x.dst 0),
    (0x14, rw (fldN x.dst 32 16)), (0x18, x.raSrcL), (0x1C, rw x.raSrcH.toNat), (0x20, x.raDstL), (0x24, rw x.raDstH.toNat),
    (0x28, rw (x.raFirst.toNat + x.raCount.toNat * 65536)), (0x30, x.rearmBusy), (0x34, x.oobWr), (0x38, x.farLate), (0x3C, x.beats),
    (0x40, x.credStall), (0x44, x.scaleAddr)] o

/-- A regulator register (Table 9-10). -/
def regBits (r : Regulator) : Word := rw (r.rate.toNat + r.depth.toNat * 256)

/-- MOV block; `o` counts from 0x3_0000. -/
def readMov (s : State) (o : Nat) : Word :=
  if h : o < 0x2000 then readChan s ⟨o / 256, by omega⟩ (o % 256)
  else if h : 0x2010 ≤ o ∧ o < 0x2020 then regBits (s.mov.reg[(o - 0x2010) / 4]'(by omega))
  else look 0 [(0x2000, rw s.mov.split.toNat), (0x2020, rw (s.mov.faultCh.toNat + s.mov.faultBlk.toNat * 32 + s.mov.faultFrame.toNat * 2 ^ 17)),
    (0x2024, wordOf s.mov.faultAddr 0), (0x2028, rw (fldN s.mov.faultAddr 32 16)), (0x202C, s.mov.listCe)] o

/-- `LAD_STAT` (Table 7-4). -/
def ladStat (k : Cluster) : Word :=
  match k.running with
  | some (.core c) => rw (1 + 2 + c.val * 8 + k.pos.toNat * 256)
  | some (.chan h) => rw (1 + 4 + h.val * 8 + k.pos.toNat * 256)
  | none => rw (k.pos.toNat * 256)

/-- A `CL_n` block (Tables 5-9, 7-3). -/
def readCl (s : State) (k : ClusterId) (o : Nat) : Word :=
  let x := s.cls[k]
  look 0 [(0x100, x.whiskCe), (0x104, x.gangPass), (0x108, x.whiskLoaded), (0x200, ladStat x), (0x204, x.oob), (0x208, x.merge),
    (0x20C, x.waitCnt), (0x210, x.conf), (0x214, x.adds), (0x218, x.req)] o

/-- `CORE_STAT` (Table 4-6). -/
def coreStat (x : Core) : Word :=
  rw (x.st.code + min 16 x.lq.length * 8 + min 16 x.sq.length * 256 + x.loops.length % 8 * 2 ^ 13 + x.pc % 2048 * 2 ^ 16 + b2n x.lqDone * 2 ^ 27)

/-- One byte per Trivet. -/
def perTrivet (x : Core) (f : Trivet → Nat) : Word := rw (((List.finRange 4).map (fun k => f x.t[k] * 256 ^ k.val)).sum)

/-- A `CORE_n` block (Tables 4-5, 5-9, 6-5, 9-11). -/
def readCore (s : State) (c : CoreId) (o : Nat) : Word :=
  let x := s.cores[c]
  if 0x40 ≤ o ∧ o < 0x80 then
    rw (((upto 4).map (fun i => (look ({} : RouteSlot) x.routes (o - 0x40 + i)).tag.toNat * 256 ^ i)).sum)
  else look 0 [(0x0, coreStat x), (0x4, rw (vmask x)), (0x8, perTrivet x (fun t => clsCode t.cls + b2n t.full * 4)), (0xC, perTrivet x (·.rows)),
    (0x10, x.oobWr), (0x14, x.lqStall), (0x18, x.sqStall), (0x1C, x.rfRd), (0x20, x.latchHit), (0x24, x.restart), (0x28, x.saveCyc),
    (0x2C, x.routeCe), (0x30, x.gangWait), (0x34, x.netPass), (0x38, x.trvRow), (0x3C, x.trvBeat), (0x80, regBits x.reg),
    (0x84, x.regStall), (0x88, x.wcntStall)] o

/-- `EIF_CFG` (Table 10-9). -/
def eifCfg (x : Attach) : Word := rw (x.stream.toNat + b2n x.streamEn * 64 + x.bstream.toNat * 128 + b2n x.bstreamEn * 2 ^ 13)

/-- `EIF_STAT` (Table 10-10). -/
def eifStat (x : Attach) : Word :=
  rw (x.st.code + b2n x.drainRun.isSome * 8 + b2n x.drainFenced * 16 + x.word % 512 * 32 + x.pos % 2048 * 2 ^ 14)

/-- An `EIF_EA_a` sub-block (Table 10-8). -/
def readEa (s : State) (a : EaId) (o : Nat) : Word :=
  let x := s.eif[a]
  look 0 [(0x0, eifStat x), (0x4, eifCfg x), (0x8, x.thr), (0xC, x.clipStep), (0x10, x.clipV), (0x14, x.feed), (0x18, x.holdCnt),
    (0x1C, x.starve), (0x20, x.dup), (0x24, x.drainRows), (0x28, x.drainStall), (0x2C, x.oobWr), (0x30, x.ce)] o

/-- Highest occupied level + 1 of a tap, 0 when empty. -/
def tapTop (x : Tap) : Nat := ((List.finRange 24).filter (fun i => x.levels[i].isSome)).foldl (fun m i => max m (i.val + 1)) 0

/-- A tap sub-block (Table 10-8). -/
def readTap (s : State) (t : TapId) (o : Nat) : Word :=
  let x := s.taps[t]
  look 0 [(0x0, rw (b2n x.armed + b2n x.psn * 2 + tapTop x * 4)), (0x4, x.rows),
    (0x8, if t = 2 then rw (x.ch.toNat + b2n x.fmt * 32 + b2n x.owner * 64) else 0)] o

/-- EIF block; `o` counts from 0xC_0000. -/
def readEif (s : State) (o : Nat) : Word :=
  if h : o < 0x2000 then readEa s ⟨o / 0x1000, by omega⟩ (o % 0x1000)
  else if h : 0x2000 ≤ o ∧ o < 0x20C0 then readTap s ⟨(o - 0x2000) / 64, by omega⟩ (o % 64)
  else 0

/-- `LNK_STAT` (Table 13-8). -/
def lnkStat (s : State) : Word :=
  rw (s.lnk.st.code + b2n s.lnk.spareReady * 8 + s.lnk.spare.toNat * 16 + s.lnk.laneFail.toNat * 128)

/-- LNK block; `o` counts from 0xD_0000. -/
def readLnk (s : State) (o : Nat) : Word :=
  if h : 0x40 ≤ o ∧ o < 0x54 then s.lnk.txP[(o - 0x40) / 4]'(by omega)
  else if h : 0x60 ≤ o ∧ o < 0x74 then s.lnk.laneErr[(o - 0x60) / 4]'(by omega)
  else if h : 0x100 ≤ o ∧ o < 0x500 then
    let x := s.rmt.streams[(o - 0x100) / 16]'(by omega)
    look 0 [(0, rw x.cred.toNat), (4, rw (x.qleft % 2 ^ 21)), (8, x.acc), (12, rw (b2n x.fenced + b2n x.recalled * 2))] (o % 16)
  else look 0 [(0x0, lnkStat s), (0x4, rw s.lnk.lat.toNat), (0x8, rw s.lnk.laneThr.toNat), (0xC, s.lnk.rpl), (0x10, s.lnk.rplOver),
    (0x14, s.lnk.crc), (0x18, s.lnk.fecCe), (0x1C, s.lnk.fecUe), (0x20, s.lnk.retrain), (0x24, s.lnk.fwd), (0x28, s.lnk.fwdOvf),
    (0x2C, s.lnk.nackCnt), (0x30, s.lnk.labelCnt), (0x34, s.lnk.addCnt)] o

/-- CNT block; `o` counts from 0xE_0000. -/
def readCnt (s : State) (o : Nat) : Word :=
  if h : o < 0x1000 then (ctrOf s ⟨o / 4, by omega⟩).val
  else if h : o < 0x2000 then (ctrOf s ⟨(o - 0x1000) / 4, by omega⟩).taken
  else if o < 0x2080 then
    let k := (o - 0x2000) / 4
    rw (((upto 32).map (fun j => b2n (look ({} : Counter) s.cnt (32 * k + j)).psn * 2 ^ j)).sum)
  else if o = 0x2080 then s.cntPar else 0

/-- What a read of an offset returns: 0 at a reserved one, in the block of a core the unit does not offer, and in a WO
register (R10, R11, R445, R450). -/
def regRead (s : State) (off : Nat) : Word :=
  let o := off % 2 ^ 20 / 4 * 4
  if o < 0x2000 then readUnit s o
  else if o < 0x3000 then readTick s o
  else if o < 0x5000 then readPwr s o
  else if o < 0x6000 then readFuse s o
  else if o < 0x8000 then readErr s o
  else if o < 0x10000 then 0
  else if o < 0x20000 then readXb s (o - 0x10000)
  else if o < 0x30000 then readStore s (o - 0x20000)
  else if o < 0x40000 then readMov s (o - 0x30000)
  else if h : 0x40000 ≤ o ∧ o < 0x80000 then readCl s ⟨(o - 0x40000) / 0x10000, by omega⟩ (o % 0x10000)
  else if h : 0x80000 ≤ o ∧ o < 0xC0000 then
    let c : CoreId := ⟨(o - 0x80000) / 0x4000, by omega⟩
    if offered s c then readCore s c (o % 0x4000) else 0
  else if o < 0xD0000 then readEif s (o - 0xC0000)
  else if o < 0xE0000 then readLnk s (o - 0xD0000)
  else if o < 0xF0000 then readCnt s (o - 0xE0000)
  else 0

/-- The counters whose stored copy a read of an offset checks (R289). -/
def readsCtrs (off : Nat) : List Ctr :=
  let o := off % 2 ^ 20 / 4 * 4 - 0xE0000
  if off % 2 ^ 20 < 0xE0000 ∨ 0x2080 ≤ o then []
  else if o < 0x2000 then [⟨o / 4 % 1024, by omega⟩]
  else (List.finRange 32).map (fun j => ⟨(32 * ((o - 0x2000) / 4) + j.val) % 1024, by omega⟩)

/-- A read access: the parity of every counter it reads is checked, and the register is then read (R289, R445). -/
def readReg (s : State) (off : Nat) : State × Word :=
  let s := (readsCtrs off).foldl checkParity s
  (s, regRead s off)

/-! ### RWF registers (R10, R11, R431, R448, R449) -/

/-- The RWF registers. -/
inductive Rwf where
  | tickCfg | wdtCfg | nsRetain | dsLaneThr | lnkLaneThr | movSplit
  | xbPri (m : Fin 45) (t : Fin 15)
  | xbPark (t : Fin 15)
  | movCfg (h : ChanId)
  | movScale (h : ChanId)
  | movReg (p : Fin 4)
  | fetchReg (c : CoreId)
  | eifCfg (a : EaId)
  | tapCfg
  deriving DecidableEq, Repr

/-- The RWF register at an offset, if there is one. -/
def rwfAt (s : State) (off : Nat) : Option Rwf :=
  let o := off % 2 ^ 20 / 4 * 4
  if o = 0x2000 then some .tickCfg
  else if o = 0x600C then some .wdtCfg
  else if o = 0x20000 then some .nsRetain
  else if o = 0x28018 then some .dsLaneThr
  else if o = 0xD0008 then some .lnkLaneThr
  else if o = 0x32000 then some .movSplit
  else if o = 0xC2088 then some .tapCfg
  else if h : 0x10000 ≤ o ∧ o < 0x10B40 ∧ (o - 0x10000) / 4 % 16 < 15 then
    some (.xbPri ⟨(o - 0x10000) / 64, by omega⟩ ⟨(o - 0x10000) / 4 % 16, h.2.2⟩)
  else if h : 0x10C00 ≤ o ∧ o < 0x10C3C then some (.xbPark ⟨(o - 0x10C00) / 4, by omega⟩)
  else if h : 0x30000 ≤ o ∧ o < 0x32000 then
    let c : ChanId := ⟨(o - 0x30000) / 256, by omega⟩
    if o % 256 = 4 then some (.movCfg c) else if o % 256 = 0x44 then some (.movScale c) else none
  else if h : 0x32010 ≤ o ∧ o < 0x32020 then some (.movReg ⟨(o - 0x32010) / 4, by omega⟩)
  else if h : 0x80000 ≤ o ∧ o < 0xC0000 then
    let c : CoreId := ⟨(o - 0x80000) / 0x4000, by omega⟩
    if o % 0x4000 = 0x80 ∧ offered s c then some (.fetchReg c) else none
  else if o = 0xC0004 then some (.eifCfg 0)
  else if o = 0xC1004 then some (.eifCfg 1)
  else none

/-- Bits of a value above `w`, which are reserved. -/
def above (v : Word) (w : Nat) : Bool := decide (v.toNat / 2 ^ w ≠ 0)

/-- `RATE` and `DEPTH` hold defined values (Table 9-10). -/
def rateOk (v : Word) : Bool := decide (1 ≤ fldN v 0 7) && decide (fldN v 0 7 ≤ 64)
def depthOk (v : Word) : Bool := decide (1 ≤ fldN v 8 9) && decide (fldN v 8 9 ≤ 256)

/-- `PARK` holds a defined value (Table 12-6). -/
def parkOk (v : Word) : Bool := decide (fldN v 0 6 < 45) || decide (fldN v 0 6 = 63)

/-- A reserved bit or encoding in a value for an RWF register (R10, R431). -/
def rwfReserved (r : Rwf) (v : Word) : Bool :=
  match r with
  | .tickCfg => above v 30 || decide (fldN v 27 2 = 3)
  | .wdtCfg | .nsRetain | .dsLaneThr => above v 8
  | .lnkLaneThr => above v 16
  | .movSplit => above v 3
  | .xbPri _ _ => above v 4
  | .xbPark _ => above v 6 || !parkOk v
  | .movCfg _ => above v 11
  | .movScale _ => decide (fldN v 0 6 ≠ 0) || above v 25
  | .movReg _ | .fetchReg _ => above v 17 || bitOf v 7 || !rateOk v || !depthOk v
  | .eifCfg _ => above v 14
  | .tapCfg => above v 7

/-- The fields of a regulator that a write gives defined values (R10). -/
def setReg (r : Regulator) (v : Word) : Regulator :=
  { rate := if rateOk v then fld v 0 7 else r.rate, depth := if depthOk v then fld v 8 9 else r.depth }

/-- A host write sets the fields; a reserved encoding leaves its field (R10, R11, R31, R460). `MOV_SCALE_ADDR` keeps its bits [31:25],
which REGS refuses at load as naming no address: Table 9-6 says only that bits [5:0] are 0 (DESIGN CHOICE, log 83). -/
def rwfSet (s : State) (r : Rwf) (v : Word) : State :=
  match r with
  | .tickCfg =>
    let pOk := decide (400 ≤ fldN v 0 20) && decide (fldN v 0 20 ≤ 1000000)
    let dOk := decide (fldN v 20 7 ≤ 100)
    let c := s.fr.cfg
    let c : TickCfg := { period := if pOk then fld v 0 20 else c.period, droopRsv := if dOk then fld v 20 7 else c.droopRsv,
                         src := if fldN v 27 2 = 3 then c.src else fld v 27 2, treeOut := bitOf v 29 }
    let s := { s with fr := { s.fr with cfg := c } }
    if pOk && dOk then s else logRefused s .tickRange locUnit 0
  | .wdtCfg => { s with err := { s.err with wdt := fld v 0 8 } }
  | .nsRetain => { s with mem := { s.mem with retain := fld v 0 8 } }
  | .dsLaneThr => { s with mem := { s.mem with laneThr := fld v 0 8 } }
  | .lnkLaneThr => { s with lnk := { s.lnk with laneThr := fld v 0 16 } }
  | .movSplit => { s with mov := { s.mov with split := fld v 0 3 } }
  | .xbPri m t => { s with xb := { s.xb with pri := put (priReset m.val) s.xb.pri (m.val * 16 + t.val) (fldN v 0 4) } }
  | .xbPark t => if parkOk v then { s with xb := { s.xb with park := s.xb.park.set t.val (fld v 0 6) } } else s
  | .movCfg h => modChan s h (fun x => { x with
      loop := bitOf v 1, owner := bitOf v 2, rt := bitOf v 3, stream := fld v 4 6, streamEn := bitOf v 10 })
  | .movScale h => modChan s h (fun x => { x with scaleAddr := v &&& 0xFFFFFFC0#32 })
  | .movReg p => { s with mov := { s.mov with reg := s.mov.reg.set p.val (setReg s.mov.reg[p] v) } }
  | .fetchReg c => modCore s c (fun x => { x with reg := setReg x.reg v })
  | .eifCfg a => modEa s a (fun x => { x with
      stream := fld v 0 6, streamEn := bitOf v 6, bstream := fld v 7 6, bstreamEn := bitOf v 13 })
  | .tapCfg => modTap s 2 (fun x => { x with ch := fld v 0 5, fmt := bitOf v 5, owner := bitOf v 6 })

/-- Every RWF register at its reset value, but for `NS_RETAIN` (R442, R448). -/
def resetRwf (s : State) : State :=
  { s with
    fr := { s.fr with cfg := {} }
    err := { s.err with wdt := 2 }
    xb := { s.xb with pri := [], park := Vector.replicate 15 0x3F }
    mem := { s.mem with laneThr := 0x10 }
    lnk := { s.lnk with laneThr := 0x400 }
    mov := { s.mov with split := 0, reg := Vector.replicate 4 {}, chans := s.mov.chans.mapIdx (fun _ x => { x with
      loop := false, owner := false, rt := false, stream := 0, streamEn := false, scaleAddr := 0 }) }
    cores := s.cores.mapIdx (fun _ x => { x with reg := {} })
    eif := s.eif.mapIdx (fun _ x => { x with stream := 0, streamEn := false, bstream := 0, bstreamEn := false })
    taps := s.taps.mapIdx (fun _ x => { x with ch := 0, fmt := false, owner := false }) }

/-- A Blend runs: from the start tick it takes until a unit reset, FENCED included (R448). -/
def blendRuns (s : State) : Bool :=
  decide (s.u.state = .running) || (decide (s.u.state = .fenced) && s.pwr.dom[(1 : Fin 24)].planned)

/-- A host write to an RWF register (R11, R448). -/
def rwfWrite (s : State) (off : Nat) (r : Rwf) (v : Word) : State :=
  if blendRuns s then logRefused s .regFrozen locUnit (off % 2 ^ 20 / 4 * 4) else rwfSet s r v

/-! ### What the loader checks of RWF registers (R232, R268, R391, R431, R448) -/

/-- The largest D of the valid streams (R391). -/
def maxD (s : State) : Nat :=
  s.rmt.streams.toList.foldl (fun m x => if bitOf x.entry 0 then max m (if stD2 x then 2 else 1) else m) 0

/-- The first check that the RWF registers break, with its code (R232, R268, R391, R431). -/
def rwfCheck (s : State) : Option Err :=
  if allChans.any (fun h => decide (h.val < 28) && s.mov.chans[h].loop) then some .blockForm
  else if twoTask s && decide (s.taps[(2 : Fin 3)].owner ≠ (s.mov.chans[s.taps[(2 : Fin 3)].ch.toFin]).owner) then some .eifForm
  else if s.err.wdt ≠ 0 ∧ s.err.wdt.toNat < maxD s + 1 then some .wdtCfg
  else none

end Sys2Proof.Machine
end

