-- ==== Sys2Proof/Machine/Signature.lean ====
section
/-! DEFINITION. ECDSA over P-384, as FIPS 186-5 gives it (R364, R425, log 9). Numbers are exact; a point at infinity is
`none`. -/

namespace Sys2Proof.Machine

/-- The field prime of P-384. -/
def ecP : Nat := 2 ^ 384 - 2 ^ 128 - 2 ^ 96 + 2 ^ 32 - 1
/-- The curve's coefficient b; a is -3. -/
def ecB : Nat := 0xb3312fa7e23ee7e4988e056be3f82d19181d9c6efe8141120314088f5013875ac656398d8a2ed19d2a85c8edd3ec2aef
/-- The order of the base point. -/
def ecN : Nat := 0xffffffffffffffffffffffffffffffffffffffffffffffffc7634d81f4372ddf581a0db248b0a77aecec196accc52973
/-- The base point. -/
def ecG : Nat × Nat :=
  (0xaa87ca22be8b05378eb1c71ef320ad746e1d3b628ba79b9859f741e082542a385502f25dbf55296c3a545e3872760ab7,
   0x3617de4a96262c6f5d9e98bf9292dc29f8f41dbd289a147ce9da3113b5f0b8c00a60b1ce1d7e819d7a431d7c90ea0e5f)

/-- `b ^ e` modulo `m`, over the low `k` bits of `e`. -/
def powMod (m b e : Nat) : Nat → Nat
  | 0 => 1 % m
  | k + 1 =>
    let h := powMod m b (e / 2) k
    let q := h * h % m
    if e % 2 = 1 then q * b % m else q

/-- The inverse modulo a prime. -/
def invMod (m b : Nat) : Nat := powMod m (b % m) (m - 2) 384

/-- Difference modulo `m`. -/
def subMod (m a b : Nat) : Nat := (a + (m - b % m)) % m

/-- The third point of a line with slope `l` through `a`, mirrored. -/
def ecThird (l : Nat) (a : Nat × Nat) (x2 : Nat) : Nat × Nat :=
  let x := subMod ecP (subMod ecP (l * l) a.1) x2
  (x, subMod ecP (l * subMod ecP a.1 x) a.2)

/-- Point addition. -/
def ecAdd : Option (Nat × Nat) → Option (Nat × Nat) → Option (Nat × Nat)
  | none, q => q
  | p, none => p
  | some a, some b =>
    if a.1 = b.1 then
      if (a.2 + b.2) % ecP = 0 then none
      else some (ecThird (subMod ecP (3 * a.1 * a.1) 3 * invMod ecP (2 * a.2) % ecP) a b.1)
    else some (ecThird (subMod ecP b.2 a.2 * invMod ecP (subMod ecP b.1 a.1) % ecP) a b.1)

/-- `e` times a point, over the low `k` bits of `e`. -/
def ecMul (q : Option (Nat × Nat)) (e : Nat) : Nat → Option (Nat × Nat)
  | 0 => none
  | k + 1 =>
    let h := ecMul q (e / 2) k
    let d := ecAdd h h
    if e % 2 = 1 then ecAdd d q else d

/-- The point lies on the curve. -/
def ecOn (q : Nat × Nat) : Bool :=
  decide (q.1 < ecP) && decide (q.2 < ecP) && decide (q.2 * q.2 % ecP = subMod ecP (q.1 * q.1 * q.1 + ecB) (3 * q.1))

/-- (r, s) is a signature over the digest by the key (x, y). -/
def ecdsaOk (digest r s x y : List Byte) : Bool :=
  let z := beNat digest
  let r := beNat r
  let s := beNat s
  let q := (beNat x, beNat y)
  if r = 0 ∨ ecN ≤ r ∨ s = 0 ∨ ecN ≤ s ∨ !ecOn q then false
  else
    let w := invMod ecN s
    match ecAdd (ecMul (some ecG) (z * w % ecN) 384) (ecMul (some q) (r * w % ecN) 384) with
    | some v => decide (v.1 % ecN = r)
    | none => false

end Sys2Proof.Machine
end

