-- ==== Sys2Proof/Machine/Programs.lean ====
section
/-! DEFINITION. What the loader checks of a core's program: instruction words, fused commands, loops, and the descriptors and
maps that words name (R93, R100, R173 to R199, R436). -/

namespace Sys2Proof.Machine

/-! ### Instruction words (Tables 8-1 to 8-3) -/

/-- What Table 8-3 allows of an opcode in one of its forms: `ADV`, the defined bits of `FLG` and `IMM`, and the kinds of the
three operand fields; no list stands for a field that is not an operand. -/
structure Form where
  adv : Bool := false
  flg : Nat := 0
  dst : List Nat := [0]
  a : List Nat := [0]
  b : Option (List Nat) := some [0]
  imm : Nat := 0
  deriving DecidableEq, Repr

/-- All bits of `IMM`. -/
def allImm : Nat := 0xFFFFFF

/-- The row of Table 8-3 for a word; none when its opcode is not in the table. -/
def formOf (w : BitVec 64) : Option Form :=
  let aD := decide (opKind (wSrcA w) = 3)
  let dD := decide (opKind (wDst w) = 3)
  match wOpc w with
  | 0x00 | 0x01 | 0x03 | 0x05 => some {}
  | 0x02 | 0x04 => some { imm := allImm }
  | 0x08 => some { adv := true, dst := [1], a := [3], imm := allImm }
  | 0x09 => some { adv := true, dst := [3], a := [1], imm := allImm }
  | 0x0A => some { dst := [1], a := [1] }
  | 0x0B => if bitOf w 51 then some { flg := 0xF, dst := [1], imm := 0xFFFF } else some { flg := 0xF, dst := [1], a := [1], imm := 0x7FF }
  | 0x0C => some { flg := 7, dst := [1], a := [1], b := some [1], imm := 0x1F }
  | 0x0D => some { dst := [1], a := [5] }
  | 0x0E => some { dst := [6], a := [1] }
  | 0x10 => some { adv := aD, flg := if aD then 0x7B else 3, a := [1, 5, 3], b := some [4], imm := if aD then 0x7FF7F else 0x7F }
  | 0x11 => some { adv := dD, flg := if dD then 0x7F else 7, dst := [1, 6, 3], b := some [4], imm := 0x3FFFFF }
  | 0x12 => some { b := some [4], imm := 7 }
  | 0x13 => some { b := none, imm := allImm }
  | 0x18 => some { flg := 7, dst := [1], a := [1], imm := if bitOf w 23 then 0x80000F else 0x3F }
  | 0x19 => some { flg := 7, dst := [1], a := [1], imm := if bitOf w 23 then 0x80000F else 0x1F }
  | 0x20 => some { adv := true, dst := [1, 6, 3], a := [3], b := some [3], imm := 0xF }
  | 0x21 => some { adv := true, dst := [3], a := [1, 5, 3], b := some [3], imm := 0x1F }
  | 0x28 => some { dst := [1], a := [1], imm := 0xFFFF }
  | 0x29 => some { adv := true, flg := 0x78, dst := [3], a := [1], imm := 0x1F }
  | 0x2A => some { adv := aD, flg := if aD then 0x78 else 0, dst := [1], a := [5, 3], imm := if aD then 0x1F else 0x3FFF }
  | 0x30 => some { adv := true, a := [2], imm := allImm }
  | 0x31 => some { imm := allImm }
  | 0x32 => some { adv := true, flg := 3, dst := [3], a := [1], imm := 0x1FFFFF }
  | 0x33 => some { adv := true, flg := 3, dst := [3], a := [3], imm := 0xFFFF }
  | 0x34 => some { adv := true, flg := 3, dst := [3], a := [2], imm := 0xFFFF }
  | 0x3C => some { flg := 7, imm := allImm }
  | 0x3F => some { flg := 3, dst := if wFlg w % 4 = 3 then [1] else [0], imm := 3 }
  | _ => none

/-- `NUM` lies in the range of its kind (Table 8-2). -/
def operandOk (b : Nat) : Bool :=
  match opKind b with
  | 0 | 5 | 6 | 7 => decide (opNum b = 0)
  | 1 => true
  | 2 | 3 => decide (opNum b < 16)
  | _ => decide (opNum b < 4)

/-- `x` sets only bits of `mask`. -/
def within (x mask : Nat) : Bool := decide (x &&& mask = x)

/-- The word uses its fields as `f` allows (R174, R175, R177). -/
def formOk (w : BitVec 64) (f : Form) : Bool :=
  let op (b : Nat) (ks : List Nat) : Bool := operandOk b && ks.contains (opKind b)
  (f.adv || !wAdv w) && within (wFlg w) f.flg && op (wDst w) f.dst && op (wSrcA w) f.a
    && (match f.b with | some ks => op (wSrcB w) ks | none => true) && within (wImm w) f.imm

/-! ### The limits that chapter 8 states as load checks -/

/-- Element-width field e (R184, R185, R187). -/
def wEw (w : BitVec 64) : Nat := wFlg w % 8

/-- The initial descriptor that an operand byte names (R436). -/
def initDesc (s : State) (c : CoreId) (b : Nat) : Desc := s.bl.cores[c].d[opD b]

/-- Container `FMT` that Table 8-5 gives a packed form; none when the form is not in the table. -/
def containerFmt (p : PForm) : Option Nat :=
  if p.fmt = 2 then (if 9 ≤ p.planes ∧ p.planes ≤ 16 then some 2 else none)
  else if isMx p.fmt then some 2
  else if 15 ≤ p.fmt ∧ p.fmt ≤ 21 then some 7
  else if p.fmt = 22 then some 8
  else none

/-- The container a PACK or UNPK word must name; none when no check is made (R189). -/
def wantContainer (s : State) (c : CoreId) (b : Nat) : Option Nat :=
  match packedForm (initDesc s c b) with
  | some p => containerFmt p
  | none => none

/-- The container and origin pair of a PACK, or of an UNPK of the D form (R189). -/
def packWordOk (s : State) (c : CoreId) (w : BitVec 64) (b : Nat) : Bool :=
  decide (wPair w ≤ 14) && (match wantContainer s c b with | some k => decide (wImm w % 32 = k) | none => true)

/-- The packed form that the immediate of an UNPK gives (R189, R190). -/
def immForm (w : BitVec 64) : PForm := { fmt := wImm w / 32 % 32, planes := wImm w / 1024 % 16 + 1 }

/-- An UNPK whose packed form comes from its immediate. -/
def unpkImmOk (w : BitVec 64) : Bool :=
  let p := immForm w
  (decide (p.fmt = 2) || decide (p.planes = 1)) && (match containerFmt p with | some k => decide (wImm w % 32 = k) | none => false)

/-- CVT names formats 0 to 8, and parts below their bounds (R188). -/
def cvtWordOk (w : BitVec 64) : Bool :=
  let f := cvtFmts w
  let m := max (fmtWidth f.1) (fmtWidth f.2)
  decide (f.1 ≤ 8) && decide (f.2 ≤ 8) && decide (wImm w / 4096 % 4 < m / fmtWidth f.1) && decide (wImm w / 16384 % 4 < m / fmtWidth f.2)

/-- A counter of the core's own unit belongs to its partition (R191). -/
def ctrMine (s : State) (p : Part) (n : Nat) : Bool := !crosses s p (ctrPart s ⟨n % 1024, by omega⟩)

/-- The two descriptors of an RRD agree (R194). -/
def rrdPairOk (d e : Desc) : Bool :=
  let span_ (x : Desc) : Int := (footprint x).2 - (footprint x).1 + 1
  decide (tdFmt d = tdFmt e) && decide (tdRank d = tdRank e) && (upto 6).all (fun k => tdSize d k = tdSize e k)
    && decide (tdLayout d = lRow) && decide (tdLayout e = lRow) && decide (span_ d ≤ 65536) && decide (span_ e ≤ 65536)

/-- The stream of a remote word. -/
def wStream (w : BitVec 64) : StreamId := ⟨wImm w / 1024 % 64, by omega⟩

/-- What breaks a limit of chapter 8 in a word whose form is right. -/
def limitCheck (s : State) (c : CoreId) (w : BitVec 64) : Option Err :=
  let n := wImm w
  let bad (ok : Bool) : Option Err := if ok then none else some .insnField
  match wOpc w with
  | 0x02 => bad (decide (n < s.fr.schedEnd))
  | 0x0B => bad (decide (wEw w ≤ 5) && (if bitOf w 51 then decide (4 ≤ wEw w) || decide (n < 2 ^ 2 ^ wEw w) else decide (n < 2 ^ (11 - wEw w))))
  | 0x0C | 0x18 | 0x19 => bad (decide (wEw w ≤ 5))
  | 0x10 => bad (decide (opKind (wSrcA w) ≠ 3) ||
      (decide (wPair w ≤ 14) && decide (n / 256 % 2048 + 1 ≤ 2048 / clsWidth (clsOfNum (wFlg w)))))
  | 0x11 => bad (if opKind (wDst w) = 3 then decide (wPair w ≤ 14) else decide (n % 2048 ≤ 127) && decide (n / 2048 % 2048 + 1 ≤ 128))
  | 0x12 => bad (decide (n % 8 < 4) || decide (n % 8 = 7))
  | 0x20 => bad (!(bitOf w 3 && decide (opNum (wSrcA w) = 15)))
  | 0x21 => bad (!(bitOf w 3 && decide (opNum (wDst w) = 15)))
  | 0x28 => bad (cvtWordOk w)
  | 0x29 => bad (packWordOk s c w (wDst w))
  | 0x2A => bad (if opKind (wSrcA w) = 3 then packWordOk s c w (wSrcA w) else unpkImmOk w)
  | 0x30 | 0x31 => bad (ctrMine s (corePart c) n)
  | 0x32 => bad (decide (wFlg w % 4 ≠ 3) && decide (opNum (wSrcA w) + n / 65536 % 32 + 1 ≤ 32) && coreStream s.rmt.streams[wStream w] c)
  | 0x33 => bad (decide (wFlg w % 4 ≠ 3) && ctrMine s (corePart c) n && rrdPairOk (initDesc s c (wDst w)) (initDesc s c (wSrcA w)))
  | 0x34 =>
    if bitOf w 49 && !bitOf w 48 then some .insnField
    else if bitOf w 48 && decide (tdBase (initDesc s c (wDst w)) % 4 ≠ 0) then some .tdAlign else none
  | 0x3C => bad (decide (wFlg w ≤ 5))
  | 0x3F => bad (decide (n < 3) && !crosses s (corePart c) (tapPart s ⟨n % 3, by omega⟩))
  | _ => none

/-- The checks of R175 on one word. -/
def wordCheck (s : State) (c : CoreId) (w : BitVec 64) : Option Err :=
  match formOf w with
  | none => some .insnField
  | some f => if formOk w f then limitCheck s c w else some .insnField

/-! ### Fused commands (R198, R199) -/

/-- Opcodes of Table 8-6. -/
def isStage (w : BitVec 64) : Bool := ([0x08, 0x0D, 0x2A, 0x28, 0x10, 0x18, 0x29, 0x0E, 0x09] : List Nat).contains (wOpc w)

/-- The form of a stage word: hand-over operands stand beside the instruction's own, and the queues where Table 8-6 has
them. -/
def stageForm' (w : BitVec 64) (f : Form) : Form :=
  { f with
    dst := 7 :: (if wOpc w = 0x2A ∨ wOpc w = 0x28 then 6 :: 3 :: f.dst else f.dst)
    a := 7 :: (if wOpc w = 0x28 ∨ wOpc w = 0x29 then 5 :: 3 :: f.a else f.a) }

/-- The checks of R175 on one stage word; a CVT stage converts whole beats (R198). -/
def stageWordCheck (s : State) (c : CoreId) (w : BitVec 64) : Option Err :=
  match formOf w with
  | none => some .insnField
  | some f =>
    if !isStage w then (if formOk w f then limitCheck s c w else some .insnField)
    else if !formOk w (stageForm' w f) then some .insnField
    else if wOpc w = 0x28 ∧ wImm w / 4096 ≠ 0 then some .insnField
    else limitCheck s c w

/-- Unit of a stage (Table 8-6). -/
def stageUnit (w : BitVec 64) : Nat :=
  match wOpc w with | 0x08 | 0x0D => 0 | 0x2A | 0x28 | 0x29 => 1 | 0x10 => 2 | 0x18 => 3 | _ => 4

/-- Kinds of a stage's input and output. -/
def stageIo (w : BitVec 64) : Nat × Nat := (opKind (wSrcA w), opKind (wDst w))

/-- A one-stage command: UNPK, CVT or PACK between memory or queues; a PACK's output is its descriptor's (R199). -/
def oneStageOk (w : BitVec 64) : Bool :=
  match wOpc w with
  | 0x2A | 0x28 => [(3, 6), (5, 6), (3, 3), (5, 3)].contains (stageIo w)
  | 0x29 => [(3, 3), (5, 3)].contains (stageIo w)
  | _ => false

/-- A first stage of several. -/
def firstStageOk (w : BitVec 64) : Bool :=
  match wOpc w with
  | 0x08 => decide (stageIo w = (3, 7))
  | 0x0D | 0x28 => decide (stageIo w = (5, 7))
  | 0x2A => [(3, 7), (5, 7)].contains (stageIo w)
  | _ => false

/-- A stage between the first and the last. -/
def midStageOk (w : BitVec 64) : Bool := ([0x2A, 0x28, 0x10, 0x18] : List Nat).contains (wOpc w) && decide (stageIo w = (7, 7))

/-- A last stage of several. -/
def lastStageOk (w : BitVec 64) : Bool :=
  match wOpc w with
  | 0x29 | 0x09 => decide (stageIo w = (7, 3))
  | 0x0E => decide (stageIo w = (7, 6))
  | _ => false

/-- Operands of the stages, in order (R199). -/
def stageChainOk : List (BitVec 64) → Bool
  | [] => false
  | [w] => oneStageOk w
  | w :: r => firstStageOk w && (r.dropLast).all midStageOk && (match r.getLast? with | some x => lastStageOk x | none => false)

/-- Registers of a core as the core section gives them (R436). -/
def initMark (s : State) (c : CoreId) : Mark := { markOf s.cores[c] with s := s.bl.cores[c].s, d := s.bl.cores[c].d }

/-- Every stage receives a whole number of groups (R199). -/
def groupsDivide (m : Mark) : Nat → List (BitVec 64) → Bool
  | _, [] => true
  | n, w :: r => let g := groupIn m w; decide (0 < g) && decide (n % g = 0) && groupsDivide m (n / g * groupOut m w) r

/-- A TWR stage names t0 or t2 (R199). -/
def stageTrivetOk (w : BitVec 64) : Bool := decide (wOpc w ≠ 0x10) || decide (opNum (wSrcB w) = 0) || decide (opNum (wSrcB w) = 2)

/-- The form of a fused command of `b` beats (R199). -/
def fuseFormOk (s : State) (c : CoreId) (b : Nat) (ws : List (BitVec 64)) : Bool :=
  ws.all isStage && stageChainOk ws && decide (ws.map stageUnit).Nodup && groupsDivide (initMark s c) b ws && ws.all stageTrivetOk

/-- The first stage word that fails R175, with its position after the FUSE. -/
def firstStageErr (s : State) (c : CoreId) : Nat → List (BitVec 64) → Option (Err × Nat)
  | _, [] => none
  | j, w :: r => match stageWordCheck s c w with | some e => some (e, j) | none => firstStageErr s c (j + 1) r

/-- The checks of a FUSE, with the words behind it: the failing word's position counted from the FUSE (R175, R199). -/
def fuseCheck (s : State) (c : CoreId) (w : BitVec 64) (rest : List (BitVec 64)) : Option (Err × Nat) :=
  let n := wFlg w + 1
  let ws := rest.take n
  match firstStageErr s c 1 ws with
  | some e => some e
  | none => if ws.length = n ∧ fuseFormOk s c (wImm w + 1) ws then none else some (.fuseForm, 0)

/-! ### The walk (R93, R175) -/

/-- The walk from instruction `i` on: `skip` stage words to pass over, `loops` the LOOPs open, innermost first. Answers the
first failure and its instruction. -/
def walkProgram (s : State) (c : CoreId) : Nat → Nat → List Nat → List (BitVec 64) → Option (Err × Nat)
  | _, _, [], [] => none
  | _, _, j :: _, [] => some (.loopDepth, j)
  | i, skip + 1, loops, _ :: r => walkProgram s c (i + 1) skip loops r
  | i, 0, loops, w :: r =>
    match wordCheck s c w with
    | some e => some (e, i)
    | none =>
      match wOpc w with
      | 0x3C =>
        match fuseCheck s c w r with
        | some (e, j) => some (e, i + j)
        | none => walkProgram s c (i + 1) (wFlg w + 1) loops r
      | 0x04 => if 4 ≤ loops.length then some (.loopDepth, i) else walkProgram s c (i + 1) 0 (i :: loops) r
      | 0x05 =>
        match loops with
        | [] => some (.loopDepth, i)
        | _ :: up => walkProgram s c (i + 1) 0 up r
      | _ => walkProgram s c (i + 1) 0 loops r

/-! ### Descriptors that words name (R58, R124, R195, R436) -/

/-- A use of a descriptor register: as a tensor descriptor (for an RINC with its own `BASE` rule), or as a map of some
address bits. -/
inductive DescUse where
  | tensor (d : DReg) (rinc : Bool)
  | map (d : DReg) (bits : Nat)
  deriving DecidableEq, Repr

/-- The tensor descriptor of an operand byte, when its kind is D. -/
def useOf (b : Nat) : List DescUse := if opKind b = 3 then [.tensor (opD b) false] else []

/-- The descriptor after a slice descriptor, in variant mode (R168, R187). -/
def tableUse (w : BitVec 64) (b : Nat) : List DescUse := if bitOf w 3 then [.tensor ⟨(b + 1) % 16, by omega⟩ false] else []

/-- What a word, an instruction's or a stage's, names. -/
def wordUses (w : BitVec 64) : List DescUse :=
  match wOpc w with
  | 0x08 | 0x10 => useOf (wSrcA w)
  | 0x09 | 0x11 | 0x32 => useOf (wDst w)
  | 0x28 | 0x29 | 0x2A | 0x33 => useOf (wDst w) ++ useOf (wSrcA w)
  | 0x34 => [.tensor (opD (wDst w)) true]
  | 0x20 => useOf (wDst w) ++ useOf (wSrcA w) ++ useOf (wSrcB w) ++ tableUse w (wSrcA w)
  | 0x21 => useOf (wDst w) ++ useOf (wSrcA w) ++ useOf (wSrcB w) ++ tableUse w (wDst w)
  | 0x18 => if bitOf w 23 then [.map ⟨wImm w % 16, by omega⟩ (11 - wEw w)] else []
  | 0x19 => if bitOf w 23 then [.map ⟨wImm w % 16, by omega⟩ (13 - wEw w)] else []
  | _ => []

/-- A use checked on the descriptors `ds`, with the register's number. -/
def useCheck (ds : Vector Desc 16) : DescUse → Option (Err × Nat)
  | .tensor d rinc => (checkTd ds[d] rinc (fun _ => true)).map (fun e => (e, d.val))
  | .map d n => if mapOk ds[d] n then none else some (.mapInvalid, d.val)

/-- The first use that fails. -/
def usesCheck (ds : Vector Desc 16) : List DescUse → Option (Err × Nat)
  | [] => none
  | u :: r => match useCheck ds u with | some e => some e | none => usesCheck ds r

/-- Words of a core's program, `n` of them. -/
def programOf (s : State) (c : CoreId) (n : Nat) : List (BitVec 64) := (upto n).map (look 0 s.cores[c].imem)

end Sys2Proof.Machine
end

