-- ==== Sys2Proof/Machine/Mapping.lean ====
section
/-! DEFINITION. The fuse array's checks and what it names bad: cores, Whisks, Ladles, attachments, Near Store rows, Deep Store
and link lanes, and the map of logical onto physical cores (R17 to R20, R276, R283, R333, R343 to R345, R352, R353). -/

namespace Sys2Proof.Machine

/-! ### Checks of the shadow (R343 to R345) -/

/-- Row `k` of the shadow. -/
def fuseRow (s : State) (k : Nat) : BitVec 64 := s.fuse.shadow.toList.getD k 0

/-- Bytes of fuse rows, row 0 first. -/
def rowBytes8 (rows : List (BitVec 64)) : List Byte := rows.flatMap (fun r => bytesOf r 8)

/-- Rows 0 to 54 with `DBG_DISABLE`, `SIG_REQUIRED`, `DETACHED` and `KEY_HASH` taken as 0 (Table 14-4). -/
def factoryRows (rows : List (BitVec 64)) : List (BitVec 64) :=
  ((rows.take 55).zipIdx).map (fun r => if r.2 = 0 then setFld r.1 16 3 0 else if 7 ≤ r.2 ∧ r.2 < 13 then 0 else r.1)

/-- `FACTORY_CRC` matches (R345). -/
def factoryOk (rows : List (BitVec 64)) : Bool := decide (crc32c (rowBytes8 (factoryRows rows)) = fld (rows.getD 55 0) 0 32)

/-- `FUSE_SHADOW_CRC` over all 64 rows (R345). -/
def shadowCrc (rows : List (BitVec 64)) : Word := crc32c (rowBytes8 rows)

/-- A field row's check matches (R344). -/
def fieldRowOk (x : BitVec 64) : Bool := decide (fldN x 56 8 = (crc8 (bytesOf x 7)).toNat)

/-- The eight field rows. -/
def fieldRows (s : State) : List (BitVec 64) := (span 56 8).map (fuseRow s)

/-- Field rows in use of one `KIND`: their `ARG` (Table 14-5). -/
def fieldArgs (s : State) (kind : Nat) : List (BitVec 32) :=
  ((fieldRows s).filter (fun x => bitOf x 0 && fieldRowOk x && decide (fldN x 1 3 = kind))).map (fun x => fld x 4 32)

/-- The first empty field row (R366). -/
def emptyRow (s : State) : Option Nat := (span 56 8).find? (fun k => !bitOf (fuseRow s k) 0)

/-- Entries of two 32-bit halves in rows `lo` on. -/
def halfRows (s : State) (lo n : Nat) : List (BitVec 32) := (span lo n).flatMap (fun k => [fld (fuseRow s k) 0 32, fld (fuseRow s k) 32 32])

/-! ### What is bad (R17, R20, R352) -/

/-- Physical core `i` of cluster `k` is named bad, or failed its known-answer run. -/
def coreBad (s : State) (k : ClusterId) (i : Nat) : Bool :=
  decide (fldN (fuseRow s 1) (3 * k.val) 3 = i)
    || (fieldArgs s 1).any (fun a => decide (fldN a 0 2 = k.val) && decide (fldN a 2 3 = i))
    || bitOf s.u.katFail (5 * k.val + i)

/-- Good physical cores of a cluster, counted upward (R17). -/
def goodCores (s : State) (k : ClusterId) : List Nat := (upto 5).filter (fun i => !coreBad s k i)

/-- `FUSE_MAP_c` less its failed mark: four positions and the spare (Table 14-11). -/
def mapFor (s : State) (k : ClusterId) : BitVec 16 :=
  let g := goodCores s k
  BitVec.ofNat 16 (((upto 5).map (fun i => g.getD i 7 * 2 ^ (3 * i))).sum)

/-- Logical cores a cluster offers (R19). -/
def offeredIn (s : State) (k : ClusterId) : Nat := min 4 (goodCores s k).length

/-- The Whisk is bad (R20). -/
def whiskBad (s : State) (k : ClusterId) : Bool :=
  bitOf (fuseRow s 1) (12 + k.val) || (fieldArgs s 2).any (fun a => decide (fldN a 0 2 = k.val)) || bitOf s.u.katFail (20 + k.val)

/-- The Ladle is bad (R20). -/
def ladleBad (s : State) (k : ClusterId) : Bool :=
  bitOf (fuseRow s 1) (16 + k.val) || (fieldArgs s 3).any (fun a => decide (fldN a 0 2 = k.val)) || bitOf s.u.katFail (24 + k.val)

/-- The attachment is bad (R352). -/
def eaBad (s : State) (a : EaId) : Bool := bitOf (fuseRow s 1) (31 + a.val) || bitOf s.u.katFail (28 + a.val)

/-- Near Store rows named bad: factory fuses, field rows, and the last full BIST (R276). -/
def badRows (s : State) : List (Nat × Nat) :=
  let f := (halfRows s 13 26).filter (fun e => bitOf e 0)
  (f ++ fieldArgs s 4).map (fun e => (fldN e 1 6, fldN e 7 8)) ++ s.mem.bistRows

/-- Spare rows a bank needs. -/
def sparesOf (s : State) (bank : Nat) : Nat := (((badRows s).filter (fun r => r.1 = bank)).dedup).length

/-- A bank group is absent: fused bad, or a bank of it needs more than 32 spares (R276). -/
def groupBad (s : State) (g : GroupId) : Bool :=
  bitOf (fuseRow s 1) (20 + g.val) || (upto 8).any (fun b => decide (32 < sparesOf s (8 * g.val + b)))

/-- Deep Store lanes that the fused lane map moves onto spares, as (lane group, lane) (R284). -/
def mappedLanes (s : State) : List (Nat × Nat) :=
  (((halfRows s 39 8).filter (fun e => bitOf e 0) ++ fieldArgs s 5).map (fun e => (fldN e 1 5, fldN e 6 8))).dedup

/-- Spares in use by the fused lane map. -/
def fusedSpares (s : State) : Vector Nat 32 := Vector.ofFn (fun g => min 8 ((mappedLanes s).filter (fun l => l.1 = g.val)).length)

/-- Link lanes that field rows mark failed (Table 14-5). -/
def fusedLaneFail (s : State) : BitVec 5 := (fieldArgs s 6).foldl (fun m a => m ||| BitVec.ofNat 5 (2 ^ fldN a 0 3)) 0

/-- The spare lane: the fused one, or the failed lane that it stands in for. -/
def fusedSpareLane (s : State) : BitVec 3 :=
  let l := fldN (fuseRow s 1) 28 3
  if bitOf (fusedLaneFail s) l then BitVec.ofNat 3 l
  else match (upto 5).find? (fun i => bitOf (fusedLaneFail s) i) with | some i => BitVec.ofNat 3 i | none => BitVec.ofNat 3 l

/-! ### The map (R17 to R20, R276, R352) -/

/-- The bank groups marked `BAD`. -/
def markGroups (s : State) : State :=
  { s with mem := { s.mem with groups := s.mem.groups.mapFinIdx (fun i g h => { g with bad := groupBad s ⟨i, h⟩ }) } }

/-- The map of logical onto physical cores, and what each cluster and the Engine Interface offer. Gang mode needs the Whisk and
four logical cores. -/
def remap (s : State) : State :=
  let ks : List ClusterId := List.finRange 4
  let bits (f : ClusterId → Bool) : BitVec 4 := BitVec.ofNat 4 ((ks.map (fun k => b2n (f k) * 2 ^ k.val)).sum)
  markGroups { s with
    fuse := { s.fuse with map := Vector.ofFn (mapFor s) }
    u := { s.u with
      lcores := (ks.map (offeredIn s)).sum
      gangOk := bits (fun k => !whiskBad s k && decide (offeredIn s k = 4))
      ladleOk := bits (fun k => !ladleBad s k)
      eaOk := BitVec.ofNat 2 (((List.finRange 2).map (fun a => b2n (!eaBad s a) * 2 ^ a.val)).sum) } }

/-- Every field row is used, so that no failed element can be repaired (R367). -/
def rowsFull (s : State) : Bool := (emptyRow s).isNone

/-- Failed marks end with a load, but for elements that no field row was left to repair (R367). `s` is the unit as it ran,
`n` the unit under the new map. -/
def dropFailed (s n : State) : State :=
  let full := rowsFull s
  let stays (c : CoreId) : Bool := full && (coresOf (clOf c)).any (fun d => s.cores[d].failed && decide (physOf s d = physOf n c))
  { n with
    cores := n.cores.mapFinIdx (fun i x h => { x with failed := stays ⟨i, h⟩ })
    cls := n.cls.mapFinIdx (fun i k h => { k with
      whiskFailed := full && s.cls[i].whiskFailed && !whiskBad s ⟨i, h⟩, ladFailed := full && s.cls[i].ladFailed && !ladleBad s ⟨i, h⟩ }) }

end Sys2Proof.Machine
end

