-- ==== Sys2Proof/Machine/Sections.lean ====
section
/-! DEFINITION. The Blend as a byte string: header, section table, selection, lengths, and what each kept section writes
(R420, R421, R426 to R439). -/

namespace Sys2Proof.Machine

/-! ### Bytes of the image (R420) -/

/-- `n` bytes from offset `lo`. -/
def slice (img : List Byte) (lo n : Nat) : List Byte := (img.drop lo).take n

/-- A little-endian number of `n` bytes. -/
def numAt (img : List Byte) (lo n : Nat) : Nat := leNat (slice img lo n)

/-- Consecutive structures of `w` bits, `k` bytes each (R428). -/
def structsOf (w k : Nat) : Nat → List Byte → List (BitVec w)
  | 0, _ => []
  | n + 1, bs => leBits w (bs.take k) :: structsOf w k n (bs.drop k)

/-- A sparse table of the structures that differ from `d`, from number 0 on. -/
def tableOf {α : Type} [DecidableEq α] (d : α) (xs : List α) : List (Nat × α) := (xs.zipIdx.filter (fun e => e.1 ≠ d)).map (fun e => (e.2, e.1))

/-- All bytes are 0. -/
def allZero (bs : List Byte) : Bool := bs.all (fun b => decide (b = 0))

/-- `n` bytes from offset `lo` are 0, as reserved bytes are (R10, R420). -/
def blank (bs : List Byte) (lo n : Nat) : Bool := allZero (slice bs lo n)

/-! ### Header and section table (Tables 17-1, 17-4, 17-5) -/

/-- The header's fields. -/
structure Header where
  magic : Nat
  version : Nat
  stepping : Nat
  bin : Nat
  closeOff : Nat
  count : Nat
  flags : Nat
  imageId : BitVec 64
  reservedZero : Bool
  deriving DecidableEq, Repr

/-- The header of an image. -/
def headerOf (img : List Byte) : Header :=
  { magic := numAt img 0 4, version := numAt img 4 2, stepping := numAt img 6 1, bin := numAt img 7 1, closeOff := numAt img 8 4
    count := numAt img 12 2, flags := numAt img 14 2, imageId := leBits 64 (slice img 16 8), reservedZero := allZero (slice img 24 40) }

/-- A section table entry. -/
structure Sect where
  idx : Nat
  typ : Nat
  inst : Nat
  val : BitVec 16
  mask : BitVec 16
  off : Nat
  len : Nat
  reservedZero : Bool
  deriving DecidableEq, Repr

/-- Entry `i` of the section table. -/
def sectAt (img : List Byte) (i : Nat) : Sect :=
  let e := slice img (64 + 32 * i) 32
  { idx := i, typ := numAt e 0 2, inst := numAt e 2 2, val := leBits 16 (slice e 4 2), mask := leBits 16 (slice e 6 2), off := numAt e 8 4
    len := numAt e 12 4, reservedZero := allZero (e.drop 16) }

/-- The section table. -/
def sectsOf (img : List Byte) : List Sect := (upto (headerOf img).count).map (sectAt img)

/-- Instances a type has; none for an unknown type (Table 17-5). -/
def instCount : Nat → Option Nat
  | 0x0001 | 0x0002 | 0x0003 | 0x0004 | 0x0011 | 0x0012 | 0x0030 | 0x0040 | 0x0041 | 0x0042 => some 1
  | 0x0010 => some 64
  | 0x0020 | 0x0021 => some 16
  | 0x0022 => some 4
  | 0x0031 => some 32
  | 0x0032 => some 2
  | _ => none

/-- The unit keeps the entry (R426). -/
def keeps (s : State) (x : Sect) : Bool := decide (s.u.addr &&& x.mask = x.val &&& x.mask)

/-- Bytes of a section. -/
def sectBytes (img : List Byte) (x : Sect) : List Byte := slice img x.off x.len

/-- A section placed among sections in rising order of `TYPE` and `INST`, behind those equal to it. -/
def placeSect (x : Sect) : List Sect → List Sect
  | [] => [x]
  | y :: r => if x.typ * 65536 + x.inst < y.typ * 65536 + y.inst then x :: y :: r else y :: placeSect x r

/-- Kept sections, by `TYPE` and then `INST` (R440). -/
def keptSects (s : State) (img : List Byte) : List Sect := ((sectsOf img).filter (keeps s)).foldl (fun xs x => placeSect x xs) []

/-- The kept sections of a type. -/
def keptOf (ks : List Sect) (typ : Nat) : List Sect := ks.filter (fun x => decide (x.typ = typ))

/-! ### Lengths (R427 to R439) -/

/-- The records of a PWRPLAN from byte `bs` on, each as (template, E_t, intervals); none when one runs past the end (R435). -/
def planRecords : Nat → List Byte → Option (List (Nat × Nat × List (BitVec 64)))
  | 0, bs => if bs.isEmpty then some [] else none
  | k + 1, bs =>
    if bs.isEmpty then some []
    else
      let n := numAt bs 4 2
      if bs.length < 8 + 8 * n ∨ 384 < n then none
      else (planRecords k (bs.drop (8 + 8 * n))).map (fun r => (numAt bs 6 2, numAt bs 0 4, structsOf 64 8 n (bs.drop 8)) :: r)

/-- Item counts of a TEMPLATE, agent by agent (R433). -/
def itemCounts (bs : List Byte) : List Nat := (bs.take 50).map (·.toNat)

/-- The length is the one the section's layout gives (R427). -/
def lengthOk (typ : Nat) (bs : List Byte) : Bool :=
  let l := bs.length
  let counted (lo w base k most : Nat) : Bool := let n := numAt bs lo w; decide (1 ≤ n) && decide (n ≤ most) && decide (l = base + k * n)
  let masked (w k : Nat) : Bool := decide (64 ≤ l) && decide (l = 64 + k * popcount (8 * w) (numAt bs 0 w))
  match typ with
  | 0x0001 => decide (l = 2112)
  | 0x0002 => decide (l = 64)
  | 0x0003 => decide (l % 8 = 0) && decide (1 ≤ l / 8) && decide (l / 8 ≤ 2048)
  | 0x0004 => decide (64 < l) && decide (l ≤ 64 + 458752)
  | 0x0010 => decide (64 ≤ l) && decide (l = 64 + 32 * (itemCounts bs).sum)
  | 0x0011 => counted 0 2 64 8 256
  | 0x0012 => decide (64 ≤ l) && (planRecords 65 (bs.drop 64)).isSome
  | 0x0020 => counted 0x480 4 0x500 8 2048
  | 0x0021 => masked 8 2752
  | 0x0022 => masked 4 2048
  | 0x0030 => counted 0 2 64 32 8192
  | 0x0031 => decide (l = 1088)
  | 0x0032 => counted 0x404 4 0x440 8 512
  | 0x0040 => decide (l = 1024)
  | 0x0041 => counted 0 2 64 16 4096
  | 0x0042 => decide (l = 4096)
  | _ => false

/-! ### What a section writes (R429 to R439) -/

/-- Every memory that a Blend fills, in its empty form (R427, R441). -/
def emptied (s : State) : State :=
  { s with
    bl := {}
    cores := s.cores.mapIdx (fun _ x => { x with imem := [], routes := [] })
    cls := s.cls.mapIdx (fun _ k => { k with whisk := [], whiskLoaded := 0, ladFenced := false })
    mov := { s.mov with mem := [], chans := s.mov.chans.mapIdx (fun _ x => { x with desc := Vector.replicate 16 0, src := 0, dst := 0 }) }
    eif := s.eif.mapIdx (fun _ x => { x with prog := [], desc := Vector.replicate 16 0 })
    rmt := { s.rmt with streams := s.rmt.streams.mapIdx (fun _ _ => {}), labels := [], labSt := [], ret := [] } }

/-- A vector of structures. -/
def vecOf (n w k : Nat) (bs : List Byte) : Vector (BitVec w) n := Vector.ofFn (fun i => leBits w (slice bs (k * i.val) k))

/-- The `ANCHOR` of a chip (R429). -/
def anchorOf (bs : List Byte) (chip : Nat) : Nat := numAt bs (64 + 2 * chip) 2

/-- SYS (R429). -/
def writeSys (s : State) (bs : List Byte) : State :=
  { s with
    fr := { s.fr with own := { s.fr.own with period := BitVec.ofNat 20 (numAt bs 4 4) } }
    bl := { s.bl with masterAddr := leBits 16 (slice bs 0 2), hops := anchorOf bs (s.u.addr.toNat / 64) / 64 % 16 } }

/-- The values the frame controller derives from its own copy of the tick configuration (R32, R34 to R36, R49, R463). -/
def deriveTiming (s : State) : State :=
  let f := frameCycles s
  let w := ceilDiv s.fr.own.period.toNat 1024
  { s with fr := { s.fr with
      frameLen := f, schedEnd := f - droopReserve s - 64, refW := w, refP := f / w, linkSlots := f / 9, cfg := s.fr.own } }

/-- UNIT (Table 17-6). -/
def writeUnit (s : State) (bs : List Byte) : State :=
  let w : Word := leBits 32 (slice bs 0 4)
  deriveTiming { s with
    u := { s.u with
      taskMode := bitOf w 0, clEn := fld w 1 4, nsOwner := fld w 8 8, dsBound := fld w 16 4, cntSplit := fld w 20 4
      saveBase := #v[leBits 32 (slice bs 20 4), leBits 32 (slice bs 24 4)] }
    mem := { s.mem with retain := fld w 24 8 }
    fr := { s.fr with
      own := { s.fr.own with droopRsv := BitVec.ofNat 7 (numAt bs 12 2), src := fld w 5 2, treeOut := bitOf w 7 }
      refPhase := numAt bs 4 3, scrubOff := numAt bs 8 3, replayRsv := numAt bs 14 2, farBound := numAt bs 16 4 } }

/-- The pairs of REGS: offset and value (R431). -/
def regPairs (bs : List Byte) : List (Nat × Word) := (structsOf 64 8 (bs.length / 8) bs).map (fun x => (fldN x 0 32, fld x 32 32))

/-- The register a pair names, if it may name it (R431). -/
def pairReg (s : State) (off : Nat) : Option Rwf :=
  if off % 4 ≠ 0 ∨ 2 ^ 20 ≤ off then none
  else match rwfAt s off with
    | some .tickCfg | some .nsRetain => none
    | r => r

/-- REGS (R431). -/
def writeRegs (s : State) (bs : List Byte) : State :=
  (regPairs bs).foldl (fun s p => match pairReg s p.1 with | some r => rwfSet s r p.2 | none => s) s

/-- A work-list item's reserved bits are 0: the bytes above `OFFSET` and `DONE`, and every bit that Table 17-7 gives no field
of agent `a` (R10, R433). -/
def itemBlank (a : Nat) (x : BitVec 256) : Bool :=
  let f := fldN x 64 192
  let used := if a < 16 then 2 ^ 63 - 1 else if a < 44 then 2 ^ 25 - 1 else if a < 48 then 2 ^ 25 - 1 + (2 ^ 96 - 1) * 2 ^ 32 else 2 ^ 9 - 1
  decide (fldN x 24 8 = 0) && decide (fldN x 56 8 = 0) && decide (f &&& used = f)

/-- Items of a TEMPLATE with reserved bits set, as (agent, raw item), in order (R433). -/
def rawItems : List Nat → Nat → List Byte → List (Nat × BitVec 256)
  | [], _, _ => []
  | n :: r, a, bs => (structsOf 256 32 n bs).map (fun x => (a, x)) ++ rawItems r (a + 1) (bs.drop (32 * n))

/-- Items of a TEMPLATE, agent by agent (R433). -/
def itemLists : List Nat → Nat → List Byte → List (Nat × List Item)
  | [], _, _ => []
  | n :: r, a, bs =>
    let is := (structsOf 256 32 n bs).map (fun x => ({ offset := fldN x 0 24, done := fldN x 32 24, fields := fld x 64 192 } : Item))
    (a, is) :: itemLists r (a + 1) (bs.drop (32 * n))

/-- A TEMPLATE's lists, those of agents with items. -/
def templateItems (bs : List Byte) : List (Nat × List Item) := (itemLists (itemCounts bs) 0 (bs.drop 64)).filter (fun x => !x.2.isEmpty)

/-- The kept template `t`. -/
def templateAt (s : State) (t : Nat) : Template := look {} s.bl.templates t

/-- A template replaced. -/
def setTemplate (s : State) (t : Nat) (x : Template) : State := { s with bl := { s.bl with templates := put {} s.bl.templates t x } }

/-- Entry of the sequence table (R434). -/
def seqEntOf (x : BitVec 64) : SeqEnt :=
  { template := fldN x 0 6, layerEnd := bitOf x 6, seqEnd := bitOf x 7, repeats := fldN x 8 16 + 1, next := fldN x 24 8 }

/-- SEQ (R434). -/
def writeSeq (s : State) (bs : List Byte) : State :=
  { s with bl := { s.bl with
      entries := (structsOf 64 8 (numAt bs 0 2) (bs.drop 64)).map seqEntOf
      seqs := Vector.ofFn (fun q =>
        let h := numAt bs (4 + 2 * q.val) 2
        { first := h % 256, defined := h.testBit 8, part := h.testBit 9 }) } }

/-- An idle interval (R435). -/
def intervalOf (x : BitVec 64) : Interval := { a := fldN x 0 24, b := fldN x 24 24, dom := fldN x 48 5, cap := fldN x 53 2 }

/-- PWRPLAN (R435). -/
def writePlan (s : State) (bs : List Byte) : State :=
  let s := { s with bl := { s.bl with
    eIdle := numAt bs 0 4, idleCap := Vector.ofFn (fun d => BitVec.ofNat 2 (numAt bs (4 + d.val) 1)) } }
  ((planRecords 65 (bs.drop 64)).getD []).foldl (fun s r =>
    setTemplate s r.1 { templateAt s r.1 with energy := r.2.1, intervals := r.2.2.map intervalOf }) s

/-- Initial registers of a CORE section (R436). -/
def coreInitOf (bs : List Byte) : CoreInit :=
  { s := vecOf 16 32 4 bs, d := vecOf 16 512 64 (bs.drop 0x40)
    cls := Vector.ofFn (fun k => clsOfCode (numAt bs 0x440 1 / 4 ^ k.val % 4)) }

/-- CORE (R436). -/
def writeCore (s : State) (c : CoreId) (bs : List Byte) : State :=
  let i := coreInitOf bs
  let s := { s with bl := { s.bl with cores := s.bl.cores.set c.val i } }
  modCore s c (fun x => { x with d := i.d, imem := tableOf 0 (structsOf 64 8 (numAt bs 0x480 4) (bs.drop 0x500)) })

/-- The record of a route slot: tag and route word (R437). -/
def slotRecord (bs : List Byte) : RouteSlot := { tag := bs.getD 0 0, word := leBits 21504 (slice bs 64 2688) }

/-- Numbers of the set bits of a mask. -/
def setBits (w m : Nat) : List Nat := (upto w).filter (fun i => m.testBit i)

/-- Slots of a ROUTE section with their numbers. -/
def routeSlots (bs : List Byte) : List (Nat × RouteSlot) :=
  ((setBits 64 (numAt bs 0 8)).zipIdx).map (fun k => (k.1, slotRecord (slice bs (64 + 2752 * k.2) 2752)))

/-- ROUTE (R437). -/
def writeRoute (s : State) (c : CoreId) (bs : List Byte) : State :=
  modCore s c (fun x => { x with routes := (routeSlots bs).filter (fun e => e.2 ≠ {}) })

/-- Words of a WHISK section with their numbers. -/
def whiskWords (bs : List Byte) : List (Nat × BitVec 16384) :=
  ((setBits 32 (numAt bs 0 4)).zipIdx).map (fun k => (k.1, leBits 16384 (slice bs (64 + 2048 * k.2) 2048)))

/-- WHISK (R437). -/
def writeWhisk (s : State) (k : ClusterId) (bs : List Byte) : State :=
  modCl s k (fun x => { x with whisk := (whiskWords bs).filter (fun e => e.2 ≠ 0), whiskLoaded := leBits 32 (slice bs 0 4) })

/-- LISTS (R438). -/
def writeLists (s : State) (bs : List Byte) : State :=
  { s with mov := { s.mov with mem := tableOf 0 (structsOf 256 32 (numAt bs 0 2) (bs.drop 64)) } }

/-- CHAN (R438). -/
def writeChan (s : State) (h : ChanId) (bs : List Byte) : State :=
  modChan s h (fun x => { x with desc := vecOf 16 512 64 bs, src := leBits 48 (slice bs 0x400 6), dst := leBits 48 (slice bs 0x408 6) })

/-- Port words of an EIF section. -/
def portWords (bs : List Byte) : List (BitVec 64) := structsOf 64 8 (numAt bs 0x404 4) (bs.drop 0x440)

/-- EIF (R438). -/
def writeEif (s : State) (a : EaId) (bs : List Byte) : State :=
  let s := { s with bl := { s.bl with eifThr := s.bl.eifThr.set a.val (leBits 32 (slice bs 0x400 4)) } }
  modEa s a (fun x => { x with desc := vecOf 16 512 64 bs, prog := tableOf 0 (portWords bs) })

/-- STREAMS (R439). -/
def writeStreams (s : State) (bs : List Byte) : State :=
  { s with rmt := { s.rmt with streams := Vector.ofFn (fun i => { entry := leBits 128 (slice bs (16 * i.val) 16) }) } }

/-- LABELS (R439). -/
def writeLabels (s : State) (bs : List Byte) : State :=
  { s with rmt := { s.rmt with labels := tableOf 0 (structsOf 128 16 (numAt bs 0 2) (bs.drop 64)) } }

/-- Caddy's RAM with an image at address 0; the rest, the ROM's load state in its top 64 KiB among it, stays (R432). -/
def ramWith (image : List Byte) (ram : List Host.Cell) : List Host.Cell :=
  ((image.zipIdx).filter (fun b => decide (b.1 ≠ 0))).map (fun b => (b.2, b.1)) ++ ram.filter (fun c => decide (image.length ≤ c.1))

/-- A kept section written into the unit that a load prepares (R441). -/
def writeSect (img : List Byte) (s : State) (x : Sect) : State :=
  let bs := sectBytes img x
  match x.typ with
  | 0x0001 => writeSys s bs
  | 0x0002 => writeUnit s bs
  | 0x0003 => writeRegs s bs
  | 0x0004 => { s with bl := { s.bl with fwEntry := numAt bs 0 4 }, cad := { s.cad with ram := ramWith (bs.drop 64) s.cad.ram } }
  | 0x0010 => setTemplate s x.inst { templateAt s x.inst with items := templateItems bs }
  | 0x0011 => writeSeq s bs
  | 0x0012 => writePlan s bs
  | 0x0020 => writeCore s ⟨x.inst % 16, by omega⟩ bs
  | 0x0021 => writeRoute s ⟨x.inst % 16, by omega⟩ bs
  | 0x0022 => writeWhisk s ⟨x.inst % 4, by omega⟩ bs
  | 0x0030 => writeLists s bs
  | 0x0031 => writeChan s ⟨x.inst % 32, by omega⟩ bs
  | 0x0032 => writeEif s ⟨x.inst % 2, by omega⟩ bs
  | 0x0040 => writeStreams s bs
  | 0x0041 => writeLabels s bs
  | 0x0042 => { s with bl := { s.bl with counters := tableOf 0 (structsOf 32 4 1024 bs) } }
  | _ => s

/-- The unit as it stands when every kept section has been written over empty memories, reset registers and the recomputed map;
`s` is the unit that loads (R18, R427, R441). -/
def candidate (s : State) (img : List Byte) : State :=
  let h := headerOf img
  let b := resetRwf (emptied (remap s))
  let b := { b with bl := { b.bl with bin := binOf h.bin, imageId := h.imageId }, fr := { b.fr with clk := binOf h.bin } }
  (keptSects s img).foldl (writeSect img) b

end Sys2Proof.Machine
end

