-- ==== Sys2Proof/Machine/CheckSystem.lean ====
section
/-! DEFINITION. What the loader checks of the section table and of the sections SYS, UNIT, REGS, FIRMWARE, TEMPLATE, SEQ and
PWRPLAN (R426, R427, R429 to R435, R440). In every check `s` is the unit that loads, and `n` the unit as the Blend would leave
it. -/

namespace Sys2Proof.Machine

/-! ### Failures -/

/-- A refusal of a load: its code and detail word (R440). -/
structure Fail where
  e : Err
  detail : Nat
  deriving DecidableEq, Repr

/-- A failure in a section, at an entry, instruction or item of it (R440). -/
def failAt (x : Sect) (item : Nat) (e : Err) : Fail := { e := e, detail := x.idx % 65536 + item % 65536 * 65536 }
/-- A failure of the header, or of no one section (R440). -/
def failHead (e : Err) : Fail := { e := e, detail := 0xFFFF }
/-- A condition that must hold. -/
def need (ok : Bool) (f : Fail) : Option Fail := if ok then none else some f
/-- The first failure of a list of checks. -/
def firstFail {α : Type} (f : α → Option Fail) : List α → Option Fail
  | [] => none
  | x :: r => match f x with | some e => some e | none => firstFail f r
/-- The first failure of numbered checks. -/
def firstFailAt {α : Type} (f : Nat → α → Option Fail) (xs : List α) : Option Fail := firstFail (fun x => f x.2 x.1) xs.zipIdx

/-! ### Reserved bytes (R10)

Nonzero reserved bits of a section are refused with the code that the section's own table gives them, and with
ERR_BLEND_SECTION, the code of chapter 17, where none does (log 54). -/

/-- Every reserved byte of a section's layout outside its structures' own fields (R429 to R439). -/
def reservedBlank (typ : Nat) (bs : List Byte) : Bool :=
  match typ with
  | 0x0001 => blank bs 2 2 && blank bs 8 56 && decide (numAt bs 4 4 < 2 ^ 20)
      && (structsOf 16 2 1024 (bs.drop 64)).all (fun a => decide (fldN a 10 5 = 0))
  | 0x0004 => blank bs 4 60
  | 0x0010 => blank bs 50 14
  | 0x0011 => blank bs 2 2 && blank bs 36 28
  | 0x0012 => blank bs 28 36
  | 0x0020 => blank bs 0x441 63 && blank bs 0x484 124
  | 0x0021 => blank bs 8 56
  | 0x0022 => blank bs 4 60
  | 0x0030 | 0x0041 => blank bs 2 62
  | 0x0031 => blank bs 0x406 2 && blank bs 0x40E 50
  | 0x0032 => blank bs 0x408 56
  | _ => true

/-- The code of a section's reserved bytes. -/
def reservedErr : Nat → Err
  | 0x0012 => .pwrPlan | 0x0021 => .routeTag | 0x0030 => .blockForm | 0x0032 => .eifForm | 0x0041 => .rmtLabel
  | _ => .blendSection

/-- The reserved bytes of a kept section (R10). -/
def checkReserved (x : Sect) (bs : List Byte) : Option Fail := need (reservedBlank x.typ bs) (failAt x 0 (reservedErr x.typ))

/-! ### Section table (R427) -/

/-- A table entry's own fields. -/
def sectOk (img : List Byte) (x : Sect) : Bool :=
  let h := headerOf img
  (match instCount x.typ with | some n => decide (x.inst < n) | none => false) && x.reservedZero
    && (decide (x.typ ≠ 1) || decide (x.mask = 0)) && decide (x.off % 64 = 0) && decide (64 + 32 * h.count ≤ x.off)
    && decide (x.off + x.len ≤ h.closeOff)

/-- Two sections share bytes. -/
def sectsMeet (x y : Sect) : Bool := decide (x.off < y.off + y.len) && decide (y.off < x.off + x.len)

/-- Every entry of the table, kept or not: `seen` are those before it. -/
def tableGo (img : List Byte) : List Sect → List Sect → Option Fail
  | _, [] => none
  | seen, x :: r =>
    if sectOk img x && !seen.any (sectsMeet x) then tableGo img (x :: seen) r else some (failAt x 0 .blendSection)

/-- No kept section before it has the same `TYPE` and `INST`. -/
def doubleGo : List Sect → List Sect → Option Fail
  | _, [] => none
  | seen, x :: r =>
    if seen.any (fun y => decide (y.typ = x.typ) && decide (y.inst = x.inst)) then some (failAt x 0 .blendSection) else doubleGo (x :: seen) r

/-- Types of which a unit keeps exactly one (Table 17-5). -/
def neededTypes : List Nat := [0x0001, 0x0002, 0x0004, 0x0011, 0x0012]

/-- The checks of the section table (R426, R427). -/
def checkTable (img : List Byte) (ks : List Sect) : Option Fail :=
  let h := headerOf img
  need (decide (1 ≤ h.count) && decide (h.count ≤ 1024)) (failHead .blendSection)
    <|> tableGo img [] (sectsOf img)
    <|> doubleGo [] ks
    <|> firstFail (fun x => need (lengthOk x.typ (sectBytes img x)) (failAt x 0 .blendSection)) ks
    <|> need (neededTypes.all (fun t => ks.any (fun x => decide (x.typ = t)))) (failHead .blendSection)
    <|> need (decide ((ks.map (·.len)).sum ≤ 8 * 2 ^ 20)) (failHead .blendSize)

/-! ### SYS and UNIT (R35, R104, R429, R430) -/

/-- The unit's role in the tick tree as SYS gives it, coded as `TICK_SRC` (R429). -/
def roleOf (s : State) (master : BitVec 16) (anchor : Nat) : Nat :=
  if s.u.addr = master then 1 else if anchor % 64 = s.u.addr.toNat % 64 then 2 else 0

/-- SYS (R429). -/
def checkSys (s n : State) (x : Sect) (bs : List Byte) : Option Fail :=
  let p := numAt bs 4 4 % 2 ^ 20
  let m : BitVec 16 := leBits 16 (slice bs 0 2)
  let a := anchorOf bs (s.u.addr.toNat / 64)
  let hops := a / 64 % 16
  let near := decide (s.u.addr.toNat / 64 = m.toNat / 64)
  need (decide (400 ≤ p) && decide (p ≤ 1000000)) (failAt x 0 .tickRange)
    <|> need (a.testBit 15 && (if near then decide (hops = 0) else decide (1 ≤ hops) && decide (hops ≤ 8))
        && decide (n.fr.own.src.toNat = roleOf s m a)) (failAt x 0 .blendSection)

/-- A save base with all its slots in Deep Store that partition `p` owns (R104). -/
def saveOk (n : State) (p : Part) : Bool :=
  let b := (n.u.saveBase[p]).toNat
  let mid := 0x40000000 + n.u.dsBound.toNat * 2 ^ 26
  let lo := if twoTask n && decide (p = 1) then mid else 0x40000000
  let hi := if twoTask n && decide (p = 0) then mid else 0x80000000
  decide (b % 65536 = 0) && decide (lo ≤ b) && decide (b + (if twoTask n then 8 else 16) * 0x24000 ≤ hi)

/-- What a kept section uses of a cluster, beside the cores: gang mode, or the Ladle (R19, R20, R134). -/
def usesGang (n : State) (k : ClusterId) (ks : List Sect) : Bool :=
  (keptOf ks 0x22).any (fun x => decide (x.inst = k.val))
    || (coresOf k).any (fun c => n.cores[c].imem.any (fun w => decide (wOpc w.2 = 0x19)) || n.cores[c].routes.any (fun r => decide (2 ≤ tagKind r.2.tag)))

/-- Block-list uses of the work lists: agent, store list or not, first entry, entries (R433). -/
structure ListUse where
  agent : Nat
  store : Bool
  first : Nat
  count : Nat
  deriving DecidableEq, Repr

/-- Lists that an item names (Table 17-7). -/
def itemUses (a : Nat) (i : Item) : List ListUse :=
  let f := i.fields
  if a < 16 then
    (if bitOf f 11 then [⟨a, false, fldN f 12 13, fldN f 25 12 + 1⟩] else []) ++ (if bitOf f 37 then [⟨a, true, fldN f 38 13, fldN f 51 12 + 1⟩] else [])
  else if a < 48 then [⟨a, false, fldN f 0 13, fldN f 13 12 + 1⟩]
  else []

/-- Lists that the templates' items name. -/
def listUses (n : State) : List ListUse := n.bl.templates.flatMap (fun t => t.2.items.flatMap (fun a => a.2.flatMap (itemUses a.1)))

/-- Uses of a list entry. -/
def usesOf (us : List ListUse) (i : Nat) : List ListUse := us.filter (fun u => decide (u.first ≤ i) && decide (i < u.first + u.count))

/-- Uses by channels. -/
def chanUses (us : List ListUse) : List ListUse := us.filter (fun u => decide (16 ≤ u.agent))

/-- The channel of an agent number from 16 on. -/
def chanOf (a : Nat) : ChanId := ⟨(a - 16) % 32, by omega⟩
/-- The core of an agent number below 16. -/
def coreOf (a : Nat) : CoreId := ⟨a % 16, by omega⟩

/-- Some program, or INDEX block of a work list, runs on the Ladle of a cluster. -/
def usesLadle (n : State) (k : ClusterId) : Bool :=
  (coresOf k).any (fun c => n.cores[c].imem.any (fun w => decide (wOpc w.2 = 0x20) || decide (wOpc w.2 = 0x21)))
    || n.mov.mem.any (fun e => decide (bKind e.2 = 2) && decide (bClu e.2 = k) && !(usesOf (chanUses (listUses n)) e.1).isEmpty)

/-- A kept section of a core that the unit does not offer. -/
def missingCore (n : State) (k : ClusterId) (ks : List Sect) : Bool :=
  ks.any (fun x => (decide (x.typ = 0x20) || decide (x.typ = 0x21)) && decide (clOf (coreOf x.inst) = k) && !offered n (coreOf x.inst))

/-- What an enabled cluster must have where a kept section uses it (R430). -/
def checkCluster (n : State) (ks : List Sect) (x : Sect) (k : ClusterId) : Option Fail :=
  if bitOf n.u.clEn k.val then
    need (bitOf n.u.gangOk k.val || !usesGang n k ks) (failAt x 0 .gangPair)
      <|> need (bitOf n.u.ladleOk k.val || !usesLadle n k) (failAt x 0 .ladMode)
      <|> need (!missingCore n k ks) (failAt x 0 .blendSection)
  else none

/-- UNIT (R430). -/
def checkUnit (s n : State) (ks : List Sect) (x : Sect) (bs : List Byte) : Option Fail :=
  let f := n.fr
  let rsv := numAt bs 12 2
  let ticks := decide (f.refPhase + 320 ≤ f.refP) && decide (f.scrubOff + 320 + droopReserve n ≤ f.frameLen) && decide (rsv ≤ 100)
  let fields := decide (f.own.src ≠ 3) && decide (f.replayRsv ≤ 100) && decide (512 ≤ f.farBound) && decide (f.farBound ≤ 8192)
    && decide (numAt bs 7 1 = 0) && decide (numAt bs 11 1 = 0) && allZero (bs.drop 28)
    && (if twoTask n then decide (n.u.dsBound ≠ 0) && decide (n.u.cntSplit ≠ 0)
        else decide (n.u.dsBound = 0) && decide (n.u.cntSplit = 0) && decide (n.u.nsOwner = 0) && decide (n.u.saveBase[(1 : Fin 2)] = 0))
  need ticks (failAt x 0 .tickRange)
    <|> need fields (failAt x 0 .blendSection)
    <|> need (saveOk n 0 && (!twoTask n || saveOk n 1)) (failAt x 0 .saveRange)
    <|> need (!f.own.treeOut || decide (s.lnk.st = .up)) (failAt x 0 .lnkNotUp)
    <|> firstFail (checkCluster n ks x) (List.finRange 4)

/-! ### REGS and FIRMWARE (R431, R432) -/

/-- The register is one of the crossbar's. -/
def isXbReg : Rwf → Bool | .xbPri _ _ | .xbPark _ => true | _ => false

/-- The pairs of REGS; `seen` are the registers named before. -/
def pairsGo (n : State) (x : Sect) : Nat → List Rwf → List (Nat × Word) → Option Fail
  | _, _, [] => none
  | i, seen, p :: r =>
    match pairReg n p.1 with
    | none => some (failAt x i .blendSection)
    | some g =>
      if seen.contains g then some (failAt x i .blendSection)
      else if rwfReserved g p.2 then some (failAt x i (if isXbReg g then .xbCfg else .blendSection))
      else pairsGo n x (i + 1) (g :: seen) r

/-- REGS, and the rules that bind register values whether or not a section gives them (R431). -/
def checkRegs (n : State) (img : List Byte) (ks : List Sect) : Option Fail :=
  firstFail (fun x => pairsGo n x 0 [] (regPairs (sectBytes img x))) (keptOf ks 3)
    <|> (rwfCheck n).map (fun e => match keptOf ks 3 with | x :: _ => failAt x 0 e | [] => failHead e)

/-- FIRMWARE (R432). -/
def checkFirmware (x : Sect) (bs : List Byte) : Option Fail :=
  let e := numAt bs 0 4
  need (decide (e % 2 = 0) && decide (e + 64 < bs.length)) (failAt x 0 .blendSection)

/-! ### TEMPLATE and SEQ (R36 to R38, R433, R434) -/

/-- The agent takes work: its cluster is enabled and its core offered, or its attachment is present (R433). -/
def agentThere (n : State) (a : Nat) : Bool :=
  if a < 16 then bitOf n.u.clEn (a / 4) && offered n (coreOf a) else if a < 48 then true else bitOf n.u.eaOk (a - 48)

/-- An item of a TEMPLATE (R36, R202, R433). -/
def checkItem (n : State) (x : Sect) (i : Nat) (it : Nat × Item) : Option Fail :=
  let y := it.2
  need (decide (y.offset < n.fr.schedEnd) && decide (y.done < n.fr.schedEnd) && decide (y.offset ≤ y.done) && agentThere n it.1)
      (failAt x i .blendSection)
    <|> need ((itemUses it.1 y).all (fun u => decide (u.first + u.count ≤ 8192))) (failAt x i .listRange)

/-- TEMPLATE (R433). -/
def checkTemplate (n : State) (x : Sect) (bs : List Byte) : Option Fail :=
  need ((itemCounts bs).all (fun c => decide (c ≤ 128))) (failAt x 0 .blendSection)
    <|> firstFailAt (fun i y => need (itemBlank y.1 y.2) (failAt x i .blendSection)) (rawItems (itemCounts bs) 0 (bs.drop 64))
    <|> firstFailAt (checkItem n x) ((itemLists (itemCounts bs) 0 (bs.drop 64)).flatMap (fun a => a.2.map (fun i => (a.1, i))))

/-- Template numbers that the unit keeps, in order. -/
def keptTemplates (ks : List Sect) : List Nat := (keptOf ks 0x10).map (·.inst)

/-- SEQ (R38, R434). -/
def checkSeq (n : State) (ks : List Sect) (x : Sect) (bs : List Byte) : Option Fail :=
  let m := n.bl.entries.length
  firstFailAt (fun i y => need (decide (fldN y 32 32 = 0)) (failAt x i .blendSection)) (structsOf 64 8 m (bs.drop 64))
    <|> firstFail (fun q => need (decide (numAt bs (4 + 2 * q) 2 < 2 ^ 10)) (failAt x q .blendSection)) (upto 16)
    <|> firstFailAt (fun i e => need ((keptTemplates ks).contains e.template && decide (e.next < m)) (failAt x i .blendSection)) n.bl.entries
    <|> firstFailAt (fun q h => need ((!h.defined || decide (h.first < m)) && (twoTask n || !h.part)) (failAt x q .blendSection))
      n.bl.seqs.toList

/-! ### PWRPLAN (R204, R397, R400, R406, R435) -/

/-- Deepest state a plan may name, coded as `CAP` (Table 16-1). -/
def planDeepest (n : State) (d : Nat) : Nat :=
  if d = 0 then 0
  else if d = 1 ∨ d = 21 ∨ d = 22 then 1
  else if d = 2 then 2
  else if 7 ≤ d ∧ d < 11 then (if bitOf n.u.clEn (d - 7) then 2 else 3)
  else if d = 23 then (if usesEif n then 1 else 3)
  else 3

/-- Agents whose items a domain's intervals must not meet (R400). -/
def inDomain (d a : Nat) : Bool :=
  if 3 ≤ d ∧ d < 7 then decide (a < 16) && decide (a / 4 = d - 3)
  else if 7 ≤ d ∧ d < 11 then decide (a < 16) && decide (a / 4 = d - 7)
  else d = 23 && decide (48 ≤ a)

/-- First cycles of the refresh windows of a frame (R34). -/
def refreshWindows (n : State) : List Nat := (upto n.fr.refW).map (fun k => n.fr.refPhase + k * n.fr.refP)

/-- DS_ARR is capped below GATED in all the cycles from `a` to `b` (R400). -/
def arrayRests (is : List Interval) (a b : Nat) : Bool :=
  is.any (fun i => decide (i.dom = 20) && decide (2 ≤ i.cap) && decide (i.a ≤ a) && decide (b ≤ i.b))

/-- What DS_CTL may not do while DS_ARR works (R397, R400). -/
def dsCtlOk (n : State) (is : List Interval) (i : Interval) : Bool :=
  decide (i.dom ≠ 19) || decide (i.cap < 2)
    || ((decide (i.cap < 3) || arrayRests is i.a i.b)
      && (refreshWindows n).all (fun w => !(decide (i.a ≤ w) && decide (w + 320 ≤ i.b)) || arrayRests is w (w + 320)))

/-- An interval of a template's plan, `before` those that precede it in the record (R400). -/
def intervalOk (n : State) (t : Template) (before : List Interval) (i : Interval) : Bool :=
  decide (i.a < i.b) && decide (i.b ≤ n.fr.frameLen) && decide (i.dom < 24) && decide (1 ≤ i.cap) && decide (i.cap ≤ planDeepest n i.dom)
    && before.all (fun j => decide (j.dom ≠ i.dom) || decide (j.b ≤ i.a) || decide (i.b ≤ j.a))
    && decide ((before.filter (fun j => decide (j.dom = i.dom))).length < 16)
    && t.items.all (fun a => !inDomain i.dom a.1 || a.2.all (fun y => decide (i.b ≤ y.offset) || decide (y.done < i.a)))
    && dsCtlOk n t.intervals i

/-- Every interval of a template's plan. -/
def intervalsOk (n : State) (t : Template) : List Interval → List Interval → Bool
  | _, [] => true
  | before, i :: r => intervalOk n t before i && intervalsOk n t (i :: before) r

/-- The idle plan as intervals of a whole frame. -/
def idleIntervals (n : State) (caps : List Nat) : List Interval := caps.zipIdx.map (fun c => { a := 0, b := n.fr.frameLen, dom := c.2, cap := c.1 })

/-- The idle plan (R400). -/
def idlePlanOk (n : State) (caps : List Nat) : Bool :=
  let is := idleIntervals n caps
  is.all (fun i => decide (i.cap ≤ planDeepest n i.dom) && dsCtlOk n is i)

/-- The target cap in W (R406). -/
def capW : Bin → Nat | .h => 30 | .s => 26 | .e => 22

/-- An energy that the target cap allows (R435). -/
def energyOk (n : State) (e : Nat) : Bool := decide (e ≤ capW n.bl.bin * n.fr.own.period.toNat * 10)

/-- PWRPLAN (R435). -/
def checkPlan (n : State) (ks : List Sect) (x : Sect) (bs : List Byte) : Option Fail :=
  let rs := (planRecords 65 (bs.drop 64)).getD []
  let want := keptTemplates ks
  let have' := rs.map (·.1)
  need (idlePlanOk n ((slice bs 4 24).map (·.toNat))) (failAt x 0 .pwrPlan)
    <|> need (energyOk n (numAt bs 0 4)) (failAt x 0 .pwrCap)
    <|> (match (upto (max want.length have'.length)).find? (fun i => decide (want[i]? ≠ have'[i]?)) with
      | some i => some (failAt x i .pwrPlan)
      | none => none)
    <|> firstFailAt (fun i r =>
        let t := templateAt n r.1
        need (r.2.2.all (fun y => decide (fldN y 55 9 = 0)) && intervalsOk n t [] t.intervals) (failAt x i .pwrPlan) <|> need (energyOk n r.2.1) (failAt x i .pwrCap)) rs

end Sys2Proof.Machine
end

