-- ==== Sys2Proof/Machine/CheckPrograms.lean ====
section
/-! DEFINITION. What the loader checks of the sections CORE, ROUTE, WHISK, LISTS, CHAN and EIF (Tables 5-4, 9-2, 9-3 and 10-1,
R211, R215, R243 to R261, R436 to R438). -/

namespace Sys2Proof.Machine

/-! ### CORE (R93, R175, R199, R436) -/

/-- Descriptors of a core that the ROWS blocks of its lists name (R212). -/
def listDescs (n : State) (c : CoreId) : List DescUse :=
  ((listUses n).filter (fun u => decide (u.agent = c.val))).flatMap (fun u =>
    (span u.first u.count).filterMap (fun i =>
      let e := listEntry n i
      if bKind e = 1 then some (.tensor (if u.store then bDdesc e else bSdesc e) false) else none))

/-- CORE of core `c` (R436). -/
def checkCore (n : State) (c : CoreId) (x : Sect) (bs : List Byte) : Option Fail :=
  let ws := programOf n c (numAt bs 0x480 4)
  let ds := n.bl.cores[c].d
  need (bitOf n.u.clEn (clOf c).val && offered n c) (failAt x 0 .blendSection)
    <|> (walkProgram n c 0 0 [] ws).map (fun e => failAt x e.2 e.1)
    <|> firstFailAt (fun i w => (usesCheck ds (wordUses w)).map (fun e => failAt x i e.1)) ws
    <|> (usesCheck ds (listDescs n c)).map (fun e => failAt x e.2 e.1)

/-! ### ROUTE and WHISK (Table 5-4, R116, R133, R134) -/

/-- All fields of `k` bits of a value of `n` such fields are all zeros or all ones. -/
def uniform (v k n : Nat) : Bool := (upto n).all (fun i => let y := v / 2 ^ (k * i) % 2 ^ k; decide (y = 0) || decide (y = 2 ^ k - 1))

/-- A route word for width 2^e is grouped (R116). -/
def grouped (e : Nat) (r : BitVec 21504) : Bool :=
  decide (e = 0) || (upto 21).all (fun st =>
    let v := fldN r (1024 * st) 1024
    if 11 - e ≤ st ∧ st ≤ 10 + e then decide (v = 0) else uniform v (2 ^ e) (1024 / 2 ^ e))

/-- Slots 2g and 2g + 1 of core `c` are the ingress and the egress slot of one gang route of width 2^e. -/
def gangPairOk (n : State) (c : CoreId) (g e : Nat) : Bool :=
  let a := (slotOf n c (2 * g)).tag
  let b := (slotOf n c (2 * g + 1)).tag
  decide (tagKind a = 2) && decide (tagKind b = 3) && decide (tagWidth a = e) && decide (tagWidth b = e)

/-- The checks of a route slot, `n` holding every slot as written (Table 5-4, R134). -/
def slotCheck (n : State) (c : CoreId) (k : Nat) (r : RouteSlot) : Option Err :=
  let kind := tagKind r.tag
  let e := tagWidth r.tag
  if fldN r.tag 5 3 ≠ 0 ∨ 6 ≤ e then some .routeTag
  else if kind = 0 then (if r.word = 0 then none else some .routeTag)
  else if !grouped e r.word then some .routeGroup
  else if kind = 1 then none
  else
    let g := k / 2
    if decide (k % 2 = kind - 2) && gangPairOk n c g e && bitOf n.u.gangOk (clOf c).val && (coresOf (clOf c)).all (fun d => gangPairOk n d g e)
        && bitOf n.cls[clOf c].whiskLoaded g then none
    else some .gangPair

/-- Width of the gang route a Whisk slot belongs to; none when its slots are no gang slots. -/
def whiskWidth (n : State) (k : ClusterId) (g : Nat) : Option Nat :=
  let t := (slotOf n ⟨4 * k.val, by omega⟩ (2 * g)).tag
  if tagKind t = 2 then some (tagWidth t) else none

/-- A Whisk word (R133): every byte feeds each core once, and a gang route's groups of bytes are equal. -/
def whiskWordOk (w : BitVec 16384) (e : Option Nat) : Bool :=
  (upto 2048).all (fun i =>
    let b := fldN w (8 * i) 8
    decide ([b % 4, b / 4 % 4, b / 16 % 4, b / 64].Nodup)
      && (match e with | some e => decide (b = fldN w (8 * (i / 2 ^ e * 2 ^ e)) 8) | none => true))

/-- ROUTE of core `c` (R437). -/
def checkRoute (n : State) (c : CoreId) (x : Sect) (bs : List Byte) : Option Fail :=
  firstFail (fun k => need (blank bs (65 + 2752 * k.2) 63) (failAt x k.1 .routeTag)) (setBits 64 (numAt bs 0 8)).zipIdx
    <|> firstFail (fun r => (slotCheck n c r.1 r.2).map (failAt x r.1)) (routeSlots bs)

/-- WHISK of cluster `k` (R437). -/
def checkWhisk (n : State) (k : ClusterId) (x : Sect) (bs : List Byte) : Option Fail :=
  firstFail (fun w => need (whiskWordOk w.2 (whiskWidth n k w.1)) (failAt x w.1 .routeWhisk)) (whiskWords bs)

/-! ### LISTS (Tables 9-1 to 9-3, R209 to R215) -/

/-- Reserved fields and encodings of a block entry (Table 9-1). -/
def entryForm (e : BitVec 256) : Bool :=
  decide (bKind e ≠ 3) && decide (bInc e ≠ 3) && decide (fldN e 28 4 = 0)
    && (if bKind e = 0 then !bScl e && decide (bSspace e ≠ 3) && decide (fldN e 156 100 = 0)
        else if bKind e = 1 then decide (fldN e 96 160 = 0) else !bScl e && decide (fldN e 52 204 = 0))

/-- A COPY address that no base moves: aligned, and in one window when it is local (Table 9-3). -/
def copyAddr (space a n : Nat) : Option Err := if a % 64 ≠ 0 then some .tdAlign else if copyRange space a n then none else some .tdRange

/-- A block that a core's list uses (R209, R212). -/
def coreUse (n : State) (c : CoreId) (store : Bool) (e : BitVec 256) : Option Err :=
  let p := corePart c
  let mine (used : Bool) (r : Ctr) : Bool := !used || ctrMine n p r.val
  if decide (bKind e = 2) || bSrel e || bDrel e || bScl e || !mine (decide (bInc e ≠ 0)) (bIncCtr e) || !mine (bCredEn e) (bCredCtr e) then some .blockForm
  else if bKind e = 1 then
    let d := n.bl.cores[c].d[if store then bDdesc e else bSdesc e]
    let other := if store then bSdesc e else bDdesc e
    if decide (other.val = 0) && localRow d then none else some .blockForm
  else if store then
    if bSspace e ≠ 0 ∨ bSaddr e ≠ 0 then some .blockForm
    else if bDspace e = 3 then (if bDaddr e < 2 then none else some .blockForm)
    else if bDspace e ≠ 0 then some .blockForm
    else copyAddr 0 (bDaddr e) (bLen e)
  else if bSspace e ≠ 0 ∨ bDspace e ≠ 0 ∨ bDaddr e ≠ 0 then some .blockForm
  else copyAddr 0 (bSaddr e) (bLen e)

/-- A block of a channel as the load sees it, its bases left out. -/
def plainBlock (n : State) (h : ChanId) (e : BitVec 256) : BlkRun :=
  { entry := e, idx := 0, sd := n.mov.chans[h].desc[bSdesc e], dd := n.mov.chans[h].desc[bDdesc e] }

/-- A global source goes to Near Store, by a COPY of at most 64 KiB or a gather of rows of at most 64 KiB (Table 9-2). -/
def globalSource (b : BlkRun) : Bool :=
  let e := b.entry
  if bKind e = 0 then decide (bLen e ≤ 65536) && (bDrel e || decide (bDaddr e + bLen e ≤ 0x2000000))
  else decide (bKind e = 2) && !bSct e && decide (1 ≤ bK e) && decide (rowLen b.sd ≤ 65536) && (bDrel e || inNear b.dd)

/-- The endpoint pair of Table 9-2 for a channel. -/
def pairOk (n : State) (h : ChanId) (b : BlkRun) : Bool :=
  match bSrcSpace b, bDstSpace b with
  | 0, 0 | 2, 0 | 0, 2 => true
  | 0, 1 => n.mov.chans[h].streamEn
  | 1, 0 => n.mov.chans[h].streamEn && globalSource b
  | _, _ => false

/-- A descriptor to which a base will be added stands for one that lies low enough for any rule on its place. -/
def lowered (rel : Bool) (d : Desc) : Desc := if rel then setFld d 0 48 0 else d

/-- Operands of a channel's INDEX block (Table 7-1, R168, R172). -/
def indexUse (n : State) (h : ChanId) (b : BlkRun) : Option Err :=
  let e := b.entry
  let k := bClu e
  if bVar e && decide ((if bSct e then bDdesc e else bSdesc e).val = 15) then some .ladIndex
  else if crosses n (chanPart n h) (clPart k) || !bitOf n.u.clEn k.val then some .ladMode
  else indexRest n h { b with sd := lowered (bSrel e) b.sd, dd := lowered (bDrel e) b.dd }

/-- A block that a channel's list uses (Tables 9-2 and 9-3). -/
def chanUse (n : State) (h : ChanId) (e : BitVec 256) : Option Err :=
  let p := chanPart n h
  let b := plainBlock n h e
  let away := decide (bDstSpace b = 1)
  if (decide (bInc e ≠ 0) && !away && !ctrMine n p (bIncCtr e).val) || (bCredEn e && !ctrMine n p (bCredCtr e).val) then some .blockForm
  else if !pairOk n h b then some .blockForm
  else if decide (bKind e = 0) && away && decide (bLen e % 64 ≠ 0) then some .blockForm
  else if bKind e = 0 then
    (if bSrel e then none else copyAddr (bSspace e) (bSaddr e) (bLen e)) <|> (if bDrel e then none else copyAddr (bDspace e) (bDaddr e) (bLen e))
  else if bKind e = 1 then
    if decide (tdLayout b.sd = lRow) && decide (tdLayout b.dd = lRow) && decide (tdFmt b.sd = tdFmt b.dd) && decide (tdSize b.sd 0 = tdSize b.dd 0)
        && (!bScl e || decide (tdFmt b.dd = 0) || decide (tdFmt b.dd = 2)) then none
    else some .blockForm
  else indexUse n h b

/-- A block under one of its uses. -/
def useFails (n : State) (e : BitVec 256) (u : ListUse) : Option Err :=
  if u.agent < 16 then coreUse n (coreOf u.agent) u.store e else chanUse n (chanOf u.agent) e

/-- The first use of a block that fails. -/
def usesFail (n : State) (e : BitVec 256) : List ListUse → Option Err
  | [] => none
  | u :: r => match useFails n e u with | some x => some x | none => usesFail n e r

/-- Credit counters that channels' blocks name: counter, channel, entry (R215). -/
def creditUses (n : State) : List (Nat × Nat × Nat) :=
  (chanUses (listUses n)).flatMap (fun u => (span u.first u.count).filterMap (fun i =>
    let e := listEntry n i
    if bCredEn e then some ((bCredCtr e).val, u.agent, i) else none))

/-- Credit counters that any list entry names, a core's and one only a re-arm would start among them: counter, entry (R215). -/
def namedCredits (n : State) : List (Nat × Nat) :=
  (n.mov.mem.filter (fun e => bCredEn e.2)).map (fun e => ((bCredCtr e.2).val, e.1))

/-- Counters that a port word names as `INC_CTR`, each word taken where it stands in the program (R215). -/
def portIncs : Nat → List (BitVec 64) → List Nat
  | _, [] => []
  | left + 1, w :: r => (if fldN w 60 4 = 2 ∨ fldN w 60 4 = 6 then [fldN w 38 10] else []) ++ portIncs left r
  | 0, w :: r =>
    (if fldN w 60 4 = 2 ∧ fldN w 48 2 ≠ 0 then [fldN w 38 10] else []) ++ portIncs (if fldN w 60 4 = 4 then fldN w 57 3 + 1 else 0) r

/-- Port words of an attachment, up to the last that is not END. -/
def portProgram (n : State) (a : EaId) : List (BitVec 64) :=
  (upto ((n.eif[a].prog.map (·.1 + 1)).foldl max 0)).map (look 0 n.eif[a].prog)

/-- Counters that some `INC_CTR`, or a WCNT, names (R215). -/
def incCounters (n : State) : List Nat :=
  (n.mov.mem.filter (fun e => decide (bInc e.2 ≠ 0))).map (fun e => (bIncCtr e.2).val)
    ++ (List.finRange 2).flatMap (fun a => portIncs 0 (portProgram n a))
    ++ allCores.flatMap (fun c => (n.cores[c].imem.filter (fun w => decide (wOpc w.2 = 0x30))).map (fun w => wImm w.2 % 1024))

/-- Credits are private to their stream (R215). -/
def checkCredits (n : State) (x : Sect) : Option Fail :=
  let us := creditUses n
  let incs := incCounters n
  firstFail (fun u => need (us.all (fun v => decide (v.1 ≠ u.1) || decide (v.2.1 = u.2.1))) (failAt x u.2.2 .creditShared)) us
    <|> firstFail (fun u => need (!incs.contains u.1) (failAt x u.2 .creditShared)) (namedCredits n)

/-- LISTS (R438). -/
def checkLists (n : State) (x : Sect) (bs : List Byte) : Option Fail :=
  let us := listUses n
  firstFail (fun i =>
      let e := listEntry n i
      need (entryForm e) (failAt x i .blockForm) <|> (usesFail n e (usesOf us i)).map (failAt x i)) (upto (numAt bs 0 2))
    <|> checkCredits n x

/-! ### CHAN (R211, R438) -/

/-- A descriptor to which a base will be added: its alignment and range wait for the block's start (R213). -/
def checkNamed (d : Desc) (rel : Bool) (accepts : Desc → Bool) : Option Err :=
  match checkTd d rel accepts with
  | some .tdRange => if rel then (if accepts d then none else some .tdSpace) else some .tdRange
  | e => e

/-- Descriptors that a block names: number, whether a base is added, what the block accepts (R211). -/
def blockDescs (e : BitVec 256) : List (DReg × Bool × (Desc → Bool)) :=
  if bKind e = 1 then [(bSdesc e, bSrel e, fun _ => true), (bDdesc e, bDrel e, fun _ => true)]
  else if bKind e = 2 then
    [(bSdesc e, bSrel e, fun d => !isPlane d), (bDdesc e, bDrel e, fun d => !isPlane d), (bIdesc e, false, fun d => !isPlane d)]
      ++ (if bVar e then [(tableReg (if bSct e then bDdesc e else bSdesc e), false, fun _ => true)] else [])
  else []

/-- A failure in the CHAN section of a channel, or in the empty form when none is kept. -/
def failIn (ks : List Sect) (item : Nat) (e : Err) : Fail :=
  match ks with | x :: _ => failAt x item e | [] => { e := e, detail := 0xFFFF + item % 65536 * 65536 }

/-- The descriptors that the blocks of a channel's items name (R211). -/
def checkChan (n : State) (ks : List Sect) (h : ChanId) : Option Fail :=
  let sec := (keptOf ks 0x31).filter (fun x => decide (x.inst = h.val))
  let es := ((listUses n).filter (fun u => decide (u.agent = 16 + h.val))).flatMap (fun u => (span u.first u.count).map (listEntry n))
  firstFail (fun d => (checkNamed n.mov.chans[h].desc[d.1] d.2.1 d.2.2).map (failIn sec d.1.val)) (es.flatMap blockDescs)

/-! ### EIF (R243 to R261) -/

/-- A word sets only bits of a mask, given as fields (low bit, width). -/
def onlyIn (w : BitVec 64) (fields : List (Nat × Nat)) : Bool :=
  let mask := (fields.map (fun f => (2 ^ f.2 - 1) * 2 ^ f.1)).sum
  within (fldN w 0 60) mask

/-- Descriptor field of DRAIN and of CLIP stages. -/
def wDesc (w : BitVec 64) : DReg := ⟨fldN w 50 4, (w.extractLsb' 50 4).isLt⟩

/-- PANEL (R247, R249). -/
def panelWordOk (w : BitVec 64) : Bool :=
  let mode := fldN w 58 2
  let t := fldN w 33 11 + 1
  let fresh (lo : Nat) : Bool :=
    let h := fldN w lo 4 + 1
    let f := t / h
    decide (t % h = 0) && decide (f ≤ 128) && (if mode = 2 then decide (2 ≤ h) && decide (f % 8 = 0) else decide (f % 2 = 0))
  onlyIn w [(58, 2), (54, 4), (50, 4), (47, 3), (44, 3), (33, 11), (0, 24)] && decide (mode ≠ 3) && fresh 54 && fresh 50

/-- A descriptor of an attachment under R58, then a rule of its word. -/
def eaDesc (n : State) (a : EaId) (d : DReg) (rest : Desc → Option Err) : Option Err :=
  let t := n.eif[a].desc[d]
  match checkTd t false (fun _ => true) with | some e => some e | none => rest t

/-- DRAIN (R251, R252). -/
def drainWord (n : State) (a : EaId) (w : BitVec 64) : Option Err :=
  if !onlyIn w [(54, 2), (50, 4), (48, 2), (38, 10), (31, 7), (24, 7), (0, 24)] || decide (fldN w 48 2 = 3) then some .eifForm
  else eaDesc n a (wDesc w) (fun d =>
    if tdSpace d = 2 then some .tdSpace
    else if tdSpace d = 1 ∧ ¬(tdLayout d = lRow ∧ (tdWidth d = 8 ∨ tdWidth d = 16 ∨ tdWidth d = 32)) then some .tdSpace
    else if !drainAccepts d then some .eifForm
    else if tdSpace d = 1 ∧ n.eif[a].streamEn = false then some .tdSpace else none)

/-- A counter that a WAITC or a WAIT names (R256). -/
def waitWord (n : State) (a : EaId) (w : BitVec 64) : Option Err :=
  if onlyIn w [(38, 10), (24, 14)] && ctrMine n (eaPart a) (fldN w 38 10) then none else some .eifForm

/-- A port word outside a CLIP (R244). -/
def portWordCheck (n : State) (a : EaId) (w : BitVec 64) : Option Err :=
  let form (ok : Bool) : Option Err := if ok then none else some .eifForm
  match fldN w 60 4 with
  | 0 => form (decide (w = 0))
  | 1 => form (panelWordOk w)
  | 2 => drainWord n a w
  | 3 => waitWord n a w
  | 4 => form (onlyIn w [(57, 3)])
  | _ => some .eifForm

/-- A stage word of a CLIP (R261). -/
def stageWord (n : State) (a : EaId) (w : BitVec 64) : Option Err :=
  let form (ok : Bool) : Option Err := if ok then none else some .eifForm
  match fldN w 60 4 with
  | 1 => form (onlyIn w [(0, 3)] && decide (w.toNat % 8 ≠ 0) && (List.finRange 3).all (fun t => !bitOf w t.val || !crosses n (eaPart a) (tapPart n t)))
  | 2 =>
    if !onlyIn w [(50, 4), (38, 10), (0, 24)] then some .eifForm
    else eaDesc n a (wDesc w) (fun d =>
      if tdSpace d ≠ 1 then some .tdSpace
      else if fldN d 32 16 ≠ n.u.addr.toNat ∧ n.eif[a].streamEn = false then some .tdSpace else none)
  | 3 => waitWord n a w
  | 4 =>
    if onlyIn w [(50, 4), (0, 24)] && decide (fldN w 0 24 < 4096) then eaDesc n a (wDesc w) (fun d => if isLocal d then none else some .tdSpace)
    else some .eifForm
  | 5 => form (onlyIn w [(0, 32)] && decide (0 < fldN w 0 32) && decide (fldN w 0 32 < 0x7F800000))
  | 6 =>
    if !onlyIn w [(50, 4), (38, 10)] || decide ((wDesc w).val = 15) then some .eifForm
    else eaDesc n a (wDesc w) (fun d => if isIndex d then eaDesc n a ⟨((wDesc w).val + 1) % 16, by omega⟩ (fun _ => none) else some .tdSpace)
  | 7 => if !onlyIn w [(50, 4)] then some .eifForm else eaDesc n a (wDesc w) (fun d => if isLocal d then none else some .tdSpace)
  | _ => some .eifForm

/-- A port program from word `i` on, with `left` stage words of a CLIP to come. -/
def portGo (n : State) (a : EaId) (x : Sect) : Nat → Nat → List (BitVec 64) → Option Fail
  | _, 0, [] => none
  | i, _ + 1, [] => some (failAt x (i - 1) .eifForm)
  | i, left + 1, w :: r => match stageWord n a w with | some e => some (failAt x i e) | none => portGo n a x (i + 1) left r
  | i, 0, w :: r =>
    match portWordCheck n a w with
    | some e => some (failAt x i e)
    | none => portGo n a x (i + 1) (if fldN w 60 4 = 4 then fldN w 57 3 + 1 else 0) r

/-- EIF of attachment `a` (R438). -/
def checkEif (n : State) (a : EaId) (x : Sect) (bs : List Byte) : Option Fail := portGo n a x 0 0 (portWords bs)

end Sys2Proof.Machine
end

