-- ==== Sys2Proof/Machine/CheckRemote.lean ====
section
/-! DEFINITION. What the loader checks of the sections STREAMS and LABELS, the checks that span sections, and all checks in
their order (R28, R49, R276, R312 to R314, R341, R353, R439, R440). -/

namespace Sys2Proof.Machine

/-! ### STREAMS (R28, R312, R313) -/

/-- `DEST_UNIT` of a stream (Table 13-1). -/
def stDest (x : Stream) : Nat := fldN x.entry 96 16
/-- `AGENT` and `AGENT_ID`. -/
def stAgent (x : Stream) : Nat := fldN x.entry 1 2
def stAgentId (x : Stream) : Nat := fldN x.entry 3 5
/-- The entry is `VALID`. -/
def stValid (x : Stream) : Bool := bitOf x.entry 0

/-- The agent exists, and in two-task mode owns the stream (R312). -/
def agentOk (n : State) (x : Stream) : Bool :=
  let id := stAgentId x
  let mine (p : Part) : Bool := !crosses n p (partOfBit (bitOf x.entry 8))
  match stAgent x with
  | 0 => decide (id < 16) && mine (corePart (coreOf id))
  | 1 => mine (chanPart n ⟨id % 32, by omega⟩)
  | 2 => decide (id < 2) && mine (eaPart ⟨id % 2, by omega⟩)
  | _ => false

/-- The entry of a stream by itself (R28, R312, R313). -/
def streamOk (n : State) (x : Stream) : Bool :=
  decide (fldN x.entry 112 16 = 0) && decide (stAgent x ≠ 3) && (!stValid x || (agentOk n x &&
    (if stBcast x then
      decide (stAgent x = 2) && decide (stDest x = 0) && decide (stLabel x = 0) && !stViaNoc x && decide (stViaUnit x = 0) && decide (stHops x = 0)
    else
      (decide (stHops x ≠ 0) || stViaNoc x) && decide (stHops x ≤ 8) && !(stD2 x && decide (stHops x = 1)) && decide (stDest x ≠ n.u.addr.toNat))))

/-- A stream that an agent names: its entry names the agent, and a global endpoint, where there is one, lies in the stream's
unit. -/
structure StreamUse where
  stream : StreamId
  agent : Nat
  id : Nat
  bcast : Bool
  dest : Option Nat
  deriving DecidableEq, Repr

/-- Bits [47:32] of a base: the unit of a global address. -/
def baseUnit (a : Nat) : Nat := a / 2 ^ 32

/-- Streams named by RWT, RRD and RINC of a core (R193 to R195). -/
def coreStreams (n : State) (c : CoreId) : List StreamUse :=
  n.cores[c].imem.filterMap (fun e =>
    let w := e.2
    let dst (b : Nat) : Option StreamUse :=
      some { stream := wStream w, agent := 0, id := c.val, bcast := false, dest := some (baseUnit (tdBase (initDesc n c b))) }
    match wOpc w with
    | 0x32 | 0x34 => dst (wDst w)
    | 0x33 => dst (wSrcA w)
    | _ => none)

/-- Units of the global endpoints of a channel's block. -/
def blockUnits (n : State) (h : ChanId) (e : BitVec 256) : List Nat :=
  let b := plainBlock n h e
  (if bSrcSpace b = 1 then [baseUnit (if bKind e = 0 then bSaddr e else tdBase b.sd)] else [])
    ++ (if bDstSpace b = 1 then [baseUnit (if bKind e = 0 then bDaddr e else tdBase b.dd)] else [])

/-- Streams that a channel names. -/
def chanStreams (n : State) (h : ChanId) : List StreamUse :=
  let x := n.mov.chans[h]
  let use (d : Option Nat) : StreamUse := { stream := chanStream x, agent := 1, id := h.val, bcast := false, dest := d }
  if x.streamEn then
    use none :: ((listUses n).filter (fun u => decide (u.agent = 16 + h.val))).flatMap (fun u =>
      (span u.first u.count).flatMap (fun i => (blockUnits n h (listEntry n i)).map (fun d => use (some d))))
  else []

/-- Words of a port program that name the attachment's stream, and those that name its broadcast stream: DRAIN and SEND by
their descriptors' units, BCAST. -/
def portUses (n : State) (a : EaId) : Nat → List (BitVec 64) → List (Option Nat)
  | _, [] => []
  | left + 1, w :: r =>
    let d := n.eif[a].desc[wDesc w]
    (if fldN w 60 4 = 6 then [none] else if fldN w 60 4 = 2 ∧ baseUnit (tdBase d) ≠ n.u.addr.toNat then [some (baseUnit (tdBase d))] else [])
      ++ portUses n a left r
  | 0, w :: r =>
    let d := n.eif[a].desc[wDesc w]
    (if fldN w 60 4 = 2 ∧ tdSpace d = 1 then [some (baseUnit (tdBase d))] else [])
      ++ portUses n a (if fldN w 60 4 = 4 then fldN w 57 3 + 1 else 0) r

/-- Streams that an attachment names (R312, R313). -/
def eaStreams (n : State) (a : EaId) : List StreamUse :=
  let x := n.eif[a]
  let us := portUses n a 0 (portProgram n a)
  let one (d : Option Nat) : StreamUse := { stream := eaStream x, agent := 2, id := a.val, bcast := false, dest := d }
  let bc : StreamUse := { stream := eaBStream x, agent := 2, id := a.val, bcast := true, dest := none }
  (if x.streamEn then [one none] else []) ++ (us.filterMap (fun u => u.map (fun d => one (some d)))) ++ (if x.bstreamEn then [bc] else [])

/-- A BCAST stage without a broadcast stream (R313). -/
def bcastBare (n : State) (a : EaId) : Bool := !n.eif[a].bstreamEn && (portUses n a 0 (portProgram n a)).contains none

/-- A use of a stream (R312, R313). -/
def useOk (n : State) (u : StreamUse) : Bool :=
  let x := n.rmt.streams[u.stream]
  stValid x && decide (stAgent x = u.agent) && decide (stAgentId x = u.id) && decide (stBcast x = u.bcast)
    && (match u.dest with | some d => decide (stDest x = d) | none => true)

/-- Slots of the unit's own link that streams and forward entries ask for (R49). -/
def askedSlots (n : State) : Nat :=
  (((n.rmt.streams.toList.filter (fun x => stValid x && !stViaNoc x))).map stQuota).sum
    + ((n.rmt.labels.filter (fun l => lbValid l.2 && !lbDeliver l.2 && !lbViaNoc l.2)).map (fun l => lbQuota l.2)).sum

/-- Slots of the link left for quotas (R49). -/
def slotsLeft (n : State) : Nat := n.fr.linkSlots - n.fr.linkSlots * n.fr.replayRsv / 1000 - b2n n.fr.own.treeOut

/-- The rules on streams, which hold whether or not a section gives them (R49, R312, R313). -/
def checkStreams (n : State) (ks : List Sect) : Option Fail :=
  let sec := keptOf ks 0x40
  let uses := allCores.flatMap (coreStreams n) ++ allChans.flatMap (chanStreams n) ++ (List.finRange 2).flatMap (eaStreams n)
  firstFailAt (fun i x => need (streamOk n x) (failIn sec i .rmtStream)) n.rmt.streams.toList
    <|> firstFail (fun u => need (useOk n u) (failIn sec u.stream.val .rmtStream)) uses
    <|> firstFail (fun a => need (!bcastBare n a) (failIn sec n.eif[a].bstream.toNat .rmtStream)) (List.finRange 2)
    <|> need (decide (askedSlots n ≤ slotsLeft n)) { e := .rmtStream, detail := askedSlots n }

/-! ### LABELS (R314) -/

/-- A window lies in one bank group, of its own partition, or in Deep Store. -/
def windowOk (n : State) (e : BitVec 128) : Bool :=
  let lo := lbWinLo e
  let hi := lbWinHi e
  (decide (hi ≤ 0x2000000) && decide (lo / 0x400000 = (hi - 1) / 0x400000) && !crosses n (lbOwner e) (groupPart n (groupOf lo)))
    || (decide (0x40000000 ≤ lo) && decide (hi ≤ 0x80000000))

/-- The form of a label entry (Table 13-2). -/
def labelOk (n : State) (e : BitVec 128) : Bool :=
  decide (fldN e 119 9 = 0) &&
    (!lbValid e || (if lbDeliver e then windowOk n e else decide (fldN e 21 61 = 0) && decide (fldN e 103 16 = 0)))

/-- LABELS (R439). -/
def checkLabels (n : State) (x : Sect) : Option Fail :=
  firstFail (fun l => need (labelOk n l.2) (failAt x l.1 .rmtLabel)) n.rmt.labels

/-! ### Checks that span sections (R276, R341, R353, R440) -/

/-- Streams, labels or the tick tree use a link that is not UP (R341, R351). -/
def checkLink (s n : State) (ks : List Sect) : Option Fail :=
  if s.lnk.st = .up then none
  else
    firstFailAt (fun i x => need (!(stValid x && !stBcast x && !stViaNoc x)) (failIn (keptOf ks 0x40) i .lnkNotUp)) n.rmt.streams.toList
      <|> firstFail (fun l => need (!(lbValid l.2 && !lbViaNoc l.2)) (failIn (keptOf ks 0x41) l.1 .lnkNotUp)) n.rmt.labels
      <|> need (decide (n.fr.own.src ≠ 2) && !n.fr.own.treeOut) (failIn (keptOf ks 2) 0 .lnkNotUp)

/-- A program of core `c` names tap `t`. -/
def namesTap (n : State) (c : CoreId) (t : Nat) : Bool := n.cores[c].imem.any (fun w => decide (wOpc w.2 = 0x3F) && decide (wImm w.2 % 4 = t))

/-- A store list of core `c` feeds its attachment; answers the entry. -/
def feedsAt (n : State) (c : CoreId) : Option Nat :=
  ((listUses n).filter (fun u => decide (u.agent = c.val) && u.store)).findSome? (fun u =>
    (span u.first u.count).find? (fun i => let e := listEntry n i; decide (bKind e = 0) && decide (bDspace e = 3)))

/-- An EMIT stage of a port program names tap 2. -/
def emitsTap2 : Nat → List (BitVec 64) → Bool
  | _, [] => false
  | left + 1, w :: r => (decide (fldN w 60 4 = 1) && bitOf w 2) || emitsTap2 left r
  | 0, w :: r => emitsTap2 (if fldN w 60 4 = 4 then fldN w 57 3 + 1 else 0) r

/-- The CORE section of a core. -/
def coreSect (ks : List Sect) (c : CoreId) : List Sect := (keptOf ks 0x20).filter (fun x => decide (x.inst = c.val))

/-- An attachment that is absent, or a tap of one, is used (R353). -/
def checkEa (n : State) (ks : List Sect) (a : EaId) : Option Fail :=
  if bitOf n.u.eaOk a.val then none
  else
    let sec := (keptOf ks 0x32).filter (fun x => decide (x.inst = a.val))
    (match sec with | x :: _ => some (failAt x 0 .eaBad) | [] => none)
      <|> firstFail (fun c => need (decide (corePart c ≠ eaPart a) || (feedsAt n c).isNone)
          (failIn (keptOf ks 0x30) ((feedsAt n c).getD 0) .eaBad)) allCores
      <|> firstFail (fun c => need (!namesTap n c a.val) (failIn (coreSect ks c) 0 .eaBad)) allCores

/-- The inbound tap failed its known-answer run and is used (R353). -/
def checkTap2 (n : State) (ks : List Sect) : Option Fail :=
  if bitOf n.u.katFail 30 then
    firstFail (fun c => need (!namesTap n c 2) (failIn (coreSect ks c) 0 .eaBad)) allCores
      <|> firstFail (fun a => need (!emitsTap2 0 (portProgram n a))
          (failIn ((keptOf ks 0x32).filter (fun x => decide (x.inst = a.val))) 0 .eaBad)) (List.finRange 2)
  else none

/-- Channels that failed their known-answer run and have work (R353). -/
def checkMov (n : State) (ks : List Sect) : Option Fail :=
  firstFail (fun h => need (!(bitOf n.u.katMov (h.val / 4) && (listUses n).any (fun u => decide (u.agent = 16 + h.val))))
    (failIn ((keptOf ks 0x31).filter (fun x => decide (x.inst = h.val))) 0 .movBad)) allChans

/-- Bytes `lo` to `hi` touch an absent bank group. -/
def inBadGroup (n : State) (lo hi : Int) : Bool :=
  (List.finRange 8).any (fun g => n.mem.groups[g].bad && decide (lo < 0x400000 * ((g.val : Int) + 1)) && decide (0x400000 * (g.val : Int) ≤ hi))

/-- A local tensor lies in an absent group. -/
def descBad (n : State) (d : Desc) : Bool := isLocal d && inBadGroup n (footprint d).1 (footprint d).2

/-- Tensor descriptors of a core that its words and lists name. -/
def coreDescs (n : State) (c : CoreId) : List Desc :=
  (n.cores[c].imem.flatMap (fun w => wordUses w.2) ++ listDescs n c).filterMap (fun u =>
    match u with | .tensor d _ => some (n.bl.cores[c].d[d]) | .map _ _ => none)

/-- A block of a list places something in an absent group: a COPY range or, in a channel, a named descriptor or the scale
word. Addresses that a base moves are left to the run. -/
def blockBad (n : State) (u : ListUse) (e : BitVec 256) : Bool :=
  let range (rel : Bool) (space a : Nat) : Bool := !rel && decide (space = 0) && inBadGroup n a ((a : Int) + bLen e - 1)
  if bKind e = 0 then
    if u.agent < 16 then (if u.store then decide (bDspace e = 0) && range false 0 (bDaddr e) else range false 0 (bSaddr e))
    else range (bSrel e) (bSspace e) (bSaddr e) || range (bDrel e) (bDspace e) (bDaddr e)
  else if u.agent < 16 then false
  else
    let x := n.mov.chans[chanOf u.agent]
    (blockDescs e).any (fun d => !d.2.1 && descBad n x.desc[d.1])
      || (decide (bKind e = 1) && bScl e && inBadGroup n x.scaleAddr.toNat (x.scaleAddr.toNat + 3))

/-- Descriptors that an attachment's DRAIN and stage words name. -/
def portDescs (n : State) (a : EaId) : Nat → List (BitVec 64) → List Desc
  | _, [] => []
  | left + 1, w :: r =>
    (if ([2, 4, 6, 7] : List Nat).contains (fldN w 60 4) then [n.eif[a].desc[wDesc w]] else []) ++ portDescs n a left r
  | 0, w :: r =>
    (if fldN w 60 4 = 2 then [n.eif[a].desc[wDesc w]] else []) ++ portDescs n a (if fldN w 60 4 = 4 then fldN w 57 3 + 1 else 0) r

/-- The Blend places something in an absent bank group, or marks one (R276). -/
def checkGroups (n : State) (ks : List Sect) : Option Fail :=
  let marked := (List.finRange 8).any (fun g => n.mem.groups[g].bad && bitOf n.mem.retain g.val)
  need (!marked) (failIn (keptOf ks 2) 0 .nsGroupBad)
    <|> firstFail (fun c => need (!(coreDescs n c).any (descBad n)) (failIn (coreSect ks c) 0 .nsGroupBad)) allCores
    <|> firstFail (fun u => firstFail (fun i => need (!blockBad n u (listEntry n i)) (failIn (keptOf ks 0x30) i .nsGroupBad))
        (span u.first u.count)) (listUses n)
    <|> firstFail (fun a => need (!(portDescs n a 0 (portProgram n a)).any (descBad n))
        (failIn ((keptOf ks 0x32).filter (fun x => decide (x.inst = a.val))) 0 .nsGroupBad)) (List.finRange 2)
    <|> firstFail (fun l => need (!(lbValid l.2 && lbDeliver l.2 && inBadGroup n (lbWinLo l.2) ((lbWinHi l.2 : Int) - 1)))
        (failIn (keptOf ks 0x41) l.1 .nsGroupBad)) n.rmt.labels

/-! ### All checks in order (R440) -/

/-- The checks of the kept sections of one type: its reserved bytes, then its own rules. -/
def onType (img : List Byte) (ks : List Sect) (typ : Nat) (f : Sect → List Byte → Option Fail) : Option Fail :=
  firstFail (fun x => checkReserved x (sectBytes img x) <|> f x (sectBytes img x)) (keptOf ks typ)

/-- Attachment of an INST. -/
def attOf (i : Nat) : EaId := ⟨i % 2, by omega⟩
/-- Cluster of an INST. -/
def clusterOf (i : Nat) : ClusterId := ⟨i % 4, by omega⟩

/-- The kept sections in ascending `TYPE` and `INST`, then the checks that span sections (R440). -/
def checkKept (s n : State) (img : List Byte) (ks : List Sect) : Option Fail :=
  let on := onType img ks
  on 0x01 (checkSys s n)
    <|> on 0x02 (checkUnit s n ks)
    <|> checkRegs n img ks
    <|> on 0x04 checkFirmware
    <|> on 0x10 (checkTemplate n)
    <|> on 0x11 (checkSeq n ks)
    <|> on 0x12 (checkPlan n ks)
    <|> on 0x20 (fun x => checkCore n (coreOf x.inst) x)
    <|> on 0x21 (fun x => checkRoute n (coreOf x.inst) x)
    <|> on 0x22 (fun x => checkWhisk n (clusterOf x.inst) x)
    <|> on 0x30 (checkLists n)
    <|> on 0x31 (fun _ _ => none)
    <|> firstFail (checkChan n ks) allChans
    <|> on 0x32 (fun x => checkEif n (attOf x.inst) x)
    <|> checkStreams n ks
    <|> on 0x41 (fun x _ => checkLabels n x)
    <|> checkLink s n ks
    <|> firstFail (checkEa n ks) (List.finRange 2)
    <|> checkTap2 n ks
    <|> checkMov n ks
    <|> checkGroups n ks

end Sys2Proof.Machine
end

