-- ==== Sys2Proof/Machine/Chain.lean ====
section
/-! DEFINITION. Packets of the management chain (R348, R349). -/

namespace Sys2Proof.Machine

/-- Header fields (Table 14-7). -/
def pKind (p : ChainPkt) : Nat := fldN p.hdr 0 4
def pMode (p : ChainPkt) : Nat := fldN p.hdr 4 2
def pTarget (p : ChainPkt) : Nat := fldN p.hdr 6 16
def pLen (p : ChainPkt) : Nat := fldN p.hdr 22 8

/-- A header. -/
def pktHdr (kind mode target len : Nat) (rsp err : Bool) : Word :=
  BitVec.ofNat 32 (kind % 16 + mode % 4 * 2 ^ 4 + target % 2 ^ 16 * 2 ^ 6 + len % 256 * 2 ^ 22 + b2n rsp * 2 ^ 30 + b2n err * 2 ^ 31)

/-- The trailer: CRC-32C over header and payload, `TARGET` taken as 0 in position mode (R349). -/
def pktCrc (hdr : Word) (words : List Word) : Word :=
  let h := if fldN hdr 4 2 = 0 then setFld hdr 6 16 0 else hdr
  crc32c (bytesOf h 4 ++ words.flatMap (fun w => bytesOf w 4))

/-- A packet with its trailer. -/
def mkPkt (hdr : Word) (words : List Word) : ChainPkt := { hdr := hdr, words := words, crc := pktCrc hdr words }

/-- Length and trailer are right. -/
def pktOk (p : ChainPkt) : Bool := decide (p.words.length = pLen p) && decide (p.crc = pktCrc p.hdr p.words)

/-- What a unit does with a packet. -/
inductive PktUse where
  | take | pass | copy
  deriving DecidableEq, Repr

/-- The unit takes a packet, forwards it, or takes a copy and forwards it (R349). -/
def pktUse (s : State) (p : ChainPkt) : PktUse :=
  match pMode p with
  | 0 => if pTarget p % 64 = 0 then .take else .pass
  | 1 => if s.u.hasAddr && decide (pTarget p = s.u.addr.toNat) then .take else .pass
  | 2 => if s.u.hasAddr && decide (s.u.addr.toNat / 64 = pTarget p / 64) then .copy else .pass
  | _ => .copy

/-- A packet put on the chain toward the next unit. -/
def sendPkt (s : State) (p : ChainPkt) : State := { s with pins := { s.pins with chain := some p } }

/-- A packet that the unit does not take goes on, its position reduced by 1 in position mode (R349). -/
def passPkt (s : State) (p : ChainPkt) : State :=
  sendPkt s (if pMode p = 0 then { p with hdr := setFld p.hdr 6 6 (pTarget p % 64 - 1) } else p)

/-- A response in the packet's place. -/
def answerPkt (s : State) (p : ChainPkt) (err : Bool) (words : List Word) : State :=
  sendPkt s (mkPkt (pktHdr (pKind p) (pMode p) (pTarget p) words.length true err) words)

/-- The modes in which a packet of a kind may come; no unit takes a REPAIR or a packet of a reserved kind (Table 14-8). -/
def kindModes : Nat → List Nat
  | 1 | 6 => [0, 1]
  | 2 => [0]
  | 3 => [1]
  | 4 | 5 => [1, 2, 3]
  | _ => []

/-- A packet that a unit acts on: its length and trailer are right, and its kind may come in its mode (R349). -/
def pktGood (p : ChainPkt) : Bool := pktOk p && (kindModes (pKind p)).contains (pMode p)

/-- A broadcast sent on: `ERR` set where this unit refused it. One whose CRC fails goes on as it came, so that the units after
it refuse it too (R349, log 84). -/
def sendCopy (s : State) (p : ChainPkt) (err : Bool) : State :=
  sendPkt s (if pktOk p && err then mkPkt (setFld p.hdr 31 1 1) p.words else p)

/-- What a unit does with a packet that reaches it. It takes one addressed to it and puts the response in its place; of a
broadcast it sends a copy on, which the last unit of the chain answers instead; it forwards every other one. `eff` is the effect
of a packet of its kind, whether the unit refuses it, and the response words. Responses and REPAIR packets travel on to the host,
and a DETACHED unit, or one without AON power, forwards all alike. A unit whose fuses were refused answers IDENT only (R341,
R348, R349, R351, R470). -/
def chainPkt (s : State) (p : ChainPkt) (eff : State → State × Bool × List Word) : State :=
  if s.u.state = .detached ∨ s.pwr.aonOk = false ∨ bitOf p.hdr 30 ∨ pKind p = 8 then sendPkt s p
  else
    match pktUse s p with
    | .pass => passPkt s p
    | .take =>
      if fuseDead s && decide (pKind p ≠ 1) then s
      else
        let r := if pktGood p then eff s else (s, true, [])
        answerPkt r.1 p r.2.1 r.2.2
    | .copy =>
      if fuseDead s then sendPkt s p
      else
        let r := if pktGood p then eff s else (s, true, [])
        if Config.chainLast then answerPkt r.1 p (r.2.1 || bitOf p.hdr 31) [] else sendCopy r.1 p r.2.1

end Sys2Proof.Machine
end

