-- ==== Sys2Proof/Machine/Loader.lean ====
section
/-! DEFINITION. Loading a Blend: LOAD_BEGIN, transport blocks, the end marker, the gate, the writing of the unit, and the wait
for the regulator (R361 to R365, R414 to R416, R422 to R425, R440 to R442, R469). -/

namespace Sys2Proof.Machine

/-! ### The staging of blocks (R361 to R363, R423, R424) -/

/-- Bytes of a block. -/
def blockBytes : Nat := 4096

/-- Trailer fields (Table 17-3). -/
def tSeq (b : Block) : Nat := fldN b.trailer 0 16
def tKind (b : Block) : Nat := fldN b.trailer 16 8
def tImage (b : Block) : BitVec 64 := fld b.trailer 32 64

/-- A block of 4,096 bytes whose CRC matches (R362, Table 17-3). -/
def blockOk (b : Block) : Bool :=
  decide (b.payload.length = blockBytes) && decide (crc32c (b.payload ++ bytesOf b.trailer 12) = fld b.trailer 96 32)

/-- A load receives blocks. -/
def receiving (s : State) : Bool := decide (s.u.state = .configWait) && s.ld.active && !s.ld.waitVid

/-- The bit of block `k` is set. -/
def received (l : Loader) (k : Nat) : Bool := l.blocks.any (fun b => decide (b.1 = k))

/-- Payload of block `k`. -/
def payloadOf (l : Loader) (k : Nat) : List Byte := look [] l.blocks k

/-- The first block not received. -/
def holeOf (l : Loader) : Nat := ((upto (l.blocks.length + 1)).find? (fun k => !received l k)).getD 0

/-- The image's bytes below the first `n` blocks. -/
def imageOf (l : Loader) (n : Nat) : List Byte := (upto n).flatMap (payloadOf l)

/-- Clear bits: of the count that the end marker gave, else of all 65,536 (R365). -/
def clearBits (l : Loader) : List Nat := (upto (l.blockCnt.getD 65536)).filter (fun k => !received l k)

/-- Bank groups that a load stages blocks in (R361). -/
def stagingGroups (s : State) : List GroupId := (List.finRange 8).filter (fun g => !bitOf s.mem.retain g.val && !s.mem.groups[g].bad)

/-- Block `k` holds bytes of a section that this unit keeps, as far as the table has been received. -/
def ownBlock (s : State) (k : Nat) : Bool :=
  let img := imageOf s.ld (holeOf s.ld)
  decide (64 + 32 * (headerOf img).count ≤ img.length)
    && ((sectsOf img).filter (keeps s)).any (fun x => decide (x.off < blockBytes * (k + 1)) && decide (blockBytes * k < x.off + x.len))

/-- Staging is full: blocks ahead of the first hole and blocks of this unit's sections fill the groups (R362). -/
def stagingFull (s : State) : Bool :=
  let h := holeOf s.ld
  decide (1024 * (stagingGroups s).length ≤ (s.ld.blocks.filter (fun b => decide (h < b.1) || ownBlock s b.1)).length)

/-- The load ends without a Blend (R364, R422, R440). -/
def endLoad (s : State) : State := { s with ld := { owner := s.ld.owner, miss := s.ld.miss } }

/-- A load refused: one log entry, and the unit stays in CONFIG_WAIT (R440, R442). -/
def failLoad (s : State) (f : Fail) : State := endLoad (logRefused s f.e locUnit f.detail)

/-! ### Header (R422) -/

/-- The bin may run here: at or below the fused clock, and within an AGED report (R5, R415). -/
def binAllowed (s : State) (code : Nat) : Bool :=
  decide (code ≤ 2) && decide (fusedBin s ≤ code) && (!s.pwr.aged || (decide (s.pwr.maxClk ≠ 3) && decide (s.pwr.maxClk.toNat ≤ code)))

/-- The header checks in the order of Table 17-2. -/
def headerCheck (s : State) (h : Header) : Option Err :=
  if h.magic ≠ 0x444E4C42 then some .blendMagic
  else if h.version ≠ 1 ∨ h.flags / 2 ≠ 0 ∨ !h.reservedZero then some .blendVersion
  else if h.stepping ≠ 0xC0 then some .blendStepping
  else if !binAllowed s h.bin then some .blendBin
  else if h.closeOff % 64 ≠ 0 ∨ h.closeOff < 64 + 32 * h.count ∨ 2 ^ 28 < h.closeOff + 256 then some .blendSize
  else none

/-- The header is checked as soon as block 0 is there (R422). -/
def checkHeader (s : State) (b : Block) : State :=
  if tSeq b = 0 then (match headerCheck s (headerOf b.payload) with | some e => failLoad s (failHead e) | none => s) else s

/-- The first block fixes the image (R424). -/
def fixImage (s : State) (b : Block) : State :=
  { s with ld := { s.ld with imageId := some (s.ld.imageId.getD (tImage b)) } }

/-- A block of the image of this load. -/
def ofImage (s : State) (b : Block) : Bool := match s.ld.imageId with | some i => decide (i = tImage b) | none => true

/-- A data block recorded (R362). -/
def takeBlock (s : State) (b : Block) : State :=
  let s := fixImage s b
  if received s.ld (tSeq b) then s
  else if stagingFull s && decide (holeOf s.ld < tSeq b) && !ownBlock s (tSeq b) then s
  else checkHeader { s with ld := { s.ld with blocks := put [] s.ld.blocks (tSeq b) b.payload } } b

/-- TRANSPORT_BLOCK (R362, R423, R424). -/
def execTransportBlock (b : Block) (s : State) : Res :=
  .next (if receiving s && blockOk b && decide (tKind b = 0) && ofImage s b then takeBlock s b else s)

/-! ### End marker (R363) -/

/-- Runs of missing blocks, as (first, count). -/
def runsOf : List Nat → List (Nat × Nat)
  | [] => []
  | k :: r =>
    match runsOf r with
    | (j, n) :: m => if j = k + 1 then (k, n + 1) :: m else (k, 1) :: (j, n) :: m
    | [] => [(k, 1)]

/-- The REPAIR packet of a load that lacks blocks (R363). -/
def repairPkt (s : State) : ChainPkt :=
  let ws := ((runsOf (clearBits s.ld)).take 255).map (fun r => BitVec.ofNat 32 (r.1 + (r.2 - 1) % 65536 * 65536))
  mkPkt (pktHdr 8 1 s.u.addr.toNat ws.length false false) ws

/-- A well-formed end marker (R423). -/
def endMarkerOk (b : Block) : Bool :=
  blockOk b && decide (tKind b = 1) && decide (tSeq b = 0) && allZero (b.payload.drop 4) && decide (numAt b.payload 0 4 ≤ 65536)

/-- END_MARKER (R363, R423). -/
def execEndMarker (b : Block) (s : State) : Res :=
  .next (if receiving s && endMarkerOk b && ofImage s b then
      let s := fixImage s b
      let s := { s with ld := { s.ld with blockCnt := some (numAt b.payload 0 4) } }
      if clearBits s.ld = [] then s else { s with pins := { s.pins with repair := some (repairPkt s) } }
    else s)

/-! ### LOAD_BEGIN (R361, R424, R442) -/

/-- What a partition keeps at a load or a reset: debug registers and the requests' fields. -/
def freshPart (x : PartSt) : PartSt :=
  { brkEn := x.brkEn, brk := x.brk, seqAt := x.seqAt, nextSeq := x.nextSeq, nextWhen := x.nextWhen }

/-- `SIG_REQUIRED` (Table 14-4). -/
def sigRequired (s : State) : Bool := bitOf (fuseRow s 0) 17

/-- Bank groups whose contents become undefined (R277). -/
def undefThese (s : State) (gs : List GroupId) : State :=
  gs.foldl (fun s g => { s with mem := undefGroup s.mem g s.fresh, fresh := s.fresh + 1 }) s

/-- The single image slot is empty: no Blend, every memory of it in its empty form (R361, R427, R442). -/
def emptySlot (s : State) : State :=
  let s := resetRwf (emptied s)
  { s with
    cad := { s.cad with fw := none }
    u := { s.u with blendOk := false, taskMode := false, clEn := 0, nsOwner := 0, dsBound := 0, cntSplit := 0, saveBase := #v[0, 0] }
    parts := s.parts.map freshPart }

/-- A load begins; what the fuses say of signatures holds for it whole (R346). -/
def beginLoad (source timeout : BitVec 16) (s : State) : State :=
  let s := undefThese (emptySlot s) ((List.finRange 8).filter (fun g => !bitOf s.mem.retain g.val))
  { s with
    u := { s.u with state := .configWait }
    ld := { active := true, source := source, timeout := timeout, owner := s.ld.owner, miss := s.ld.miss, sigReq := sigRequired s } }

/-- The LOAD_BEGIN command. -/
def cmdLoadBegin (source timeout : BitVec 16) (s : State) : State :=
  command s (fun s =>
    if s.u.state ≠ .ready ∧ s.u.state ≠ .configWait then cmdRefuse s 0x20 .cmdState 0
    else if (stagingGroups s).length < 2 then cmdRefuse s 0x20 .loadStage 0
    else cmdDone (beginLoad source timeout s) 0x20 0)

/-- LOAD_BEGIN (R361). -/
def execLoadBegin (source timeout : BitVec 16) (s : State) : Res := .next (cmdLoadBegin source timeout s)

/-! ### The gate (R364, R425) -/

/-- `KEY_HASH`, byte 0 first. -/
def keyHash (s : State) : List Byte := rowBytes8 ((span 7 6).map (fuseRow s))

/-- The signature rules of R425 on a closing record. -/
def signatureOk (s : State) (signed : Bool) (fin : List Byte) : Bool :=
  let part (i : Nat) : List Byte := slice fin (48 * i) 48
  if !signed then !s.ld.sigReq
  else if s.ld.sigReq && allZero (keyHash s) then false
  else (allZero (keyHash s) || decide (sha384 (part 3 ++ part 4) = keyHash s)) && ecdsaOk (part 0) (part 1) (part 2) (part 3) (part 4)

/-- The VID of a run at bin `b` (R414, R416). -/
def planVid (s : State) (b : Bin) : Nat :=
  if baseOk s then vidStart s + ceilDiv (27 * s.pwr.delta.toNat - (period27 b - period27 (binOf (fusedBin s)))) 81
  else min (vidStart s + 6) (vidMax s)

/-- The image of a load whose every block is there. -/
def wholeImage (s : State) : Option (List Byte × Nat) :=
  match s.ld.blockCnt with
  | some n => if (upto n).all (received s.ld) then some (imageOf s.ld n, n) else none
  | none => none

/-- The gate: size and padding, digest, signature (R423, R425). -/
def gateCheck (s : State) (img : List Byte) (n : Nat) : Option Fail :=
  let h := headerOf img
  let fin := slice img h.closeOff 256
  need (decide (n = ceilDiv (h.closeOff + 256) blockBytes) && allZero (img.drop (h.closeOff + 256))) (failHead .blendSize)
    <|> need (decide (sha384 (img.take h.closeOff) = fin.take 48)) (failHead .loadDigest)
    <|> need (signatureOk s (decide (h.flags % 2 = 1)) fin) (failHead .loadSig)

/-! ### Writing (R441, R467, R469) -/

/-- Bank groups whose contents a load does not keep: those not marked, newly marked, or under a new owner (R277). -/
def lostGroups (s n : State) : List GroupId :=
  (List.finRange 8).filter (fun g => !bitOf n.mem.retain g.val || !bitOf s.mem.retain g.val
    || (twoTask n && decide (bitOf n.u.nsOwner g.val ≠ bitOf s.ld.owner g.val)))

/-- Domains that leave OFF only at a load: the arrays of the clusters, and the Engine Interface (R399). -/
def loadWakes (s : State) : State :=
  (([7, 8, 9, 10, 23] : List DomId)).foldl (fun s d => if domState s d = .off then setDomState s d .gated else s) s

/-- The unit as the writing phase leaves it, waiting for the regulator; `s` is the unit before it and `n` what the sections
write. -/
def writeUnitAll (s n : State) : State :=
  let v := planVid s n.fr.clk
  let n := dropFailed s n
  let n := { n with
    parts := n.parts.map freshPart
    cores := n.cores.mapFinIdx (fun i x h => let y := freshCore x n.bl.cores[i] 0; if x.failed then { y with st := .fenced } else y)
    cls := n.cls.mapIdx (fun _ k => { k with running := none, waiting := [], ladFenced := k.ladFailed })
    mov := { n.mov with chans := n.mov.chans.map (fun x => freshChan (dropBlks x)) }
    eif := n.eif.map freshEa
    taps := n.taps.map freshTap
    cnt := []
    pwr := { n.pwr with vidPlan := BitVec.ofNat 8 v, noBase := !baseOk s }
    pins := { n.pins with vidReq := BitVec.ofNat 8 v, vidAck := false }
    ld := { active := true, waitVid := true, source := s.ld.source, timeout := s.ld.timeout, owner := n.u.nsOwner, miss := s.ld.miss } }
  presentAt (loadWakes (undefThese n (lostGroups s n))) 14 43 0 1

/-- The gate has passed: the checks of chapter 17 are made, and the unit is written when all of them pass. -/
def checkAndWrite (s : State) (img : List Byte) : State :=
  let ks := keptSects s img
  match checkTable img ks with
  | some f => failLoad s f
  | none =>
    let n := candidate s img
    match checkKept s n img ks with
    | some f => failLoad s f
    | none => writeUnitAll s n

/-- The gate and what follows it; a VID above the limit is reported as AGED, and the image's bin no longer fits (R415). -/
def gate (s : State) (img : List Byte) (n : Nat) : State :=
  match gateCheck s img n with
  | some f => failLoad s f
  | none =>
    if baseOk s ∧ vidMax s < planVid s (binOf (headerOf img).bin) then failLoad (reportAged s s.pwr.delta.toNat) (failHead .blendBin)
    else checkAndWrite s img

/-- LOAD_GATE: once every block has been received (R364). -/
def execLoadGate (s : State) : Res :=
  .next (if receiving s then (match wholeImage s with | some x => gate s x.1 x.2 | none => s) else s)

/-! ### The ends of a load (R365, R469) -/

/-- A load ends as incomplete: `LOAD_MISS`, the log entry and the event (R365). -/
def incomplete (s : State) (detail miss : Nat) : State :=
  let s := raiseEvt (logRefused s .loadIncomplete locUnit detail) .loadIncomplete
  { s with ld := { owner := s.ld.owner, miss := BitVec.ofNat 17 miss } }

/-- LOAD_INCOMPLETE: the load has not passed its gate within `LOAD_TIMEOUT` (R365). -/
def execLoadIncomplete (s : State) : Res := .next (if receiving s then incomplete s 0 (clearBits s.ld).length else s)

/-- PWR_VID_ACK: the regulator has settled; a load that waits for it enters READY (R364, R469). -/
def execPwrVidAck (s : State) : Res :=
  let s := { s with pins := { s.pins with vidAck := true } }
  .next (if s.ld.waitVid && decide (s.u.state = .configWait) then
      raiseEvt { s with
        u := { s.u with state := .ready, blendOk := true }
        cad := { s.cad with fw := some s.bl.fwEntry }
        pwr := { s.pwr with vid := s.pins.vidReq }
        ld := { owner := s.ld.owner, miss := s.ld.miss } } .ready
    else s)

/-- VID_ACK_TIMEOUT: no acknowledgement within 2 ms (R469). -/
def execVidAckTimeout (s : State) : Res :=
  .next (if s.ld.waitVid && !s.pins.vidAck then incomplete (emptySlot s) 0xFFFFFFFF 0 else s)

end Sys2Proof.Machine
end

