-- ==== Sys2Proof/Machine/Commands.lean ====
section
/-! DEFINITION. The command window's commands on tasks, resets below the unit's, contexts, slots and fuses, and the writes to
`SEQ_NEXT_p`, `ERR_ACK` and `TICK_CFG` (R33, R39 to R42, R120, R346, R347, R351, R356 to R358, R366, R367, R372, R448, R456 to
R460). -/

namespace Sys2Proof.Machine

/-! ### Resets of a core, a cluster, a partition (R356 to R358) -/

/-- A task runs on the partition, preempted, halted or aborted ones included (R120). -/
def taskRuns (s : State) (p : Part) : Bool := let x := s.parts[taskPart s p]; x.task || x.aborted

/-- RESET at core level: 200 cycles (Table 14-10). -/
def cmdResetCore (c : CoreId) (s : State) : State :=
  command s (fun s => if taskRuns s (corePart c) then cmdRefuse s 0x10 .cmdState 0 else cmdTimed (resetCoreTo s c false) 0x10 200)

/-- RESET_CORE (R356). -/
def execResetCore (c : CoreId) (s : State) : Res := .next (cmdResetCore c s)

/-- RESET at cluster level: 2,000 cycles (Table 14-10). -/
def cmdResetCluster (k : ClusterId) (s : State) : State :=
  command s (fun s => if taskRuns s (clPart k) then cmdRefuse s 0x10 .cmdState 0 else cmdTimed (resetClusterTo s k false) 0x10 2000)

/-- RESET_CLUSTER (R356). -/
def execResetCluster (k : ClusterId) (s : State) : Res := .next (cmdResetCluster k s)

/-- RESET at partition level: 30,000 cycles (Table 14-10). -/
def cmdResetPartition (p : Part) (s : State) : State :=
  command s (fun s =>
    if s.u.state = .fenced ∨ s.u.state = .detached then cmdRefuse s 0x10 .cmdState 0 else cmdTimed (resetPart s p) 0x10 30000)

/-- RESET_PARTITION (R356, R358). -/
def execResetPartition (p : Part) (s : State) : Res := .next (cmdResetPartition p s)

/-- ERROR_RESET: in the cycle after a contained error the core's store queue is discarded and its reads are absorbed; the
counters it could still increment are among the partition's, which the abort has poisoned; its elements stay (R357, R381). -/
def execErrorReset (c : CoreId) (s : State) : Res :=
  .next (if s.cores[c].errDue then
      let s := absorb s (fun m _ => decide (m.val = c.val))
      let s := modCore s c (fun x => { x with errDue := false, st := .fenced, sq := [] })
      poisonCtrs s (allCtrs.filter (fun r => sameTask s (corePart c) (ctrPart s r)))
    else s)

/-! ### TASK_START (R33, R41, R347, R367, R448, R460) -/

/-- The Blend defines the sequence for the partition (R41). -/
def seqDefined (s : State) (p : Part) (q : Fin 16) : Bool :=
  let x := s.bl.seqs[q]
  x.defined && (!twoTask s || decide (x.part = decide (p = 1)))

/-- What the first TASK_START after a load checks again (R448). -/
def startCheck (s : State) : Option Err := if s.parts.toList.any (·.started) then none else rwfCheck s

/-- The command TASK_START for the task of partition `p`. -/
def startRequest (p : Part) (q : Fin 16) (frame : Word) (s : State) : State :=
  if !((decide (s.u.state = .ready) && s.u.blendOk) || decide (s.u.state = .running)) || s.parts[p].started then
    cmdRefuse s 0x11 .cmdState 0
  else
    let s := { s with fr := { s.fr with cfg := s.fr.own } }
    match startCheck s with
    | some e => cmdRefuse s 0x11 e 0
    | none =>
      if !seqDefined s p q then cmdRefuse s 0x11 .seqUndef 0
      else if (taskCls s p).any (clFailed s) then cmdRefuse s 0x11 .coreFailed 0
      else cmdDone (modPart s p (fun x => { x with started := true, start := some { seq := q, frame := frame } })) 0x11 0

/-- The TASK_START command. -/
def cmdTaskStart (p : Part) (q : Fin 16) (frame : Word) (s : State) : State :=
  command s (fun s => startRequest (taskPart s p) q frame s)

/-- TASK_START (R33, R347). -/
def execTaskStart (p : Part) (seq : Fin 16) (frame : Word) (s : State) : Res := .next (cmdTaskStart p seq frame s)

/-! ### PREEMPT, RESUME, HALT (R456 to R458) -/

/-- The partition runs a task that is neither preempted nor halted, in a unit that is RUNNING. -/
def mayStop (s : State) (p : Part) : Bool := runs s (taskPart s p)

/-- The partition is preempted or halted. -/
def mayResume (s : State) (p : Part) : Bool :=
  let x := s.parts[taskPart s p]
  decide (s.u.state = .running) && (x.preempted || x.halted)

/-- The PREEMPT command, which takes effect with the next frame. -/
def cmdPreempt (p : Part) (s : State) : State :=
  command s (fun s =>
    if mayStop s p then modPart (cmdStart s 0x40) (taskPart s p) (fun x => { x with preemptDue := true })
    else cmdRefuse s 0x40 .cmdState 0)

/-- PREEMPT (R457). -/
def execPreempt (p : Part) (s : State) : Res := .next (cmdPreempt p s)

/-- The RESUME command, which takes effect with the next frame. -/
def cmdResume (p : Part) (s : State) : State :=
  command s (fun s =>
    if mayResume s p then modPart (cmdStart s 0x41) (taskPart s p) (fun x => { x with resumeDue := true })
    else cmdRefuse s 0x41 .cmdState 0)

/-- RESUME (R458). -/
def execResume (p : Part) (s : State) : Res := .next (cmdResume p s)

/-- The HALT command, which takes effect in the next cycle and saves contexts when asked to. -/
def cmdHalt (p : Part) (save : Bool) (s : State) : State :=
  command s (fun s =>
    if mayStop s p then
      let t := stopTask s (taskPart s p) false
      if !save then cmdDone t 0x42 0
      else match saveShut t (savedCores t (taskPart s p)) with
        | some x => saveRefused s x 0x42
        | none => cmdDone (saveTask t (taskPart s p)) 0x42 0
    else cmdRefuse s 0x42 .cmdState 0)

/-- HALT_COMMAND (R457). -/
def execHaltCommand (p : Part) (save : Bool) (s : State) : Res := .next (cmdHalt p save s)

/-- The DUMP command: the core's context goes to its save slot, and its state stays (R456). -/
def cmdDump (c : CoreId) (s : State) : State :=
  command s (fun s =>
    let st := s.cores[c].st
    if st = .preempted ∨ st = .halted ∨ st = .fenced then
      match saveShut s [c] with
      | some x => saveRefused s x 0x60
      | none => cmdDone (saveCore s c) 0x60 0
    else cmdRefuse s 0x60 .cmdState 0)

/-- DUMP (R456). -/
def execDump (c : CoreId) (s : State) : Res := .next (cmdDump c s)

/-! ### ROUTE_LOAD and WHISK_LOAD (R120, R437, R456, R459) -/

/-- A slot command for partition `p` with effect `f` where the state accepts it. -/
def slotCommand (s : State) (p : Part) (code : Nat) (f : State → State) : State :=
  command s (fun s =>
    let x := s.parts[taskPart s p]
    if s.u.state = .ready then f s
    else if s.u.state ≠ .running then cmdRefuse s code .cmdState 0
    else if taskRuns s p then cmdRefuse s code .routeBusy 0
    else if x.idle && !x.started then f s
    else cmdRefuse s code .cmdState 0)

/-- The ROUTE_LOAD command; no record is a translation fault. -/
def cmdRouteLoad (c : CoreId) (slot : Fin 64) (record : Option (List Byte)) (s : State) : State :=
  slotCommand s (corePart c) 0x50 (fun s =>
    match record with
    | none => cmdRefuse s 0x50 .farXlate 0
    | some bs =>
      let r := slotRecord (slice bs 0 2752)
      let n := modCore s c (fun x => { x with routes := put {} x.routes slot.val r })
      match slotCheck n c slot.val r with
      | some e => cmdRefuse s 0x50 e 0
      | none => cmdDone (presentAt n 14 43 0 1) 0x50 0)

/-- ROUTE_LOAD (R459). -/
def execRouteLoad (c : CoreId) (slot : Fin 64) (record : Option (List Byte)) (s : State) : Res := .next (cmdRouteLoad c slot record s)

/-- The WHISK_LOAD command. -/
def cmdWhiskLoad (k : ClusterId) (slot : Fin 32) (record : Option (List Byte)) (s : State) : State :=
  slotCommand s (clPart k) 0x51 (fun s =>
    match record with
    | none => cmdRefuse s 0x51 .farXlate 0
    | some bs =>
      let w : BitVec 16384 := leBits 16384 (slice bs 0 2048)
      if whiskWordOk w (whiskWidth s k slot.val) then
        cmdDone (presentAt (modCl s k (fun x => { x with
          whisk := put 0 x.whisk slot.val w, whiskLoaded := x.whiskLoaded ||| (1#32 <<< slot.val) })) 14 43 0 1) 0x51 0
      else cmdRefuse s 0x51 .routeWhisk 0)

/-- WHISK_LOAD (R459). -/
def execWhiskLoad (cl : ClusterId) (slot : Fin 32) (record : Option (List Byte)) (s : State) : Res := .next (cmdWhiskLoad cl slot record s)

/-! ### Fuses (R346, R347, R366, R367) -/

/-- The REPAIR_AUTH command: it names the proposal by its `FCRC`, and the next empty field row is programmed. -/
def cmdRepairAuth (fcrc : Byte) (s : State) : State :=
  command s (fun s =>
    if s.u.state = .fenced then cmdRefuse s 0x30 .cmdState 0
    else if !s.u.repairPend || decide (fld s.fuse.pend 56 8 ≠ fcrc) then cmdRefuse s 0x30 .repairAuth 0
    else match emptyRow s with
      | none => cmdRefuse s 0x30 .fuseFull 0
      | some k => cmdStart { s with fuse := { s.fuse with writing := some (.repair k s.fuse.pend) } } 0x30)

/-- REPAIR_AUTH (R366). -/
def execRepairAuth (fcrc : Byte) (s : State) : Res := .next (cmdRepairAuth fcrc s)

/-- The FUSE_PROG command. -/
def cmdFuseProg (w : FuseWr) (s : State) : State :=
  command s (fun s =>
    if s.u.state ≠ .ready ∧ s.u.state ≠ .configWait then cmdRefuse s 0x31 .cmdState 0
    else if w = .keyHash ∧ allZero (keyHash s) = false then cmdRefuse s 0x31 .fuseWrite 0
    else cmdStart { s with fuse := { s.fuse with writing := some w } } 0x31)

/-- FUSE_PROG_DBG_DISABLE (R346). -/
def execFuseProgDbgDisable (s : State) : Res := .next (cmdFuseProg .dbgDisable s)
/-- FUSE_PROG_SIG_REQUIRED (R346). -/
def execFuseProgSigRequired (s : State) : Res := .next (cmdFuseProg .sigRequired s)
/-- FUSE_PROG_DETACHED (R346). -/
def execFuseProgDetached (s : State) : Res := .next (cmdFuseProg .detached s)
/-- FUSE_PROG_KEY_HASH (R346). -/
def execFuseProgKeyHash (s : State) : Res := .next (cmdFuseProg .keyHash s)

/-- Rows that a fuse write programs, with the values they are to hold. -/
def fuseGoal (s : State) : FuseWr → List (Nat × BitVec 64)
  | .dbgDisable => [(0, setFld (fuseRow s 0) 16 1 1)]
  | .sigRequired => [(0, setFld (fuseRow s 0) 17 1 1)]
  | .detached => [(0, setFld (fuseRow s 0) 18 1 1)]
  | .keyHash => (upto 6).map (fun j =>
      (7 + j, BitVec.ofNat 64 ((s.fuse.key.toList.getD (2 * j) 0).toNat + (s.fuse.key.toList.getD (2 * j + 1) 0).toNat * 2 ^ 32)))
  | .repair k v => [(k, v)]

/-- Rows as they read back: array and shadow hold them, and `FUSE_SHADOW_CRC` covers them (R346). -/
def fuseRows (s : State) (rows : List (Nat × BitVec 64)) : State :=
  let up (v : Vector (BitVec 64) 64) : Vector (BitVec 64) 64 := rows.foldl (fun v r => v.mapIdx (fun i x => if i = r.1 then r.2 else x)) v
  let s := { s with fuse := { s.fuse with array := up s.fuse.array, shadow := up s.fuse.shadow } }
  { s with fuse := { s.fuse with crc := shadowCrc s.fuse.shadow.toList } }

/-- Code of the command a fuse write belongs to. -/
def fuseCode : FuseWr → Nat | .repair _ _ => 0x30 | _ => 0x31

/-- What ends with a fuse write: the authorised proposal, and a TAP session when the TAP closes (R346, R366). -/
def fuseEnds (w : FuseWr) (s : State) : State :=
  match w with
  | .repair _ _ => { s with fuse := { s.fuse with pend := 0 }, u := { s.u with repairPend := false } }
  | _ => if bitOf (fuseRow s 0) 16 then { s with tapSession := false } else s

/-- A row as it reads back after a write that was to leave `goal` there: a field row that fails is used, with a check that does
not match (R346). -/
def readRow (w : FuseWr) (goal back : BitVec 64) : BitVec 64 :=
  match w with
  | .repair _ _ =>
    let x := back ||| 1
    if back = goal then back else if fieldRowOk x then x ^^^ (1 <<< 56) else x
  | _ => back

/-- FUSE_WRITE_DONE: 10 ms after its start a fuse write is read back (R346). -/
def execFuseWriteDone (readBack : List (BitVec 64)) (s : State) : Res :=
  .next (match s.fuse.writing with
    | none => s
    | some w =>
      let goal := fuseGoal s w
      let rows := goal.zipIdx.map (fun g => (g.1.1, readRow w g.1.2 (readBack.getD g.2 g.1.2)))
      let s := fuseEnds w (fuseRows { s with fuse := { s.fuse with writing := none } } rows)
      if rows = goal then cmdDone s (fuseCode w) 0 else cmdRefuse s (fuseCode w) .fuseWrite 0)

/-! ### DETACH (R351) -/

/-- Every domain but AON is OFF, and every store's port is closed. -/
def domainsOff (s : State) : State :=
  let s := { s with pwr := { s.pwr with dom := s.pwr.dom.mapIdx (fun i x => if i = 0 then x else { ps := .off }) } }
  { s with mem := { s.mem with
      groups := s.mem.groups.mapIdx (fun _ g => { g with port := { g.port with ps := .off, isOpen := false, closing := false } })
      ds := { s.mem.ds with ps := .off, isOpen := false, closing := false } } }

/-- Every agent at rest, with nothing of a run left. -/
def agentsIdle (s : State) : State :=
  { s with
    cores := s.cores.mapFinIdx (fun i x h => clearCoreRegs (freshCore x s.bl.cores[i] 0))
    cls := s.cls.mapIdx (fun _ k => { k with
      running := none, waiting := [], pos := 0, ladFenced := false
      whiskCe := 0, gangPass := 0, oob := 0, merge := 0, waitCnt := 0, conf := 0, adds := 0, req := 0 })
    mov := { s.mov with chans := s.mov.chans.map (fun x => freshChan (dropBlks x)) }
    eif := s.eif.map freshEa
    taps := s.taps.map freshTap
    cnt := []
    xb := { s.xb with reqs := [], resp := [], busy := [], half := [] } }

/-- The unit leaves the chain: no Blend, no agent, no link, every domain but AON OFF. -/
def detachUnit (s : State) : State :=
  let s := domainsOff (agentsIdle (emptySlot (endLoad s)))
  { s with u := { s.u with state := .detached }, lnk := { laneFail := s.lnk.laneFail, spare := s.lnk.spare }, rmt := {} }

/-- The DETACH command. -/
def cmdDetach (s : State) : State := command s (fun s => cmdDone (detachUnit s) 0x32 0)

/-- DETACH (R347, R351). -/
def execDetach (s : State) : Res := .next (cmdDetach s)

/-! ### `SEQ_NEXT_p` (R39 to R41, R402) -/

/-- Ticks that must pass before a change asked for in idle frames may start: it starts with the first tick that begins at
least the idle plan's largest exit latency after the write, and this counts the ticks before that one. -/
def idleTicks (s : State) : Nat :=
  let lat := (List.finRange 24).foldl (fun m d => max m (exitOf (idleCapOf s d))) 0
  let f := frameCycles s
  ceilDiv (lat - (f - s.fr.cyc)) (max 1 f)

/-- A change of sequence accepted. -/
def acceptSeq (p : Part) (q : Fin 16) (w : BitVec 2) (s : State) : State :=
  let idle := s.parts[p].idle
  let s := modPart s p (fun x => { x with nextSeq := q, nextWhen := w, nextPending := true, nextFrom := if idle then idleTicks s else 0 })
  if idle && decide (s.u.state = .running) then (List.finRange 24).foldl (fun s d => if wakesIdle s d then beginWake s d else s) s else s

/-- `WHEN` as a write leaves it: its reserved encoding leaves the field (R10). -/
def whenOf (s : State) (p : Part) (v : Word) : BitVec 2 := if fldN v 8 2 = 3 then s.parts[p].nextWhen else fld v 8 2

/-- A request for a change of sequence. In one-task mode, in which the spec calls `SEQ_NEXT_1` unused, a write to it is refused
with ERR_SEQ_UNDEF (DESIGN CHOICE, log 83). -/
def requestSeq (p : Part) (v : Word) (s : State) : State :=
  let x := s.parts[p]
  let q : Fin 16 := (fld v 0 4).toFin
  let w := whenOf s p v
  if x.nextPending then logRefused s .seqBusy (locPart p) 0
  else if (p = 1 ∧ twoTask s = false) ∨ seqDefined s p q = false then logRefused s .seqUndef (locPart p) 0
  else if w = 2 ∧ 2 ^ 31 ≤ (x.seqAt - s.fr.ctr).toNat then logRefused s .seqLate (locPart p) 0
  else acceptSeq p q w s

/-- SEQ_NEXT: a write with `CANCEL` = 0 is a request (R41). -/
def execSeqNext (p : Part) (v : Word) (s : State) : Res := .next (if bitOf v 30 then s else requestSeq p v s)

/-- A pending change discarded; the fields keep their values. -/
def cancelSeq (p : Part) (s : State) : State := modPart s p (fun x => { x with nextPending := false })

/-- CANCEL: a write with `CANCEL` = 1 (R41). -/
def execCancel (p : Part) (v : Word) (s : State) : Res := .next (if bitOf v 30 then cancelSeq p s else s)

/-! ### `ERR_ACK` and `TICK_CFG` (R372, R460) -/

/-- ERR_ACK: the n oldest entries are freed (R372). -/
def execErrAck (n : BitVec 7) (s : State) : Res := .next { s with err := ackEntries s.err n.toNat }

/-- TICK_CFG_WRITE: a host write sets the field outside a run, within its range (R11, R448, R460). -/
def execTickCfgWrite (v : Word) (s : State) : Res := .next (rwfWrite s 0x2000 .tickCfg v)

end Sys2Proof.Machine
end

