-- ==== Sys2Proof/Machine/Bringup.lean ====
section
/-! DEFINITION. Bring-up, unit reset and its fast path, and the pins that reset (R339 to R342, R352 to R355, R359, R360, R412,
R413, R449, R467, R468). -/

namespace Sys2Proof.Machine

/-! ### Steps 4 to 7 (Table 14-2, R342, R352, R353) -/

/-- Every domain but AON in GATED and every port open, as bring-up leaves them (R342). -/
def domainsGated (s : State) : State :=
  { s with
    pwr := { s.pwr with dom := (Vector.replicate 24 ({} : Dom)).set 0 { ps := .active } }
    mem := { s.mem with groups := s.mem.groups.mapIdx (fun _ g => { g with port := {} }), ds := {} } }

/-- Every bucket half full (R217, R342). -/
def bucketsHalf (s : State) : State :=
  { s with
    cores := s.cores.map (fun x => { x with bucket := 64 * (x.reg.depth.toNat / 2) })
    mov := { s.mov with bucket := s.mov.bucket.mapFinIdx (fun i _ h => 64 * (s.mov.reg[i].depth.toNat / 2)) } }

/-- Step 7: READY, and its event. -/
def enterReady (s : State) : State :=
  let s := bucketsHalf (domainsGated s)
  raiseEvt { s with u := { s.u with state := .ready, step := 7 } } .ready

/-- Near Store cleared to zero with valid check bits (R342). -/
def clearNs (s : State) : State :=
  { s with mem := (List.finRange 8).foldl (fun m g => clearGroup m g) s.mem }

/-- Deep Store lanes that the fused map leaves out of use (R284). -/
def fusedOut (s : State) : List Nat := (mappedLanes s).foldl (fun m x => setAdd m (256 * x.1 + x.2)) []

/-- Step 4: Near Store BIST; Deep Store BIST and training over the fused lane map (R276, R284, R341, R342). -/
def bistStep (r : TestResult) (s : State) : State :=
  let s := clearNs s
  let s := { s with mem := { clearDs s.mem with
    bistRows := r.nsBadRows.filter (fun x => decide (x.1 < 64) && decide (x.2 < 256))
    spares := fusedSpares s, laneFail := Vector.replicate 32 0, lastSwap := Vector.replicate 32 0
    outLanes := fusedOut s, deadLanes := [] } }
  (List.finRange 32).foldl (fun s g =>
    let ls := ((r.dsBadLanes.filter (fun x => x.1 = g.val ∧ x.2 < 256)).map (fun x => 256 * g.val + x.2)).dedup
    ls.foldl (badLane ls g) s) s

/-- Step 5: the link trains, unless a unit reset has kept it (R341, R359). -/
def trainStep (r : TestResult) (s : State) : State :=
  let s := { s with u := { s.u with step := 5 } }
  if s.lnk.st = .up ∨ s.lnk.st = .retraining then s
  else trainLink (modLink s (fun l => { l with spare := fusedSpareLane s, laneFail := fusedLaneFail s })) r.linkOk r.linkLat

/-- The field row proposed for known-answer group `i` (Tables 14-5 and 14-9); attachments, the inbound tap and channels have
none. -/
def proposeGroup (s : State) (i : Nat) : State :=
  if i < 20 then proposeRow s 1 (i / 5 + 4 * (i % 5)) false
  else if i < 24 then proposeRow s 2 (i - 20) false
  else if i < 28 then proposeRow s 3 (i - 24) false
  else s

/-- The known-answer run of group `i` fails: bit `i` of `KAT_FAIL`, or bit `i - 32` of `KAT_MOV_FAIL` (R353, R368). -/
def katGroup (s : State) (i : Nat) : State := proposeGroup (logRun s .katFail locUnit i) i

/-- Step 6: the known-answer runs, the map, and the first ageing round after AON power-up (R352, R353, R413). -/
def katStep (r : TestResult) (s : State) : State :=
  let s := { s with u := { s.u with step := 6, katFail := r.katFail, katMov := r.katMov } }
  let bad := (upto 31).filter (fun i => bitOf r.katFail i) ++ (span 32 8).filter (fun i => bitOf r.katMov (i - 32))
  let s := remap (bad.foldl katGroup s)
  if s.u.tested then s else (r.ageing.take 28).foldl takeSample s

/-- The end of a full test (R354, R372). -/
def endTest (s : State) : State :=
  { s with u := { s.u with testAge := 0, secCyc := 0, tested := true, fast := false }, err := { s.err with hwSince := false } }

/-- Steps 4 to 7 with what they find; a third failed lane of a lane group without a spare fences the unit (R341). -/
def testUnit (r : TestResult) (s : State) : State :=
  let s := bistStep r { s with u := { s.u with step := 4 } }
  if s.u.state = .fenced then s
  else enterReady (endTest (katStep r (trainStep r { s with u := { s.u with state := .tested } })))

/-- The TEST_GO command: accepted in ADDRESSED, at step 3 (R347). -/
def cmdTestGo (r : TestResult) (s : State) : State :=
  command s (fun s => if s.u.state ≠ .addressed ∨ s.u.step ≠ 3 then cmdRefuse s 0x12 .cmdState 0 else cmdDone (testUnit r s) 0x12 0)

/-- TEST_GO (R340, R347). -/
def execTestGo (r : TestResult) (s : State) : Res := .next (cmdTestGo r s)

/-! ### Steps 1 to 3 (Table 14-2, Table 14-3) -/

/-- Step 3: the host enumerates; after a unit reset the unit keeps its address and goes on by itself (R354). -/
def enumStep (s : State) : State :=
  if s.u.hasAddr then
    testUnit (Config.testResult s.fresh) { s with fresh := s.fresh + 1, u := { s.u with state := .addressed, step := 3 } }
  else { s with u := { s.u with state := .powered, step := 3 } }

/-- Step 2: the core PLL locks to the fused bin's clock (R341, R467). -/
def pllStep (lock : Bool) (s : State) : State :=
  let s := { s with u := { s.u with state := .powered, step := 2, fast := false }, fr := { s.fr with clk := binOf (fusedBin s) } }
  if lock then enumStep s else unitFatal (modLink s (fun l => { l with st := .down })) .pllLock 0

/-- Field rows in use whose check fails (R344). -/
def badFieldRows (s : State) : List Nat := (span 56 8).filter (fun k => bitOf (fuseRow s k) 0 && !fieldRowOk (fuseRow s k))

/-- Step 1: the fuse array read into the shadow and checked; a unit fused DETACHED goes no further, and step 2 waits for the
release of `RST_CHIP_N` (R341, R343, R345, R346, R468). -/
def bootStep (lock : Bool) (s : State) : State :=
  let s := { s with fuse := { s.fuse with shadow := s.fuse.array, crc := shadowCrc s.fuse.array.toList } }
  if !factoryOk s.fuse.shadow.toList || decide (fusedBin s = 3) then unitFatal s .fuseCrc 0
  else
    let s := (badFieldRows s).foldl (fun s k => logRun s .fuseRow locUnit k) s
    if bitOf (fuseRow s 0) 18 then detachUnit { s with u := { s.u with step := 2 } }
    else if s.pwr.rstN then pllStep lock s else { s with u := { s.u with step := 2 } }

/-- What loss of AON power leaves: the fuse array, the pins and the commands that wait; latent faults and the count of free
values are the model's own. -/
def aonLost (s : State) : State :=
  { State.reset with
    fuse := { array := s.fuse.array }, pwr := { State.reset.pwr with aonOk := false, rstN := s.pwr.rstN }
    hwf := s.hwf, fresh := s.fresh, pending := s.pending }

/-- AON_PWR_OK: low is a loss of AON power, and bring-up begins when it is high (R340, R468). -/
def execAonPwrOk (high pllLock : Bool) (s : State) : Res :=
  .next (if !high then aonLost s
    else if !s.pwr.aonOk || (decide (s.u.state = .powered) && decide (s.u.step = 1)) then
      bootStep pllLock { s with pwr := { s.pwr with aonOk := true } }
    else s)

/-! ### Unit reset (R354, R355, R359, R360, R449, R468) -/

/-- Stores after a unit reset: Deep Store keeps its contents while DS_ARR has stayed powered, its lanes follow the fused map
again, and the registers of both stores are at their reset values (R282, R284, R359, R449). -/
def resetStores (s : State) : Stores :=
  let m := s.mem
  let kept : Stores := { mem := m.mem, psn := m.psn, bad := m.bad, written := m.written, allWritten := m.allWritten, groups := m.groups.map (fun g => { bad := g.bad, epoch := g.epoch })
                         spares := fusedSpares s, outLanes := fusedOut s, bistRows := m.bistRows }
  if isOff s 20 then clearDs kept else kept

/-- The link after a unit reset: kept, with nothing new to send, or down (R359). -/
def resetLink (keep : Bool) (l : Link) : Link :=
  if keep && (decide (l.st = .up) || decide (l.st = .retraining)) then
    { st := l.st, spareReady := l.spareReady, spare := l.spare, laneFail := l.laneFail, lat := l.lat, candidate := l.candidate
      nextSeq := l.nextSeq, expSeq := l.expSeq, replay := l.replay, resend := l.resend, nakDue := l.nakDue, nakOut := l.nakOut
      nakTimes := l.nakTimes, fails := l.fails }
  else { spare := l.spare, laneFail := l.laneFail }

/-- What a unit reset clears: the Blend, every agent, label and stream, every register outside the AON blocks, `LOCK`, a load
in progress. Failed marks stay until the next load (R360, R367, R449, R468). -/
def clearUnit (keep : Bool) (s : State) : State :=
  let m := resetStores s
  let s := planOver s
  { s with
    u := { s.u with blendOk := false, fast := false }
    fr := { s.fr with lock := false, good := 0, marker := none, missRaised := [], own := { s.fr.own with treeOut := false } }
    cad := { s.cad with fw := none }
    parts := s.parts.map freshPart
    cores := s.cores.map (fun x => { failed := x.failed, st := if x.failed then .fenced else .idle })
    cls := s.cls.map (fun k => { whiskFailed := k.whiskFailed, ladFailed := k.ladFailed, ladFenced := k.ladFailed })
    mov := {}
    eif := Vector.replicate 2 {}
    taps := Vector.replicate 3 {}
    mem := m
    cnt := []
    cntPar := 0
    xb := {}
    rmt := {}
    lnk := resetLink keep s.lnk
    ld := { owner := s.ld.owner, miss := s.ld.miss }
    bl := {}
    pwr := { s.pwr with divider := false, divEpisode := 0 } }

/-- A command in progress ends with the unit it worked on, neither completed nor refused: `DONE` and `RESULT` stay (R449, R455,
R468, log 31). A fuse write goes on in the AON domain (R346). -/
def dropCommand (s : State) : State :=
  if s.cmd.busy && s.fuse.writing.isNone then { s with cmd := { s.cmd with busy := false, left := 0 } } else s

/-- The conditions of the fast path, as the reset finds them (R354). -/
def fastOk (keep : Bool) (s : State) : Bool :=
  s.u.tested && decide (shadowCrc s.fuse.shadow.toList = s.fuse.crc) && !s.err.hwSince && decide (s.u.testAge.toNat < s.u.testMaxAge.toNat)
    && keep && decide (s.lnk.st = .up)

/-- The fast path: clocks relocked, lane groups recalibrated from their stored settings, Near Store cleared, cores mapped
(R355). -/
def fastPath (s : State) : State :=
  let s := remap (clearNs { s with fr := { s.fr with clk := binOf (fusedBin s) } })
  enterReady { s with u := { s.u with fast := true } }

/-- Bring-up from step 2, with a PLL of which no operand tells (log 3). -/
def fromStep2 (s : State) : State := pllStep (Config.pllLocks s.fresh) { s with fresh := s.fresh + 1 }

/-- A unit reset. -/
def resetUnit (keep : Bool) (s : State) : State :=
  let fast := fastOk keep s
  let s := clearUnit keep s
  if fast then fastPath s else fromStep2 s

/-- The RESET command at unit level. -/
def cmdResetUnit (keep : Bool) (s : State) : State :=
  command s (fun s => if s.u.state = .detached then cmdRefuse s 0x10 .cmdState 0 else cmdDone (resetUnit keep s) 0x10 0)

/-- RESET_UNIT (R359). -/
def execResetUnit (linkKeep : Bool) (s : State) : Res := .next (cmdResetUnit linkKeep s)

/-- The unit held in reset with `LINK_KEEP` = 0, at step 2, until a release (R412, R468). -/
def holdUnit (s : State) : State :=
  let s := clearUnit false (dropCommand s)
  { s with u := { s.u with state := .powered, step := 2 } }

/-- RST_CHIP_N: low acts as a unit reset, and bring-up runs from step 2 at its release (R468). -/
def execRstChipN (high : Bool) (s : State) : Res :=
  let t := { s with pwr := { s.pwr with rstN := high } }
  .next (if high = s.pwr.rstN then s
    else if !s.pwr.aonOk || fuseDead s || decide (s.u.state = .detached) then t
    else if !high then holdUnit t
    else if s.pwr.vresetHold then t
    else fromStep2 t)

/-- VRESET: the main rail has fallen below VRESET; every domain but AON is held in reset and its contents are lost, DS_ARR as
after OFF (R412, R468). -/
def execVreset (s : State) : Res :=
  .next (if heldInReset s || fuseDead s then s
    else
      let s := unitFatal { s with u := { s.u with step := 2 } } .vreset 0
      let s := clearUnit false (dropCommand s)
      { s with mem := clearDs s.mem, pwr := { s.pwr with vresetHold := true } })

/-- VRESET_RECOVERY: the rail has been good for 2 µs, and a unit reset brings the unit up from step 2 (R412). -/
def execVresetRecovery (s : State) : Res :=
  .next (if s.pwr.vresetHold && s.pwr.aonOk then
      let t := { s with pwr := { s.pwr with vresetHold := false } }
      if s.pwr.rstN then fromStep2 t else t
    else s)

end Sys2Proof.Machine
end

