-- ==== Sys2Proof/Machine/Window.lean ====
section
/-! DEFINITION. Writes to the register window by access type, the submission of a command through `CMD_GO`, and the debug TAP
(R10, R11, R229, R446, R447, R449, R454 to R456, R479). -/

namespace Sys2Proof.Machine

/-! ### RW registers (R10) -/

/-- A staged re-arm register of a persistent channel (Table 9-6). -/
def rwChan (s : State) (h : ChanId) (o : Nat) (v : Word) : State :=
  if !isPersistent h then s
  else modChan s h (fun x =>
    if o = 0x18 then { x with raSrcL := v } else if o = 0x1C then { x with raSrcH := fld v 0 16 }
    else if o = 0x20 then { x with raDstL := v } else if o = 0x24 then { x with raDstH := fld v 0 16 }
    else if o = 0x28 then { x with raFirst := fld v 0 13, raCount := fld v 16 12 } else x)

/-- The RW registers. `DS_LANE_SEL` keeps a value of 8,448 to 16,383, which names no lane of Table 11-4 and which the spec does not
call reserved: `DS_LANE_ERR` then reads 0 (DESIGN CHOICE, log 83). -/
def rwWrite (s : State) (o : Nat) (v : Word) : State :=
  if o = 0x14 then { s with u := { s.u with testMaxAge := v } }
  else if o = 0x34 then { s with u := { s.u with evtMask := fld v 0 18 } }
  else if h : 0x1004 ≤ o ∧ o < 0x1014 then { s with cmd := { s.cmd with arg := s.cmd.arg.set ((o - 0x1004) / 4) v (by omega) } }
  else if o = 0x2018 then modPart s 0 (fun x => { x with seqAt := v })
  else if o = 0x201C then modPart s 1 (fun x => { x with seqAt := v })
  else if h : 0x5240 ≤ o ∧ o < 0x5270 then { s with fuse := { s.fuse with key := s.fuse.key.set ((o - 0x5240) / 4) v (by omega) } }
  else if o = 0x7004 then
    modPart (modPart s 0 (fun x => { x with brkEn := bitOf v 0 })) 1 (fun x => { x with brkEn := bitOf v 1 })
  else if o = 0x7008 then modPart s 0 (fun x => { x with brk := v })
  else if o = 0x700C then modPart s 1 (fun x => { x with brk := v })
  else if o = 0x28020 then { s with mem := { s.mem with laneSel := fld v 0 14 } }
  else if h : 0x30000 ≤ o ∧ o < 0x32000 then rwChan s ⟨(o - 0x30000) / 256, by omega⟩ (o % 256) v
  else s

/-! ### W1C registers (R447) -/

/-- UNIT, TICK, PWR and ERR blocks. -/
def w1cAon (s : State) (o : Nat) (v : Word) : State :=
  let c (x : Word) : Word := w1c x v
  if o = 0x30 then { s with u := { s.u with evtStat := w1c s.u.evtStat (fld v 0 18) } }
  else if o = 0x2030 then { s with fr := { s.fr with dlMiss := c s.fr.dlMiss } }
  else if o = 0x2034 then { s with fr := { s.fr with ovr := c s.fr.ovr } }
  else if o = 0x2038 then { s with fr := { s.fr with late := c s.fr.late } }
  else if o = 0x3108 then { s with pwr := { s.pwr with overCnt := c s.pwr.overCnt } }
  else if o = 0x310C then { s with pwr := { s.pwr with droopLog := c s.pwr.droopLog } }
  else if o = 0x3110 then { s with pwr := { s.pwr with droopLong := c s.pwr.droopLong } }
  else if o = 0x3120 then { s with pwr := { s.pwr with nsRd := c s.pwr.nsRd } }
  else if o = 0x3124 then { s with pwr := { s.pwr with nsWr := c s.pwr.nsWr } }
  else if o = 0x3128 then { s with pwr := { s.pwr with dsAcc := c s.pwr.dsAcc } }
  else if o = 0x312C then { s with pwr := { s.pwr with flits := c s.pwr.flits } }
  else if o = 0x6000 then { s with err := { s.err with firstV := s.err.firstV && !bitOf v 13 } }
  else if o = 0x6008 then { s with err := { s.err with lost := c s.err.lost } }
  else if 0x6010 ≤ o ∧ o < 0x6020 then
    { s with err := { s.err with cls := s.err.cls.mapIdx (fun i x => if i = (o - 0x6010) / 4 then c x else x) } }
  else if o = 0x6020 then { s with err := { s.err with stallCnt := c s.err.stallCnt } }
  else if o = 0x6024 then { s with err := { s.err with rmtDrop := c s.err.rmtDrop } }
  else s

/-- XB block; `o` counts from its start. -/
def w1cXb (s : State) (o : Nat) (v : Word) : State :=
  if 0xE00 ≤ o ∧ o < 0xEB4 then
    { s with xb := { s.xb with wait := put 0 s.xb.wait ((o - 0xE00) / 4) (w1c (look 0 s.xb.wait ((o - 0xE00) / 4)) v) } }
  else if o = 0xF00 then { s with xb := { s.xb with split := w1c s.xb.split v } }
  else if o = 0xF04 then { s with xb := { s.xb with tomb := w1c s.xb.tomb v } }
  else s

/-- NS and DS blocks; `o` counts from 0x2_0000. -/
def w1cStore (s : State) (o : Nat) (v : Word) : State :=
  let c (x : Word) : Word := w1c x v
  if h : 0x100 ≤ o ∧ o < 0x180 then
    let g : GroupId := ⟨(o - 0x100) / 16, by omega⟩
    if o % 16 = 4 then modPort s (.ns g) (fun p => { p with deferCnt := c p.deferCnt })
    else if o % 16 = 8 then modPort s (.ns g) (fun p => { p with skip := c p.skip })
    else s
  else if o = 0x4 then { s with mem := { s.mem with nsCe := c s.mem.nsCe } }
  else if o = 0x8 then { s with mem := { s.mem with nsUe := c s.mem.nsUe } }
  else if o = 0x10 then { s with mem := { s.mem with nsOff := c s.mem.nsOff } }
  else if o = 0x8004 then { s with mem := { s.mem with dsCe := c s.mem.dsCe } }
  else if o = 0x8008 then { s with mem := { s.mem with dsUe := c s.mem.dsUe } }
  else if o = 0x801C then { s with mem := { s.mem with dsOff := c s.mem.dsOff } }
  else s

/-- MOV block; `o` counts from 0x3_0000. -/
def w1cMov (s : State) (o : Nat) (v : Word) : State :=
  let c (x : Word) : Word := w1c x v
  if h : o < 0x2000 then
    modChan s ⟨o / 256, by omega⟩ (fun x =>
      if o % 256 = 0x30 then { x with rearmBusy := c x.rearmBusy } else if o % 256 = 0x34 then { x with oobWr := c x.oobWr }
      else if o % 256 = 0x38 then { x with farLate := c x.farLate } else if o % 256 = 0x3C then { x with beats := c x.beats }
      else if o % 256 = 0x40 then { x with credStall := c x.credStall } else x)
  else if o = 0x202C then { s with mov := { s.mov with listCe := c s.mov.listCe } }
  else s

/-- A `CL_n` block. -/
def w1cCl (x : Cluster) (o : Nat) (v : Word) : Cluster :=
  let c (x : Word) : Word := w1c x v
  if o = 0x100 then { x with whiskCe := c x.whiskCe } else if o = 0x104 then { x with gangPass := c x.gangPass }
  else if o = 0x204 then { x with oob := c x.oob } else if o = 0x208 then { x with merge := c x.merge }
  else if o = 0x20C then { x with waitCnt := c x.waitCnt } else if o = 0x210 then { x with conf := c x.conf }
  else if o = 0x214 then { x with adds := c x.adds } else if o = 0x218 then { x with req := c x.req } else x

/-- A `CORE_n` block. -/
def w1cCore (x : Core) (o : Nat) (v : Word) : Core :=
  let c (x : Word) : Word := w1c x v
  if o = 0x10 then { x with oobWr := c x.oobWr } else if o = 0x14 then { x with lqStall := c x.lqStall }
  else if o = 0x18 then { x with sqStall := c x.sqStall } else if o = 0x1C then { x with rfRd := c x.rfRd }
  else if o = 0x20 then { x with latchHit := c x.latchHit } else if o = 0x24 then { x with restart := c x.restart }
  else if o = 0x2C then { x with routeCe := c x.routeCe } else if o = 0x30 then { x with gangWait := c x.gangWait }
  else if o = 0x34 then { x with netPass := c x.netPass } else if o = 0x38 then { x with trvRow := c x.trvRow }
  else if o = 0x3C then { x with trvBeat := c x.trvBeat } else if o = 0x84 then { x with regStall := c x.regStall }
  else if o = 0x88 then { x with wcntStall := c x.wcntStall } else x

/-- An `EIF_EA_a` sub-block. -/
def w1cEa (x : Attach) (o : Nat) (v : Word) : Attach :=
  let c (x : Word) : Word := w1c x v
  if o = 0x14 then { x with feed := c x.feed } else if o = 0x18 then { x with holdCnt := c x.holdCnt }
  else if o = 0x1C then { x with starve := c x.starve } else if o = 0x20 then { x with dup := c x.dup }
  else if o = 0x24 then { x with drainRows := c x.drainRows } else if o = 0x28 then { x with drainStall := c x.drainStall }
  else if o = 0x2C then { x with oobWr := c x.oobWr } else if o = 0x30 then { x with ce := c x.ce } else x

/-- EIF block; `o` counts from 0xC_0000. -/
def w1cEif (s : State) (o : Nat) (v : Word) : State :=
  if h : o < 0x2000 then modEa s ⟨o / 0x1000, by omega⟩ (fun x => w1cEa x (o % 0x1000) v)
  else if h : 0x2000 ≤ o ∧ o < 0x20C0 then
    modTap s ⟨(o - 0x2000) / 64, by omega⟩ (fun x => if o % 64 = 4 then { x with rows := w1c x.rows v } else x)
  else s

/-- LNK block; `o` counts from 0xD_0000. -/
def w1cLnk (s : State) (o : Nat) (v : Word) : State :=
  let c (x : Word) : Word := w1c x v
  if h : 0x100 ≤ o ∧ o < 0x500 then
    modStream s ⟨(o - 0x100) / 16, by omega⟩ (fun x => if o % 16 = 8 then { x with acc := c x.acc } else x)
  else modLink s (fun l =>
    if 0x60 ≤ o ∧ o < 0x74 then { l with laneErr := l.laneErr.mapIdx (fun i x => if i = (o - 0x60) / 4 then c x else x) }
    else if o = 0xC then { l with rpl := c l.rpl } else if o = 0x10 then { l with rplOver := c l.rplOver }
    else if o = 0x14 then { l with crc := c l.crc } else if o = 0x18 then { l with fecCe := c l.fecCe }
    else if o = 0x1C then { l with fecUe := c l.fecUe } else if o = 0x20 then { l with retrain := c l.retrain }
    else if o = 0x24 then { l with fwd := c l.fwd } else if o = 0x28 then { l with fwdOvf := c l.fwdOvf }
    else if o = 0x2C then { l with nackCnt := c l.nackCnt } else if o = 0x30 then { l with labelCnt := c l.labelCnt }
    else if o = 0x34 then { l with addCnt := c l.addCnt } else l)

/-- The W1C registers: each bit written 1 is cleared. -/
def w1cWrite (s : State) (o : Nat) (v : Word) : State :=
  if o < 0x8000 then w1cAon s o v
  else if o < 0x10000 then s
  else if o < 0x20000 then w1cXb s (o - 0x10000) v
  else if o < 0x30000 then w1cStore s (o - 0x20000) v
  else if o < 0x40000 then w1cMov s (o - 0x30000) v
  else if h : 0x40000 ≤ o ∧ o < 0x80000 then modCl s ⟨(o - 0x40000) / 0x10000, by omega⟩ (fun x => w1cCl x (o % 0x10000) v)
  else if h : 0x80000 ≤ o ∧ o < 0xC0000 then
    let n : CoreId := ⟨(o - 0x80000) / 0x4000, by omega⟩
    if offered s n then modCore s n (fun x => w1cCore x (o % 0x4000) v) else s
  else if o < 0xD0000 then w1cEif s (o - 0xC0000) v
  else if o < 0xE0000 then w1cLnk s (o - 0xD0000) v
  else if o = 0xE2080 then { s with cntPar := w1c s.cntPar v }
  else s

/-! ### `CMD_GO` (R455, Tables 14-6 and 18-7) -/

/-- An argument that names no element: the command is refused (log 32). -/
def noElement (code : Nat) (s : State) : State := command s (fun s => cmdRefuse s code .cmdState 0)

/-- RESET by its level and number. -/
def goReset (a : Word) (s : State) : State :=
  let n := fldN a 2 4
  match fldN a 0 2 with
  | 0 => cmdResetCore (fld a 2 4).toFin s
  | 1 => if h : n < 4 then cmdResetCluster ⟨n, h⟩ s else noElement 0x10 s
  | 2 => if h : n < 2 then cmdResetPartition ⟨n, h⟩ s else if !twoTask s then cmdResetPartition 0 s else noElement 0x10 s
  | _ => cmdResetUnit (bitOf a 6) s

/-- FUSE_PROG by its fuse. -/
def goFuse (a : Word) (s : State) : State :=
  match fldN a 0 2 with
  | 0 => cmdFuseProg .dbgDisable s
  | 1 => cmdFuseProg .sigRequired s
  | 2 => cmdFuseProg .detached s
  | _ => cmdFuseProg .keyHash s

/-- The far record that a slot command of the window reads: no operand brings it (log 3). -/
def goRecord (s : State) : Option (List Byte) × State := (Config.farRecord s.fresh, { s with fresh := s.fresh + 1 })

/-- A command submitted with the four argument words (R455). -/
def cmdGo (code : Nat) (s : State) : State :=
  let a := s.cmd.arg[(0 : Fin 4)]
  let p : Part := (fld a 0 1).toFin
  match code with
  | 0x10 => goReset a s
  | 0x11 => cmdTaskStart p (fld a 1 4).toFin s.cmd.arg[(1 : Fin 4)] s
  | 0x12 => cmdTestGo (Config.testResult s.fresh) { s with fresh := s.fresh + 1 }
  | 0x20 => cmdLoadBegin (fld a 0 16) (fld a 16 16) s
  | 0x30 => cmdRepairAuth (fld a 0 8) s
  | 0x31 => goFuse a s
  | 0x32 => cmdDetach s
  | 0x40 => cmdPreempt p s
  | 0x41 => cmdResume p s
  | 0x42 => cmdHalt p (bitOf a 1) s
  | 0x50 => let r := goRecord s; cmdRouteLoad (fld a 0 4).toFin (fld a 4 6).toFin r.1 r.2
  | 0x51 => let r := goRecord s; cmdWhiskLoad (fld a 0 2).toFin (fld a 2 5).toFin r.1 r.2
  | 0x60 => cmdDump (fld a 0 4).toFin s
  | 0x70 => cmdPwrForce (fldN a 0 5) (fldN a 5 2) s
  | _ => command s (fun s => cmdRefuse s code .cmdState 0)

/-! ### REGISTER_WRITE -/

/-- A write to `SEQ_NEXT_p`. -/
def writeSeqNext (p : Part) (v : Word) (s : State) : State := if bitOf v 30 then cancelSeq p s else requestSeq p v s

/-- A write takes effect by the register's access type; RO registers and reserved offsets ignore it (R10, R11, R445). -/
def regWrite (s : State) (off : Nat) (v : Word) : State :=
  let o := off % 2 ^ 20 / 4 * 4
  if o = 0x1000 then cmdGo (fldN v 0 8) s
  else if o = 0x2010 then writeSeqNext 0 v s
  else if o = 0x2014 then writeSeqNext 1 v s
  else if o = 0x6004 then { s with err := ackEntries s.err (fldN v 0 7) }
  else if h : 0x30000 ≤ o ∧ o < 0x32000 ∧ o % 256 = 0x2C then
    (if bitOf v 0 then submitRearm ⟨(o - 0x30000) / 256, by omega⟩ s else s)
  else match rwfAt s o with
    | some r => rwfWrite s o r v
    | none => w1cWrite (rwWrite s o v) o v

/-- An access of the window goes through target 13 of the crossbar, which a unit in reset does not have (R446). -/
def windowOpen (s : State) : Bool := !heldInReset s && !fuseDead s

/-- REGISTER_WRITE: a host access, from master 44 (R11, R446). -/
def execRegisterWrite (off : BitVec 20) (v : Word) (s : State) : Res :=
  .next (if windowOpen s then regWrite (presentAt s 13 44 0 1) off.toNat v else s)

/-! ### The debug TAP (R346, R464, R479) -/

/-- The TAP is closed. -/
def tapClosed (s : State) : Bool := bitOf (fuseRow s 0) 16

/-- IDCODE: the identity code is shifted out. -/
def execIdcode (s : State) : Res :=
  .next { s with pins := { s.pins with tdo := 0xC4D52001 }, tapSession := false }

/-- A window access by Caddy for the TAP, as master 43; the data register comes back with the word read and `done` (R446). -/
def tapAccess (dr : BitVec 72) (s : State) : State :=
  let off := fldN dr 0 20
  let s := presentAt s 13 43 0 1
  let r := readReg s off
  let t := if bitOf dr 52 then regWrite s off (fld dr 20 32) else r.1
  let x := if bitOf dr 52 then dr else setFld dr 20 32 r.2.toNat
  { t with pins := { t.pins with tdo := setFld (setFld x 53 1 1) 54 18 0 }, tapSession := !tapClosed t }

/-- WINDOW: a register access through Caddy; with the TAP closed the code acts as BYPASS, which passes the chain one bit late
(R479). -/
def execWindow (dr : BitVec 72) (s : State) : Res :=
  .next (if tapClosed s then { s with pins := { s.pins with tdo := dr <<< 1 }, tapSession := false }
    else if windowOpen s then tapAccess dr s
    else s)

end Sys2Proof.Machine
end

