-- ==== Sys2Proof/Machine/Clock.lean ====
section
/-! DEFINITION. A core cycle that passes with no command waiting (log 1): the frame's cycle, the regulators' tokens, the power
domains' entries, wakes and interval ends, the droop divider, the window of a partition reset, and the powered second of
`TEST_AGE` (R33, R55, R216, R292, R354, R356, R398, R401, R407, R410). -/

namespace Sys2Proof.Machine

/-- Core cycles of a second at the clock in force (R5). -/
def cyclesPerSecond (s : State) : Nat := clk2 s.fr.clk * 50000000

/-- `TEST_AGE` counts powered seconds from the end of the last full test (R354). -/
def ageSecond (s : State) : State :=
  if s.u.tested = false then s
  else if s.u.secCyc + 1 < cyclesPerSecond s then { s with u := { s.u with secCyc := s.u.secCyc + 1 } }
  else { s with u := { s.u with secCyc := 0, testAge := sat32 s.u.testAge 1 } }

/-- Every bucket has gained this cycle's tokens (R216). -/
def refillAll (s : State) : State :=
  let s := { s with cores := s.cores.map (fun x => if x.fed then { x with fed := false } else { x with bucket := refill x.reg x.bucket }) }
  let s := if s.mov.fed then s else refillMover s
  { s with mov := { s.mov with fed := false } }

/-- The timer of a domain that enters or wakes, and the end of its interval in the cycle that begins (R398, R401). -/
def domCycle (s : State) (d : DomId) : State :=
  let x := s.pwr.dom[d]
  let s := if x.until_ = some s.fr.cyc then modDom s d (fun x => { x with until_ := none, cap := 0 }) else s
  if x.timer = 0 then s
  else
    let s := modDom s d (fun x => { x with timer := x.timer - 1 })
    if x.timer = 1 then domArrive s d else s

/-- A port's cycle: one whose closing its counts defer counts it, and a wake from GATED comes nearer its end (R292, Table
11-2). -/
def portCycle (n : Nat) (p : Port) : Port :=
  let p := { p with wake := p.wake - 1 }
  if p.closing && (decide (p.hold ≠ 0) || decide (n ≠ 0)) then { p with deferCnt := sat32 p.deferCnt 1 } else p

/-- The ports' cycle. -/
def portsCycle (s : State) : State := allStores.foldl (fun t st => modPort t st (portCycle (inFlight s st))) s

/-- A RESET that is in progress completes after its cycles (R347, R356). -/
def cmdCycle (s : State) : State :=
  let n := s.cmd.left
  if n = 0 then s
  else
    let s := { s with cmd := { s.cmd with left := n - 1 } }
    if n = 1 then cmdDone s s.cmd.code.toNat 0 else s

/-- A cycle under the divider (R55, R410). -/
def droopCycle (s : State) : State :=
  if s.pwr.divider then { s with pwr := { s.pwr with divFrame := s.pwr.divFrame + 1, divEpisode := s.pwr.divEpisode + 1 } } else s

/-- A core's cycle: each wait of an instruction for beats or for room in the store queue, and a PRMG that presents without
issuing, is counted (R85, R89, R130, R142). -/
def waitCycle (x : Core) : Core :=
  let x := if x.prog.any (fun p => decide (progWait p = some .lq)) then { x with lqStall := sat32 x.lqStall 1 } else x
  let x := if x.prog.any (fun p => decide (progWait p = some .sq)) then { x with sqStall := sat32 x.sqStall 1 } else x
  if x.present.isSome then { x with gangWait := sat32 x.gangWait 1 } else x

/-- A Ladle's cycle: each command that waits counts (R150). -/
def ladCycle (k : Cluster) : Cluster := { k with waitCnt := sat32 k.waitCnt k.waiting.length }

/-- The waits of a cycle, counted. -/
def countWaits (s : State) : State := { s with cores := s.cores.map waitCycle, cls := s.cls.map ladCycle }

/-- The core clock's cycle: drain sequencers and open CLIP stages, the crossbar, what counts or waits by cycles, and then the next cycle
of the frame begins. -/
def coreCycle (s : State) : State :=
  let s := xbCycle (([0, 1] : List EaId).foldl (fun s a => clipAccepted (drainCycle s a) a) s)
  let s := refillAll (portsCycle (droopCycle (countDomCycles (countWaits s))))
  let s := laneCycle (routeCycle (cmdCycle s))
  let s := { s with
    fr := { s.fr with cyc := s.fr.cyc + 1 }
    parts := s.parts.map (fun x => { x with resetWin := x.resetWin - 1 }) }
  (List.finRange 24).foldl domCycle s

/-- A core cycle passes: none without AON power, and none of the core clock's in reset. -/
def passCycle (s : State) : State :=
  if !s.pwr.aonOk then s
  else
    let s := ageSecond s
    let s := if heldInReset s then s else coreCycle s
    { s with err := endLogCycle s.err }

end Sys2Proof.Machine
end

