-- ==== Sys2Proof/Machine/Packets.lean ====
section
/-! DEFINITION. What the packets of the management chain do: IDENT, ADDRESS, RD, WR, CMD and DETACH (R349 to R351, R446,
R455). -/

namespace Sys2Proof.Machine

/-- Response word of IDENT (Table 14-8). -/
def identWord (s : State) : Word :=
  let f := fuseRow s 0
  rw (fldN f 0 6 + fldN f 6 8 * 2 ^ 6 + fldN f 14 2 * 2 ^ 14 + s.u.state.code * 2 ^ 16)

/-- An ADDRESS packet that the unit takes (R350). -/
def takeAddress (p : ChainPkt) (s : State) : State × Bool × List Word :=
  let a : BitVec 16 := fld (p.words.getD 0 0) 0 16
  if s.u.hasAddr && decide (a = s.u.addr) then (s, false, [])
  else if s.u.state = .powered ∧ a.toNat % 64 = fldN (fuseRow s 0) 0 6 then
    ({ s with u := { s.u with addr := a, hasAddr := true, state := .addressed } }, false, [])
  else (logRefused s .enumAddr locUnit a.toNat, true, [])

/-- An RD that the unit takes: Caddy reads the register as master 43 (R446). -/
def takeRd (p : ChainPkt) (s : State) : State × Bool × List Word :=
  let r := readReg (presentAt s 13 43 0 1) (fldN (p.words.getD 0 0) 0 20)
  (r.1, false, [r.2])

/-- A WR that the unit takes (R446). -/
def takeWr (p : ChainPkt) (s : State) : State × Bool × List Word :=
  (regWrite (presentAt s 13 43 0 1) (fldN (p.words.getD 0 0) 0 20) (p.words.getD 1 0), false, [])

/-- The command window has refused the command submitted at `s`, which left `t`. -/
def wasRefused (s t : State) : Bool := s.cmd.busy || (t.cmd.done && decide (t.cmd.result ≠ 0) && !t.cmd.busy)

/-- A command brought by a packet, with its answer (R455). -/
def submitted (s t : State) : State × Bool × List Word := (t, wasRefused s t, [])

/-- The argument words of a CMD packet, in payload words 1 to 4, written as a register write would (R455). -/
def cmdArgs (p : ChainPkt) (s : State) : State :=
  (List.finRange 4).foldl (fun (s : State) (i : Fin 4) =>
    match p.words[i.val + 1]? with
    | some v => { s with cmd := { s.cmd with arg := s.cmd.arg.set i v } }
    | none => s) (presentAt s 13 43 0 1)

/-- A CMD that the unit takes (R347, R455). -/
def takeCmd (p : ChainPkt) (s : State) : State × Bool × List Word :=
  let s := cmdArgs p s
  submitted s (cmdGo (fldN (p.words.getD 0 0) 0 8) s)

/-- The effect of a packet by its kind (Table 14-8). -/
def pktEffect (p : ChainPkt) (s : State) : State × Bool × List Word :=
  match pKind p with
  | 1 => (s, false, [identWord s])
  | 2 => takeAddress p s
  | 3 => takeRd p s
  | 4 => takeWr p s
  | 5 => takeCmd p s
  | _ => submitted s (cmdDetach s)

/-- A packet that reaches the unit over the chain, whichever command brings it. -/
def takePacket (p : ChainPkt) (s : State) : State := chainPkt s p (pktEffect p)

/-- IDENT (R349). -/
def execIdent (p : ChainPkt) (s : State) : Res := .next (takePacket p s)

/-- ADDRESS (R350). -/
def execAddress (p : ChainPkt) (s : State) : Res := .next (takePacket p s)

/-- RD (R349, R446). -/
def execRd (p : ChainPkt) (s : State) : Res := .next (takePacket p s)

end Sys2Proof.Machine
end

