-- ==== Sys2Proof/Machine/Dispatch.lean ====
section
/-! DEFINITION. The command's effect on everything but the queue: one arm per row of spec/opcode_table.json. -/

namespace Sys2Proof.Machine

def exec (i : Instr) (s : State) : Host.Outcome State Fault Refusal :=
  match i with
  | .nop c => Sys2Proof.Machine.execNop c s
  | .halt c => Sys2Proof.Machine.execHalt c s
  | .fwait c f => Sys2Proof.Machine.execFwait c f s
  | .lyend c => Sys2Proof.Machine.execLyend c s
  | .loop c countM1 => Sys2Proof.Machine.execLoop c countM1 s
  | .endl c => Sys2Proof.Machine.execEndl c s
  | .vld c adv vd d b o => Sys2Proof.Machine.execVld c adv vd d b o s
  | .vst c adv d va b o => Sys2Proof.Machine.execVst c adv d va b o s
  | .vmov c vd va => Sys2Proof.Machine.execVmov c vd va s
  | .vbc c e vd src => Sys2Proof.Machine.execVbc c e vd src s
  | .vsel c e vd va vb vm => Sys2Proof.Machine.execVsel c e vd va vb vm s
  | .vlq c vd => Sys2Proof.Machine.execVlq c vd s
  | .vsq c va => Sys2Proof.Machine.execVsq c va s
  | .twr c adv cls nM1 t src => Sys2Proof.Machine.execTwr c adv cls nM1 t src s
  | .trd c adv cls rel t start cntM1 dst => Sys2Proof.Machine.execTrd c adv cls rel t start cntM1 dst s
  | .trel c t cls => Sys2Proof.Machine.execTrel c t cls s
  | .vrel c mask => Sys2Proof.Machine.execVrel c mask s
  | .prm c e vd va src => Sys2Proof.Machine.execPrm c e vd va src s
  | .prmg c e vd va src => Sys2Proof.Machine.execPrmg c e vd va src s
  | .gth c adv dst srcD idxD k var => Sys2Proof.Machine.execGth c adv dst srcD idxD k var s
  | .sct c adv dstD src idxD k var acc => Sys2Proof.Machine.execSct c adv dstD src idxD k var acc s
  | .cvt c vd va sfmt dfmt round sat ps pd => Sys2Proof.Machine.execCvt c vd va sfmt dfmt round sat ps pd s
  | .pack c adv d va k container => Sys2Proof.Machine.execPack c adv d va k container s
  | .unpk c adv vd src container => Sys2Proof.Machine.execUnpk c adv vd src container s
  | .wcnt c adv sa ctr step => Sys2Proof.Machine.execWcnt c adv sa ctr step s
  | .sig c ctr amtM1 => Sys2Proof.Machine.execSig c ctr amtM1 s
  | .rwt c adv inc d va ctr st nM1 => Sys2Proof.Machine.execRwt c adv inc d va ctr st nM1 s
  | .rrd c adv inc dd sd ctr st => Sys2Proof.Machine.execRrd c adv inc dd sd ctr st s
  | .rinc c adv add cnt d sa ctr st => Sys2Proof.Machine.execRinc c adv add cnt d sa ctr st s
  | .fuse c bM1 stages => Sys2Proof.Machine.execFuse c bM1 stages s
  | .clear c tap => Sys2Proof.Machine.execClear c tap s
  | .arm c tap => Sys2Proof.Machine.execArm c tap s
  | .stop c tap => Sys2Proof.Machine.execStop c tap s
  | .emit c tap vd => Sys2Proof.Machine.execEmit c tap vd s
  | .panel a mode haM1 hbM1 srcA srcB tM1 ctl => Sys2Proof.Machine.execPanel a mode haM1 hbM1 srcA srcB tM1 ctl s
  | .presentation a => Sys2Proof.Machine.execPresentation a s
  | .drain a trn tap ddesc inc ctr tilesM1 ofs first => Sys2Proof.Machine.execDrain a trn tap ddesc inc ctr tilesM1 ofs first s
  | .drainRow a row psn => Sys2Proof.Machine.execDrainRow a row psn s
  | .waitc a ctr step => Sys2Proof.Machine.execWaitc a ctr step s
  | .clip a sM1 => Sys2Proof.Machine.execClip a sM1 s
  | .clipEmit a mask => Sys2Proof.Machine.execClipEmit a mask s
  | .send a ddesc ctr idx => Sys2Proof.Machine.execSend a ddesc ctr idx s
  | .clipWait a ctr step => Sys2Proof.Machine.execClipWait a ctr step s
  | .sum a ddesc nM1 => Sys2Proof.Machine.execSum a ddesc nM1 s
  | .scale a m => Sys2Proof.Machine.execScale a m s
  | .bcast a ddesc ctr => Sys2Proof.Machine.execBcast a ddesc ctr s
  | .store a ddesc => Sys2Proof.Machine.execStore a ddesc s
  | .endw a => Sys2Proof.Machine.execEndw a s
  | .itemStart ag => Sys2Proof.Machine.execItemStart ag s
  | .fetchTransfer c nM1 => Sys2Proof.Machine.execFetchTransfer c nM1 s
  | .storePathWrite c => Sys2Proof.Machine.execStorePathWrite c s
  | .ladleStart cl => Sys2Proof.Machine.execLadleStart cl s
  | .blockStart ch => Sys2Proof.Machine.execBlockStart ch s
  | .beatSlotGrant => Sys2Proof.Machine.execBeatSlotGrant s
  | .transferComplete ch => Sys2Proof.Machine.execTransferComplete ch s
  | .farXlate ch addr => Sys2Proof.Machine.execFarXlate ch addr s
  | .farResponse ch data cycles => Sys2Proof.Machine.execFarResponse ch data cycles s
  | .rearm ch => Sys2Proof.Machine.execRearm ch s
  | .listEnd ch => Sys2Proof.Machine.execListEnd ch s
  | .flitAccept st => Sys2Proof.Machine.execFlitAccept st s
  | .linkSlot => Sys2Proof.Machine.execLinkSlot s
  | .wr link f => Sys2Proof.Machine.execWr link f s
  | .rdReq link f => Sys2Proof.Machine.execRdReq link f s
  | .rdRsp link f => Sys2Proof.Machine.execRdRsp link f s
  | .inc link f => Sys2Proof.Machine.execInc link f s
  | .add link f => Sys2Proof.Machine.execAdd link f s
  | .cred link f => Sys2Proof.Machine.execCred link f s
  | .cret link f => Sys2Proof.Machine.execCret link f s
  | .nack link f => Sys2Proof.Machine.execNack link f s
  | .tickMarker f since => Sys2Proof.Machine.execTickMarker f since s
  | .flitForward link f => Sys2Proof.Machine.execFlitForward link f s
  | .recall st => Sys2Proof.Machine.execRecall st s
  | .nakRetry => Sys2Proof.Machine.execNakRetry s
  | .laneSwap l => Sys2Proof.Machine.execLaneSwap l s
  | .spareReadyTimeout l => Sys2Proof.Machine.execSpareReadyTimeout l s
  | .linkRetrain lostLane => Sys2Proof.Machine.execLinkRetrain lostLane s
  | .retrainDone ok => Sys2Proof.Machine.execRetrainDone ok s
  | .linkTrain ok lat => Sys2Proof.Machine.execLinkTrain ok lat s
  | .tick num skew => Sys2Proof.Machine.execTick num skew s
  | .tickSelf => Sys2Proof.Machine.execTickSelf s
  | .lock => Sys2Proof.Machine.execLock s
  | .tickLost => Sys2Proof.Machine.execTickLost s
  | .seqEntryEnd p => Sys2Proof.Machine.execSeqEntryEnd p s
  | .stallCycle ag => Sys2Proof.Machine.execStallCycle ag s
  | .dsRefreshWindow lanes failed => Sys2Proof.Machine.execDsRefreshWindow lanes failed s
  | .patrolScrub => Sys2Proof.Machine.execPatrolScrub s
  | .powerIntervalStart d => Sys2Proof.Machine.execPowerIntervalStart d s
  | .portClose st => Sys2Proof.Machine.execPortClose st s
  | .wake d => Sys2Proof.Machine.execWake d s
  | .droopExhausted => Sys2Proof.Machine.execDroopExhausted s
  | .vwarn => Sys2Proof.Machine.execVwarn s
  | .droop => Sys2Proof.Machine.execDroop s
  | .vreset => Sys2Proof.Machine.execVreset s
  | .vresetRecovery => Sys2Proof.Machine.execVresetRecovery s
  | .ageingSample code => Sys2Proof.Machine.execAgeingSample code s
  | .aonPwrOk high pllLock => Sys2Proof.Machine.execAonPwrOk high pllLock s
  | .rstChipN high => Sys2Proof.Machine.execRstChipN high s
  | .pwrVidAck => Sys2Proof.Machine.execPwrVidAck s
  | .vidAckTimeout => Sys2Proof.Machine.execVidAckTimeout s
  | .ident p => Sys2Proof.Machine.execIdent p s
  | .address p => Sys2Proof.Machine.execAddress p s
  | .rd p => Sys2Proof.Machine.execRd p s
  | .testGo r => Sys2Proof.Machine.execTestGo r s
  | .resetCore c => Sys2Proof.Machine.execResetCore c s
  | .resetCluster cl => Sys2Proof.Machine.execResetCluster cl s
  | .resetPartition p => Sys2Proof.Machine.execResetPartition p s
  | .resetUnit linkKeep => Sys2Proof.Machine.execResetUnit linkKeep s
  | .errorReset c => Sys2Proof.Machine.execErrorReset c s
  | .taskStart p seq frame => Sys2Proof.Machine.execTaskStart p seq frame s
  | .loadBegin source timeout => Sys2Proof.Machine.execLoadBegin source timeout s
  | .transportBlock b => Sys2Proof.Machine.execTransportBlock b s
  | .endMarker b => Sys2Proof.Machine.execEndMarker b s
  | .loadGate => Sys2Proof.Machine.execLoadGate s
  | .loadIncomplete => Sys2Proof.Machine.execLoadIncomplete s
  | .repairAuth fcrc => Sys2Proof.Machine.execRepairAuth fcrc s
  | .fuseProgDbgDisable => Sys2Proof.Machine.execFuseProgDbgDisable s
  | .fuseProgSigRequired => Sys2Proof.Machine.execFuseProgSigRequired s
  | .fuseProgDetached => Sys2Proof.Machine.execFuseProgDetached s
  | .fuseProgKeyHash => Sys2Proof.Machine.execFuseProgKeyHash s
  | .fuseWriteDone readBack => Sys2Proof.Machine.execFuseWriteDone readBack s
  | .detach => Sys2Proof.Machine.execDetach s
  | .preempt p => Sys2Proof.Machine.execPreempt p s
  | .resume p => Sys2Proof.Machine.execResume p s
  | .haltCommand p save => Sys2Proof.Machine.execHaltCommand p save s
  | .routeLoad c slot record => Sys2Proof.Machine.execRouteLoad c slot record s
  | .whiskLoad cl slot record => Sys2Proof.Machine.execWhiskLoad cl slot record s
  | .dump c => Sys2Proof.Machine.execDump c s
  | .pwrForce d cap => Sys2Proof.Machine.execPwrForce d cap s
  | .seqNext p v => Sys2Proof.Machine.execSeqNext p v s
  | .cancel p v => Sys2Proof.Machine.execCancel p v s
  | .errAck n => Sys2Proof.Machine.execErrAck n s
  | .tickCfgWrite v => Sys2Proof.Machine.execTickCfgWrite v s
  | .registerWrite off v => Sys2Proof.Machine.execRegisterWrite off v s
  | .idcode => Sys2Proof.Machine.execIdcode s
  | .window dr => Sys2Proof.Machine.execWindow dr s
  | .tickGenerator => Sys2Proof.Machine.execTickGenerator s
  | .idle f => Sys2Proof.Machine.execIdle f s
  | .flitCrcFail link f => Sys2Proof.Machine.execFlitCrcFail link f s
  | .candidateSpareReady l => Sys2Proof.Machine.execCandidateSpareReady l s
  | .gatedAfterIdle d => Sys2Proof.Machine.execGatedAfterIdle d s

end Sys2Proof.Machine
end

