-- ==== Sys2Proof/Safety.lean ====
section
/-! DEFINITION. What the statements speak of: the invariant that every step keeps, when a core may issue, and the frames of
the commands. -/

namespace Sys2Proof.Machine

/-- The invariant of the block: the stores' bytes and the arrival counters are in their canonical form (log 2), so that
equal contents are equal data. -/
def Inv (s : State) : Prop := Memory.wf s.mem = true ∧ tableWf ({} : Counter) s.cnt = true

/-- Core `c` may issue, its program counter names an instruction, and no multi-beat instruction of it is in progress (R87,
R93). -/
def Ready (s : State) (c : CoreId) : Prop := canIssue s c = true ∧ s.cores[c].pc < 2048 ∧ s.cores[c].prog = []

/-- Of the power block, only domains that an access wakes may differ (R399). -/
def OnlyWoken (s t : State) : Prop :=
  t.pwr = { s.pwr with dom := t.pwr.dom } ∧
    ∀ d : DomId, t.pwr.dom[d] = s.pwr.dom[d] ∨
      (s.pwr.dom[d].ps = .gated ∧ t.pwr.dom[d] = { s.pwr.dom[d] with ps := .active })

/-- Nothing but core `c` changed, save domains that woke. -/
def OnlyCore (c : CoreId) (s t : State) : Prop :=
  t = { s with cores := t.cores, pwr := t.pwr } ∧ (∀ k : CoreId, k ≠ c → t.cores[k] = s.cores[k]) ∧ OnlyWoken s t

/-- Core `c` as `x` says, but that its instruction has issued: the program counter is one further, and the agent has made
progress and waits for nothing (R387). -/
def issued (s : State) (c : CoreId) (x : Core) : Core :=
  { x with pc := s.cores[c].pc + 1, ag := { s.cores[c].ag with progressed := true, wait := none } }

/-- Core `c` issued one instruction which left it as `x`, and changed nothing else. -/
def IssuedAs (c : CoreId) (s t : State) (x : Core) : Prop := OnlyCore c s t ∧ t.cores[c] = issued s c x

/-- A vector register written (R81). -/
def fullReg (x : Bits) (psn : Bool) : VecReg := { full := true, data := x, psn := psn }

/-- The core with v_d written: its empty mark goes, and a latch that holds it is invalidated (R81, R95). -/
def wroteV (k : Core) (v : VReg) (x : Bits) (psn : Bool) : Core :=
  { k with v := k.v.set v.val (fullReg x psn), latch := if k.latch = some v then none else k.latch }

/-- `ADV` of a descriptor at the core: `BASE[31:0]` grows by s_n modulo 2^32, and a factor cache entry for it goes (R176). -/
def advanced (k : Core) (adv : Bool) (d : DReg) : Core :=
  if adv then
    { k with
      d := k.d.set d.val (setFld k.d[d] 0 32 (fldN k.d[d] 0 32 + k.s[d].toNat))
      factor := if k.factor = some d then none else k.factor }
  else k

/-- The core with registers v_a on written one after another. -/
def wroteRun (k : Core) (a : VReg) (xs : List (Bits × Bool)) : Core :=
  (xs.zipIdx).foldl (fun k p => wroteV k (vPlus a p.2) p.1.1 p.1.2) k

/-- The one instruction in progress on a core is `i`, which issued where the core stood at `m`, and `f` holds of it (R87,
R101). -/
def InProgress (x : Core) (m : Mark) (i : Instr) (f : Prog → Prop) : Prop :=
  ∃ p : Prog, x.prog = [p] ∧ p.cmd = i ∧ p.mark = m ∧ f p

/-- Entries that the store queue has room for (R89). -/
def room (x : Core) : Nat := 16 - x.sq.length

/-- Every byte of the stores reads as before. -/
def SameBytes (s t : State) : Prop := ∀ a : Nat, readByte t.mem a = readByte s.mem a

/-- The core whose instruction a row of Table 8-3 is. -/
def instrCore : Instr → Option CoreId
  | .nop c | .halt c | .fwait c _ | .lyend c | .loop c _ | .endl c | .vld c _ _ _ _ _ | .vst c _ _ _ _ _ => some c
  | .vmov c _ _ | .vbc c _ _ _ | .vsel c _ _ _ _ _ | .vlq c _ | .vsq c _ | .twr c _ _ _ _ _ => some c
  | .trd c _ _ _ _ _ _ _ | .trel c _ _ | .vrel c _ | .prm c _ _ _ _ | .gth c _ _ _ _ _ _ | .sct c _ _ _ _ _ _ _ => some c
  | .cvt c _ _ _ _ _ _ _ _ | .pack c _ _ _ _ _ | .unpk c _ _ _ _ | .wcnt c _ _ _ _ | .sig c _ _ => some c
  | .rwt c _ _ _ _ _ _ _ | .rrd c _ _ _ _ _ _ | .rinc c _ _ _ _ _ _ _ | .fuse c _ _ => some c
  | .clear c _ | .arm c _ | .stop c _ | .emit c _ _ => some c
  | _ => none

/-! ### Attachments -/

/-- Attachment `a` is at its next port word, and that word reads without an error (R243, R245). -/
def PortReady (s : State) (a : EaId) : Prop :=
  eaRuns s a = true ∧ atWord s a = true ∧ (∀ w, HwFault.eifUe a w ∉ s.hwf ∧ HwFault.eifCe a w ∉ s.hwf)

/-- A stage of attachment `a`'s CLIP is next, and its word reads without an error (R243, R261). -/
def StageReady (s : State) (a : EaId) : Prop :=
  eaRuns s a = true ∧ s.eif[a].panel = none ∧ 0 < s.eif[a].clipLeft ∧ s.eif[a].thrAdded = false ∧
    s.eif[a].clipSent = false ∧ (∀ w, HwFault.eifUe a w ∉ s.hwf ∧ HwFault.eifCe a w ∉ s.hwf)

/-- Nothing but attachment `a` changed, save domains that woke. -/
def OnlyEa (a : EaId) (s t : State) : Prop :=
  t = { s with eif := t.eif, pwr := t.pwr } ∧ (∀ b : EaId, b ≠ a → t.eif[b] = s.eif[b]) ∧ OnlyWoken s t

/-- An attachment that has made progress. -/
def eaProgress (x : Attach) : Attach := { x with ag := { x.ag with progressed := true, wait := none } }

/-- The attachment as `x` says, one word further, in state `st`. -/
def wordPassed (x : Attach) (st : EState) : Attach := eaProgress { x with word := x.word + 1, st := st }

/-- The attachment after one stage of its CLIP: the last stage completes the word and counts in `CLIP_STEP` (R261). -/
def stagePassed (x : Attach) : Attach :=
  wordPassed { x with
    clipLeft := x.clipLeft - 1, clipSent := false
    clipStep := if x.clipLeft = 1 then sat32 x.clipStep 1 else x.clipStep } (if x.clipLeft = 1 then .idle else .clip)

/-! ### Flits -/

/-- A flit of type `typ` arrives intact and, on the link, in sequence; nothing holds the unit in reset, and no full forward
buffer turns it away (R317, R332, R335). -/
def Arrives (s : State) (link : Bool) (f : Flit) (typ : Nat) : Prop :=
  fType f = typ ∧ heldInReset s = false ∧ flitGood f = true ∧ fwdFull s f = false ∧
    (link = true → s.lnk.st = .up ∧ fSeq f = s.lnk.expSeq)

/-- Its label delivers to this unit, which takes operations for the label's partition (R314, R325, R383, R385). -/
def Delivers (s : State) (f : Flit) : Prop :=
  lbValid (labelOf s (fLabel f)) = true ∧ lbDeliver (labelOf s (fLabel f)) = true ∧ (labSt s (fLabel f)).nacked = false ∧
    s.u.state ≠ .fenced ∧ s.parts[taskPart s (lbOwner (labelOf s (fLabel f)))].resetWin = 0

/-- Word `w` belongs to the window's partition and lies behind an open port (R24, R293). -/
def TakesWord (s : State) (f : Flit) (w : Nat) : Prop :=
  crosses s (lbOwner (labelOf s (fLabel f))) (addrPart s (64 * w)) = false ∧ (portOf s (storeOf (64 * w))).isOpen = true

/-- The counter a flit names is sound and belongs to the window's partition (R24, R289). -/
def TakesCtr (s : State) (f : Flit) : Prop :=
  HwFault.cntParity (fCtr f) ∉ s.hwf ∧ crosses s (lbOwner (labelOf s (fLabel f))) (ctrPart s (fCtr f)) = false

/-! ### Events, errors, commands of the window -/

/-- The event's bit of `EVT_STAT` is set (R453). -/
def HasEvent (s : State) (e : Evt) : Prop := bitOf s.u.evtStat e.bit = true

/-- Between `s` and `t` one error of class `cls` is reported: its class counts it, and, unless the frame has logged it
before, its entry is the log's next (R371 to R373). -/
def Logged (s t : State) (e : Err) (cls loc detail : Nat) : Prop :=
  (∀ k : Fin 4, t.err.cls[k] = if k.val = cls then sat32 s.err.cls[k] 1 else s.err.cls[k]) ∧
    (s.err.seen.contains (seenKey e loc none) = false →
      t.err.ent = s.err.ent.set s.err.next.toNat (entryBits e cls loc (logFrame s) (logCyc s) none detail) (by omega))

/-- The command window takes a command: the unit has AON power and its fuses, and none is in progress (R42, R341, R455). -/
def TakesCommand (s : State) : Prop := s.pwr.aonOk = true ∧ fuseDead s = false ∧ s.cmd.busy = false

/-- A command with this code has completed with this result (R374, R455). -/
def Done (t : State) (code result : Nat) : Prop :=
  t.cmd.busy = false ∧ t.cmd.done = true ∧ t.cmd.code = BitVec.ofNat 8 code ∧ t.cmd.result = BitVec.ofNat 16 result ∧
    HasEvent t .cmdDone

/-- Between `s` and `t` a command with this code has been taken that completes after `n` cycles (R347, R356). -/
def Busy (s t : State) (code n : Nat) : Prop :=
  t.cmd = { s.cmd with busy := true, done := false, code := BitVec.ofNat 8 code, left := n }

/-- The rows of the table that the command window carries (R455, Table 14-6). -/
def isCommand : Instr → Bool
  | .testGo _ | .loadBegin _ _ | .repairAuth _ | .fuseProgDbgDisable | .fuseProgSigRequired | .fuseProgDetached => true
  | .fuseProgKeyHash | .detach | .resetCore _ | .resetCluster _ | .resetPartition _ | .resetUnit _ => true
  | .taskStart _ _ _ | .preempt _ | .resume _ | .haltCommand _ _ | .routeLoad _ _ _ | .whiskLoad _ _ _ => true
  | .dump _ | .pwrForce _ _ => true
  | _ => false

/-- A chain packet of kind `kind` that is no response reaches a unit that acts on the chain (R348, R349, R351). -/
def MeetsPacket (s : State) (p : ChainPkt) (kind : Nat) : Prop :=
  pKind p = kind ∧ bitOf p.hdr 30 = false ∧ s.u.state ≠ .detached ∧ s.pwr.aonOk = true

/-- The unit takes a chain packet of kind `kind`, intact and in a mode of its kind (R348, R349). -/
def TakesPacket (s : State) (p : ChainPkt) (kind : Nat) : Prop :=
  MeetsPacket s p kind ∧ pktUse s p = .take ∧ pktGood p = true

/-- A core with nothing of a run left in its queues, marks and control (R80, R356). -/
def CoreEmpty (x : Core) : Prop :=
  x.pc = 0 ∧ x.loops = [] ∧ x.lq = [] ∧ x.sq = [] ∧ x.v = Vector.replicate 32 {} ∧ x.present = none ∧ x.prog = []

/-- Nothing is left to drain: every store queue is empty, no channel has a block in progress, and no flit waits. -/
def Quiet (s : State) : Prop :=
  (∀ c : CoreId, s.cores[c].sq = []) ∧ (∀ h : ChanId, s.mov.chans[h].blks = []) ∧ ∀ t : StreamId, s.rmt.streams[t].wait = []

end Sys2Proof.Machine
end

