-- ==== Sys2Proof/Certificates/Slice0/Obligations.lean ====
section
/-! DEFINITION. The statements about the block, for the provers. Each docstring says in words what its Lean says. -/

open Sys2Proof Sys2Proof.Machine

/-! ### The block as a whole -/

/-- A step takes the command at the front of the queue and runs it on the state with the queue's rest; with no command
waiting a core cycle passes (the model's own reading of an empty queue, log 1). -/
def Obligations.StepTakesTheFrontCommand : Prop :=
  (∀ (c : Instr) (r : List Instr) (s : State), step { s with pending := c :: r } = exec c { s with pending := r }) ∧
    ∀ s : State, s.pending = [] → step s = .next (passCycle s)

/-- After reset the invariant holds. -/
def Obligations.ResetIsCanonical : Prop :=  Inv State.reset

/-- Every step from a state in canonical form, whatever command is in front, ends in one (logs 1 and 2). -/
def Obligations.EveryStepKeepsTheCanonicalForm : Prop :=
  ∀ s t : State, Inv s → step s = .next t → Inv t

/-- A core instruction changes nothing while its core may not issue (the model's choice, log 10), and one past
instruction 2,047, with no earlier one still in progress, is the contained error ERR_PC_RANGE of its core (R93). PRMG,
which presents before it issues, is not among them. -/
def Obligations.CoreInstructionsIssueOnlyWhenTheyMay : Prop :=
  ∀ (i : Instr) (c : CoreId) (s : State), instrCore i = some c →
    (canIssue s c = false → exec i s = .next s) ∧
    (canIssue s c = true → s.cores[c].prog = [] → 2048 ≤ s.cores[c].pc → exec i s = .next (failCore s c .pcRange 0))

/-! ### Control and synchronisation of a core -/

/-- NOP takes an issue cycle; FWAIT issues once its cycle or its frame has passed; LOOP enters a loop of `IMM` + 1
iterations while fewer than four are entered; ENDL goes back while iterations are left and leaves the loop after the
last (R92, R93, R179, R180). HALT, once the store queue is empty and every remote operation is accepted, ends the
item: the core is idle, its load queue discarded, its loop stack empty (R37, R90, R92). LYEND under the same conditions discards the load queue and stops the fetch engine, and issues (R181). -/
def Obligations.ControlInstructions : Prop :=
  (∀ (s : State) (c : CoreId), Ready s c →
     (∃ t, exec (.nop c) s = .next t ∧ IssuedAs c s t s.cores[c]) ∧
     (∀ f, syncBusy s c = false → ¬ (s.cores[c].ag.run = some s.fr.ctr ∧ s.fr.cyc < f.toNat) →
       ∃ t, exec (.fwait c f) s = .next t ∧ IssuedAs c s t s.cores[c]) ∧
     (∀ n : BitVec 24, s.cores[c].loops.length < 4 →
       ∃ t e, exec (.loop c n) s = .next t ∧ e.start = s.cores[c].pc + 1 ∧ e.left = n.toNat ∧
         IssuedAs c s t { s.cores[c] with loops := e :: s.cores[c].loops }) ∧
     (∀ e r, s.cores[c].loops = e :: r →
       (e.left = 0 → ∃ t, exec (.endl c) s = .next t ∧ IssuedAs c s t { s.cores[c] with loops := r }) ∧
       (e.left ≠ 0 → ∃ t, exec (.endl c) s = .next t ∧ OnlyCore c s t ∧
         t.cores[c] = { issued s c { s.cores[c] with loops := { e with left := e.left - 1 } :: r } with pc := e.start }))) ∧
  (∀ (s : State) (c : CoreId), Ready s c → s.cores[c].sq = [] → syncBusy s c = false →
     (∃ t, exec (.halt c) s = .next t ∧
       t.cores[c] = { s.cores[c] with
         st := .idle, lq := [], lqDone := true, loops := []
         ag := { s.cores[c].ag with run := none, progressed := true, wait := none } } ∧
       OnlyCore c s t) ∧
     ∃ t, exec (.lyend c) s = .next t ∧ IssuedAs c s t { s.cores[c] with lq := [], lqDone := true })

/-- WCNT on a counter that is not poisoned and whose parity holds issues exactly when (counter - s_a) mod 2^32 is
below 2^31, and with `ADV` raises s_a by its step; until then each cycle is counted and the core waits; a poisoned
counter fails the core at once (R191). SIG, once every earlier write of its core is accepted, adds `IMM` + 1 to a
counter of its own partition, which takes the poison of the writes it covers; no other counter changes (R109, R192). -/
def Obligations.WcntWaitsAndSigIncrements : Prop :=
  (∀ (s : State) (c : CoreId) (adv : Bool) (sa : SReg) (ctr : Ctr) (step : BitVec 14),
     Ready s c → syncBusy s c = false → HwFault.cntParity ctr ∉ s.hwf →
     ((ctrOf s ctr).psn = true → exec (.wcnt c adv sa ctr step) s = .next (failCore s c .poisonConsumed 0)) ∧
     ((ctrOf s ctr).psn = false → ((ctrOf s ctr).val - s.cores[c].s[sa]).toNat < 2 ^ 31 →
       ∃ t, exec (.wcnt c adv sa ctr step) s = .next t ∧
         IssuedAs c s t (if adv then
           { s.cores[c] with s := s.cores[c].s.set sa.val (s.cores[c].s[sa] + step.setWidth 32) } else s.cores[c])) ∧
     ((ctrOf s ctr).psn = false → 2 ^ 31 ≤ ((ctrOf s ctr).val - s.cores[c].s[sa]).toNat →
       ∃ t, exec (.wcnt c adv sa ctr step) s = .next t ∧ OnlyCore c s t ∧
         t.cores[c] = { s.cores[c] with
           wcntStall := sat32 s.cores[c].wcntStall 1, ag := { s.cores[c].ag with wait := some (.ctr ctr s.cores[c].s[sa]) } })) ∧
  (∀ (s : State) (c : CoreId) (ctr : Ctr) (m : BitVec 14), Ready s c → s.cores[c].sq = [] → syncBusy s c = false →
     HwFault.cntParity ctr ∉ s.hwf → crosses s (corePart c) (ctrPart s ctr) = false →
     ∃ t, exec (.sig c ctr m) s = .next t ∧
       (ctrOf t ctr).val = (ctrOf s ctr).val + BitVec.ofNat 32 (m.toNat + 1) ∧
       (ctrOf t ctr).psn = ((ctrOf s ctr).psn || s.cores[c].wrPsn) ∧ (ctrOf t ctr).taken = (ctrOf s ctr).taken ∧
       (∀ k : Ctr, k ≠ ctr → ctrOf t k = ctrOf s k) ∧
       IssuedAs c { s with cnt := t.cnt } t s.cores[c])

/-! ### Vector moves -/

/-- VMOV copies v_a, zeros when it is empty, to v_d, with its poison (R81, R183, R376). VLQ takes the front beat of
the load queue into v_d, with the increment that beat releases (R85, R183, R210). VSQ pushes v_a at the next position
of the store list and moves that position on, a block that starts there taking its credit (R89, R183, R214). -/
def Obligations.VmovVlqAndVsq : Prop :=
  (∀ (s : State) (c : CoreId), Ready s c → ∀ vd va : VReg, ∃ t, exec (.vmov c vd va) s = .next t ∧
     IssuedAs c s t (wroteV s.cores[c] vd (if s.cores[c].v[va].full then s.cores[c].v[va].data else 0)
       (s.cores[c].v[va].full && s.cores[c].v[va].psn))) ∧
  (∀ (s : State) (c : CoreId), Ready s c →
     (∀ (vd : VReg) (b : LqBeat) (r : List LqBeat), s.cores[c].lq = b :: r →
       ∃ t, exec (.vlq c vd) s = .next t ∧
         IssuedAs c (match b.inc with
           | some i => incCtrBy s (corePart c) (locCore c) i.ctr i.amt i.psn
           | none => s) t { wroteV s.cores[c] vd b.data b.psn with lq := r }) ∧
     (∀ (va : VReg) (l : ListRef), s.cores[c].storeList = some l → 0 < storeLeft s c → s.cores[c].sq.length < 16 →
       HwFault.listUe ⟨(l.first + s.cores[c].storePos.block) % 8192, by omega⟩ ∉ s.hwf →
       HwFault.listCe ⟨(l.first + s.cores[c].storePos.block) % 8192, by omega⟩ ∉ s.hwf →
       let k := s.cores[c]
       let e := listEntry s (l.first + k.storePos.block)
       let d := if k.storePos.beat = 0 then blockDesc k e false else k.storeDesc.getD (blockDesc k e false)
       let p := stepPos k.storePos 1 (blockBeats e d)
       (k.storePos.beat = 0 → coreBlockCheck e d false = none ∧ (bCredEn e = true →
         HwFault.cntParity (bCredCtr e) ∉ s.hwf ∧ crosses s (corePart c) (ctrPart s (bCredCtr e)) = false ∧
         creditOk (ctrOf s (bCredCtr e)) = true)) →
       ∃ t, exec (.vsq c va) s = .next t ∧
         IssuedAs c (if k.storePos.beat = 0 then takeCredit s e else s) t { k with
           sq := k.sq ++ [storeEntry e d k.storePos.beat k.feedPos (readV s c va).1 (readV s c va).2
             (decide (k.storePos.beat + 1 = blockBeats e d))]
           storePos := p, feedPos := k.feedPos + 1, storeDesc := if p.beat = 0 then none else some d }))

/-- VREL marks the registers of its mask empty, so that they read as zeros, and invalidates a latch that holds one; a
mask of 0 only takes its issue cycle (R81, R95, R97, R186). -/
def Obligations.VrelReleasesItsMask : Prop :=
  ∀ (s : State) (c : CoreId), Ready s c →
    (∀ mask : Word, ∃ t v, exec (.vrel c mask) s = .next t ∧
      IssuedAs c s t { s.cores[c] with v := v, latch := s.cores[c].latch.filter (fun r => !mask.getLsbD r.val) } ∧
      (∀ k : VReg, v[k] = if mask.getLsbD k.val then {} else s.cores[c].v[k]) ∧
      (∀ k : VReg, mask.getLsbD k.val = true → readV t c k = (0, false))) ∧
    ∃ t, exec (.vrel c 0) s = .next t ∧ IssuedAs c s t s.cores[c]

/-- VBC fills v_d with copies of one element of width 2^e: an immediate, whose upper half it is when e = 5, or element
u of v_a (R184). VSEL selects element by element: bit j of element u of v_d is that of v_b where bit u of v_m is set,
and that of v_a elsewhere (R185); poison of any of the three reaches v_d (R376). -/
def Obligations.VbcFillsAndVselSelects : Prop :=
  (∀ (s : State) (c : CoreId) (e : Fin 6) (vd : VReg) (src : VbcSrc), Ready s c →
     ∃ t x psn, exec (.vbc c e vd src) s = .next t ∧ IssuedAs c s t (wroteV s.cores[c] vd x psn) ∧
       (∀ imm, src = .imm imm → psn = false ∧ ∀ i, i < 2 ^ (11 - e.val) →
         elemAt (2 ^ e.val) x i = if e.val = 5 then imm.toNat * 2 ^ 16 else imm.toNat % 2 ^ 2 ^ e.val) ∧
       (∀ va u, src = .elem va u → psn = (readV s c va).2 ∧ ∀ i, i < 2 ^ (11 - e.val) →
         elemAt (2 ^ e.val) x i = elemAt (2 ^ e.val) (readV s c va).1 u.toNat)) ∧
  (∀ (s : State) (c : CoreId) (e : Fin 6) (vd va vb vm : VReg), Ready s c →
     ∃ t x, exec (.vsel c e vd va vb vm) s = .next t ∧
       IssuedAs c s t (wroteV s.cores[c] vd x ((readV s c va).2 || (readV s c vb).2 || (readV s c vm).2)) ∧
       ∀ u j, u < 2 ^ (11 - e.val) → j < 2 ^ e.val →
         x.getLsbD (u * 2 ^ e.val + j) =
           if (readV s c vm).1.getLsbD u then (readV s c vb).1.getLsbD (u * 2 ^ e.val + j)
           else (readV s c va).1.getLsbD (u * 2 ^ e.val + j))

/-- VLD reads the beat its immediate names into v_d, and VST pushes v_a with that beat's own address, through a
descriptor that passes its checks; `ADV` moves the descriptor's base (R89, R176, R182). A failing check is a contained
error. While a reserved window is open an access that it excludes waits (R35): that VLD is not meant here. -/
def Obligations.VldAndVst : Prop :=
  ∀ (s : State) (c : CoreId) (adv : Bool) (d : DReg) (v : VReg) (b o : BitVec 12), Ready s c →
    let k := s.cores[c]
    let pos := beatAt k.d[d] (beatOuter k.d[d] o.toNat) b.toNat
    (checkTd k.d[d] false beatOk = none →
      (anyWindow s = false → ∃ t, exec (.vld c adv v d b o) s = .next t ∧
        IssuedAs c (readBeat s (whoFetch c) k.d[d] pos).1 t
          (advanced (wroteV k v (readBeat s (whoFetch c) k.d[d] pos).2.1 (readBeat s (whoFetch c) k.d[d] pos).2.2) adv d)) ∧
      (k.sq.length < 16 → ∃ t, exec (.vst c adv d v b o) s = .next t ∧
        IssuedAs c s t (advanced { k with sq := k.sq ++ [
          { dst := .mem (writeBeat k.d[d] pos b.toNat (readV s c v).1).1, psn := (readV s c v).2
            drop := (writeBeat k.d[d] pos b.toNat (readV s c v).1).2, ew := tdWidth k.d[d] }] } adv d))) ∧
    ∀ x, checkTd k.d[d] false beatOk = some x →
      exec (.vld c adv v d b o) s = .next (failCore s c x (if x = .shapeMismatch then k.pc else 0)) ∧
      exec (.vst c adv d v b o) s = .next (failCore s c x (if x = .shapeMismatch then k.pc else 0))

/-! ### Words of the stores -/

/-- A read of a word of the reader's own partition through an open port answers the 64 bytes stored there, with the
word's poison, and zeros for a granule of Deep Store that nothing has written; it leaves every byte and every core as
they were (R9, R61, R269, R274, R282). A write of the bytes of a mask to a word of the writer's own partition through
an open port changes those bits of those 64 bytes and no other byte of the stores (R61, R269, R272, R279). -/
def Obligations.StoreWordsReadAndWrite : Prop :=
  (∀ (s : State) (who : Who) (w : Nat), crosses s who.part (addrPart s (64 * w)) = false →
     (portOf s (storeOf (64 * w))).isOpen = true →
     ∃ x p, (readWord s who w).2 = .data x p ∧
       ((isNs (64 * w) = true ∨ isWritten s.mem (granuleOf (64 * w)) = true) →
         (p = true ↔ w ∈ s.mem.psn ∨ uncorrectable s.mem w = true) ∧
         (badSyms s.mem w ≤ 2 * correctable (64 * w) → (uncorrectable s.mem w = true ↔ correctable (64 * w) < badSyms s.mem w)) ∧
         ∀ i, i < 64 → byteAt x i = readByte s.mem (64 * w + i)) ∧
       (isNs (64 * w) = false → isWritten s.mem (granuleOf (64 * w)) = false → x = 0 ∧ p = false) ∧
       SameBytes s (readWord s who w).1 ∧ (readWord s who w).1.cores = s.cores ∧ (readWord s who w).1.cnt = s.cnt) ∧
  (∀ (s : State) (who : Who) (w : Nat) (x mask : BitVec 512) (psn : Bool), crosses s who.part (addrPart s (64 * w)) = false →
     (portOf s (storeOf (64 * w))).isOpen = true →
     (writeWord s who w x mask psn).2 = .done ∧
       (∀ i, i < 64 → readByte (writeWord s who w x mask psn).1.mem (64 * w + i) =
         (readByte s.mem (64 * w + i) &&& ~~~byteAt mask i) ||| (byteAt x i &&& byteAt mask i)) ∧
       (∀ a, a < 64 * w ∨ 64 * w + 64 ≤ a → readByte (writeWord s who w x mask psn).1.mem a = readByte s.mem a) ∧
       (writeWord s who w x mask psn).1.cores = s.cores ∧ (writeWord s who w x mask psn).1.cnt = s.cnt)

/-! ### Trivets and the permutation network -/

/-- TREL empties its Trivet and sets the class it names. TWR from registers fills an empty Trivet of its class with n
rows of 2,048 / w columns. TRD to registers writes beats of the column-major image: element i of beat j is element ((j
n + i) mod 128, (j n + i) / 128), n elements to a beat; a releasing one empties the Trivet (R98, R99, R140, R141,
R144, R146). The memory forms: TWR fills its Trivet from n rows of C columns read at s_k and s_(k+1), and TRD pushes
the entries of its columns, with addresses of their own; the load-queue form takes its rows from the queue, and the
store-queue form pushes its beats at the positions of the store list (R89, R141, R144, R145, R187). A TRD pushes while
the store queue has room, and a TWR takes rows while the load queue has them: what is left waits in progress, and a Trivet
is filled or released when the last beat has gone (R85, R87, R89, R99). The memory TWR is meant outside the reserved
windows (R35). -/
def Obligations.TrivetForms : Prop :=
  (∀ (s : State) (c : CoreId) (t : TrivetId), Ready s c →
     let k := s.cores[c]
     (∀ cls : Option TClass, ∃ u, exec (.trel c t cls) s = .next u ∧
       IssuedAs c s u { k with t := k.t.set t.val { cls := cls.getD k.t[t].cls } }) ∧
     (∀ (adv : Bool) (n : BitVec 7) (a : VReg), k.t[t].full = false → a.val + n.toNat + 1 ≤ 32 →
       ∃ u, exec (.twr c adv k.t[t].cls n t (.regs a)) s = .next u ∧
         IssuedAs c (countEv s .trvRow (n.toNat + 1)) u { k with
           trvRow := sat32 k.trvRow (n.toNat + 1)
           t := k.t.set t.val { cls := k.t[t].cls, full := true, rows := n.toNat + 1, cols := 2048 / clsWidth k.t[t].cls
                                data := (List.range (n.toNat + 1)).map (fun i => (readV s c (vPlus a i)).1)
                                psn := (List.range (n.toNat + 1)).any (fun i => (readV s c (vPlus a i)).2) } }) ∧
     (∀ (adv rel : Bool) (st m : BitVec 11) (a : VReg), k.t[t].full = true → a.val + m.toNat + 1 ≤ 32 →
       st.toNat + m.toNat + 1 ≤ beatsHeld k.t[t] →
       ∃ (u : State) (xs : List Bits), exec (.trd c adv k.t[t].cls rel t st m (.regs a)) s = .next u ∧ xs.length = m.toNat + 1 ∧
         IssuedAs c (countEv s .trvBeat (m.toNat + 1)) u { wroteRun k a (xs.map (fun x => (x, k.t[t].psn))) with
           trvBeat := sat32 k.trvBeat (m.toNat + 1)
           t := if rel then k.t.set t.val { cls := k.t[t].cls } else k.t } ∧
         ∀ j i, j ≤ m.toNat → i < 2048 / clsWidth k.t[t].cls →
           let e := (st.toNat + j) * (2048 / clsWidth k.t[t].cls) + i
           elemAt (clsWidth k.t[t].cls) (xs.getD j 0) i = trivetElem k.t[t] (e % 128) (e / 128))) ∧
  (∀ (s : State) (c : CoreId) (t : TrivetId) (adv : Bool) (d : DReg) (p : PairId), Ready s c →
     let k := s.cores[c]
     let o0 := sInt s c ⟨p.val, by omega⟩
     let o1 := sInt s c ⟨p.val + 1, by omega⟩
     (∀ (n : BitVec 7) (cols : BitVec 11), checkTd k.d[d] false isLocal = none → tdClass k.d[d] = k.t[t].cls →
       k.t[t].full = false → anyWindow s = false →
       let r := twrRows (whoFetch c) k.d[d] o0 (cols.toNat + 1) (n.toNat + 1) o1 s
       ∃ u, exec (.twr c adv k.t[t].cls n t (.mem d p cols)) s = .next u ∧ u.cores[c].pc = k.pc + 1 ∧
         u.cores[c].t = k.t.set t.val { cls := k.t[t].cls, full := true, rows := n.toNat + 1, cols := cols.toNat + 1
                                        data := r.2.map (·.1), psn := r.2.any (·.2) } ∧
         u.cores[c].v = k.v ∧ u.cores[c].s = k.s ∧ SameBytes s u ∧ u.cnt = s.cnt) ∧
     (∀ (rel : Bool) (st m : BitVec 11), checkTd k.d[d] false isLocal = none → tdClass k.d[d] = k.t[t].cls →
       k.t[t].full = true → st.toNat + m.toNat + 1 ≤ k.t[t].cols →
       let es := (List.range (m.toNat + 1)).flatMap (fun (i : Nat) =>
         columnEntries k.t[t] k.d[d] o0 (o1 + (i : Int)) (st.toNat + i))
       ∃ u, exec (.trd c adv k.t[t].cls rel t st m (.mem d p)) s = .next u ∧ u.cores[c].pc = k.pc + 1 ∧
         u.cores[c].sq = k.sq ++ es.take (room k) ∧ u.cores[c].trvBeat = sat32 k.trvBeat (es.take (room k)).length ∧
         (es.length ≤ room k → u.cores[c].prog = [] ∧
           u.cores[c].t = (if rel then k.t.set t.val { cls := k.t[t].cls } else k.t)) ∧
         (room k < es.length → u.cores[c].t = k.t ∧ InProgress u.cores[c] (markOf k)
           (.trd c adv k.t[t].cls rel t st m (.mem d p)) (fun p => p.out = (es.drop (room k)).map .own)) ∧
         u.cores[c].v = k.v ∧ u.cores[c].s = k.s ∧ SameBytes s u ∧ u.cnt = s.cnt) ∧
     (∀ (n : BitVec 7) (xs ys : List LqBeat), k.t[t].full = false → k.lq = xs ++ ys → xs.length = n.toNat + 1 →
       (∀ b ∈ xs, b.inc = none) →
       ∃ u, exec (.twr c adv k.t[t].cls n t .queue) s = .next u ∧ u.cores[c].pc = k.pc + 1 ∧ u.cores[c].lq = ys ∧
         u.cores[c].t = k.t.set t.val { cls := k.t[t].cls, full := true, rows := n.toNat + 1
                                        cols := 2048 / clsWidth k.t[t].cls
                                        data := xs.map (·.data), psn := xs.any (·.psn) } ∧ u.cores[c].prog = [] ∧
         u.cores[c].trvRow = sat32 k.trvRow (n.toNat + 1) ∧ u.cores[c].v = k.v ∧ SameBytes s u ∧ u.cnt = s.cnt) ∧
     (∀ n : BitVec 7, k.t[t].full = false → k.lq.length < n.toNat + 1 → n.toNat + 1 ≤ lqAvail s c → (∀ b ∈ k.lq, b.inc = none) →
       ∃ u, exec (.twr c adv k.t[t].cls n t .queue) s = .next u ∧ u.cores[c].pc = k.pc + 1 ∧ u.cores[c].lq = [] ∧
         u.cores[c].t = k.t ∧ InProgress u.cores[c] (markOf k) (.twr c adv k.t[t].cls n t .queue) (fun p =>
           p.got = k.lq.map (fun b => (b.data, b.psn)) ∧ p.need = n.toNat + 1 - k.lq.length)) ∧
     (∀ (rel : Bool) (st m : BitVec 11), k.t[t].full = true → st.toNat + m.toNat + 1 ≤ beatsHeld k.t[t] →
       m.toNat + 1 ≤ storeLeft s c →
       let q := pushSome c ((span st.toNat (m.toNat + 1)).map (fun j => .list (trivetBeat k.t[t] j) k.t[t].psn)) (retire s c 1)
       q.1.cores[c].errDue = false →
       ∃ u, exec (.trd c adv k.t[t].cls rel t st m .queue) s = .next u ∧ u.cores[c].pc = k.pc + 1 ∧
         u.cores[c].sq = q.1.cores[c].sq ∧ u.cores[c].storePos = q.1.cores[c].storePos ∧
         (q.2 = [] → u.cores[c].prog = [] ∧ u.cores[c].t = (if rel then k.t.set t.val { cls := k.t[t].cls } else k.t)) ∧
         (q.2 ≠ [] → u.cores[c].t = k.t ∧ InProgress u.cores[c] (markOf k) (.trd c adv k.t[t].cls rel t st m .queue)
           (fun p => p.out = q.2)) ∧
         u.cores[c].v = k.v ∧ SameBytes s u ∧ u.cnt = q.1.cnt))

/-- PRM passes v_a through the network into v_d under a route source that passes its checks, when route memory has no
uncorrectable word, no line of the network fails and the sum check agrees: v_d and its poison, the latch, the factor
cache and the counts change as the rules say, and nothing but its core does (R94 to R96, R114, R118, R121, R126, R135,
R138, R376). PRMG presents and waits for its gang while a core of its cluster presents nothing (R130). Once the other
three present alike, all four issue in that cycle: each core's v_d takes its beat of the gang pass with the poison of
the four, each presentation ends, each program counter passes its instruction, and each network counts its passes (R128
to R131, R138, R376). When one of them differs, the error ERR_GANG_MISMATCH is contained to the cluster (R130). -/
def Obligations.PrmAndPrmg : Prop :=
  (∀ (s : State) (c : CoreId) (e : Fin 6) (vd va : VReg) (src : RouteSrc), Ready s c → routeCheck s c e.val src = none →
     (∀ n, src = .slot n → HwFault.routeUe c n ∉ s.hwf) → (∀ l, HwFault.netLine c l ∉ s.hwf) →
     let k := s.cores[c]
     let x := readV s c va
     let y := routeApply s c e.val k.d src x.1
     let hit := decide (k.latch = some va)
     sumsAgree e.val 2048 x.1.toNat y.toNat = true →
     ∃ t, exec (.prm c e vd va src) s = .next t ∧
       IssuedAs c (countEv (countEv s (if hit then .latchHit else .rfRd) 1) .netPass (routePasses k.d src)) t { k with
         v := k.v.set vd.val (fullReg y x.2), latch := if va = vd then none else some va
         latchHit := if hit then sat32 k.latchHit 1 else k.latchHit, rfRd := if hit then k.rfRd else sat32 k.rfRd 1
         routeCe := if ∃ n, src = .slot n ∧ HwFault.routeCe c n ∈ s.hwf then sat32 k.routeCe 1 else k.routeCe
         netPass := sat32 k.netPass (routePasses k.d src), factor := factorAfter s c k.d src }) ∧
  (∀ (s : State) (c : CoreId) (p : Present), Ready s c → gangCheck s c p.e.val p.src = none →
     ((∃ q : CoreId, clOf q = clOf c ∧ q ≠ c ∧ s.cores[q].present = none) →
       ∃ t, exec (.prmg c p.e p.vd p.va p.src) s = .next t ∧ OnlyCore c s t ∧
         t.cores[c] = { s.cores[c] with present := some p, ag := { s.cores[c].ag with wait := some .gang } }) ∧
     ∀ ps : List (CoreId × Present), gangReady (modCore s c (fun k => { k with present := some p })) (clOf c) = some ps →
       ((∃ q ∈ ps, gangKey s q.1 q.2 ≠ gangKey s c p) → exec (.prmg c p.e p.vd p.va p.src) s =
         .next (failCluster (modCore s c (fun k => { k with present := some p })) (clOf c) .gangMismatch 0)) ∧
       ((∀ q ∈ ps, gangKey s q.1 q.2 = gangKey s c p) →
       (∀ g q, p.src = .route g → clOf q = clOf c → HwFault.whiskUe (clOf c) g ∉ s.hwf ∧
         ∀ n : Fin 64, n.val / 2 = g.val → HwFault.routeUe q n ∉ s.hwf) →
       (∀ l, HwFault.gangLine (clOf c) l ∉ s.hwf) →
       let xs := ps.map (fun q => (readV s q.1 q.2.va).1)
       let ys := match p.src with
         | .route g => gangRoute s (clOf c) g.val xs
         | .map d => gangMap (affineOf s.cores[c].d[d]) (2 ^ p.e.val) xs
       let general := gangGeneral s c p.src
       sumsAgree p.e.val 8192 (gangValue xs) (gangValue ys) = true →
       ∃ t, exec (.prmg c p.e p.vd p.va p.src) s = .next t ∧
         (∀ (i : Fin 4) (q : CoreId) (r : Present), ps[i.val]? = some (q, r) →
           t.cores[q].v = s.cores[q].v.set r.vd.val (fullReg (ys.getD i.val 0) (ps.any (fun q => (readV s q.1 q.2.va).2))) ∧
           t.cores[q].present = none ∧ t.cores[q].pc = min 2048 (s.cores[q].pc + 1) ∧
           t.cores[q].netPass = sat32 s.cores[q].netPass (if general then 4 else 2) ∧
           t.cores[q].ag = { s.cores[q].ag with progressed := true, wait := none } ∧ t.cores[q].sq = s.cores[q].sq ∧
           t.cores[q].s = s.cores[q].s ∧ t.cores[q].d = s.cores[q].d ∧ t.cores[q].t = s.cores[q].t) ∧
         t.cls[clOf c].gangPass = sat32 s.cls[clOf c].gangPass (if general then 2 else 1) ∧
         (∀ q : CoreId, clOf q ≠ clOf c → t.cores[q] = s.cores[q]) ∧
         (∀ k : ClusterId, k ≠ clOf c → t.cls[k] = s.cls[k]) ∧ t.mem = s.mem ∧ t.cnt = s.cnt ∧ t.rmt = s.rmt))

/-- A pass over a stored route moves every line to a place of its own: whatever the route word, there is one
permutation of the 2,048 lines that every beat takes (R112, R113). -/
def Obligations.RoutePassPermutesTheLines : Prop :=
  ∀ r : BitVec 21504, ∃ σ : Equiv.Perm (Fin 2048), ∀ (x : Bits) (i : Fin 2048),
    (runRoute r x).getLsbD i.val = x.getLsbD (σ i).val

/-- A GTH or SCT whose checks pass issues: its program counter passes it, and while its Ladle is busy for another it
waits there in progress, behind those that wait (R87, R150). An idle Ladle takes it at once (R150). A gather that meets
no poisoned index writes its beats to registers, or pushes its entries with their own addresses while the store queue
has room, and frees its Ladle when all are pushed; it changes no byte of the stores (R89, R151, R152, R160). A scatter
from registers, from memory or from beats of the load queue that stops for nothing leaves the stores as its rounds do,
counts what it dropped at the partition boundary, marks its poison for a later SIG, and frees its Ladle (R24, R109,
R151, R153, R162, R163). LADLE_START lets a free Ladle take the waiting command that comes first, cores by position
before channels by number, out of its queue; the gather of a core that waited then writes its registers (R150). Outside
the reserved windows, which hold accesses back (R35). -/
def Obligations.LadleCommandsWaitAndRun : Prop :=
  (∀ (s : State) (c : CoreId) (adv var acc : Bool) (x y : DReg) (kk : BitVec 3), Ready s c → anyWindow s = false →
     let k := s.cores[c]
     let m := coreLadCmd k.d c x y kk var
     let u (d : DReg) := retire (advance (ladTakes s (clOf c) (.core c)) c adv d) c 1
     (ladBusy s (clOf c) = true → s.cls[clOf c].running ≠ some (.core c) →
       let w := modCl s (clOf c) (fun l => { l with waiting := l.waiting ++ [.core c] })
       (∀ dst, gthCheck s c m dst = none → (dst = .queue → ladBeats m ≤ storeLeft s c) →
         ∃ t, exec (.gth c adv dst x y kk var) s = .next t ∧
           IssuedAs c w t (advanced { k with prog := t.cores[c].prog } adv (match dst with | .mem d => d | _ => x)) ∧
           InProgress t.cores[c] (markOf k) (.gth c adv dst x y kk var) (fun p => p.ladle = true ∧ p.out = [])) ∧
       (∀ src, sctCheck s c m x src acc = none → (src = .queue → ladBeats m ≤ lqAvail s c) →
         ∃ t, exec (.sct c adv x src y kk var acc) s = .next t ∧
           IssuedAs c w t (advanced { k with prog := t.cores[c].prog } adv x) ∧
           InProgress t.cores[c] (markOf k) (.sct c adv x src y kk var acc) (fun p => p.ladle = true))) ∧
     (ladBusy s (clOf c) = false →
       (∀ v : VReg, gthCheck s c m (.regs v) = none →
         let g := runGather m (clOf c) (u x)
         g.2.2 = false →
         ∃ t, exec (.gth c adv (.regs v) x y kk var) s = .next t ∧
           t.cores[c] = issued s c (advanced (wroteRun k v (g.2.1.map (fun b => (beatBits m b, b.psn)))) adv x) ∧
           t.cls[clOf c].running = none ∧ t.cls[clOf c].waiting = [] ∧ SameBytes s t ∧ t.cnt = s.cnt ∧
           ∀ q : CoreId, q ≠ c → t.cores[q] = s.cores[q]) ∧
       (∀ d : DReg, gthCheck s c m (.mem d) = none →
         let g := runGather m (clOf c) (u d)
         let es := (gatherEntries g.1 m k.d[d] g.2.1).2.map (fun w => ({ dst := .mem w.1, psn := w.2 } : SqEntry))
         g.2.2 = false →
         ∃ t, exec (.gth c adv (.mem d) x y kk var) s = .next t ∧
           t.cores[c] = issued s c (advanced { k with sq := k.sq ++ es.take (room k), prog := t.cores[c].prog } adv d) ∧
           (es.length ≤ room k → t.cores[c].prog = [] ∧ t.cls[clOf c].running = none) ∧
           (room k < es.length → t.cls[clOf c].running = some (.core c) ∧
             InProgress t.cores[c] (markOf k) (.gth c adv (.mem d) x y kk var) (fun p => p.ladle = false ∧
               p.out = (es.drop (room k)).map .own)) ∧
           SameBytes s t ∧ t.cnt = s.cnt ∧ ∀ q : CoreId, q ≠ c → t.cores[q] = s.cores[q]) ∧
       (gthCheck s c m .queue = none → ladBeats m ≤ storeLeft s c →
         let g := runGather m (clOf c) (u x)
         let q := pushSome c (g.2.1.map (fun b => .list (beatBits m b) b.psn)) g.1
         g.2.2 = false → q.1.cores[c].errDue = false →
         ∃ t, exec (.gth c adv .queue x y kk var) s = .next t ∧ t.cores[c].sq = q.1.cores[c].sq ∧
           t.cores[c].storePos = q.1.cores[c].storePos ∧ t.cores[c].pc = k.pc + 1 ∧ t.cores[c].v = k.v ∧ t.cnt = q.1.cnt ∧
           (q.2 = [] → t.cores[c].prog = [] ∧ t.cls[clOf c].running = none) ∧
           (q.2 ≠ [] → t.cls[clOf c].running = some (.core c) ∧
             InProgress t.cores[c] (markOf k) (.gth c adv .queue x y kk var) (fun p => p.ladle = false ∧ p.out = q.2)) ∧
           SameBytes s t) ∧
       (∀ (src : SctSrc) (xs ys : List LqBeat), sctCheck s c m x src acc = none → k.lq = xs ++ ys →
         xs.length = (if src = .queue then ladBeats m else 0) → (∀ b ∈ xs, b.inc = none) →
         let w := modCore (u x) c (fun k => { k with lq := ys })
         let r := runScatter m (clOf c) acc (sctFrom w c m (markOf k) (xs.map (fun b => (b.data, b.psn))) src) w
         r.stop = none →
         ∃ t, exec (.sct c adv x src y kk var acc) s = .next t ∧
           t.cores[c] = issued s c (advanced { k with
             lq := ys, wrPsn := k.wrPsn || r.psn, oobWr := sat32 k.oobWr (r.sum.crossed * 8 / max 1 (ladW m)) } adv x) ∧
           t.cls[clOf c].running = none ∧ t.mem = r.s.mem ∧ t.cnt = s.cnt ∧ ∀ q : CoreId, q ≠ c → t.cores[q] = s.cores[q]))) ∧
  (∀ (s : State) (k : ClusterId),
     (s.cls[k].running.isSome = true ∨ ladNext (ladMay s s.cls[k].waiting) = none → exec (.ladleStart k) s = .next s) ∧
     ∀ w : LadSrc, s.cls[k].running = none → anyWindow s = false → ladNext (ladMay s s.cls[k].waiting) = some w →
       (∀ v ∈ ladMay s s.cls[k].waiting, ladOrder w ≤ ladOrder v) ∧
       ∃ t, exec (.ladleStart k) s = .next t ∧ t = ladRuns (ladTakes s k w) w ∧ t.cls[k].waiting = s.cls[k].waiting.erase w ∧
         ∀ (c : CoreId) (p : Prog) (adv : Bool) (v : VReg) (sd xd : DReg) (kk : BitVec 3) (var : Bool),
           w = .core c → clOf c = k → s.cores[c].st = .run → s.cores[c].errDue = false → s.cores[c].prog = [p] →
           p.cmd = .gth c adv (.regs v) sd xd kk var → p.ladle = true → p.out = [] → p.need = 0 →
           let m := coreLadCmd p.mark.d c sd xd kk var
           let g := runGather m k (modCore (ladTakes s k w) c (fun x => { x with prog := [] }))
           g.2.2 = false →
           t.cls[k].running = none ∧ SameBytes s t ∧ t.cnt = s.cnt ∧
             t.cores[c] = wroteRun { s.cores[c] with prog := [] } v (g.2.1.map (fun b => (beatBits m b, b.psn))))

/-- CVT between byte formats of at least one byte converts N = 2,048 / max(w_s, w_d) elements: element pd N + i of v_d
is the conversion of element ps N + i of v_a, and the other elements of v_d keep their values (R68, R188). -/
def Obligations.CvtConvertsItsElements : Prop :=
  ∀ (s : State) (c : CoreId) (vd va : VReg) (sf df : BitVec 5) (round sat : Bool) (ps pd : BitVec 2), Ready s c →
    sf.toNat ≤ 8 → df.toNat ≤ 8 →
    let ws := fmtWidth sf.toNat
    let wd := fmtWidth df.toNat
    let n := 2048 / max ws wd
    ps.toNat * ws < max ws wd → pd.toNat * wd < max ws wd →
    ∃ t x psn, exec (.cvt c vd va sf df round sat ps pd) s = .next t ∧ IssuedAs c s t (wroteV s.cores[c] vd x psn) ∧
      (∀ i, i < n → elemAt wd x (pd.toNat * n + i) =
        convertElem sf.toNat df.toNat round sat (elemAt ws (readV s c va).1 (ps.toNat * n + i)) % 2 ^ wd) ∧
      (∀ j, j < 2048 / wd → j < pd.toNat * n ∨ pd.toNat * n + n ≤ j → elemAt wd x j = elemAt wd (readV s c vd).1 j) ∧
      (psn = true ↔ (readV s c va).2 = true ∨ (n * wd < 2048 ∧ (readV s c vd).2 = true))

/-- PACK pushes the packed beats of U registers with their own addresses, while the store queue has room; those left
wait in progress (R89, R189). UNPK of a descriptor, outside the reserved windows (R35), writes U registers from v_d on;
UNPK of the load queue does so once it has taken its beats, waits for those still to come, and underruns when there are
none (R85, R189, R190). The registers or entries written are poisoned when one of those read is (R376). A descriptor
that fails its checks is a contained error (R100). -/
def Obligations.PackAndUnpk : Prop :=
  ∀ (s : State) (c : CoreId) (adv : Bool) (v : VReg) (f : BitVec 5), Ready s c →
    let k := s.cores[c]
    (∀ (d : DReg) (p : PairId),
      let o0 := sInt s c ⟨p.val, by omega⟩
      let o1 := sInt s c ⟨p.val + 1, by omega⟩
      (∀ q : PForm, packedForm k.d[d] = some q → packCheck k.d[d] v o0 = none →
        (let es := packEntries k.d[d] q o0 o1 ((List.range (pfRegs q)).map (fun i => readV s c (vPlus v i)))
         ∃ t, exec (.pack c adv d v p f) s = .next t ∧
          IssuedAs c s t (advanced { k with sq := k.sq ++ es.take (room k), prog := t.cores[c].prog } adv d) ∧
          (es.length ≤ room k → t.cores[c].prog = []) ∧
          (room k < es.length → InProgress t.cores[c] (markOf k) (.pack c adv d v p f) (fun p =>
            p.out = (es.drop (room k)).map .own)) ∧
          ∀ e ∈ es, e.psn = (List.range (pfRegs q)).any (fun i => (readV s c (vPlus v i)).2)) ∧
        (anyWindow s = false →
          let r := readGroup (whoFetch c) k.d[d] q o0 o1 (pfBeats q) 0 s
          ∃ t, exec (.unpk c adv v (.mem d p) f) s = .next t ∧
          IssuedAs c r.1 t (advanced (wroteRun k v ((containerBeats q (unpackGroup q (r.2.map (·.1)))).map
            (fun b => (b, r.2.any (·.2))))) adv d) ∧ SameBytes s t ∧ t.cnt = s.cnt)) ∧
      ∀ x, packCheck k.d[d] v o0 = some x →
        exec (.pack c adv d v p f) s = .next (failCore s c x (if x = .shapeMismatch then k.pc else 0)) ∧
        exec (.unpk c adv v (.mem d p) f) s = .next (failCore s c x (if x = .shapeMismatch then k.pc else 0))) ∧
    (∀ km1 : BitVec 4,
      let q : PForm := { fmt := f.toNat, planes := km1.toNat + 1 }
      v.val + pfRegs q ≤ 32 →
      (∀ xs ys : List LqBeat, k.lq = xs ++ ys → xs.length = pfBeats q → (∀ b ∈ xs, b.inc = none) →
        ∃ t, exec (.unpk c adv v (.queue f km1) f) s = .next t ∧
          IssuedAs c s t { wroteRun k v ((containerBeats q (unpackGroup q (xs.map (fun b => b.data.toNat)))).map
            (fun b => (b, xs.any (·.psn)))) with lq := ys }) ∧
      (k.lq.length < pfBeats q → pfBeats q ≤ lqAvail s c → (∀ b ∈ k.lq, b.inc = none) →
        ∃ t, exec (.unpk c adv v (.queue f km1) f) s = .next t ∧
          IssuedAs c s t { k with lq := [], prog := t.cores[c].prog } ∧
          InProgress t.cores[c] (markOf k) (.unpk c adv v (.queue f km1) f) (fun p =>
            p.got = k.lq.map (fun b => (b.data, b.psn)) ∧ p.need = pfBeats q - k.lq.length)) ∧
      (lqAvail s c < pfBeats q → exec (.unpk c adv v (.queue f km1) f) s = .next (failCore s c .lqUnderrun 0)))

/-- A fused command whose stages pass their checks issues: it passes its own word and its stage words, with `ADV` of its
stage words, and runs its beats through its stages as far as beats, queue room and pushes allow; what is left of it
stays in progress (R87, R197, R198, R200). If no contained error ends it, nothing of another core changes, and as its
writes are pushed, no byte of the stores (R200). Outside the reserved windows (R35). -/
def Obligations.FuseRunsItsStages : Prop :=
  ∀ (s : State) (c : CoreId) (b : BitVec 24) (first last : BitVec 64) (stages : List (BitVec 64)), Ready s c →
    stages.head? = some first → stages.getLast? = some last → stagesCheck s c stages = none → anyWindow s = false →
    ¬ (opKind (wSrcA first) = 5 ∧ lqAvail s c < b.toNat + 1) →
    ¬ (opKind (wDst last) = 6 ∧ storeLeft s c < fuseOut (markOf s.cores[c]) (b.toNat + 1) stages) →
    let p : Prog := { cmd := .fuse c b stages, needs := fuseNeeds stages, mark := markOf s.cores[c], need := b.toNat + 1
                      stages := stages.map (fun w => { w := w }) }
    let r := runProg c (p.need + 3) p (retire (stages.foldl (fun s w => stageAdvance c w s) s) c (1 + stages.length))
    r.1.cores[c].errDue = false →
    ∃ t, exec (.fuse c b stages) s = .next t ∧ t.cores[c].pc = min 2048 (s.cores[c].pc + 1 + stages.length) ∧
      t.cores[c] = { r.1.cores[c] with prog := r.2.toList } ∧ t.cnt = r.1.cnt ∧ SameBytes s t ∧
      ∀ q : CoreId, q ≠ c → t.cores[q] = s.cores[q]

/-- RWT, RRD and RINC place their flits on the core's own unfenced stream, behind those that wait there, and issue: n
WR flits of 256 B from v_a on; one request that carries both descriptors; one INC or ADD with the value of s_a (R193
to R195, R312). -/
def Obligations.RemoteInstructionsOfferTheirFlits : Prop :=
  ∀ (s : State) (c : CoreId) (adv : Bool) (st : StreamId) (ctr : Ctr), Ready s c → syncBusy s c = false →
    coreStream s.rmt.streams[st] c = true → s.rmt.streams[st].fenced = false →
    let k := s.cores[c]
    let x := s.rmt.streams[st]
    (∀ (inc : BitVec 2) (d : DReg) (va : VReg) (n : BitVec 5), checkTd k.d[d] false isGlobal = none →
      ∃ t, exec (.rwt c adv inc d va ctr st n) s = .next t ∧
        IssuedAs c (offer s st (wrRun x inc.toNat ctr.val ((List.range (n.toNat + 1)).map (fun i =>
          (tdBase k.d[d] + 256 * i, 4, (readV s c (vPlus va i)).1, (readV s c (vPlus va i)).2))))) t (advanced k adv d)) ∧
    (∀ (inc : BitVec 2) (dd sd : DReg), checkTds [(k.d[dd], rrdDst), (k.d[sd], rrdSrc)] = none →
      ∃ t f, exec (.rrd c adv inc dd sd ctr st) s = .next t ∧ IssuedAs c (offer s st [f]) t (advanced k adv dd) ∧
        fType f.f = tRdReq ∧ fInc f.f = inc.toNat ∧ fCtr f.f = ctr ∧ fLabel f.f = stLabel x ∧
        fld f.f.data 0 512 = k.d[sd] ∧ fld f.f.data 512 512 = k.d[dd]) ∧
    (∀ (cnt : Bool) (d : DReg) (sa : SReg),
      (rincCheck k.d[d] false = none → ∃ t f, exec (.rinc c adv false cnt d sa ctr st) s = .next t ∧
        IssuedAs c (offer s st [f]) t (advanced k adv d) ∧ fType f.f = tInc ∧ fCtr f.f = ctr ∧
        fLabel f.f = stLabel x ∧ fld f.f.data 0 32 = k.s[sa]) ∧
      (rincCheck k.d[d] true = none → ∃ t f, exec (.rinc c adv true cnt d sa ctr st) s = .next t ∧
        IssuedAs c (offer s st [f]) t (advanced k adv d) ∧ fType f.f = tAdd ∧ fCtr f.f = ctr ∧ fLast f.f = cnt ∧
        fLabel f.f = stLabel x ∧ fld f.f.data 0 32 = k.s[sa]))

/-- A flit with both checks set at its source passes them, and still does when a hop rewrites its label: the payload
check covers neither label nor link fields, and the header check is made anew (R314, R316, R317). -/
def Obligations.SealedFlitsPassTheirChecks : Prop :=
  ∀ (f : Flit) (label : Nat), fType f ≤ 9 → fInc f ≠ 3 → fReserved f = 0 → label < 4096 →
    flitGood (sealFlit f) = true ∧ flitGood (relabel (sealFlit f) label) = true ∧
      fLabel (relabel (sealFlit f) label) = label ∧ (relabel (sealFlit f) label).data = f.data

/-- TAPC on a tap of the core's own task: CLEAR empties the sum and its poison, ARM and STOP set whether rows are
added, EMIT writes the sum to element 0 of v_d and +0.0 to the others (R196, R258, R259). -/
def Obligations.TapcActsOnItsTap : Prop :=
  ∀ (s : State) (c : CoreId) (tap : TapId), Ready s c → crosses s (corePart c) (tapPart s tap) = false →
    let x := s.taps[tap]
    (∃ t, exec (.clear c tap) s = .next t ∧ IssuedAs c { s with taps := t.taps } t s.cores[c] ∧
      t.taps = s.taps.set tap.val { x with levels := Vector.replicate 24 none, psn := false } ∧ tapEmit t.taps[tap] = 0) ∧
    (∃ t, exec (.arm c tap) s = .next t ∧ IssuedAs c { s with taps := t.taps } t s.cores[c] ∧
      t.taps = s.taps.set tap.val { x with armed := true }) ∧
    (∃ t, exec (.stop c tap) s = .next t ∧ IssuedAs c { s with taps := t.taps } t s.cores[c] ∧
      t.taps = s.taps.set tap.val { x with armed := false }) ∧
    ∀ vd : VReg, ∃ t y, exec (.emit c tap vd) s = .next t ∧ IssuedAs c s t (wroteV s.cores[c] vd y x.psn) ∧
      elemAt 32 y 0 = (tapEmit x).toNat ∧ ∀ i, 0 < i → i < 64 → elemAt 32 y i = 0

/-! ### The Engine Interface -/

/-- PANEL opens a presentation of T cycles at position 0 with empty latches and panel stores; CLIP opens its S stages;
END completes the item once no drain runs and no flit of its stream waits (R37, R245, R247, R250, R261). -/
def Obligations.PanelClipAndEnd : Prop :=
  ∀ (s : State) (a : EaId), PortReady s a →
    let x := s.eif[a]
    (∀ (mode : BitVec 2) (ha hb : BitVec 4) (sa sb : Fin 8) (n : BitVec 11) (ctl : BitVec 24),
      ∃ t, exec (.panel a mode ha hb sa sb n ctl) s = .next t ∧ OnlyEa a s t ∧
        t.eif[a] = eaProgress { x with
          st := .panel, pos := 0, out := none, discard := false
          panel := some { mode := mode, ha := ha.toNat + 1, hb := hb.toNat + 1, srcA := sa, srcB := sb, t := n.toNat + 1, ctl := ctl }
          portA := { x.portA with hold := none, store := [], scales := [] }
          portB := { x.portB with hold := none, store := [], scales := [] } }) ∧
    (∀ n : Fin 8, ∃ t, exec (.clip a n) s = .next t ∧ OnlyEa a s t ∧
      t.eif[a] = wordPassed { x with clipLeft := n.val + 1 } .clip) ∧
    (x.drainRun = none → (s.rmt.streams[eaStream x].wait = [] ∨ x.streamEn = false) →
      ∃ t, exec (.endw a) s = .next t ∧ OnlyEa a s t ∧
        t.eif[a] = { eaProgress x with st := .idle, ag := { x.ag with run := none, progressed := true, wait := none } })

/-- A presentation is made when both ports have an offer, from the hold latch, the panel store or the FIFO, and no
beat at a head is a duplicate or a scale still to take: the engine port shows both beats, `CTL` with the first one
alone, the counts rise, and the last presentation ends the PANEL (R246 to R250). -/
def Obligations.PresentationsPresentBothPorts : Prop :=
  ∀ (s : State) (a : EaId) (p : Panel) (xa xb : Bits × Bool),
    let x := s.eif[a]
    let wa := scalesDue p p.ha x.pos
    let wb := scalesDue p p.hb x.pos
    let oa := offerOf x.portA a p.srcA x.pos p.ha wa
    let ob := offerOf x.portB a p.srcB x.pos p.hb wb
    x.panel = some p → eaRuns s a = true → wa ≤ x.portA.scales.length → wb ≤ x.portB.scales.length →
    (∀ b r, x.portA.fifo = b :: r → lastTaken x.portA b.core ≤ b.pos) →
    (∀ b r, x.portB.fifo = b :: r → lastTaken x.portB b.core ≤ b.pos) →
    offerBeat oa = some xa → offerBeat ob = some xb →
    ∃ t, exec (.presentation a) s = .next t ∧
      t.eif[a].out = some { a := xa.1, b := xb.1, aPsn := xa.2, bPsn := xb.2, mode := p.mode
                            ctl := if x.pos = 0 then some p.ctl else none
                            sca := newScales x.portA p p.ha x.pos, scb := newScales x.portB p p.hb x.pos } ∧
      t.eif[a].pos = x.pos + 1 ∧ t.eif[a].feed = sat32 x.feed (b2n (isFresh oa) + b2n (isFresh ob)) ∧
      t.eif[a].holdCnt = sat32 x.holdCnt (2 - (b2n (isFresh oa) + b2n (isFresh ob))) ∧
      t.eif[a].panel = (if x.pos + 1 < p.t then some p else none) ∧
      t.eif[a].word = (if x.pos + 1 < p.t then x.word else x.word + 1) ∧
      (x.pos + 1 < p.t → t.eif[a].portA = afterOffer x.portA oa ∧ t.eif[a].portB = afterOffer x.portB ob) ∧
      (∀ b : EaId, b ≠ a → t.eif[b] = s.eif[b]) ∧ SameBytes s t ∧ t.cnt = s.cnt ∧ t.cores = s.cores

/-- DRAIN hands its drain to the drain sequencer and passes its word; under a drain fence it runs nothing and poisons the
counter it names, where that is a counter of its own task in this unit; a descriptor that no drain takes is the contained
error of its check (R245, R251, R255). An accumulator row waits, with a counted cycle, while the drain holds its port; under
a fence, an abort or a partition reset it is taken and dropped; else a row of the straight path enters the drain FIFO under
its number, and one of the transposed path goes to the end of its tile in the tile's drain Trivet, after the column that
frees the Trivet, if one is read in the same cycle; a row whose DRAIN is tapped enters an armed tap as FP32 values (R253,
R254, R257, R475). What the drain sequencer does in a cycle changes no byte outside the words that its destination gives the
oldest row of a local drain (R251 to R253). -/
def Obligations.DrainsStartAndTakeTheirRows : Prop :=
  (∀ (s : State) (a : EaId) (trn tap : Bool) (d : Fin 16) (inc : BitVec 2) (ctr : Ctr) (tiles ofs : BitVec 7) (first : BitVec 24),
     PortReady s a → s.eif[a].drainRun = none →
     let x := s.eif[a]
     (x.drainFenced = false → checkTd x.desc[d] false drainAccepts = none →
       (tdSpace x.desc[d] = 1 → s.rmt.streams[eaStream x].fenced = false) →
       ∃ t, exec (.drain a trn tap d inc ctr tiles ofs first) s = .next t ∧ OnlyEa a s t ∧
         t.eif[a] = wordPassed { x with drainRun := some {
           trn := trn, tap := tap, ddesc := d, inc := inc, ctr := ctr, tiles := tiles.toNat + 1, ofs := ofs.toNat
           first := first.toNat } } .idle) ∧
     (x.drainFenced = true →
       ∃ t, exec (.drain a trn tap d inc ctr tiles ofs first) s = .next t ∧ t.eif[a] = wordPassed x .idle ∧ SameBytes s t ∧
         (inc ≠ 0 → tdSpace x.desc[d] = 0 → crosses s (eaPart a) (ctrPart s ctr) = false →
           (ctrOf t ctr).psn = true ∧ (ctrOf t ctr).val = (ctrOf s ctr).val) ∧
         ∀ k, k ≠ ctr ∨ inc = 0 ∨ tdSpace x.desc[d] ≠ 0 ∨ crosses s (eaPart a) (ctrPart s ctr) = true → ctrOf t k = ctrOf s k) ∧
     ∀ e, x.drainFenced = false → checkTd x.desc[d] false drainAccepts = some e →
       ∃ t, exec (.drain a trn tap d inc ctr tiles ofs first) s = .next t ∧ t.eif[a].drainFenced = true ∧
         t.eif[a].drainRun = none ∧ t.eif[a].word = x.word + 1 ∧ SameBytes s t) ∧
  (∀ (s : State) (a : EaId) (row : BitVec 4096) (psn : Bool),
     let x := s.eif[a]
     let xs := (upto 128).map (fun c => (fld row (32 * c) 32 : Word))
     let taken (y : Attach) : Attach := eaProgress { y with
       drainRows := sat32 x.drainRows 1, drainRun := y.drainRun.map (fun q => { q with row := q.row + 1 }) }
     (drainHold s a = true → ∃ t, exec (.drainRow a row psn) s = .next t ∧ OnlyEa a s t ∧
       t.eif[a] = { x with drainStall := sat32 x.drainStall 1 }) ∧
     (discards s a = true → ∃ t, exec (.drainRow a row psn) s = .next t ∧
       t = { s with eif := t.eif, pwr := t.pwr } ∧ (∀ b : EaId, b ≠ a → t.eif[b] = s.eif[b]) ∧
       t.eif[a] = { x with drainRows := sat32 x.drainRows 1 }) ∧
     (∀ r, drainHold s a = false → discards s a = false → x.drainRun = some r →
       ∃ t, exec (.drainRow a row psn) s = .next t ∧ (∀ b : EaId, b ≠ a → t.eif[b] = s.eif[b]) ∧
         t.cnt = s.cnt ∧ t.rmt = s.rmt ∧ t.mem = s.mem ∧ t.cores = s.cores ∧
         (r.trn = false → t.eif[a] = taken (enterFifo x r r.row xs psn)) ∧
         (r.trn = true →
           let y := match freeing x with | some q => readColumn x q true | none => x
           let k := triOf (r.row / 128)
           t.eif[a] = taken { y with
             tri := y.tri.set k.val { rows := y.tri[k].rows ++ [row], psn := y.tri[k].psn || psn, wait := 2 } }) ∧
         ((r.tap && s.taps[(⟨a.val, by omega⟩ : TapId)].armed) = false → t.taps = s.taps) ∧
         (r.tap = true → s.taps[(⟨a.val, by omega⟩ : TapId)].armed = true →
           let q := s.taps[(⟨a.val, by omega⟩ : TapId)]
           let u := t.taps[(⟨a.val, by omega⟩ : TapId)]
           u.levels = foldLevels 24 0 (rowNorm 7 xs) q.levels ∧ u.rows = sat32 q.rows 1 ∧
             u.psn = (q.psn || psn || s.hwf.contains (.tapResidue ⟨a.val, by omega⟩))))) ∧
  (∀ (s : State) (a : EaId) (r : DrainRun) (x : DrainRow) (rest : List DrainRow) (b : Nat),
     s.eif[a].drainRun = some r → s.eif[a].fifo = x :: rest → tdSpace s.eif[a].desc[r.ddesc] ≠ 1 →
     (∀ off, drainRowAt s.eif[a].desc[r.ddesc] (r.first + x.num) = some off →
       ∀ w ∈ drainWrites s.eif[a].desc[r.ddesc] r.ofs off x.vals, b / 64 ≠ w.word) →
     readByte (drainCycle s a).mem b = readByte s.mem b)

/-- WAITC and the WAIT stage raise the attachment's threshold once by their step and go on when the counter has
reached it; until then the attachment waits; a poisoned counter is the contained error of the attachment (R191, R256). -/
def Obligations.WaitsRaiseTheThresholdOnce : Prop :=
  ∀ (s : State) (a : EaId) (ctr : Ctr) (step : BitVec 14), eaRuns s a = true → s.eif[a].panel = none →
    s.eif[a].clipSent = false → HwFault.cntParity ctr ∉ s.hwf →
    (∀ w, HwFault.eifUe a w ∉ s.hwf ∧ HwFault.eifCe a w ∉ s.hwf) →
    let x := s.eif[a]
    let thr := if x.thrAdded then x.thr else x.thr + step.setWidth 32
    (x.clipLeft = 0 →
      ((ctrOf s ctr).psn = false → reached (ctrOf s ctr).val thr = true →
        ∃ t, exec (.waitc a ctr step) s = .next t ∧ OnlyEa a s t ∧
          t.eif[a] = wordPassed { x with thr := thr, thrAdded := false } .idle) ∧
      ((ctrOf s ctr).psn = false → reached (ctrOf s ctr).val thr = false →
        ∃ t, exec (.waitc a ctr step) s = .next t ∧ OnlyEa a s t ∧
          t.eif[a] = { x with thr := thr, thrAdded := true, st := .wait, ag := { x.ag with wait := some (.ctr ctr thr) } }) ∧
      ((ctrOf s ctr).psn = true → ∃ t, exec (.waitc a ctr step) s = .next t ∧ t.eif[a].st = .fenced ∧
        t.eif[a].errDue = true)) ∧
    (0 < x.clipLeft →
      ((ctrOf s ctr).psn = false → reached (ctrOf s ctr).val thr = true →
        ∃ t, exec (.clipWait a ctr step) s = .next t ∧ OnlyEa a s t ∧
          t.eif[a] = stagePassed { x with thr := thr, thrAdded := false }) ∧
      ((ctrOf s ctr).psn = false → reached (ctrOf s ctr).val thr = false →
        ∃ t, exec (.clipWait a ctr step) s = .next t ∧ OnlyEa a s t ∧
          t.eif[a] = { x with thr := thr, thrAdded := true, ag := { x.ag with wait := some (.ctr ctr thr) } }))

/-- EMIT leaves in V the sum of the selected taps in order; SCALE turns V into the clipping scale: 1.0 when the root
of V is at most M, else M over that root; SUM adds N slots in order, and leaves +0.0 when a slot is stale; each passes
its stage (R261, R263, R264). While a reserved window excludes a slot a SUM waits (R35): that SUM is not meant here. -/
def Obligations.EmitScaleAndSum : Prop :=
  ∀ (s : State) (a : EaId), StageReady s a →
    let x := s.eif[a]
    (∀ mask : BitVec 3, ∃ t, exec (.clipEmit a mask) s = .next t ∧ OnlyEa a s t ∧
      t.eif[a] = stagePassed { x with
        clipV := (if mask.getLsbD 2 then fun v => addF32 v (tapEmit s.taps[(2 : Fin 3)]) else id)
          ((if mask.getLsbD 1 then fun v => addF32 v (tapEmit s.taps[(1 : Fin 3)]) else id)
            (if mask.getLsbD 0 then addF32 0 (tapEmit s.taps[(0 : Fin 3)]) else 0))
        clipVPsn := (mask.getLsbD 0 && s.taps[(0 : Fin 3)].psn) || (mask.getLsbD 1 && s.taps[(1 : Fin 3)].psn)
          || (mask.getLsbD 2 && s.taps[(2 : Fin 3)].psn) }) ∧
    (∀ m v : Word, clipScale x.clipV m = some v → ∃ t, exec (.scale a m) s = .next t ∧ OnlyEa a s t ∧
      t.eif[a] = stagePassed { x with clipV := v }) ∧
    (∀ m : Word, clipScale x.clipV m = none → ∃ t, exec (.scale a m) s = .next t ∧
      t.eif[a] = stagePassed { x with clipV := 0 } ∧ t.u.evtStat.getLsbD 13 = true ∧ SameBytes s t) ∧
    (∀ (d : Fin 16) (n : BitVec 24), anyWindow s = false →
      let r := sumSlots (whoDrain a) x.desc[d] (n.toNat + 1) 0 s
      ∃ t, exec (.sum a d n) s = .next t ∧ SameBytes s t ∧ t.cnt = s.cnt ∧ t.cores = s.cores ∧
        t.eif[a] = stagePassed { x with
          clipV := if r.2.all (fun q => decide (fldN q.1 48 16 = x.clipStep.toNat % 2 ^ 16))
            then ((r.2.map (fun q => (fld q.1 0 32 : Word))).drop 1).foldl addF32 (((r.2.map (fun q => (fld q.1 0 32 : Word)))).headD 0)
            else 0
          clipVPsn := r.2.any (·.2) })

/-- SEND to the attachment's own unit writes the slot, V with `UNIT_ADDR` and `CLIP_STEP`, and then increments its
counter; STORE writes V as one 64-byte word at `BASE`; to another unit a SEND waits with its flit on the attachment's
stream. The bytes outside the word written stay (R261, R262, R293). BCAST leaves out the route entries it must skip and
takes the others in the table's order: for an entry of another unit it offers one flit of V on the broadcast stream, poisoned
by V or by the table's word, and waits with the entries that follow; with one entry of its own unit it writes that word here,
counts it and passes; with none it passes (R261, R313, R379). While a reserved window excludes an access a stage waits (R35):
that stage is not meant here. -/
def Obligations.SendStoreAndBcast : Prop :=
  (∀ (s : State) (a : EaId) (d : Fin 16), StageReady s a → s.eif[a].errDue = false → anyWindow s = false →
     let x := s.eif[a]
     let slot := BitVec.ofNat 512 (x.clipV.toNat + s.u.addr.toNat * 2 ^ 32 + x.clipStep.toNat % 2 ^ 16 * 2 ^ 48)
     (∀ (ctr : Ctr) (idx : BitVec 24),
       let b := (tdBase x.desc[d] % 2 ^ 32 + 64 * idx.toNat) % 2 ^ 32
       (tdBase x.desc[d] / 2 ^ 32 = s.u.addr.toNat → HwFault.cntParity ctr ∉ s.hwf →
         crosses s (eaPart a) (addrPart s (64 * (b / 64))) = false → crosses s (eaPart a) (ctrPart s ctr) = false →
         (portOf s (storeOf (64 * (b / 64)))).isOpen = true →
         ∃ t, exec (.send a d ctr idx) s = .next t ∧ t.eif[a] = stagePassed x ∧
           (∀ i, i < 64 → readByte t.mem (64 * (b / 64) + i) = byteAt slot i) ∧
           (∀ q, q / 64 ≠ b / 64 → readByte t.mem q = readByte s.mem q) ∧
           (ctrOf t ctr).val = (ctrOf s ctr).val + 1 ∧ t.cores = s.cores) ∧
       (tdBase x.desc[d] / 2 ^ 32 ≠ s.u.addr.toNat → s.rmt.streams[eaStream x].fenced = false →
         ∃ t f, exec (.send a d ctr idx) s = .next t ∧ SameBytes s t ∧ t.eif[a] = eaProgress { x with clipSent := true } ∧
           t.rmt = (offer s (eaStream x) [f]).rmt ∧ f.clip = true ∧ fType f.f = tWr ∧ fInc f.f = 1 ∧ fCtr f.f = ctr ∧
           fAddr f.f = 64 * (b / 64 % 2 ^ 25) ∧ fPsn f.f = x.clipVPsn ∧ f.f.data = slot.setWidth 2048)) ∧
     (let b := tdBase x.desc[d]
      crosses s (eaPart a) (addrPart s (64 * (b / 64))) = false →
       (portOf s (storeOf (64 * (b / 64)))).isOpen = true →
       ∃ t, exec (.store a d) s = .next t ∧ t.eif[a] = stagePassed x ∧
         (∀ i, i < 64 → readByte t.mem (64 * (b / 64) + i) = byteAt (x.clipV.setWidth 512) i) ∧
         (∀ q, q / 64 ≠ b / 64 → readByte t.mem q = readByte s.mem q) ∧ t.cnt = s.cnt ∧ t.cores = s.cores)) ∧
  (∀ (s : State) (a : EaId) (d : Fin 16) (ctr : Ctr), StageReady s a → s.eif[a].errDue = false → anyWindow s = false →
     let x := s.eif[a]
     let r := routeEntries (whoDrain a) x.desc[d] (tdSize x.desc[d] 0) 0 s
     let live := r.2.filter (fun e => !routeSkipped (stD2 s.rmt.streams[eaBStream x]) e.1)
     let base := tdBase x.desc[(⟨(d.val + 1) % 16, by omega⟩ : Fin 16)] % 2 ^ 32
     let at_ := { x with clipAddr := base, clipCtr := ctr }
     (∀ e rest, live = e :: rest → bitOf e.1 23 = false → s.rmt.streams[eaBStream x].fenced = false →
       ∃ t, exec (.bcast a d ctr) s = .next t ∧ SameBytes s t ∧ t.cores = s.cores ∧ t.cnt = s.cnt ∧
         t.eif[a] = eaProgress { at_ with clipSent := true, clipTodo := rest } ∧
         t.rmt = (offer s (eaBStream x) (clipFlits [bcastFlit e.1 ctr.val base x.clipV (x.clipVPsn || e.2)])).rmt) ∧
     (∀ e, live = [e] → bitOf e.1 23 = true → HwFault.cntParity ctr ∉ s.hwf →
       crosses s (eaPart a) (addrPart s (64 * (base / 64))) = false → crosses s (eaPart a) (ctrPart s ctr) = false →
       (portOf r.1 (storeOf (64 * (base / 64)))).isOpen = true →
       ∃ t, exec (.bcast a d ctr) s = .next t ∧ t.eif[a] = stagePassed { at_ with clipTodo := [] } ∧ t.rmt = s.rmt ∧
         (∀ i, i < 64 → readByte t.mem (64 * (base / 64) + i) = byteAt (x.clipV.setWidth 512) i) ∧
         (∀ q, q / 64 ≠ base / 64 → readByte t.mem q = readByte s.mem q) ∧
         (ctrOf t ctr).val = (ctrOf s ctr).val + 1) ∧
     (live = [] → ∃ t, exec (.bcast a d ctr) s = .next t ∧ SameBytes s t ∧ t.cores = s.cores ∧ t.cnt = s.cnt ∧
       t.rmt = s.rmt ∧ t.eif[a] = stagePassed { at_ with clipTodo := [] }))

/-! ### Work lists, fetch engine, store path -/

/-- An item due starts on an agent that is between items: a core at its entry point with fresh lists, positions and
queues; an attachment at its first port word; a channel that no fence holds with its list, and the item of a fenced
channel completes unrun (R37, R83, R235, R245). -/
def Obligations.ItemsStartOnTheirAgents : Prop :=
  ∀ (s : State) (ag : Agent) (w : WorkItem) (rest : List WorkItem), (agOf s ag).items = w :: rest → canStart s ag = true →
    itemDue s w = true → ∃ t, exec (.itemStart ag) s = .next t ∧ SameBytes s t ∧ t.cnt = s.cnt ∧
      (∀ c, ag = .core c →
        t.cores[c].st = .run ∧ t.cores[c].pc = fldN w.item.fields 0 11 ∧ t.cores[c].lq = [] ∧ t.cores[c].loops = [] ∧
        t.cores[c].fetch = {} ∧ t.cores[c].storePos = {} ∧ t.cores[c].latch = none ∧ t.cores[c].ag.run = some w.frame ∧
        t.cores[c].ag.items = rest ∧ t.cores[c].v = s.cores[c].v ∧ t.cores[c].t = s.cores[c].t ∧
        t.cores[c].s = s.cores[c].s ∧ t.cores[c].d = s.cores[c].d ∧ t.cores[c].sq = s.cores[c].sq ∧
        ∀ k : CoreId, k ≠ c → t.cores[k] = s.cores[k]) ∧
      (∀ a, ag = .ea a → OnlyEa a s t ∧ t.eif[a].word = fldN w.item.fields 0 9 ∧ t.eif[a].st = .idle ∧
        t.eif[a].panel = none ∧ t.eif[a].ag.run = some w.frame ∧ t.eif[a].ag.items = rest) ∧
      (∀ h, ag = .chan h → t.cores = s.cores ∧ t.mov.chans[h].ag.items = rest ∧
        (s.mov.chans[h].st = .fenced → t = modChan s h (fun x => { x with ag := { x.ag with items := rest } })) ∧
        (s.mov.chans[h].st ≠ .fenced → isPersistent h = false → t.mov.chans[h].st = .run ∧
          t.mov.chans[h].list = some { first := fldN w.item.fields 0 13, count := fldN w.item.fields 13 12 + 1, idx := 0 }))

/-- FETCH_TRANSFER, where the block has its credit or needs none: without tokens for its n beats it counts the cycle and
fetches nothing; with them it takes 64 n tokens, and its beats join the load queue behind those there, in stream order; the
first transfer of a block that asks for a credit takes one; without its credit nothing is fetched (R84, R214, R216, R217).
STORE_PATH_WRITE removes the oldest entry of a store queue: one for memory that no closed port refuses changes no byte
outside the words its entry names; one for a feeder joins that port's FIFO, and waits, with a counted cycle, while sixteen
beats are there (R89, R246, R293). No instruction of the core is in progress, and where a reserved window would exclude an
access, which then waits (R35), that case is not meant here. -/
def Obligations.FetchTransfersAndTheStorePath : Prop :=
  (∀ (s : State) (c : CoreId) (n : Fin 4), s.u.state = .running → s.cores[c].st = .run → s.cores[c].errDue = false →
     s.cores[c].prog = [] → n.val + 1 ≤ blockLeft s c → s.cores[c].lq.length + n.val + 1 ≤ 16 →
     let x := s.cores[c]
     let b := refill x.reg x.bucket
     ((loadCredit s c).2 = false → exec (.fetchTransfer c n) s = .next (loadCredit s c).1) ∧
     (loadCredit s c = (s, true) → b < 64 * (n.val + 1) → exec (.fetchTransfer c n) s =
       .next (modCore s c (fun k => { k with bucket := b, fed := true, regStall := sat32 k.regStall 1 }))) ∧
     (∀ l, x.loadList = some l → loadCredit s c = (s, true) → 64 * (n.val + 1) ≤ b → anyWindow s = false →
       (∀ i, HwFault.listUe i ∉ s.hwf ∧ HwFault.listCe i ∉ s.hwf) →
       let e := listEntry s (l.first + x.fetch.block)
       (x.fetch.beat = 0 → x.loadDesc = none ∧ coreBlockCheck e (blockDesc x e true) true = none) →
       ∃ t xs, exec (.fetchTransfer c n) s = .next t ∧ t.cores[c].lq = x.lq ++ xs ∧ xs.length = n.val + 1 ∧
         t.cores[c].bucket = b - 64 * (n.val + 1) ∧ t.cores[c].pc = x.pc ∧ t.cores[c].v = x.v ∧ t.cores[c].prog = [] ∧
         SameBytes s t ∧ (∀ k : CoreId, k ≠ c → t.cores[k] = s.cores[k]) ∧
         ∀ k : Ctr, ctrOf t k = if x.fetch.beat = 0 ∧ bCredEn e = true ∧ k = bCredCtr e
           then { ctrOf s k with taken := (ctrOf s k).taken + 1 } else ctrOf s k)) ∧
  (∀ (s : State) (c : CoreId) (e : SqEntry) (r : List SqEntry), s.cores[c].errDue = false → s.u.state ≠ .fenced →
     s.cores[c].prog = [] → s.cores[c].sq = e :: r → anyWindow s = false →
     (∀ ws, e.dst = .mem ws →
       (∀ w ∈ ws, (portOf s (storeOf (64 * w.word))).isOpen = true) →
       ∃ t, exec (.storePathWrite c) s = .next t ∧ t.cores[c].sq = r ∧ t.cores[c].wrPsn = (s.cores[c].wrPsn || e.psn) ∧
         t.cores[c].v = s.cores[c].v ∧ (∀ k : CoreId, k ≠ c → t.cores[k] = s.cores[k]) ∧
         ((∀ b, e.blk = some b → b.last = false ∨ b.inc = 0) → t.cnt = s.cnt) ∧
         ∀ a, (∀ w ∈ ws, a / 64 ≠ w.word) → readByte t.mem a = readByte s.mem a) ∧
     (∀ isB pos x, e.dst = .feeder isB pos x →
       ((portFifo s (eaOf c) isB).fifo.length < 16 → ∃ t, exec (.storePathWrite c) s = .next t ∧ t.cores[c].sq = r ∧
         (portFifo t (eaOf c) isB).fifo = (portFifo s (eaOf c) isB).fifo ++ [{ core := c, pos := pos, data := x, psn := e.psn }] ∧
         SameBytes s t ∧ ((∀ b, e.blk = some b → b.last = false ∨ b.inc = 0) → t.cnt = s.cnt)) ∧
       (16 ≤ (portFifo s (eaOf c) isB).fifo.length → exec (.storePathWrite c) s =
         .next (modCore s c (fun k => { k with sqStall := sat32 k.sqStall 1 })))))

/-! ### The Stream Mover -/

/-- BLOCK_START opens the next block of the running list behind those in progress: the channel's bases are added, the
list moves on by one, a block with a credit takes it, and an INDEX block presents its command to its Ladle, which takes it at
once when it is idle (R150, R202, R208, R211, R214). Without a credit the channel waits, and the cycle is counted; a counter
of the other partition gives none (R24). While a reserved window excludes the read of a scale word the block waits (R35):
that block is not meant here. A re-arm of a persistent channel is
refused when its list passes the list memory, counted and reported when the shadow is full, and else takes effect at
once on an idle channel or fills the shadow of one that runs. At the end of its list a channel takes its shadow,
starts its list again when it loops, or goes idle (R229 to R232, R239). -/
def Obligations.BlocksStartAndListsEnd : Prop :=
  (∀ (s : State) (h : ChanId) (l : RunList), s.u.state = .running → stopped s (chanPart s h) = false →
     let c := s.mov.chans[h]
     let e := listEntry s (l.first + l.idx)
     c.list = some l → c.st ≠ .fenced → l.idx < l.count → c.blks.all blkIssued = true → outstanding c < 8 →
     (∀ i, HwFault.listUe i ∉ s.hwf ∧ HwFault.listCe i ∉ s.hwf) → HwFault.cntParity (bCredCtr e) ∉ s.hwf →
     (bCredEn e = true → (crosses s (chanPart s h) (ctrPart s (bCredCtr e)) = true ∨ (ctrOf s (bCredCtr e)).psn = true ∨
         reached (ctrOf s (bCredCtr e)).val ((ctrOf s (bCredCtr e)).taken + 1) = false) →
       ∃ t, exec (.blockStart h) s = .next t ∧ t.mov.chans[h] = { c with
         st := .waitCred, credStall := sat32 c.credStall 1, ag := { c.ag with wait := some (.credit (bCredCtr e)) } } ∧
         t.cnt = s.cnt ∧ SameBytes s t) ∧
     (anyWindow s = false → (bCredEn e = true → crosses s (chanPart s h) (ctrPart s (bCredCtr e)) = false ∧
         (ctrOf s (bCredCtr e)).psn = false ∧
         reached (ctrOf s (bCredCtr e)).val ((ctrOf s (bCredCtr e)).taken + 1) = true) →
       blockCheck s h (openBlock c e l.idx) = none →
       ∃ t b, exec (.blockStart h) s = .next t ∧ t.mov.chans[h].blks = c.blks ++ [b] ∧
         b.entry = (openBlock c e l.idx).entry ∧ b.sd = (openBlock c e l.idx).sd ∧ b.dd = (openBlock c e l.idx).dd ∧
         b.idx = l.idx ∧ t.mov.chans[h].list = some { l with idx := l.idx + 1 } ∧
         t.mov.chans[h].st = (if bKind e = 2 ∧ ladBusy s (bClu e) = true then .waitLadle else .run) ∧
         (bKind e = 2 → ladBusy s (bClu e) = true → t.cls[bClu e].waiting = s.cls[bClu e].waiting ++ [.chan h] ∧
           t.cls[bClu e].running = s.cls[bClu e].running ∧ b.stage = .wait) ∧
         (bKind e = 2 → ladBusy s (bClu e) = false → t.cls[bClu e].running = some (.chan h) ∧ b.stage = .index) ∧
         (bCredEn e = true → (ctrOf t (bCredCtr e)).taken = (ctrOf s (bCredCtr e)).taken + 1 ∧
           (ctrOf t (bCredCtr e)).val = (ctrOf s (bCredCtr e)).val) ∧
         SameBytes s t ∧ t.cores = s.cores)) ∧
  (∀ (s : State) (h : ChanId), isPersistent h = true → s.mov.chans[h].st ≠ .fenced →
     let c := s.mov.chans[h]
     let r := staged c
     (s.u.state = .running →
       (8192 < r.first + r.count → ∃ t, exec (.rearm h) s = .next t ∧ t.mov = s.mov) ∧
       (r.first + r.count ≤ 8192 →
         (c.shadow.isSome = true → ∃ t, exec (.rearm h) s = .next t ∧
           t.mov.chans[h] = { c with rearmBusy := sat32 c.rearmBusy 1 } ∧ t.u.evtStat.getLsbD 10 = true) ∧
         (c.shadow = none → c.list.isSome = true → exec (.rearm h) s = .next (modChan s h (fun k => { k with shadow := some r }))) ∧
         (c.shadow = none → c.list = none → exec (.rearm h) s = .next (modChan s h (fun k => { k with
           src := r.src, dst := r.dst, list := some { first := r.first, count := r.count, idx := 0 }, st := .run }))))) ∧
     ∀ l, c.list = some l → l.count ≤ l.idx → c.blks.all blkIssued = true →
       (∀ q, c.shadow = some q → c.rearmWait = none → exec (.listEnd h) s = .next (modChan s h (fun k => { k with
         src := q.src, dst := q.dst, list := some { first := q.first, count := q.count, idx := 0 }, st := .run, shadow := none }))) ∧
       (c.shadow = none → exec (.listEnd h) s = .next (modChan s h (fun k =>
         if k.loop then { k with list := some { l with idx := 0 } } else { k with list := none, st := .idle }))))

/-- One cycle of beat slots: every bucket gains its rate up to its depth, a port then spends the 64 tokens of one beat
or none, and port 0 spends them when a channel of its partition is ready and no reserved window is open; beats that are no
index beats change no core and no fuse; with nothing to carry nothing else changes (R35, R216, R217, R222, R223). -/
def Obligations.BeatSlotsSpendTokens : Prop :=
  ∀ s : State, s.u.state = .running →
    ∃ t, exec .beatSlotGrant s = .next t ∧
      ((∀ h : ChanId, ∀ b ∈ s.mov.chans[h].blks, ¬(bKind b.entry = 2 ∧ b.stage = .index)) → t.cores = s.cores ∧ t.fuse = s.fuse) ∧
      (∀ p : Fin 4, t.mov.bucket[p] = refill s.mov.reg[p] s.mov.bucket[p] ∨
        t.mov.bucket[p] + 64 = refill s.mov.reg[p] s.mov.bucket[p]) ∧
      (∀ h x, anyWindow s = false → 64 ≤ refill s.mov.reg[(0 : Fin 4)] s.mov.bucket[(0 : Fin 4)] → sameTask s 0 (chanPart s h) = true →
        chanReady s h {} x = true →
        t.mov.bucket[(0 : Fin 4)] + 64 = refill s.mov.reg[(0 : Fin 4)] s.mov.bucket[(0 : Fin 4)]) ∧
      ((∀ h : ChanId, nextBeat s.mov.chans[h] = none) → t = { s with mov := t.mov } ∧ t.mov.chans = s.mov.chans)

/-- TRANSFER_COMPLETE lands the first transfer that may complete and takes it out of its block's flight, with its
bytes and poison (a row read for a Ladle has none yet); no byte changes outside the words that the transfer writes in this
unit. A block with nothing left leaves its channel, and makes its increment at a local counter; one whose Ladle command was
stopped fences its channel instead (R209, R210, R219, R235). A far-memory beat joins the transfer that waits for it, and one
past the bound is counted as late; one that a stop no longer waits for is dropped, and one that a reset drains changes no
byte outside the words of its transfer and none of the channel's blocks. A translation fault keeps the channel, block, frame
and address of the access, aborts the channel's task and poisons its counters (R52, R227, R234, R356, R381). While a reserved
window excludes a write the transfer waits (R35): that transfer is not meant here. -/
def Obligations.TransfersLandOrFault : Prop :=
  (∀ (s : State) (h : ChanId), anyWindow s = false →
     let c := s.mov.chans[h]
     (∀ i b j x, firstDone c = some (i, b, j, x) → (landXfer s h b x).2.2 = false → 1 < b.fly.length →
       ∃ t b', exec (.transferComplete h) s = .next t ∧ t.mov.chans[h].blks = setAt c.blks i b' ∧
         b'.fly = b.fly.eraseIdx j ∧ b'.bytes = b.bytes + (landXfer s h b x).2.1 ∧
         b'.psn = (b.psn || (x.fetch.isNone && xferPsn x)) ∧ b'.entry = b.entry ∧ b'.row = b.row ∧ b'.off = b.off ∧
         t.cores = s.cores ∧ SameBytes (landXfer s h b x).1 t ∧
         ∀ a, (∀ ws ∈ xferWrites b x, ∀ w ∈ ws.1, a / 64 ≠ w.word) → readByte t.mem a = readByte s.mem a) ∧
     (∀ i b, firstDone c = none → firstClosed c = some i → c.blks[i]? = some b →
       (b.stop = none → HwFault.cntParity (bIncCtr b.entry) ∉ s.hwf →
         crosses s (chanPart s h) (ctrPart s (bIncCtr b.entry)) = false →
         ∃ t, exec (.transferComplete h) s = .next t ∧ t.mov.chans[h].blks = c.blks.eraseIdx i ∧ SameBytes s t ∧
           (bInc b.entry = 0 → t.cnt = s.cnt) ∧
           (bInc b.entry ≠ 0 → bDstSpace b ≠ 1 → ¬ (bSrcSpace b = 1 ∧ bKind b.entry = 0) →
             (ctrOf t (bIncCtr b.entry)).val = (ctrOf s (bIncCtr b.entry)).val +
               (if bInc b.entry = 1 then 1 else BitVec.ofNat 32 b.bytes) ∧
             (ctrOf t (bIncCtr b.entry)).psn = ((ctrOf s (bIncCtr b.entry)).psn || b.psn))) ∧
       (b.stop = some .poisonIndex ∨ b.stop = some .off → ∃ t, exec (.transferComplete h) s = .next t ∧
         t.mov.chans[h].st = .fenced ∧ t.mov.chans[h].blks = [] ∧ SameBytes s t))) ∧
  (∀ (s : State) (h : ChanId),
     let c := s.mov.chans[h]
     (∀ (data : Bits) (cycles : Nat), 0 < c.farDead → exec (.farResponse h data cycles) s =
       .next (modChan s h (fun k => { k with farDead := k.farDead - 1 }))) ∧
     (∀ (data : Bits) (cycles : Nat) i b j x, c.farDead = 0 → farWaiting c.drain = some (i, b, j, x) →
       let y := { x with data := x.data ++ [scaleBeat b { data := data, psn := false, pad := 0 }] }
       ∃ t, exec (.farResponse h data cycles) s = .next t ∧ t.cores = s.cores ∧ t.cnt = s.cnt ∧
         t.mov.chans[h].blks = c.blks ∧
         ∀ a, (∀ ws ∈ xferWrites b y, ∀ w ∈ ws.1, a / 64 ≠ w.word) → readByte t.mem a = readByte s.mem a) ∧
     (∀ (data : Bits) (cycles : Nat) i b j x, c.farDead = 0 → c.drain = [] → farWaiting c.blks = some (i, b, j, x) →
       ∃ t, exec (.farResponse h data cycles) s = .next t ∧ SameBytes s t ∧ t.cores = s.cores ∧ t.cnt = s.cnt ∧
         t.mov.chans[h].blks = setAt c.blks i { b with fly := setAt b.fly j { x with
           data := x.data ++ [scaleBeat b { data := data, psn := false, pad := 0 }] } } ∧
         t.mov.chans[h].farLate = (if s.fr.farBound < cycles then sat32 c.farLate 1 else c.farLate)) ∧
     ∀ (addr : BitVec 48) (b : BlkRun), faultBlock c addr.toNat = some b →
       ∃ t, exec (.farXlate h addr) s = .next t ∧ t.mov.faultCh.toNat = h.val ∧ t.mov.faultAddr = addr ∧
         t.mov.faultBlk = BitVec.ofNat 12 b.idx ∧ t.mov.faultFrame = BitVec.ofNat 15 s.fr.ctr.toNat ∧
         t.parts[taskPart s (chanPart s h)].aborted = true ∧ t.parts[taskPart s (chanPart s h)].task = false ∧
         (∀ c : CoreId, sameTask s (chanPart s h) (corePart c) = true → t.cores[c].st = .fenced) ∧
         (∀ c : Ctr, sameTask s (chanPart s h) (ctrPart s c) = true → (ctrOf t c).psn = true ∧ (ctrOf t c).val = (ctrOf s c).val) ∧
         (∀ c : Ctr, sameTask s (chanPart s h) (ctrPart s c) = false → ctrOf t c = ctrOf s c) ∧ SameBytes s t)

/-! ### Remote operations and the link -/

/-- FLIT_ACCEPT accepts the flit at the head of an unfenced stream that credit, quota and `ACCEPT_BY` allow: it leaves
on its way with both checks set, and spends a credit, when its type needs one, and a slot; unless a drain or a CLIP stage of an
attachment goes on with it, the next flit is then at the head and nothing in the stores changes; else the stream and the flit
stay, and its agent waits (R50, R317, R322). -/
def Obligations.AcceptanceSpendsCreditAndQuota : Prop :=
  ∀ (s : State) (st : StreamId) (o : OutFlit) (rest : List OutFlit),
    let x := s.rmt.streams[st]
    x.wait = o :: rest → x.fenced = false → stBcast x = false → o.cret = false →
    (mayAccept s x o = true →
      ∃ t, exec (.flitAccept st) s = .next t ∧
        ((∀ a, streamAgent x = some (.ea a) → s.eif[a].clipSent = false ∧ s.eif[a].drainRun = none) →
          t.rmt.streams[st].wait = rest ∧ t.mem = s.mem ∧ t.cnt = s.cnt ∧ SameBytes s t) ∧ t.rmt.streams[st].qleft = x.qleft - 1 ∧
        t.rmt.streams[st].cred = (if needsCredit (fType o.f) then x.cred - 1 else x.cred) ∧
        t.rmt.streams[st].acc = sat32 x.acc 1 ∧ t.pwr.flits = sat32 s.pwr.flits 1 ∧
        (o.viaNoc = true → t.rmt.noc = s.rmt.noc ++ [(o.viaUnit, stamped s x o.f)] ∧ t.lnk.tx = s.lnk.tx) ∧
        (o.viaNoc = false → t.lnk.tx = s.lnk.tx ++ [stamped s x o.f] ∧ t.rmt.noc = s.rmt.noc)) ∧
    (mayAccept s x o = false → ∃ t, exec (.flitAccept st) s = .next t ∧ t.rmt = s.rmt ∧ t.lnk = s.lnk ∧ t.mem = s.mem ∧
      t.cnt = s.cnt ∧ ∀ ag, streamAgent x = some ag → (agOf t ag).wait = some .admission)

/-- A WR or RD_RSP inside its label's window writes its words there and no other byte; the last flit of a run with
`INC` 0b01 raises the counter it names by one (R318 to R320, R325). A read answer to a request from before a reset is
another case, and not meant here. -/
def Obligations.InboundWritesLandInTheirWindow : Prop :=
  ∀ (s : State) (link : Bool) (f : Flit), Delivers s f → inWin (labelOf s (fLabel f)) (fAddr f) (64 * fWords f) = true →
    (∀ i, i < fWords f → TakesWord s f (fAddr f / 64 + i)) → TakesCtr s f →
    (∀ st : StreamId, s.rmt.streams[st].tomb = 0) →
    ∀ i, (i = Instr.wr link f ∧ Arrives s link f tWr) ∨ (i = Instr.rdRsp link f ∧ Arrives s link f tRdRsp) →
    ∃ t, exec i s = .next t ∧
      (∀ a, a < 64 * fWords f → readByte t.mem (fAddr f + a) = byteAt f.data a) ∧
      (∀ a, a < fAddr f ∨ fAddr f + 64 * fWords f ≤ a → readByte t.mem a = readByte s.mem a) ∧
      (fLast f = true → fInc f = 1 → (ctrOf t (fCtr f)).val = (ctrOf s (fCtr f)).val + 1) ∧
      (fLast f = false ∨ fInc f = 0 → t.cnt = s.cnt) ∧ t.cores = s.cores ∧
      (link = true → t.lnk.expSeq = s.lnk.expSeq + 1)

/-- INC adds its payload's low 32 bits to the counter it names; ADD adds them modulo 2^32 to the INT32 word it names
inside its window (0 in a granule that nothing has written, R282), changes no other byte, and with its last mark raises the counter by one (R321). RD_REQ of a
readable source inside the window sends read responses on the label's return route, the first of them addressed to the
destination's first row, and changes no byte and no counter (R194, R320). -/
def Obligations.InboundIncAddAndReads : Prop :=
  (∀ (s : State) (link : Bool) (f : Flit), Delivers s f → TakesCtr s f →
     (Arrives s link f tInc → ∃ t, exec (.inc link f) s = .next t ∧ SameBytes s t ∧ t.cores = s.cores ∧
       (ctrOf t (fCtr f)).val = (ctrOf s (fCtr f)).val + fld f.data 0 32 ∧
       (ctrOf t (fCtr f)).psn = ((ctrOf s (fCtr f)).psn || fPsn f) ∧ ∀ c : Ctr, c ≠ fCtr f → ctrOf t c = ctrOf s c) ∧
     (Arrives s link f tAdd → inWin (labelOf s (fLabel f)) (fAddr f) 64 = true → TakesWord s f (fAddr f / 64) →
       let a := fAddr f + 4 * fldN f.data 32 4
       ∃ t, exec (.add link f) s = .next t ∧ t.cores = s.cores ∧ 
         memBits t.mem a 4 = (if holds s.mem (fAddr f / 64) then memBits s.mem a 4 else 0) + fld f.data 0 32 ∧
         (∀ b, b < a ∨ a + 4 ≤ b → readByte t.mem b = readByte s.mem b) ∧ t.lnk.addCnt = sat32 s.lnk.addCnt 1 ∧
         (fLast f = true → (ctrOf t (fCtr f)).val = (ctrOf s (fCtr f)).val + 1) ∧ (fLast f = false → t.cnt = s.cnt))) ∧
  (∀ (s : State) (link : Bool) (f : Flit) (a : Nat), Arrives s link f tRdReq → Delivers s f →
     lbRdOk (labelOf s (fLabel f)) = true → reqOk (labelOf s (fLabel f)) (reqDescs f).1 = true →
     lbViaNoc (labelOf s (fLabel f)) = false → rowOf (reqDescs f).2 0 = some a → 0 < rowLen (reqDescs f).2 →
     ∃ t, exec (.rdReq link f) s = .next t ∧ SameBytes s t ∧ t.cnt = s.cnt ∧ t.cores = s.cores ∧
       ∃ r ∈ t.rmt.ret, r.label = fLabel f ∧ fType r.f = tRdRsp ∧ fAddr r.f = 64 * (a / 64 % 2 ^ 25) ∧ fInc r.f = fInc f ∧
         fCtr r.f = fCtr f)

/-- An operation outside its label's window, or a read request that the window does not allow, is refused: counted,
its counter poisoned, and the label shut; no byte of the stores changes (R325, R385). -/
def Obligations.OperationsOutsideTheWindowAreRefused : Prop :=
  ∀ (s : State) (link : Bool) (f : Flit) (i : Instr), Delivers s f → TakesCtr s f →
    ((i = .wr link f ∧ Arrives s link f tWr ∧ inWin (labelOf s (fLabel f)) (fAddr f) (64 * fWords f) = false) ∨
      (i = .add link f ∧ Arrives s link f tAdd ∧ inWin (labelOf s (fLabel f)) (fAddr f) 64 = false) ∨
      (i = .rdReq link f ∧ Arrives s link f tRdReq ∧ lbRdOk (labelOf s (fLabel f)) = false)) →
    ∃ t, exec i s = .next t ∧ SameBytes s t ∧ t.lnk.nackCnt = sat32 s.lnk.nackCnt 1 ∧ (ctrOf t (fCtr f)).psn = true ∧
      (ctrOf t (fCtr f)).val = (ctrOf s (fCtr f)).val ∧ (labSt t (fLabel f)).nacked = true ∧ t.cores = s.cores

/-- CRED grants credits to the stream it names, and a recall takes back all it holds, answered ahead of every flit
that waits; CRET lowers the credits outstanding against the window's store; NACK fences the stream it names with its
code (R291, R323, R324, R326). RECALL, two frames before the plan closes a store, marks the store's port so that no more
credits are granted against it, and asks every source whose window lies there, by the link, to give its credits back; with no
such closure planned, or a recall already sent, it changes nothing (R291, R323, R324). -/
def Obligations.CreditsNacksAndRecalls : Prop :=
  (∀ (s : State) (link : Bool) (f : Flit), Delivers s f →
     (∀ (st : StreamId) (n : Nat), Arrives s link f tCred → n < 2 ^ 16 → f.data = grantBits st.val n false →
       ∃ t, exec (.cred link f) s = .next t ∧ SameBytes s t ∧ t.cnt = s.cnt ∧
         t.rmt.streams[st].cred.toNat = min 65535 (s.rmt.streams[st].cred.toNat + n) ∧
         t.rmt.streams[st].wait = s.rmt.streams[st].wait ∧ ∀ u : StreamId, u ≠ st → t.rmt.streams[u] = s.rmt.streams[u]) ∧
     (∀ st : StreamId, Arrives s link f tCred → f.data = grantBits st.val 0 true →
       ∃ t o, exec (.cred link f) s = .next t ∧ SameBytes s t ∧ t.rmt.streams[st].cred = 0 ∧ t.rmt.streams[st].recalled = true ∧
         t.rmt.streams[st].wait = o :: s.rmt.streams[st].wait ∧ fType o.f = tCret ∧
         fld o.f.data 0 32 = (s.rmt.streams[st].cred.setWidth 32 : Word)) ∧
     (Arrives s link f tCret → ∃ t, exec (.cret link f) s = .next t ∧ SameBytes s t ∧
       (portOf t (winStore (labelOf s (fLabel f)))).hold =
         (portOf s (winStore (labelOf s (fLabel f)))).hold - fldN f.data 0 32 ∧ t.rmt = s.rmt) ∧
     (∀ st : StreamId, Arrives s link f tNack → st.val = fldN f.data 16 6 →
       ∃ t, exec (.nack link f) s = .next t ∧ SameBytes s t ∧ t.rmt.streams[st].fenced = true ∧
         t.rmt.streams[st].nackCode = fld f.data 0 16 ∧ ∀ u : StreamId, u ≠ st → t.rmt.streams[u] = s.rmt.streams[u])) ∧
  (∀ (s : State) (st : StoreId), (∀ e ∈ s.rmt.labels, lbViaNoc e.2 = false) → (∀ r ∈ s.rmt.ret, r.viaNoc = false) →
     ((portOf s st).recalled = true ∨ closesIn s st 2 0 = false → exec (.recall st) s = .next s) ∧
     ((portOf s st).recalled = false → closesIn s st 2 0 = true → ∃ t rs, exec (.recall st) s = .next t ∧ SameBytes s t ∧ t.cnt = s.cnt ∧
       (portOf t st).recalled = true ∧ (portOf t st).isOpen = (portOf s st).isOpen ∧
       t.rmt.ret = s.rmt.ret ++ rs ∧ (∀ r ∈ rs, fType r.f = tCred) ∧
       rs.map (·.label) = (s.rmt.labels.filter (fun x => lbValid x.2 && lbDeliver x.2 && decide (winStore x.2 = st))).map (·.1)))

/-- A flit on a forward label goes on, relabelled for its next hop: over the NoC to the unit of its entry, or into the
forward buffer of the link; the forward is counted, and no byte, counter or core changes (R314, R335). A flit that
fails its checks is discarded and counted, and on the link a replay is asked for; the FEC's findings in a flit position of the
link are counted, one for a corrected codeword and one for an uncorrectable one (R329); an IDLE word releases the flits it
acknowledges from the replay buffer; a flit on a label without a valid entry is discarded, counted and logged (R315,
R317, R332). -/
def Obligations.ForwardedAndBadFlits : Prop :=
  (∀ (s : State) (link : Bool) (f : Flit), Arrives s link f (fType f) → fType f ≠ tIdle → fType f ≠ tTick →
     let e := labelOf s (fLabel f)
     lbValid e = true → lbDeliver e = false →
     ∃ t g, exec (.flitForward link f) s = .next t ∧ SameBytes s t ∧ t.cnt = s.cnt ∧ t.cores = s.cores ∧
       t.lnk.fwd = sat32 s.lnk.fwd 1 ∧ fLabel g = lbNext e ∧ fType g = fType f ∧ g.data = f.data ∧
       (lbViaNoc e = true → t.rmt.noc = s.rmt.noc ++ [(lbViaUnit e, g)]) ∧
       (lbViaNoc e = false → t.lnk.fwdBuf = s.lnk.fwdBuf ++ [(fLabel f, g)])) ∧
  (∀ (s : State) (link : Bool) (f : Flit),
     (heldInReset s = false → (link = true → s.lnk.st = .up ∧ (∀ l, HwFault.fecCe l ∉ s.hwf) ∧ HwFault.fecUe ∉ s.hwf) →
       exec (.flitCrcFail link f) s = .next { s with
         lnk := { s.lnk with crc := sat32 s.lnk.crc 1, nakDue := s.lnk.nakDue || (link && !s.lnk.nakOut) } }) ∧
     (heldInReset s = false → s.lnk.st = .up → ∃ t, exec (.flitCrcFail true f) s = .next t ∧ SameBytes s t ∧ t.cnt = s.cnt ∧
       t.lnk.crc = sat32 s.lnk.crc 1 ∧ t.lnk.nakDue = (s.lnk.nakDue || !s.lnk.nakOut) ∧
       t.lnk.fecUe = (if HwFault.fecUe ∈ s.hwf then sat32 s.lnk.fecUe 1 else s.lnk.fecUe) ∧
       t.lnk.fecCe = (if (List.finRange 5).any (fun l => s.hwf.contains (.fecCe l)) then sat32 s.lnk.fecCe 1 else s.lnk.fecCe)) ∧
     (s.lnk.st = .up → (∀ l, HwFault.fecCe l ∉ s.hwf) → HwFault.fecUe ∉ s.hwf → fType f = tIdle → flitGood f = true →
       ∃ t, exec (.idle f) s = .next t ∧ t = { s with lnk := t.lnk } ∧
         t.lnk = { s.lnk with replay := t.lnk.replay, resend := t.lnk.resend } ∧
         ∀ r, r ∈ t.lnk.replay ↔ r ∈ s.lnk.replay ∧ ¬ (1 ≤ (fAck f - r.seq).toNat ∧ (fAck f - r.seq).toNat ≤ 128)) ∧
     (Arrives s link f tWr → lbValid (labelOf s (fLabel f)) = false →
       ∃ t, exec (.wr link f) s = .next t ∧ SameBytes s t ∧ t.cnt = s.cnt ∧ t.lnk.labelCnt = sat32 s.lnk.labelCnt 1))

/-- A slot of an UP link carries the tick marker when it is due, else the oldest flit to resend, else the next new one, whose
number and place in the replay buffer it takes, else an IDLE word; one word leaves in each slot of the frame, and none outside
them (R32, R330, R332, R336). -/
def Obligations.LinkSlotsSendInOrder : Prop :=
  (∀ (s : State) (k : Nat), s.lnk.st = .up → slotNow s = some k → s.lnk.slotUsed ≠ some (s.fr.ctr, k) →
    (s.fr.own.treeOut = true → s.fr.ticked = true → s.fr.cyc < 9 → s.lnk.markerFrame ≠ some s.fr.ctr →
      ∃ t g, exec .linkSlot s = .next t ∧ t.lnk.out = some g ∧ fType g = tTick ∧ g.data = markerBits s s.fr.ctr s.fr.cyc ∧
        t.lnk.replay = s.lnk.replay ∧ t.lnk.tx = s.lnk.tx ∧ t.lnk.nextSeq = s.lnk.nextSeq ∧ SameBytes s t ∧ t.cnt = s.cnt) ∧
    (s.fr.own.treeOut = false ∨ s.fr.ticked = false ∨ 9 ≤ s.fr.cyc ∨ s.lnk.markerFrame = some s.fr.ctr →
      (∀ r rest, s.lnk.resend = r :: rest → ∃ t, exec .linkSlot s = .next t ∧ t.lnk.resend = rest ∧
        t.lnk.rpl = sat32 s.lnk.rpl 1 ∧ t.lnk.replay = s.lnk.replay ∧ t.lnk.tx = s.lnk.tx ∧ t.lnk.nextSeq = s.lnk.nextSeq ∧
        t.lnk.out = some (onLine s r.seq r.f) ∧ t.lnk.slotUsed = some (s.fr.ctr, k) ∧ SameBytes s t ∧ t.cnt = s.cnt) ∧
      (∀ f rest, s.lnk.resend = [] → s.lnk.replay.length < 128 → s.lnk.tx = f :: rest →
        (∀ r ∈ s.rmt.ret, r.viaNoc = true) → credLabel s false = none → ∃ t, exec .linkSlot s = .next t ∧ t.lnk.tx = rest ∧
          t.lnk.replay = s.lnk.replay ++ [{ seq := s.lnk.nextSeq, f := f }] ∧ t.lnk.nextSeq = s.lnk.nextSeq + 1 ∧
          t.lnk.out = some (onLine s s.lnk.nextSeq f) ∧ t.lnk.slotUsed = some (s.fr.ctr, k) ∧ t.mem = s.mem ∧ t.cnt = s.cnt) ∧
      (s.lnk.resend = [] → 128 ≤ s.lnk.replay.length → ∃ t, exec .linkSlot s = .next t ∧ t = { s with lnk := t.lnk } ∧
        t.lnk.out = some (onLine s 0 idleWord) ∧ t.lnk.replay = s.lnk.replay ∧ t.lnk.tx = s.lnk.tx))) ∧
  (∀ s : State, slotNow s = none ∨ s.lnk.st ≠ .up ∨ (∃ k, slotNow s = some k ∧ s.lnk.slotUsed = some (s.fr.ctr, k)) →
    exec .linkSlot s = .next s)

/-- An active lane gives way to the ready spare and becomes the candidate; the candidate becomes the spare, or after a
second without success counts as failed; a request for a replay that brought nothing is made again (R332, R333). The
link retrains as a whole when it loses an active lane with no spare ready or has asked eight times for one flit, and else
not; a success
brings it up, ready to resend what is not acknowledged; the third failure in a row loses it. Training ends UP with a
measured latency of at most 512 cycles, and else DOWN (R331, R334, R341). -/
def Obligations.LanesReplaysAndTraining : Prop :=
  (∀ (s : State) (l : LaneId),
     (s.lnk.spareReady = true → s.lnk.spare.toNat ≠ l.val → s.lnk.laneFail.getLsbD l.val = false →
       ∃ t, exec (.laneSwap l) s = .next t ∧ SameBytes s t ∧ t.cnt = s.cnt ∧
         t.lnk = { s.lnk with spareReady := false, spare := BitVec.ofNat 3 l.val, candidate := some l }) ∧
     (s.lnk.candidate = some l →
       exec (.candidateSpareReady l) s = .next { s with
         lnk := { s.lnk with candidate := none, spare := BitVec.ofNat 3 l.val, spareReady := true } } ∧
       ∃ t, exec (.spareReadyTimeout l) s = .next t ∧ t = { s with lnk := t.lnk } ∧ t.lnk.candidate = none ∧
         t.lnk.laneFail.getLsbD l.val = true ∧ t.lnk.spare = s.lnk.spare) ∧
     (s.lnk.st = .up → s.lnk.nakOut = true → exec .nakRetry s = .next { s with lnk := { s.lnk with nakDue := true } })) ∧
  (∀ s : State,
     (∀ lost : Option LaneId,
       let gone := ∃ l, lost = some l ∧ s.lnk.spare.toNat ≠ l.val ∧ s.lnk.laneFail.getLsbD l.val = false ∧ s.lnk.spareReady = false
       (s.lnk.st = .up → gone ∨ 8 ≤ s.lnk.nakTimes → ∃ t, exec (.linkRetrain lost) s = .next t ∧
         t.lnk = { s.lnk with st := .retraining, fails := 0, retrain := sat32 s.lnk.retrain 1 } ∧ SameBytes s t) ∧
       (s.lnk.st ≠ .up ∨ ¬gone ∧ s.lnk.nakTimes < 8 → exec (.linkRetrain lost) s = .next s)) ∧
     (s.lnk.st = .retraining →
       exec (.retrainDone true) s = .next { s with lnk := { s.lnk with
         st := .up, fails := 0, resend := s.lnk.replay, nakOut := false, nakDue := false, nakTimes := 0 } } ∧
       (s.lnk.fails = 2 → ∃ t, exec (.retrainDone false) s = .next t ∧ t.lnk.st = .lost ∧ SameBytes s t) ∧
       (s.lnk.fails < 2 → ∃ t, exec (.retrainDone false) s = .next t ∧ t.lnk = { s.lnk with fails := s.lnk.fails + 1 })) ∧
     (∀ lat : BitVec 16, s.lnk.st = .down ∨ s.lnk.st = .training → 5 ≤ s.u.step → s.u.state ≠ .detached →
       (lat.toNat ≤ 512 → ∃ t, exec (.linkTrain true lat) s = .next t ∧ t.lnk.st = .up ∧ t.lnk.lat = lat ∧
         t.lnk.expSeq = 0 ∧ t.lnk.nextSeq = 0 ∧ t = { s with lnk := t.lnk, fresh := t.fresh }) ∧
       (512 < lat.toNat → ∃ t, exec (.linkTrain true lat) s = .next t ∧ t.lnk = { s.lnk with st := .down, lat := lat }) ∧
       ∃ t, exec (.linkTrain false lat) s = .next t ∧ t.lnk = { s.lnk with st := .down }))

/-! ### Frames, ticks, sequences, the watchdog -/

/-- A sound marker of another unit's tick tree disciplines an anchor's own generator: its frame is kept, holdover
ends, the skew is shown (the unit's tick of that number less the master's: the arrival, `since` cycles ago, less the link's
latency and the marker's forwarding delay), and the next period is longer or shorter by at most one reference unit, toward the master; a skew
beyond 32 cycles and another period unlock (R45, R46, R336). LOCK follows four good ticks in a row; TICK_LOST is reported once when none has come for four; the
tick master drives a pulse with the next number (R44, R47, R48). -/
def Obligations.MarkersLockAndTheGenerator : Prop :=
  (∀ (s : State) (f : Flit) (since : Fin 16), s.lnk.st = .up → fType f = tTick → flitGood f = true → markerOk f = true → s.fr.own.src = 2 →
     let skew := markerSkew s f since
     ∃ t, exec (.tickMarker f since) s = .next t ∧ SameBytes s t ∧ t.cnt = s.cnt ∧ t.cores = s.cores ∧
       t.fr = { s.fr with
         marker := some (fld f.data 0 32), holdover := false, missed := 0, absent := 0, lost := false
         unlock := decide (32 < skew.natAbs), skew := skewBits skew, adj := -skew.sign } ∧
       (32 < skew.natAbs ∨ markerPeriod f ≠ s.fr.own.period.toNat → t.u.evtStat.getLsbD 4 = true) ∧
       (skew.natAbs ≤ 32 → markerPeriod f = s.fr.own.period.toNat → (∀ l, HwFault.fecCe l ∉ s.hwf) → t.u = s.u)) ∧
  (∀ s : State,
     (4 ≤ s.fr.good → exec .lock s = .next { s with fr := { s.fr with lock := true } }) ∧
     (s.fr.good < 4 → exec .lock s = .next s) ∧
     (4 ≤ s.fr.absent → s.fr.lost = false → ∃ t, exec .tickLost s = .next t ∧ t.fr = { s.fr with lost := true } ∧
       HasEvent t .tickLost ∧ Logged s t .tickLost Err.tickLost.runClass locUnit 0 ∧ t = { s with fr := t.fr, err := t.err, u := t.u }) ∧
     (s.fr.absent < 4 ∨ s.fr.lost = true → exec .tickLost s = .next s) ∧
     (heldInReset s = false → s.fr.own.src = 1 → generatorDue s = true → s.fr.marker = none →
       ∃ t, exec .tickGenerator s = .next t ∧ t.pins.tickTimes = s.pins.tickTimes + 1 ∧
         t.pins.tickOut = some (match s.pins.tickOut with | some v => v + 1 | none => s.fr.ctr + 1) ∧
         t = { s with fr := t.fr, pins := t.pins } ∧ t.fr = { s.fr with adj := 0 }) ∧
     (s.fr.own.src = 0 → exec .tickGenerator s = .next s))

/-- A pulse taken no more than 32 cycles before its tick is due begins a frame: FRAME_CTR, the cycle count, the debt
of the frame before; a valid one ends holdover and measures the skew, another is counted as missed. Without a pulse
the unit takes the tick itself, in holdover. An earlier pulse is only counted (R33, R47, R48, R55, R471). -/
def Obligations.TicksBeginFrames : Prop :=
  ∀ s : State, heldInReset s = false →
    (∀ (num : Option Word) (skew : Int), (s.fr.ticked = false ∨ frameLenOf s s.fr.ctr ≤ elapsed s + 32) →
      ∃ t, exec (.tick num skew) s = .next t ∧
        t.fr.ctr = (if s.u.state = .running then s.fr.ctr + 1 else num.getD (s.fr.ctr + 1)) ∧ t.fr.cyc = 0 ∧ t.fr.ticked = true ∧
        t.fr.droopDebt = BitVec.ofNat 32 (s.pwr.divFrame / 3) ∧ t.pwr.divFrame = 0 ∧ t.fr.lock = s.fr.lock ∧ t.fr.own = s.fr.own ∧
        (s.fr.own.src ≠ 2 → num ≠ none → (s.u.state = .running → num = some (s.fr.ctr + 1)) →
          t.fr.missed = 0 ∧ t.fr.holdover = false ∧ t.fr.unlock = decide (32 < skew.natAbs) ∧
            t.fr.good = if 32 < skew.natAbs then 0 else s.fr.good + 1) ∧
        ((num = none ∨ s.u.state = .running ∧ num ≠ some (s.fr.ctr + 1)) →
          t.fr.missed = min 15 (s.fr.missed + 1) ∧ t.fr.good = 0 ∧ t.fr.skew = s.fr.skew)) ∧
    (∀ (num : Option Word) (skew : Int), s.fr.ticked = true → elapsed s + 32 < frameLenOf s s.fr.ctr →
      exec (.tick num skew) s = .next { s with fr := { s.fr with missed := min 15 (s.fr.missed + 1), good := 0 } }) ∧
    (s.fr.ticked = true → frameLenOf s s.fr.ctr + 32 ≤ elapsed s →
      ∃ t, exec .tickSelf s = .next t ∧ t.fr.ctr = s.fr.ctr + 1 ∧ t.fr.cyc = 0 ∧ t.fr.holdover = true ∧
        t.fr.missed = min 15 (s.fr.missed + 1) ∧ t.fr.good = 0 ∧ t.fr.absent = s.fr.absent + 1 ∧ t.fr.lock = s.fr.lock) ∧
    (elapsed s < frameLenOf s s.fr.ctr + 32 → exec .tickSelf s = .next s)

/-- At the end of an entry a change that is due begins its sequence, the sequence's end makes the partition idle, and
another entry hands its template's items to the agents (R38, R39, R41). -/
def Obligations.EntriesAndSequencesEnd : Prop :=
  ∀ (s : State) (p : Part), taskPart s p = p → s.parts[p].task = true → s.parts[p].entryEnd = true →
    let x := s.parts[p]
    let e := seqEntry s x.entry
    let frame := if x.halted || x.preempted then x.stopFrame else s.fr.ctr
    ∃ t, exec (.seqEntryEnd p) s = .next t ∧ t.mem = s.mem ∧ t.cnt = s.cnt ∧ t.fr = s.fr ∧ t.pwr = s.pwr ∧ t.err = s.err ∧
      (∀ q : Part, q ≠ p → t.parts[q] = s.parts[q]) ∧
      (changeDue x e (frame - 1) = true → t.parts[p].seq = x.nextSeq ∧ t.parts[p].entry = s.bl.seqs[x.nextSeq].first ∧
        t.parts[p].nextPending = false ∧ t.parts[p].idle = false ∧ t.parts[p].entryEnd = false) ∧
      (changeDue x e (frame - 1) = false → e.seqEnd = true →
        t.parts[p] = { x with idle := true, entryEnd := false } ∧ HasEvent t .seqIdle) ∧
      (changeDue x e (frame - 1) = false → e.seqEnd = false →
        t.parts[p] = { x with entry := e.next, left := (seqEntry s e.next).repeats - 1, entryEnd := false } ∧
        ∀ c : CoreId, sameTask s p (corePart c) = true → t.cores[c].ag.items = s.cores[c].ag.items ++
          ((itemsOf (templateOf s e.next) c.val).zipIdx).map (fun i => { frame := frame, idx := i.2, item := i.1 }))

/-- An agent whose stall count has reached PROG_WDT is fenced, with its task where the agent is a core or an
attachment; the watchdog set to 0, or a count below it, changes nothing (R387, R390, R391). In the cycle after a
contained error the core's store queue is discarded, its reads are absorbed, its other elements stay for inspection, and the counters of its task stand
poisoned (R357, R381). -/
def Obligations.StallCyclesAndErrorResets : Prop :=
  (∀ (s : State), s.err.wdt ≠ 0 →
     (∀ c : CoreId, s.err.wdt.toNat ≤ s.cores[c].ag.stall.toNat → ∃ t, exec (.stallCycle (.core c)) s = .next t ∧
       t.err.stallCnt = sat32 s.err.stallCnt 1 ∧ t.cores[c].st = .fenced ∧ t.cores[c].errDue = true ∧
       t.parts[taskPart s (corePart c)].aborted = true ∧ t.parts[taskPart s (corePart c)].task = false ∧ t.mem = s.mem ∧ t.fr = s.fr) ∧
     (∀ a : EaId, s.err.wdt.toNat ≤ s.eif[a].ag.stall.toNat → ∃ t, exec (.stallCycle (.ea a)) s = .next t ∧
       t.err.stallCnt = sat32 s.err.stallCnt 1 ∧ t.eif[a].st = .fenced ∧ t.eif[a].errDue = true ∧
       t.parts[taskPart s (eaPart a)].aborted = true ∧ t.parts[taskPart s (eaPart a)].task = false ∧ t.mem = s.mem ∧ t.fr = s.fr) ∧
     (∀ h : ChanId, s.err.wdt.toNat ≤ s.mov.chans[h].ag.stall.toNat → ∃ t, exec (.stallCycle (.chan h)) s = .next t ∧
       t.err.stallCnt = sat32 s.err.stallCnt 1 ∧ t.mov.chans[h].st = .fenced ∧ t.parts = s.parts ∧ t.mem = s.mem ∧ t.fr = s.fr) ∧
     (∀ ag : Agent, (agOf s ag).stall.toNat < s.err.wdt.toNat → exec (.stallCycle ag) s = .next s)) ∧
  (∀ (s : State) (c : CoreId),
     (s.cores[c].errDue = true → ∃ t, exec (.errorReset c) s = .next t ∧
       t.cores[c] = { s.cores[c] with errDue := false, st := .fenced, sq := [] } ∧
       (∀ k : CoreId, k ≠ c → t.cores[k] = s.cores[k]) ∧ t = { s with cores := t.cores, cnt := t.cnt, xb := t.xb } ∧
       ∀ r : Ctr, ctrOf t r = if sameTask s (corePart c) (ctrPart s r) then { ctrOf s r with psn := true } else ctrOf s r) ∧
     (s.cores[c].errDue = false → exec (.errorReset c) s = .next s))

/-! ### Power, supply, ageing -/

/-- An interval that begins in this cycle puts its domain into the state chosen for it: GATED at once; RETAIN or OFF
by closing the store's port, or by entering where the domain has none (R292, R401, R402). A domain wakes so as to be
ACTIVE at its interval's end: from GATED at once, from RETAIN and OFF through WAKING for the exit latency; with no
Blend running an idle domain enters GATED; a port due to close closes once both its counts are 0, and its domains
begin their entry (R292, R398, R401, R404). -/
def Obligations.DomainsFollowThePlan : Prop :=
  (∀ (s : State) (d : DomId), s.u.state = .running → s.pwr.dom[d].planned = true →
     ((domPlan s d).find? (fun i => i.a = s.fr.cyc) = none → exec (.powerIntervalStart d) s = .next s) ∧
     ∀ i : PlanIv, (domPlan s d).find? (fun i => i.a = s.fr.cyc) = some i →
       let k := planState s (domPlan s 20) d i
       ∃ t, exec (.powerIntervalStart d) s = .next t ∧ t = { s with pwr := t.pwr, mem := t.mem } ∧ SameBytes s t ∧
         t.pwr.dom[d].cap = BitVec.ofNat 3 i.cap ∧ t.pwr.dom[d].until_ = (if i.idle then none else some i.b) ∧
         (∀ e : DomId, e ≠ d → t.pwr.dom[e] = s.pwr.dom[e]) ∧
         (k = 0 → domState t d = domState s d) ∧
         (k = 1 → domState s d = .active → domState t d = .gated) ∧
         (2 ≤ k → domUp s d = true → t.pwr.dom[d].goal = stateOf k ∧
           match domStore d with
           | some st => (portOf t st).closing = true
           | none => domState t d = .entering ∧ t.pwr.dom[d].timer = 32)) ∧
  (∀ s : State,
     (∀ (d : DomId) (b : Nat), s.u.state = .running → s.pwr.dom[d].until_ = some b →
       (domState s d = .gated → b ≤ s.fr.cyc + 4 → ∃ t, exec (.wake d) s = .next t ∧ domState t d = .active ∧
         t = { s with pwr := t.pwr, mem := t.mem } ∧ SameBytes s t) ∧
       ((domState s d = .retain ∨ domState s d = .off) → b ≤ s.fr.cyc + exitOf (depthOf s.pwr.dom[d].goal) →
         ∃ t, exec (.wake d) s = .next t ∧ domState t d = .waking ∧
           t.pwr.dom[d].timer = exitOf (depthOf s.pwr.dom[d].goal) ∧
           t = { s with pwr := t.pwr, mem := t.mem } ∧ SameBytes s t)) ∧
     (∀ d : DomId, d.val ≠ 0 → s.u.state ≠ .running → s.u.state ≠ .fenced → domState s d = .active → s.pwr.dom[d].forced = none →
       ∃ t, exec (.gatedAfterIdle d) s = .next t ∧ domState t d = .gated ∧ t = { s with pwr := t.pwr, mem := t.mem } ∧ SameBytes s t) ∧
     (s.u.state = .running → ∀ d : DomId, exec (.gatedAfterIdle d) s = .next s) ∧
     (∀ st : StoreId, (portOf s st).closing = true →
       ((portOf s st).hold = 0 → inFlight s st = 0 → ∃ t, exec (.portClose st) s = .next t ∧
         (portOf t st).isOpen = false ∧ (portOf t st).closing = false ∧ t = { s with pwr := t.pwr, mem := t.mem } ∧ SameBytes s t ∧
         ∀ d ∈ storeDoms st, s.pwr.dom[d].goal ≠ .active → domUp s d = true →
           domState t d = .entering ∧ t.pwr.dom[d].timer = 32) ∧
       (0 < (portOf s st).hold ∨ 0 < inFlight s st → exec (.portClose st) s = .next s)))

/-- VWARN starts the divider, DROOP ends an episode and records it, DROOP_EXHAUSTED reports a debt above the reserve
once in a frame; a monitor's code is kept, and the last of a round sets the ageing (R55, R410, R411, R413, R415). -/
def Obligations.SupplyAndAgeingEvents : Prop :=
  ∀ s : State,
    (s.pwr.aonOk = true → s.pwr.vresetHold = false →
      exec .vwarn s = .next { s with pwr := { s.pwr with divider := true } }) ∧
    (s.pwr.divider = true → ∃ t, exec .droop s = .next t ∧ t.pwr.divider = false ∧ t.pwr.divEpisode = 0 ∧
      t.pwr.droopLog = sat32 s.pwr.droopLog 1 ∧ s.pwr.droopLong.toNat ≤ t.pwr.droopLong.toNat ∧
      min s.pwr.divEpisode (2 ^ 32 - 1) ≤ t.pwr.droopLong.toNat ∧ HasEvent t .droop ∧
      Logged s t .droop Err.droop.runClass locUnit s.pwr.divEpisode ∧
      t = { s with pwr := t.pwr, err := t.err, u := t.u } ∧ t.pwr.dom = s.pwr.dom ∧ t.pwr.divFrame = s.pwr.divFrame) ∧
    (s.u.state = .running → droopReserve s < s.pwr.divFrame / 3 → s.pwr.exhausted = false →
      ∃ t, exec .droopExhausted s = .next t ∧ t.pwr = { s.pwr with exhausted := true } ∧ HasEvent t .droopExhausted ∧
        Logged s t .droopExhausted Err.droopExhausted.runClass locUnit 0 ∧ t = { s with pwr := t.pwr, err := t.err, u := t.u }) ∧
    (s.pwr.divFrame / 3 ≤ droopReserve s ∨ s.pwr.exhausted = true → exec .droopExhausted s = .next s) ∧
    (∀ code : BitVec 16, s.u.state = .running → s.pwr.sampled = some s.fr.ctr → exec (.ageingSample code) s = .next s) ∧
    (∀ code : BitVec 16, heldInReset s = false →
      (s.u.state = .running → frameCycles s ≤ s.fr.cyc + 64 ∧ s.fr.cyc < frameCycles s ∧ s.pwr.divFrame = 0 ∧ s.pwr.sampled ≠ some s.fr.ctr) →
      let i := s.pwr.monNext % 28
      let r := s.pwr.round ++ [code]
      ∃ t, exec (.ageingSample code) s = .next t ∧ t = { s with pwr := t.pwr, err := t.err, u := t.u } ∧ t.pwr.dom = s.pwr.dom ∧
        (s.u.state = .running → t.pwr.sampled = some s.fr.ctr) ∧
        (∀ j : Fin 28, t.pwr.mon[j] = if j.val = i then code else s.pwr.mon[j]) ∧
        (i < 27 → t.pwr.monNext = i + 1 ∧ t.pwr.round = r ∧ t.pwr.delta = s.pwr.delta ∧ t.err = s.err) ∧
        (i = 27 → t.pwr.monNext = 0 ∧ t.pwr.round = [] ∧
          (baseOk s = true → t.pwr.delta = BitVec.ofNat 16 (ageOf s r)) ∧ (baseOk s = false → t.pwr.delta = s.pwr.delta) ∧
          (baseOk s = true → s.u.state = .running → margin27 s < 27 * ageOf s r → t.pwr.aged = true ∧ HasEvent t .aged)))

/-- The patrol scrub puts right every stored word of its 64 KB: none keeps a bad symbol, one that cannot be corrected
is poisoned, and no byte changes. A refresh window counts itself, advances its row and its scrub position, and gives a
lane that fails training a spare (R275, R280, R281, R284). -/
def Obligations.ScrubAndRefreshWindows : Prop :=
  ∀ s : State, s.u.state = .running →
    (let g : GroupId := ⟨s.fr.ctr.toNat % 8, by omega⟩
     let lo := 0x400000 * g.val + 0x10000 * s.mem.groups[g].scrubPos.toNat
     s.fr.cyc = s.fr.scrubOff → domUp s ⟨11 + g.val, by omega⟩ = true →
      ∃ t, exec .patrolScrub s = .next t ∧ SameBytes s t ∧ t.mem.groups[g].scrubPos = s.mem.groups[g].scrubPos + 1 ∧
        (∀ w, lo ≤ 64 * w → 64 * w < lo + 0x10000 →
          badSyms t.mem w = 0 ∧ (uncorrectable s.mem w = true → setHas t.mem.psn w = true)) ∧
        (∀ w, 64 * w < lo ∨ lo + 0x10000 ≤ 64 * w → badSyms t.mem w = badSyms s.mem w ∧ setHas t.mem.psn w = setHas s.mem.psn w) ∧
        t.cnt = s.cnt ∧ t.cores = s.cores ∧ t.pwr = s.pwr) ∧
    (s.fr.cyc ≠ s.fr.scrubOff → exec .patrolScrub s = .next s) ∧
    (refreshStarts s = true → domUp s 20 = true → ∀ (lanes : List (Nat × Nat)) (failed : List Nat),
      ∃ t, exec (.dsRefreshWindow lanes failed) s = .next t ∧ SameBytes s t ∧ t.mem.refCnt = sat32 s.mem.refCnt 1 ∧
        t.mem.refRow = s.mem.refRow + 64 ∧ t.mem.scrubPos = s.mem.scrubPos + 32 ∧
        (∀ (g : Fin 32) (l : Nat), g.val = s.mem.refCnt.toNat % 32 → l ∈ groupLanes g.val → lanes = [] → failed = [l] →
          s.mem.laneErr = [] → s.mem.laneThr ≠ 0 → s.mem.outLanes.contains l = false → s.mem.deadLanes.contains l = false → s.mem.spares[g] < 8 →
          t.mem.spares[g] = s.mem.spares[g] + 1 ∧ t.mem.lastSwap[g] = BitVec.ofNat 8 l)) ∧
    (refreshStarts s = false ∨ domUp s 20 = false → ∀ (lanes : List (Nat × Nat)) (failed : List Nat),
      exec (.dsRefreshWindow lanes failed) s = .next s)

/-! ### Bring-up and resets -/

/-- Loss of AON power leaves the fuse array and the machine's reset state; its return reads and checks the fuses, and
goes on to POWERED at step 3 when the PLL locks; a shadow that fails its check, or a PLL that does not lock, fences
the unit (R340, R341, R343, R467, R468). That the commands that wait stay is the model's own (log 1). -/
def Obligations.AonPowerBringsTheUnitUp : Prop :=
  ∀ (s : State) (lock : Bool),
    (∃ t, exec (.aonPwrOk false lock) s = .next t ∧ t.fuse.array = s.fuse.array ∧ t.pwr.aonOk = false ∧ t.u = State.reset.u ∧
      t.mem = State.reset.mem ∧ t.cores = State.reset.cores ∧ t.mov = State.reset.mov ∧ t.cnt = State.reset.cnt ∧
      t.pending = s.pending) ∧
    (s.pwr.aonOk = false → s.u.hasAddr = false →
      let a := s.fuse.array
      let ok := factoryOk a.toList = true ∧ fldN a[(0 : Fin 64)] 14 2 ≠ 3
      ∃ t, exec (.aonPwrOk true lock) s = .next t ∧ t.pwr.aonOk = true ∧ t.fuse.shadow = a ∧ t.fuse.crc = shadowCrc a.toList ∧
        (¬ok → t.u.state = .fenced) ∧
        (ok → bitOf a[(0 : Fin 64)] 18 = true → t.u.state = .detached) ∧
        (ok → bitOf a[(0 : Fin 64)] 18 = false → s.pwr.rstN = true → lock = true →
          t.u.state = .powered ∧ t.u.step = 3 ∧ t.fr.clk = binOf (fldN a[(0 : Fin 64)] 14 2)) ∧
        (ok → bitOf a[(0 : Fin 64)] 18 = false → s.pwr.rstN = true → lock = false → t.u.state = .fenced) ∧
        (ok → bitOf a[(0 : Fin 64)] 18 = false → s.pwr.rstN = false → t.u.step = 2))

/-- RST_CHIP_N low holds the unit at step 2 with its link down and its counters at 0; its release goes on from step 2.
VRESET fences the unit and loses Deep Store too; its recovery goes on from step 2 (R412, R468). Whether the PLL locks
there is a free value (log 3). -/
def Obligations.ResetPinsAndVreset : Prop :=
  ∀ s : State,
    (heldInReset s = false → fuseDead s = false → ∃ t, exec (.rstChipN false) s = .next t ∧ t.pwr.rstN = false ∧
      t.u.state = .powered ∧ t.u.step = 2 ∧ t.lnk.st = .down ∧ t.cnt = [] ∧ t.fr.lock = false ∧ t.u.addr = s.u.addr ∧
      (∀ c : CoreId, CoreEmpty t.cores[c]) ∧ t.fuse = s.fuse) ∧
    (s.pwr.rstN = false → s.pwr.aonOk = true → fuseDead s = false → s.u.state ≠ .detached →
      ∃ t, exec (.rstChipN true) s = .next t ∧ t.pwr.rstN = true ∧
        (s.pwr.vresetHold = true → t = { s with pwr := { s.pwr with rstN := true } }) ∧
        (s.pwr.vresetHold = false → Config.pllLocks s.fresh = false → t.u.state = .fenced) ∧
        (s.pwr.vresetHold = false → Config.pllLocks s.fresh = true → s.u.hasAddr = false → t.u.state = .powered ∧ t.u.step = 3)) ∧
    (heldInReset s = false → fuseDead s = false → ∃ t, exec .vreset s = .next t ∧ t.u.state = .fenced ∧ t.u.step = 2 ∧
      t.pwr.vresetHold = true ∧ t.lnk.st = .down ∧ t.cnt = [] ∧ (∀ c : CoreId, CoreEmpty t.cores[c]) ∧
      ∀ a, 0x40000000 ≤ a → a < 0x80000000 → readByte t.mem a = 0) ∧
    (s.pwr.vresetHold = true → s.pwr.aonOk = true → ∃ t, exec .vresetRecovery s = .next t ∧ t.pwr.vresetHold = false ∧
      (s.pwr.rstN = false → t = { s with pwr := { s.pwr with vresetHold := false } }) ∧
      (s.pwr.rstN = true → Config.pllLocks s.fresh = false → t.u.state = .fenced) ∧
      (s.pwr.rstN = true → Config.pllLocks s.fresh = true → s.u.hasAddr = false → t.u.state = .powered ∧ t.u.step = 3)) ∧
    (s.pwr.vresetHold = false → exec .vresetRecovery s = .next s)

/-- TEST_GO of an addressed unit at step 3 tests it and leaves it READY at step 7, with TEST_AGE 0 and Near Store clear; a RESET
at unit level takes the fast path or goes on from step 2, and drops LOCK (R276, R341, R342, R354, R355, R359). -/
def Obligations.TestGoAndUnitReset : Prop :=
  ∀ s : State, TakesCommand s →
    (∀ r : TestResult, s.u.state = .addressed → s.u.step = 3 → r.dsBadLanes = [] → ∃ t, exec (.testGo r) s = .next t ∧ Done t 0x12 0 ∧
      t.u.state = .ready ∧ t.u.step = 7 ∧ t.u.testAge = 0 ∧ t.u.tested = true ∧ HasEvent t .ready ∧ t.u.katFail = r.katFail ∧
      t.u.katMov = r.katMov ∧ ∀ a, a < 0x2000000 → readByte t.mem a = 0) ∧
    (∀ r : TestResult, s.u.state ≠ .addressed ∨ s.u.step ≠ 3 → ∃ t, exec (.testGo r) s = .next t ∧ Done t 0x12 Err.cmdState.value ∧
      t = { s with cmd := t.cmd, err := t.err, u := t.u }) ∧
    (∀ keep : Bool, s.u.state ≠ .detached →
      (fastOk keep s = true → ∃ t, exec (.resetUnit keep) s = .next t ∧ Done t 0x10 0 ∧ t.u.state = .ready ∧ t.u.fast = true ∧
        t.fr.lock = false ∧ t.cnt = [] ∧ t.lnk.st = .up ∧ (∀ c : CoreId, CoreEmpty t.cores[c]) ∧
        ∀ a, a < 0x2000000 → readByte t.mem a = 0) ∧
      (fastOk keep s = false → Config.pllLocks s.fresh = false → ∃ t, exec (.resetUnit keep) s = .next t ∧ Done t 0x10 0 ∧
        t.u.state = .fenced ∧ t.fr.lock = false) ∧
      (fastOk keep s = false → Config.pllLocks s.fresh = true → s.u.hasAddr = false →
        ∃ t, exec (.resetUnit keep) s = .next t ∧ Done t 0x10 0 ∧ t.u.state = .powered ∧ t.u.step = 3 ∧ t.fr.lock = false ∧ t.cnt = []))

/-! ### The chain, the TAP, the command window -/

/-- IDENT is answered with the unit's identity word, RD with the register, WR with no word after its write, ADDRESS gives a
POWERED unit of the right chip its address; a damaged packet, or an ADDRESS the unit cannot take, is answered with ERR; a
packet for another unit goes on, one position nearer, and a response or a REPAIR packet goes on as it came (R348, R349, R350).
That each of the table's chain commands brings a packet of any kind is the model's own (log 74). IDCODE shifts out the
identity code. WINDOW accesses a register through Caddy, or passes its data through while the TAP is closed (R346, R446,
R479). Counters with a parity error, which a read finds (R289), are not meant here. -/
def Obligations.ChainPacketsAndTheTap : Prop :=
  (∀ (s : State) (p : ChainPkt) (i : Instr), i = .ident p ∨ i = .address p ∨ i = .rd p →
     let ans (err : Bool) (ws : List Word) : Pins :=
       { s.pins with chain := some (mkPkt (pktHdr (pKind p) (pMode p) (pTarget p) ws.length true err) ws) }
     (TakesPacket s p 1 → exec i s = .next { s with pins := ans false [identWord s] }) ∧
     (TakesPacket s p 3 → fuseDead s = false → (∀ c, HwFault.cntParity c ∉ s.hwf) →
       let u := presentAt s 13 43 0 1
       exec i s = .next { u with pins := ans false [regRead u (fldN (p.words.getD 0 0) 0 20)] }) ∧
     (TakesPacket s p 4 → fuseDead s = false →
       let u := regWrite (presentAt s 13 43 0 1) (fldN (p.words.getD 0 0) 0 20) (p.words.getD 1 0)
       exec i s = .next { u with pins := { u.pins with chain := (ans false []).chain } }) ∧
     (TakesPacket s p 2 → fuseDead s = false →
       let a : BitVec 16 := fld (p.words.getD 0 0) 0 16
       (s.u.hasAddr = true → a = s.u.addr → exec i s = .next { s with pins := ans false [] }) ∧
       ((s.u.hasAddr = false ∨ a ≠ s.u.addr) → s.u.state = .powered → a.toNat % 64 = fldN (fuseRow s 0) 0 6 →
         exec i s = .next { s with pins := ans false [], u := { s.u with addr := a, hasAddr := true, state := .addressed } }) ∧
       ((s.u.hasAddr = false ∨ a ≠ s.u.addr) → (s.u.state ≠ .powered ∨ a.toNat % 64 ≠ fldN (fuseRow s 0) 0 6) →
         ∃ t, exec i s = .next t ∧ t = { s with pins := ans true [], err := t.err } ∧ Logged s t .enumAddr 0 locUnit a.toNat)) ∧
     (∀ kind, kind ≠ 8 → MeetsPacket s p kind →
       (pMode p = 0 → pTarget p % 64 ≠ 0 → exec i s =
         .next { s with pins := { s.pins with chain := some { p with hdr := setFld p.hdr 6 6 (pTarget p % 64 - 1) } } }) ∧
       (fuseDead s = false → pktUse s p = .take → pktGood p = false → exec i s = .next { s with pins := ans true [] })) ∧
     (bitOf p.hdr 30 = true ∨ pKind p = 8 ∨ s.u.state = .detached → exec i s =
       .next { s with pins := { s.pins with chain := some p } })) ∧
  (∀ (s : State) (dr : BitVec 72),
     exec .idcode s = .next { s with pins := { s.pins with tdo := 0xC4D52001 }, tapSession := false } ∧
     (tapClosed s = true → exec (.window dr) s = .next { s with pins := { s.pins with tdo := dr <<< 1 }, tapSession := false }) ∧
     (tapClosed s = false → heldInReset s = false → fuseDead s = false → bitOf dr 52 = false →
       (∀ c, HwFault.cntParity c ∉ s.hwf) →
       let u := presentAt s 13 43 0 1
       ∃ t, exec (.window dr) s = .next t ∧ fld t.pins.tdo 0 20 = (fld dr 0 20 : BitVec 20) ∧
         fld t.pins.tdo 20 32 = regRead u (fldN dr 0 20) ∧ bitOf t.pins.tdo 53 = true ∧ t.tapSession = true ∧
         t = { u with pins := { s.pins with tdo := t.pins.tdo }, tapSession := true }) ∧
     (tapClosed s = false → heldInReset s = false → fuseDead s = false → bitOf dr 52 = true → fldN dr 0 20 = 0x34 →
       ∃ t, exec (.window dr) s = .next t ∧ t.u = { s.u with evtMask := fld dr 20 18 } ∧ bitOf t.pins.tdo 53 = true ∧
         t = { s with u := t.u, pins := t.pins, tapSession := true, xb := t.xb, pwr := t.pwr } ∧ OnlyWoken s t))

/-- While a command is in progress every other one is refused with ERR_CMD_BUSY and CMD_STAT stays (R42, R374, R455). -/
def Obligations.CommandsAreRefusedWhileOneRuns : Prop :=
  ∀ (i : Instr) (s : State), isCommand i = true → s.pwr.aonOk = true → fuseDead s = false → s.cmd.busy = true →
    ∃ t, exec i s = .next t ∧ t = { s with err := t.err } ∧ Logged s t .cmdBusy 0 locUnit 0

/-- A core, cluster or partition reset makes its cores fresh, with the Blend's initial registers; a fence of a core
stays but at partition level; a partition reset ends the task, empties its channels, taps and counters, and opens the
reset window. BUSY holds for the cycles of the level, 200, 2,000 or 30,000, and the command then completes. A core or a cluster
whose task runs is not reset (R111, R347, R356, R358, R449). -/
def Obligations.ResetsOfCoresClustersPartitions : Prop :=
  (∀ s : State, (s.cmd.left = 1 → Done (cmdCycle s) s.cmd.code.toNat 0) ∧
    (1 < s.cmd.left → cmdCycle s = { s with cmd := { s.cmd with left := s.cmd.left - 1 } }) ∧ (s.cmd.left = 0 → cmdCycle s = s)) ∧
  ∀ s : State, TakesCommand s →
    (∀ c : CoreId, taskRuns s (corePart c) = false → s.cores[c].sq = [] → ∃ t, exec (.resetCore c) s = .next t ∧ Busy s t 0x10 200 ∧
      CoreEmpty t.cores[c] ∧ t.cores[c].s = s.bl.cores[c].s ∧ t.cores[c].d = s.bl.cores[c].d ∧
      t.cores[c].st = (if s.cores[c].st = .fenced then .fenced else .idle) ∧
      (∀ k : CoreId, k ≠ c → t.cores[k] = s.cores[k]) ∧ t.mem = s.mem ∧ t.cnt = s.cnt ∧ t.parts = s.parts) ∧
    (∀ c : CoreId, taskRuns s (corePart c) = false → ∃ t, exec (.resetCore c) s = .next t ∧ Busy s t 0x10 200 ∧ t.cores[c].sq = []) ∧
    (∀ c : CoreId, taskRuns s (corePart c) = true → ∃ t, exec (.resetCore c) s = .next t ∧ Done t 0x10 Err.cmdState.value ∧
      t = { s with cmd := t.cmd, err := t.err, u := t.u }) ∧
    (∀ k : ClusterId, taskRuns s (clPart k) = false → (∀ c ∈ coresOf k, s.cores[c].sq = []) →
      ∃ t, exec (.resetCluster k) s = .next t ∧ Busy s t 0x10 2000 ∧ (∀ c ∈ coresOf k, CoreEmpty t.cores[c]) ∧
        t.cls[k].running = none ∧ t.cls[k].waiting = [] ∧ t.cls[k].whiskCe = 0 ∧ t.cls[k].whisk = s.cls[k].whisk ∧
        (∀ c : CoreId, clOf c ≠ k → t.cores[c] = s.cores[c]) ∧ t.mem = s.mem ∧ t.cnt = s.cnt ∧ t.parts = s.parts) ∧
    (∀ p : Part, s.u.state ≠ .fenced → s.u.state ≠ .detached → Quiet s → ∃ t, exec (.resetPartition p) s = .next t ∧ Busy s t 0x10 30000 ∧
      t.parts[taskPart s p].task = false ∧ t.parts[taskPart s p].aborted = false ∧ t.parts[taskPart s p].resetWin = 30000 ∧
      (∀ c : CoreId, sameTask s p (corePart c) = true → CoreEmpty t.cores[c]) ∧
      (∀ h : ChanId, sameTask s p (chanPart s h) = true → t.mov.chans[h].st = .idle ∧ t.mov.chans[h].list = none) ∧
      (∀ x : TapId, sameTask s p (tapPart s x) = true → t.taps[x].armed = false) ∧
      (∀ r : Ctr, sameTask s p (ctrPart s r) = true → ctrOf t r = {}) ∧
      (∀ r : Ctr, sameTask s p (ctrPart s r) = false → ctrOf t r = ctrOf s r) ∧ SameBytes s t)

/-- TASK_START of a sequence that the Blend defines, on elements that have not failed, latches TICK_CFG and sets the
start request; a partition already started, or a unit without a Blend, refuses it (R33, R41, R347, R448, R460).
PREEMPT and RESUME wait for the next frame with BUSY set; HALT stops every agent of the task at once; DUMP saves a
stopped core's context, and is refused where the port of its save slot's store is closed (R293, R456, R457, R458). -/
def Obligations.TasksStartStopAndResume : Prop :=
  (∀ (s : State) (p : Part) (q : Fin 16) (frame : Word), TakesCommand s →
     let x : Part := taskPart s p
     let u := { s with fr := { s.fr with cfg := s.fr.own } }
     ((s.u.state = .ready ∧ s.u.blendOk = true ∨ s.u.state = .running) → s.parts[x].started = false → startCheck u = none →
       seqDefined s x q = true → (∀ k ∈ taskCls s x, clFailed s k = false) →
       ∃ t, exec (.taskStart p q frame) s = .next t ∧ Done t 0x11 0 ∧
         t.parts[x] = { s.parts[x] with started := true, start := some { seq := q, frame := frame } } ∧
         (∀ y : Part, y ≠ x → t.parts[y] = s.parts[y]) ∧ t.fr = { s.fr with cfg := s.fr.own } ∧
         t = { s with cmd := t.cmd, u := t.u, fr := t.fr, parts := t.parts }) ∧
     ((s.u.state ≠ .ready ∨ s.u.blendOk = false) → s.u.state ≠ .running → ∃ t, exec (.taskStart p q frame) s = .next t ∧
       Done t 0x11 Err.cmdState.value ∧ t = { s with cmd := t.cmd, err := t.err, u := t.u }) ∧
     (s.parts[x].started = true → ∃ t, exec (.taskStart p q frame) s = .next t ∧
       Done t 0x11 Err.cmdState.value ∧ t = { s with cmd := t.cmd, err := t.err, u := t.u })) ∧
  (∀ s : State, TakesCommand s →
     (∀ p : Part, mayStop s p = true → ∃ t, exec (.preempt p) s = .next t ∧
       t.cmd = { s.cmd with busy := true, done := false, code := 0x40 } ∧
       t.parts[taskPart s p] = { s.parts[taskPart s p] with preemptDue := true } ∧ t = { s with cmd := t.cmd, parts := t.parts }) ∧
     (∀ p : Part, mayResume s p = true → ∃ t, exec (.resume p) s = .next t ∧
       t.cmd = { s.cmd with busy := true, done := false, code := 0x41 } ∧
       t.parts[taskPart s p] = { s.parts[taskPart s p] with resumeDue := true } ∧ t = { s with cmd := t.cmd, parts := t.parts }) ∧
     (∀ p : Part, mayStop s p = false → mayResume s p = false →
       (∃ t, exec (.preempt p) s = .next t ∧ Done t 0x40 Err.cmdState.value ∧ t = { s with cmd := t.cmd, err := t.err, u := t.u }) ∧
       (∃ t, exec (.resume p) s = .next t ∧ Done t 0x41 Err.cmdState.value ∧ t = { s with cmd := t.cmd, err := t.err, u := t.u })) ∧
     (∀ p : Part, mayStop s p = true → ∃ t, exec (.haltCommand p false) s = .next t ∧ Done t 0x42 0) ∧
     (∀ p : Part, mayStop s p = true → (∀ c : CoreId, s.cores[c].sq = [] ∧ s.cores[c].prog = []) →
       (∀ st : StoreId, (portOf s st).isOpen = true) → ∃ t, exec (.haltCommand p true) s = .next t ∧ Done t 0x42 0 ∧
         t.parts[taskPart s p].halted = true ∧ t.parts[taskPart s p].saved = true) ∧
     (∀ p : Part, mayStop s p = true → (∀ c : CoreId, s.cores[c].sq = [] ∧ s.cores[c].prog = []) → ∃ t, exec (.haltCommand p false) s = .next t ∧
       t.parts[taskPart s p].halted = true ∧ t.mem = s.mem ∧ t.cnt = s.cnt ∧
       (∀ c : CoreId, t.cores[c] =
         if sameTask s (taskPart s p) (corePart c) then interruptCore s.cores[c] .halted else s.cores[c])) ∧
     (∀ c : CoreId, (s.cores[c].st = .preempted ∨ s.cores[c].st = .halted ∨ s.cores[c].st = .fenced) →
       (saveShut s [c] = none → ∃ t, exec (.dump c) s = .next t ∧ Done t 0x60 0 ∧
         t.cores[c].saveCyc = BitVec.ofNat 32 (saveCycles s.cores[c])) ∧
       (∀ x, saveShut s [c] = some x → ∃ t, exec (.dump c) s = .next t ∧ Done t 0x60 Err.groupOff.value ∧ t.cores = s.cores ∧
         SameBytes s t)) ∧
     (∀ c : CoreId, (s.cores[c].st = .idle ∨ s.cores[c].st = .run) → ∃ t, exec (.dump c) s = .next t ∧
       Done t 0x60 Err.cmdState.value ∧ t = { s with cmd := t.cmd, err := t.err, u := t.u }))

/-- A slot record that passes its check is loaded into its slot in READY, and refused while a task runs; PWR_FORCE
holds a domain in a state no deeper than Table 16-1 allows (R120, R456, R459). -/
def Obligations.SlotLoadsAndForcedDomains : Prop :=
  ∀ s : State, TakesCommand s →
    (∀ (c : CoreId) (k : Fin 64) (bs : List Byte),
      let r := slotRecord (slice bs 0 2752)
      let n := modCore s c (fun x => { x with routes := put {} x.routes k.val r })
      (s.u.state = .ready → slotCheck n c k.val r = none → ∃ t, exec (.routeLoad c k (some bs)) s = .next t ∧ Done t 0x50 0 ∧
        t.cores = n.cores ∧ look {} t.cores[c].routes k.val = r ∧ OnlyWoken s t ∧ t = { s with cores := t.cores, cmd := t.cmd, u := t.u, xb := t.xb, pwr := t.pwr }) ∧
      (s.u.state = .running → taskRuns s (corePart c) = true → ∃ t, exec (.routeLoad c k (some bs)) s = .next t ∧
        Done t 0x50 Err.routeBusy.value ∧ t = { s with cmd := t.cmd, err := t.err, u := t.u }) ∧
      (s.u.state = .ready → ∃ t, exec (.routeLoad c k none) s = .next t ∧ Done t 0x50 Err.farXlate.value ∧
        t = { s with cmd := t.cmd, err := t.err, u := t.u })) ∧
    (∀ (cl : ClusterId) (k : Fin 32) (bs : List Byte), s.u.state = .ready →
      let w : BitVec 16384 := leBits 16384 (slice bs 0 2048)
      (whiskWordOk w (whiskWidth s cl k.val) = true → ∃ t, exec (.whiskLoad cl k (some bs)) s = .next t ∧ Done t 0x51 0 ∧
        look 0 t.cls[cl].whisk k.val = w ∧ bitOf t.cls[cl].whiskLoaded k.val = true ∧ (∀ j : ClusterId, j ≠ cl → t.cls[j] = s.cls[j]) ∧ OnlyWoken s t ∧
        t = { s with cls := t.cls, cmd := t.cmd, u := t.u, xb := t.xb, pwr := t.pwr }) ∧
      (whiskWordOk w (whiskWidth s cl k.val) = false → ∃ t, exec (.whiskLoad cl k (some bs)) s = .next t ∧
        Done t 0x51 Err.routeWhisk.value ∧ t = { s with cmd := t.cmd, err := t.err, u := t.u })) ∧
    (∀ (d : DomId) (n : BitVec 5) (cap : BitVec 2), s.u.state = .ready → n.toNat = d.val → 0 < d.val →
      (cap.toNat ≤ deepest s d → domUp s d = true → ∃ t, exec (.pwrForce n cap) s = .next t ∧ Done t 0x70 0 ∧
        t.pwr.dom[d].forced = some cap ∧ domState t d = (if cap.toNat ≤ 1 then stateOf cap.toNat else .entering) ∧ SameBytes s t ∧
        (∀ e : DomId, e ≠ d → t.pwr.dom[e] = s.pwr.dom[e]) ∧ t = { s with pwr := t.pwr, mem := t.mem, cmd := t.cmd, u := t.u }) ∧
      (deepest s d < cap.toNat → ∃ t, exec (.pwrForce n cap) s = .next t ∧ Done t 0x70 Err.pwrPlan.value ∧
        t = { s with cmd := t.cmd, err := t.err, u := t.u }))

/-- FUSE_PROG and REPAIR_AUTH begin a fuse write; the read-back ends it: the rows hold what was read, the shadow's
check is renewed, and a row that differs is ERR_FUSE_WRITE. DETACH leaves every domain but AON off and the link down
(R346, R347, R351, R366). -/
def Obligations.FuseWritesAndDetach : Prop :=
  ∀ s : State,
    (TakesCommand s → (s.u.state = .ready ∨ s.u.state = .configWait) →
      let starts (i : Instr) (w : FuseWr) : Prop := exec i s = .next { s with
        cmd := { s.cmd with busy := true, done := false, code := 0x31 }, fuse := { s.fuse with writing := some w } }
      starts .fuseProgDbgDisable .dbgDisable ∧ starts .fuseProgSigRequired .sigRequired ∧ starts .fuseProgDetached .detached ∧
        (allZero (keyHash s) = true → starts .fuseProgKeyHash .keyHash) ∧
        (allZero (keyHash s) = false → ∃ t, exec .fuseProgKeyHash s = .next t ∧ Done t 0x31 Err.fuseWrite.value)) ∧
    (∀ (fcrc : Byte) (k : Nat), TakesCommand s → s.u.state ≠ .fenced → s.u.repairPend = true → fld s.fuse.pend 56 8 = fcrc →
      emptyRow s = some k → exec (.repairAuth fcrc) s = .next { s with
        cmd := { s.cmd with busy := true, done := false, code := 0x30 }
        fuse := { s.fuse with writing := some (.repair k s.fuse.pend) } }) ∧
    (∀ w : FuseWr, s.fuse.writing = some w → ∃ t, exec (.fuseWriteDone ((fuseGoal s w).map (·.2))) s = .next t ∧
      Done t (fuseCode w) 0 ∧ t.fuse.writing = none ∧ t.fuse.crc = shadowCrc t.fuse.shadow.toList ∧
      (∀ r ∈ fuseGoal s w, r.1 < 64 → t.fuse.array[r.1]? = some r.2 ∧ t.fuse.shadow[r.1]? = some r.2) ∧
      (∀ i : Fin 64, (∀ r ∈ fuseGoal s w, r.1 ≠ i.val) → t.fuse.array[i] = s.fuse.array[i] ∧ t.fuse.shadow[i] = s.fuse.shadow[i]) ∧
      t = { s with fuse := t.fuse, cmd := t.cmd, u := t.u, tapSession := t.tapSession }) ∧
    (∀ v : BitVec 64, s.fuse.writing = some .sigRequired → v ≠ setFld (fuseRow s 0) 17 1 1 →
      ∃ t, exec (.fuseWriteDone [v]) s = .next t ∧ Done t 0x31 Err.fuseWrite.value ∧ t.fuse.array[(0 : Fin 64)] = v) ∧
    (TakesCommand s → ∃ t, exec .detach s = .next t ∧ Done t 0x32 0 ∧ t.u.state = .detached ∧ t.lnk.st = .down ∧ t.cnt = [] ∧
      t.u.blendOk = false ∧ (∀ d : DomId, d ≠ 0 → t.pwr.dom[d].ps = .off) ∧ t.mem.mem = s.mem.mem ∧ t.fuse = s.fuse)

/-! ### Loading -/

/-- LOAD_BEGIN empties the slot and waits for blocks, given two bank groups to stage them in; an intact block of the
image is kept, a damaged one ignored; the end marker gives the block count, and a repair packet asks for what is
missing; a load that has not passed ends incomplete (R361, R362, R363, R365, R423, R424). -/
def Obligations.LoadsReceiveTheirBlocks : Prop :=
  ∀ s : State,
    (∀ source timeout : BitVec 16, TakesCommand s → (s.u.state = .ready ∨ s.u.state = .configWait) →
      (2 ≤ (stagingGroups s).length → ∃ t, exec (.loadBegin source timeout) s = .next t ∧ Done t 0x20 0 ∧ t.u.state = .configWait ∧
        t.u.blendOk = false ∧ t.ld.active = true ∧ t.ld.source = source ∧ t.ld.timeout = timeout ∧ t.ld.blocks = [] ∧
        t.ld.waitVid = false ∧ t.cnt = s.cnt ∧ (∀ c : CoreId, t.cores[c].imem = []) ∧
        (∀ a, 0x40000000 ≤ a → readByte t.mem a = readByte s.mem a) ∧
        (∀ a, a < 0x2000000 → bitOf s.mem.retain (groupOf a).val = true → readByte t.mem a = readByte s.mem a)) ∧
      ((stagingGroups s).length < 2 → ∃ t, exec (.loadBegin source timeout) s = .next t ∧ Done t 0x20 Err.loadStage.value ∧
        t = { s with cmd := t.cmd, err := t.err, u := t.u })) ∧
    (∀ b : Block,
      (receiving s = true → blockOk b = true → tKind b = 0 → ofImage s b = true → tSeq b ≠ 0 → received s.ld (tSeq b) = false →
        stagingFull (fixImage s b) = false → ∃ t, exec (.transportBlock b) s = .next t ∧
          (b.payload ≠ [] → payloadOf t.ld (tSeq b) = b.payload) ∧ t.ld.imageId = some (s.ld.imageId.getD (tImage b)) ∧
          t = { s with ld := t.ld }) ∧
      (blockOk b = false → exec (.transportBlock b) s = .next s ∧ exec (.endMarker b) s = .next s) ∧
      (receiving s = true → endMarkerOk b = true → ofImage s b = true →
        let n := numAt b.payload 0 4
        let l := { s.ld with imageId := some (s.ld.imageId.getD (tImage b)), blockCnt := some n }
        (clearBits l = [] → exec (.endMarker b) s = .next { s with ld := l }) ∧
        (clearBits l ≠ [] → ∃ q, exec (.endMarker b) s = .next { s with ld := l, pins := { s.pins with repair := some q } } ∧
          pKind q = 8 ∧ q.words.head? = some (BitVec.ofNat 32
            ((((runsOf (clearBits l)).headD (0, 1)).1) + (((runsOf (clearBits l)).headD (0, 1)).2 - 1) % 65536 * 65536))))) ∧
    (receiving s = true → ∃ t, exec .loadIncomplete s = .next t ∧ HasEvent t .loadIncomplete ∧ t.ld.active = false ∧
      t.ld.miss = BitVec.ofNat 17 (clearBits s.ld).length ∧ Logged s t .loadIncomplete 0 locUnit 0 ∧
      t = { s with ld := t.ld, err := t.err, u := t.u }) ∧
    (receiving s = false → exec .loadIncomplete s = .next s)

/-- The gate runs once every block is there. An image that fails its digest, its signature or its size ends the load
with the code logged; one that passes every check is written, and the load asks the regulator for its VID (R364, R425,
R440, R441, R442, R469). The regulator's acknowledgement lets a load that waits for it enter READY; without one the
load ends incomplete, with no Blend (R364, R365, R469). -/
def Obligations.TheGateAndTheRegulatorEndALoad : Prop :=
  (∀ s : State, receiving s = true →
     (wholeImage s = none → exec .loadGate s = .next s) ∧
     ∀ (img : List Byte) (n : Nat), wholeImage s = some (img, n) →
       (∀ f : Fail, gateCheck s img n = some f → ∃ t, exec .loadGate s = .next t ∧ Logged s t f.e 0 locUnit f.detail ∧
         t.ld.active = false ∧ t.ld.blocks = [] ∧ t = { s with ld := t.ld, err := t.err }) ∧
       (gateCheck s img n = none → (baseOk s = true → planVid s (binOf (headerOf img).bin) ≤ vidMax s) →
         checkTable img (keptSects s img) = none → checkKept s (candidate s img) img (keptSects s img) = none →
         ∃ t, exec .loadGate s = .next t ∧ t.ld.waitVid = true ∧ t.ld.active = true ∧ t.pins.vidAck = false ∧
           t.pins.vidReq = BitVec.ofNat 8 (planVid s (candidate s img).fr.clk) ∧ t.cnt = [] ∧
           (∀ h : ChanId, t.mov.chans[h].st = .idle) ∧ t.u.taskMode = (candidate s img).u.taskMode ∧ t.bl = (candidate s img).bl)) ∧
  (∀ s : State, s.ld.waitVid = true →
     (s.u.state = .configWait → ∃ t, exec .pwrVidAck s = .next t ∧ t.u.state = .ready ∧ t.u.blendOk = true ∧ HasEvent t .ready ∧
       t.pwr = { s.pwr with vid := s.pins.vidReq } ∧ t.pins.vidAck = true ∧ t.ld.active = false ∧ t.ld.waitVid = false ∧
       t.cad = { s.cad with fw := some s.bl.fwEntry } ∧
       t = { s with u := t.u, pins := t.pins, cad := t.cad, pwr := t.pwr, ld := t.ld }) ∧
     (s.pins.vidAck = false → ∃ t, exec .vidAckTimeout s = .next t ∧ t.u.state = s.u.state ∧ t.u.blendOk = false ∧
       HasEvent t .loadIncomplete ∧ t.ld.active = false ∧ t.ld.waitVid = false ∧ t.ld.miss = 0 ∧
       Logged s t .loadIncomplete 0 locUnit 0xFFFFFFFF ∧ t.mem.mem = s.mem.mem ∧ t.cnt = s.cnt))

/-! ### Registers -/

/-- SEQ_NEXT sets a change pending, and is refused while one is; CANCEL discards it. ERR_ACK frees log entries.
TICK_CFG is written outside a run and within its range. A register write acts by its access type: a W1C bit written 1
clears, an RW field takes the value, a read-only register stays, and CMD_GO submits its command (R10, R11, R39, R41,
R372, R447, R448, R455, R460). -/
def Obligations.RegisterWritesByTheirType : Prop :=
  ∀ s : State,
    (∀ (p : Part) (v : Word), bitOf v 30 = false →
      let q : Fin 16 := (fld v 0 4).toFin
      (s.parts[p].nextPending = false → (p = 0 ∨ twoTask s = true) → seqDefined s p q = true → fldN v 8 2 < 2 →
        s.parts[p].idle = false → exec (.seqNext p v) s = .next (modPart s p (fun x =>
          { x with nextSeq := q, nextWhen := fld v 8 2, nextPending := true, nextFrom := 0 }))) ∧
      (s.parts[p].nextPending = true → ∃ t, exec (.seqNext p v) s = .next t ∧ t = { s with err := t.err } ∧
        Logged s t .seqBusy 0 (locPart p) 0) ∧
      (s.parts[p].nextPending = false → seqDefined s p q = false → ∃ t, exec (.seqNext p v) s = .next t ∧
        t = { s with err := t.err } ∧ Logged s t .seqUndef 0 (locPart p) 0)) ∧
    (∀ (p : Part) (v : Word), bitOf v 30 = true →
      exec (.cancel p v) s = .next (modPart s p (fun x => { x with nextPending := false }))) ∧
    (∀ n : BitVec 7, exec (.errAck n) s = .next { s with err := { s.err with count := s.err.count - n.toNat } }) ∧
    (∀ v : Word,
      (blendRuns s = false → 400 ≤ fldN v 0 20 → fldN v 0 20 ≤ 1000000 → fldN v 20 7 ≤ 100 → fldN v 27 2 ≠ 3 →
        exec (.tickCfgWrite v) s = .next { s with fr := { s.fr with
          cfg := { period := fld v 0 20, droopRsv := fld v 20 7, src := fld v 27 2, treeOut := bitOf v 29 } } }) ∧
      (blendRuns s = false → fldN v 0 20 < 400 → ∃ t, exec (.tickCfgWrite v) s = .next t ∧
        t.fr.cfg.period = s.fr.cfg.period ∧ Logged s t .tickRange 0 locUnit 0) ∧
      (blendRuns s = true → ∃ t, exec (.tickCfgWrite v) s = .next t ∧ t = { s with err := t.err } ∧
        Logged s t .regFrozen 0 locUnit 0x2000)) ∧
    (∀ v : Word, heldInReset s = false → fuseDead s = false →
      (∃ t, exec (.registerWrite 0x30 v) s = .next t ∧ t.u = { s.u with evtStat := s.u.evtStat &&& ~~~(fld v 0 18) } ∧
        t = { s with u := t.u, xb := t.xb, pwr := t.pwr } ∧ OnlyWoken s t) ∧
      (∃ t, exec (.registerWrite 0x34 v) s = .next t ∧ t.u = { s.u with evtMask := fld v 0 18 } ∧
        t = { s with u := t.u, xb := t.xb, pwr := t.pwr } ∧ OnlyWoken s t) ∧
      (∃ t, exec (.registerWrite 0x0 v) s = .next t ∧ t = { s with xb := t.xb, pwr := t.pwr } ∧ OnlyWoken s t) ∧
      (fldN v 0 8 = 0x60 → exec (.registerWrite 0x1000 v) s = exec (.dump (fld s.cmd.arg[(0 : Fin 4)] 0 4).toFin) (presentAt s 13 44 0 1))) ∧
    (∀ (off : BitVec 20) (v : Word), heldInReset s = true → exec (.registerWrite off v) s = .next s)

/-- A log entry occupies four words at 0x6100 + 16 i, and ERR_FIRST four words at 0x6030; an entry holds the error's
code, class, hardware mark, location, frame, frame cycle, stream and detail in the fields of its layout, and zeros
between them (R372, R396). -/
def Obligations.LogEntriesReadAsTheirFields : Prop :=
  (∀ (s : State) (i : Fin 64) (j : Fin 4), regRead s (0x6100 + 16 * i.val + 4 * j.val) = fld s.err.ent[i] (32 * j.val) 32 ∧
    regRead s (0x6030 + 4 * j.val) = fld s.err.first (32 * j.val) 32) ∧
  ∀ (e : Err) (cls loc frame fcyc : Nat) (stream : Option (Fin 64)) (detail : Nat), cls < 4 → loc < 256 → frame < 2 ^ 32 →
    fcyc < 2 ^ 24 → detail < 2 ^ 32 →
    let x := entryBits e cls loc frame fcyc stream detail
    fldN x 0 16 = e.value ∧ fldN x 16 2 = cls ∧ bitOf x 18 = e.hw ∧ bitOf x 19 = false ∧ fldN x 20 8 = loc ∧ fldN x 28 4 = 0 ∧
      fldN x 32 32 = frame ∧ fldN x 64 24 = fcyc ∧ bitOf x 94 = stream.isSome ∧ (∀ t, stream = some t → fldN x 88 6 = t.val) ∧
      bitOf x 95 = false ∧ fldN x 96 32 = detail
end

