-- ==== Sys2Proof/Laws/Table.lean ====
section
/-! SUPPORT. Tables and sets of numbers: what a read after a write gives, and that every write keeps the canonical form. -/

namespace Sys2Proof

variable {α : Type}

theorem drop_eq_filter (m : List (Nat × α)) (k : Nat) : drop m k = m.filter (fun e => e.1 ≠ k) := by
  induction m with
  | nil => rfl
  | cons e r ih => obtain ⟨j, v⟩ := e; by_cases h : j = k <;> simp [drop, h, ih]

theorem look_drop_self (d : α) (m : List (Nat × α)) (k : Nat) : look d (drop m k) k = d := by
  induction m with
  | nil => rfl
  | cons e r ih => obtain ⟨j, v⟩ := e; by_cases h : j = k <;> simp [drop, look, h, ih]

theorem look_drop_other (d : α) (m : List (Nat × α)) {k j : Nat} (h : j ≠ k) : look d (drop m k) j = look d m j := by
  induction m with
  | nil => rfl
  | cons e r ih =>
    obtain ⟨i, v⟩ := e
    by_cases hi : i = k
    · subst hi; simp [drop, look, ih, Ne.symm h]
    · simp only [drop, hi, if_false, look, ih]

theorem look_place_self (d : α) (m : List (Nat × α)) (k : Nat) (v : α) (h : ∀ e ∈ m, e.1 ≠ k) : look d (place m k v) k = v := by
  induction m with
  | nil => simp [place, look]
  | cons e r ih =>
    obtain ⟨j, w⟩ := e
    have hj : j ≠ k := h (j, w) (by simp)
    by_cases hk : k < j
    · simp [place, hk, look]
    · simp [place, hk, look, hj, ih (fun e he => h e (by simp [he]))]

theorem look_place_other (d : α) (m : List (Nat × α)) {k j : Nat} (v : α) (h : j ≠ k) : look d (place m k v) j = look d m j := by
  induction m with
  | nil => simp [place, look, Ne.symm h]
  | cons e r ih =>
    obtain ⟨i, w⟩ := e
    by_cases hk : k < i
    · simp [place, hk, look, Ne.symm h]
    · simp only [place, hk, if_false, look, ih]

/-- What was written reads back. -/
@[simp] theorem look_put_self [DecidableEq α] (d : α) (m : List (Nat × α)) (k : Nat) (v : α) : look d (put d m k v) k = v := by
  unfold put
  split
  · rename_i h; rw [look_drop_self, h]
  · exact look_place_self d _ k v (fun e he => by rw [drop_eq_filter] at he; simpa using (List.mem_filter.1 he).2)

/-- A write leaves every other number as it was, whatever it reads as unlisted. -/
theorem look_put_other [DecidableEq α] (d d' : α) (m : List (Nat × α)) {k j : Nat} (v : α) (h : j ≠ k) :
    look d' (put d m k v) j = look d' m j := by
  unfold put
  split
  · exact look_drop_other d' m h
  · rw [look_place_other d' _ v h, look_drop_other d' m h]

/-- A read of a filtered table whose filter keeps the number's entries. -/
theorem look_filter_keep (d : α) (m : List (Nat × α)) (k : Nat) (f : Nat × α → Bool) (h : ∀ v, f (k, v) = true) :
    look d (m.filter f) k = look d m k := by
  induction m with
  | nil => rfl
  | cons e r ih =>
    obtain ⟨j, v⟩ := e
    by_cases hj : j = k
    · subst hj; simp [h, look]
    · by_cases hf : f (j, v) = true <;> simp [hf, look, hj, ih]

/-- A read of a filtered table whose filter drops the number's entries. -/
theorem look_filter_drop (d : α) (m : List (Nat × α)) (k : Nat) (f : Nat × α → Bool) (h : ∀ v, f (k, v) = false) :
    look d (m.filter f) k = d := by
  induction m with
  | nil => rfl
  | cons e r ih =>
    obtain ⟨j, v⟩ := e
    by_cases hj : j = k
    · subst hj; simp [h, ih]
    · by_cases hf : f (j, v) = true <;> simp [hf, look, hj, ih]

/-! ### The canonical form -/

/-- Numbers rise strictly, and no entry equals what its number reads as unlisted. -/
def Canon (d : Nat → α) (m : List (Nat × α)) : Prop := (∀ e ∈ m, e.2 ≠ d e.1) ∧ m.Pairwise (fun a b => a.1 < b.1)

theorem Canon.nil (d : Nat → α) : Canon d [] := ⟨by simp, List.Pairwise.nil⟩

theorem Canon.filter {d : Nat → α} {m : List (Nat × α)} (h : Canon d m) (f : Nat × α → Bool) : Canon d (m.filter f) :=
  ⟨fun e he => h.1 e (List.mem_filter.1 he).1, h.2.sublist List.filter_sublist⟩

theorem Canon.drop {d : Nat → α} {m : List (Nat × α)} (h : Canon d m) (k : Nat) : Canon d (drop m k) := by
  rw [drop_eq_filter]; exact h.filter _

theorem mem_place (m : List (Nat × α)) (k : Nat) (v : α) (e : Nat × α) : e ∈ place m k v ↔ e = (k, v) ∨ e ∈ m := by
  induction m with
  | nil => simp [place]
  | cons x r ih =>
    obtain ⟨j, w⟩ := x
    by_cases h : k < j
    · simp [place, h]
    · simp only [place, h, if_false, List.mem_cons, ih]; tauto

theorem place_sorted (m : List (Nat × α)) (k : Nat) (v : α) (h : m.Pairwise (fun a b => a.1 < b.1)) (hk : ∀ e ∈ m, e.1 ≠ k) :
    (place m k v).Pairwise (fun a b => a.1 < b.1) := by
  induction m with
  | nil => simp [place]
  | cons x r ih =>
    obtain ⟨j, w⟩ := x
    have hr := List.pairwise_cons.1 h
    by_cases hlt : k < j
    · simp only [place, hlt, if_true]
      refine List.pairwise_cons.2 ⟨?_, h⟩
      intro e he
      rcases List.mem_cons.1 he with rfl | he
      · exact hlt
      · exact hlt.trans (hr.1 e he)
    · simp only [place, hlt, if_false]
      have hj : j ≠ k := hk (j, w) (by simp)
      refine List.pairwise_cons.2 ⟨?_, ih hr.2 (fun e he => hk e (by simp [he]))⟩
      intro e he
      rcases (mem_place r k v e).1 he with rfl | he
      · show j < k; omega
      · exact hr.1 e he

/-- A write keeps the canonical form. -/
theorem Canon.put [DecidableEq α] {d : Nat → α} {m : List (Nat × α)} (h : Canon d m) (k : Nat) (v : α) :
    Canon d (put (d k) m k v) := by
  unfold Sys2Proof.put
  split
  · exact h.drop k
  · rename_i hv
    have hd := h.drop k
    have hk : ∀ e ∈ Sys2Proof.drop m k, e.1 ≠ k := fun e he => by
      rw [drop_eq_filter] at he; simpa using (List.mem_filter.1 he).2
    refine ⟨fun e he => ?_, place_sorted _ k v hd.2 hk⟩
    rcases (mem_place _ k v e).1 he with rfl | he
    · exact hv
    · exact hd.1 e he

/-- A form in which neighbours rise and no entry is idle is the canonical form of the whole list. -/
theorem canon_cons {d : Nat → α} (j k : Nat) (v w : α) (r : List (Nat × α)) :
    Canon d ((j, v) :: (k, w) :: r) ↔ v ≠ d j ∧ j < k ∧ Canon d ((k, w) :: r) := by
  constructor
  · rintro ⟨h1, h2⟩
    have hp := List.pairwise_cons.1 h2
    exact ⟨h1 (j, v) (by simp), hp.1 (k, w) (by simp), fun e he => h1 e (by simp [List.mem_cons.1 he]), hp.2⟩
  · rintro ⟨h1, h2, h3, h4⟩
    refine ⟨fun e he => ?_, List.pairwise_cons.2 ⟨fun e he => ?_, h4⟩⟩
    · rcases List.mem_cons.1 he with rfl | he
      · exact h1
      · exact h3 e he
    · rcases List.mem_cons.1 he with rfl | he
      · exact h2
      · exact h2.trans ((List.pairwise_cons.1 h4).1 e he)

theorem canon_one {d : Nat → α} (j : Nat) (v : α) : Canon d [(j, v)] ↔ v ≠ d j := by
  simp [Canon]

theorem tableWf_iff [DecidableEq α] (d : α) (m : List (Nat × α)) : tableWf d m = true ↔ Canon (fun _ => d) m := by
  induction m with
  | nil => simp [tableWf, Canon.nil]
  | cons e r ih =>
    obtain ⟨j, v⟩ := e
    cases r with
    | nil => simp [tableWf, canon_one]
    | cons f q =>
      obtain ⟨k, w⟩ := f
      rw [canon_cons, ← ih]
      simp [tableWf, and_assoc]

/-- A write keeps a table canonical. -/
theorem tableWf_put [DecidableEq α] (d : α) (m : List (Nat × α)) (k : Nat) (v : α) (h : tableWf d m = true) :
    tableWf d (put d m k v) = true := (tableWf_iff d _).2 (((tableWf_iff d m).1 h).put k v)

/-- A filter keeps a table canonical. -/
theorem tableWf_filter [DecidableEq α] (d : α) (m : List (Nat × α)) (f : Nat × α → Bool) (h : tableWf d m = true) :
    tableWf d (m.filter f) = true := (tableWf_iff d _).2 (((tableWf_iff d m).1 h).filter f)

/-! ### Sets -/

theorem setHas_setAdd (m : List Nat) (k j : Nat) : setHas (setAdd m k) j = (decide (j = k) || setHas m j) := by
  induction m with
  | nil => simp [setAdd, setHas]
  | cons x r ih =>
    simp only [setHas, setAdd] at ih ⊢
    by_cases h1 : k = x
    · subst h1
      rw [if_pos rfl]; simp
    · rw [if_neg h1]
      by_cases h2 : k < x
      · rw [if_pos h2]; simp
      · rw [if_neg h2]
        rw [List.contains_cons, List.contains_cons, ih]
        simp only [Bool.beq_eq_decide_eq]
        cases decide (j = x) <;> cases decide (j = k) <;> simp

end Sys2Proof
end

