-- ==== Sys2Proof/Laws/Memory.lean ====
section
/-! SUPPORT. The bytes of the stores: what a read after a write gives, and that every operation on them keeps the canonical
form. -/

namespace Sys2Proof.Machine

/-- The canonical form by its entries. -/
theorem cellsWf_iff (m : Stores) (l : List Host.Cell) : cellsWf m l = true ↔ Canon (blankByte m) l := by
  induction l with
  | nil => simp [cellsWf, Canon.nil]
  | cons e r ih =>
    obtain ⟨j, v⟩ := e
    cases r with
    | nil => simp [cellsWf, canon_one]
    | cons f q =>
      obtain ⟨k, w⟩ := f
      rw [canon_cons, ← ih]
      simp [cellsWf, and_assoc]

theorem wf_iff (m : Stores) : Memory.wf m = true ↔ Canon (blankByte m) m.mem := cellsWf_iff m m.mem

/-- What an unlisted byte reads as depends on the groups' spans alone. -/
theorem blankByte_congr {m n : Stores} (h : ∀ g : GroupId, n.groups[g].epoch = m.groups[g].epoch) : blankByte n = blankByte m := by
  funext a
  simp only [blankByte]
  have := h (groupOf a)
  split
  · simp only [this]
  · rfl

/-- Two stores with the same listed bytes and the same spans are canonical together. -/
theorem wf_congr {m n : Stores} (hm : n.mem = m.mem) (h : ∀ g : GroupId, n.groups[g].epoch = m.groups[g].epoch) :
    Memory.wf n = Memory.wf m := by
  rw [Bool.eq_iff_iff, wf_iff, wf_iff, blankByte_congr h, hm]

/-- Two stores with the same listed bytes and the same spans read alike. -/
theorem memByte_congr {m n : Stores} (hm : n.mem = m.mem) (h : ∀ g : GroupId, n.groups[g].epoch = m.groups[g].epoch) (a : Nat) :
    memByte n a = memByte m a := by
  simp only [memByte, blankByte_congr h, hm]

/-! ### One byte -/

@[simp] theorem setByte_groups (m : Stores) (a : Nat) (b : Byte) : (setByte m a b).groups = m.groups := rfl

theorem blankByte_setByte (m : Stores) (a : Nat) (b : Byte) : blankByte (setByte m a b) = blankByte m := rfl

@[simp] theorem memByte_setByte_self (m : Stores) (a : Nat) (b : Byte) : memByte (setByte m a b) a = b := by
  exact look_put_self (blankByte m a) m.mem a b

theorem memByte_setByte_other (m : Stores) {a c : Nat} (b : Byte) (h : c ≠ a) : memByte (setByte m a b) c = memByte m c := by
  exact look_put_other (blankByte m a) (blankByte m c) m.mem b h

theorem wf_setByte {m : Stores} (a : Nat) (b : Byte) (h : Memory.wf m = true) : Memory.wf (setByte m a b) = true := by
  rw [wf_iff] at h ⊢
  exact h.put a b

/-! ### The bytes of a mask -/

theorem setBytes_fold (m : Stores) (a : Nat) (x mask : BitVec 512) :
    setBytes m a x mask = (upto 64).foldl (fun m i => if byteAt mask i = 0 then m
      else setByte m (a + i) ((memByte m (a + i) &&& ~~~byteAt mask i) ||| (byteAt x i &&& byteAt mask i))) m := rfl

theorem wf_setBytes {m : Stores} (a : Nat) (x mask : BitVec 512) (h : Memory.wf m = true) :
    Memory.wf (setBytes m a x mask) = true := by
  rw [setBytes_fold]
  generalize upto 64 = l
  induction l generalizing m with
  | nil => exact h
  | cons i r ih =>
    rw [List.foldl_cons]
    apply ih
    split
    · exact h
    · exact wf_setByte _ _ h

@[simp] theorem setBytes_groups (m : Stores) (a : Nat) (x mask : BitVec 512) : (setBytes m a x mask).groups = m.groups := by
  rw [setBytes_fold]
  generalize upto 64 = l
  induction l generalizing m with
  | nil => rfl
  | cons i r ih => rw [List.foldl_cons, ih]; split <;> rfl

theorem mem_upto (n i : Nat) : i ∈ upto n ↔ i < n := by
  suffices h : ∀ a, i ∈ span a n ↔ a ≤ i ∧ i < a + n by simp [upto, h]
  induction n with
  | zero => intro a; simp [span]
  | succ n ih => intro a; simp only [span, List.mem_cons, ih]; omega

theorem nodup_span (a n : Nat) : (span a n).Nodup := by
  induction n generalizing a with
  | zero => exact List.nodup_nil
  | succ n ih =>
    refine List.nodup_cons.2 ⟨fun h => ?_, ih _⟩
    have : ∀ b m i, i ∈ span b m → b ≤ i := by
      intro b m
      induction m generalizing b with
      | zero => intro i hi; simp [span] at hi
      | succ m ihm =>
        intro i hi
        rcases List.mem_cons.1 hi with rfl | hi
        · exact le_refl _
        · exact le_trans (Nat.le_succ b) (ihm _ _ hi)
    have := this _ _ _ h
    omega

/-- A byte that no listed offset reaches stays. -/
theorem setBytes_fold_other (l : List Nat) (m : Stores) (a c : Nat) (x mask : BitVec 512) (h : ∀ i ∈ l, c ≠ a + i) :
    memByte (l.foldl (fun m i => if byteAt mask i = 0 then m
      else setByte m (a + i) ((memByte m (a + i) &&& ~~~byteAt mask i) ||| (byteAt x i &&& byteAt mask i))) m) c = memByte m c := by
  induction l generalizing m with
  | nil => rfl
  | cons i r ih =>
    rw [List.foldl_cons, ih _ (fun j hj => h j (by simp [hj]))]
    split
    · rfl
    · exact memByte_setByte_other _ _ (h i (by simp))

/-- A byte outside the 64 bytes stays. -/
theorem memByte_setBytes_other (m : Stores) (a c : Nat) (x mask : BitVec 512) (h : c < a ∨ a + 64 ≤ c) :
    memByte (setBytes m a x mask) c = memByte m c := by
  rw [setBytes_fold]
  exact setBytes_fold_other _ m a c x mask (fun i hi => by have := (mem_upto 64 i).1 hi; omega)

/-- A byte inside takes the bits that the mask names. -/
theorem memByte_setBytes_self (m : Stores) (a i : Nat) (x mask : BitVec 512) (h : i < 64) :
    memByte (setBytes m a x mask) (a + i) = (memByte m (a + i) &&& ~~~byteAt mask i) ||| (byteAt x i &&& byteAt mask i) := by
  rw [setBytes_fold]
  have hi := (mem_upto 64 i).2 h
  have hn := nodup_span 0 64
  change (upto 64).Nodup at hn
  revert hi hn
  generalize upto 64 = l
  intro hi hn
  induction l generalizing m with
  | nil => simp at hi
  | cons j r ih =>
    rw [List.foldl_cons]
    have hn' := List.nodup_cons.1 hn
    by_cases hj : j = i
    · subst hj
      rw [setBytes_fold_other r _ a (a + j) x mask (fun k hk e => hn'.1 (by rwa [show k = j by omega] at hk))]
      split
      · rename_i hz; simp only [hz]; simp; exact BitVec.and_allOnes.symm
      · simp
    · have hr : i ∈ r := by rcases List.mem_cons.1 hi with e | e; · exact absurd e.symm hj
                            · exact e
      rw [ih _ hr hn'.2]
      have : memByte (if byteAt mask j = 0 then m
          else setByte m (a + j) ((memByte m (a + j) &&& ~~~byteAt mask j) ||| (byteAt x j &&& byteAt mask j))) (a + i)
          = memByte m (a + i) := by
        split
        · rfl
        · exact memByte_setByte_other _ _ (by omega)
      rw [this]

/-! ### Ranges -/

theorem wf_dropRange {m : Stores} (lo hi : Nat) (h : Memory.wf m = true) : Memory.wf (dropRange m lo hi) = true := by
  rw [wf_iff] at h ⊢
  exact h.filter _

/-- A byte outside a dropped range stays. -/
theorem memByte_dropRange_other (m : Stores) {lo hi a : Nat} (h : a < lo ∨ hi ≤ a) : memByte (dropRange m lo hi) a = memByte m a := by
  simp only [memByte]
  refine look_filter_keep _ _ _ _ (fun v => ?_)
  simp; omega

/-- A byte inside a dropped range reads as unlisted. -/
theorem memByte_dropRange_self (m : Stores) {lo hi a : Nat} (h1 : lo ≤ a) (h2 : a < hi) :
    memByte (dropRange m lo hi) a = blankByte m a := by
  simp only [memByte]
  refine look_filter_drop _ _ _ _ (fun v => ?_)
  simp [h1, h2]

/-- A bank group whose listed bytes are gone may begin a new span. -/
theorem wf_newSpan {m : Stores} (g : GroupId) (x : Group) (h : Memory.wf m = true) :
    Memory.wf { dropRange m (0x400000 * g.val) (0x400000 * (g.val + 1)) with groups := m.groups.set g.val x } = true := by
  rw [wf_iff] at h ⊢
  refine ⟨fun e he => ?_, (h.filter _).2⟩
  have hm := List.mem_filter.1 he
  have hne := h.1 e hm.1
  have hr : ¬(0x400000 * g.val ≤ e.1 ∧ e.1 < 0x400000 * (g.val + 1)) := by
    have := hm.2; simp at this; omega
  have hb : blankByte { dropRange m (0x400000 * g.val) (0x400000 * (g.val + 1)) with groups := m.groups.set g.val x } e.1
      = blankByte m e.1 := by
    simp only [blankByte]
    split
    · rename_i hns
      have hlt : e.1 < 0x2000000 := by simpa [isNs] using hns
      have hg : (groupOf e.1).val ≠ g.val := by
        simp only [groupOf]
        omega
      have : (m.groups.set g.val x)[groupOf e.1] = m.groups[groupOf e.1] := by
        simp only [Fin.getElem_fin]
        exact Vector.getElem_set_ne _ _ (Ne.symm hg)
      rw [this]
    · rfl
  rw [hb]
  exact hne

theorem wf_clearGroup {m : Stores} (g : GroupId) (h : Memory.wf m = true) : Memory.wf (clearGroup m g) = true :=
  wf_newSpan g _ h

theorem wf_undefGroup {m : Stores} (g : GroupId) (k : Nat) (h : Memory.wf m = true) : Memory.wf (undefGroup m g k) = true :=
  wf_newSpan g _ h

theorem wf_clearDs {m : Stores} (h : Memory.wf m = true) : Memory.wf (clearDs m) = true :=
  (wf_congr (m := dropRange m 0x40000000 0x80000000) (n := clearDs m) rfl (fun _ => rfl)).trans (wf_dropRange _ _ h)

end Sys2Proof.Machine
end

