-- ==== Sys2Proof/Laws/Eval.lean ====
section
/-! SUPPORT. The checks and digests in a form that evaluates step by step: each step's value is handed on as a numeral. -/

namespace Sys2Proof.Machine

/-- A value handed on as a numeral. -/
def force {n : Nat} {α : Type} (x : BitVec n) (k : BitVec n → α) : α :=
  match x.toNat with
  | 0 => k 0#n
  | m + 1 => k (BitVec.ofNat n (m + 1))

theorem force_eq {n : Nat} {α : Type} (x : BitVec n) (k : BitVec n → α) : force x k = k x := by
  unfold force
  split
  · rename_i h; rw [BitVec.eq_of_toNat_eq (x := x) (y := 0#n) (by simpa using h)]
  · rename_i m h
    have e : x.toNat = m + 1 := h
    rw [← e, BitVec.ofNat_toNat, BitVec.setWidth_eq]

/-- CRC-32C of the bytes from a value on, byte by byte. -/
def crcRun : List Byte → Word → Word
  | [], c => c
  | b :: r, c => force (crc32cByte c b) (crcRun r)

theorem crcRun_eq : ∀ (l : List Byte) (c : Word), crcRun l c = l.foldl crc32cByte c
  | [], _ => rfl
  | b :: r, c => by simp only [crcRun, force_eq, List.foldl_cons]; exact crcRun_eq r _

theorem crc32c_run (l : List Byte) : crc32c l = crcRun l 0xFFFFFFFF#32 ^^^ 0xFFFFFFFF#32 := by rw [crcRun_eq]; rfl

/-- CRC-8 of the bytes from a value on, byte by byte. -/
def crc8Run : List Byte → Byte → Byte
  | [], c => c
  | b :: r, c => force (crc8Bit (crc8Bit (crc8Bit (crc8Bit (crc8Bit (crc8Bit (crc8Bit (crc8Bit (c ^^^ b))))))))) (crc8Run r)

theorem crc8_run (l : List Byte) : crc8 l = crc8Run l 0 := by
  have h : ∀ (l : List Byte) (c : Byte),
      l.foldl (fun c b => crc8Bit (crc8Bit (crc8Bit (crc8Bit (crc8Bit (crc8Bit (crc8Bit (crc8Bit (c ^^^ b)))))))) ) c = crc8Run l c := by
    intro l
    induction l with
    | nil => intro; rfl
    | cons b r ih => intro c; simp only [crc8Run, force_eq, List.foldl_cons]; exact ih _
  exact h l 0

/-- Values handed on as numerals. -/
def forceL {n : Nat} {α : Type} : List (BitVec n) → (List (BitVec n) → α) → α
  | [], k => k []
  | x :: r, k => force x (fun y => forceL r (fun z => k (y :: z)))

theorem forceL_eq {n : Nat} {α : Type} : ∀ (l : List (BitVec n)) (k : List (BitVec n) → α), forceL l k = k l
  | [], _ => rfl
  | x :: r, k => by simp only [forceL, force_eq]; exact forceL_eq r _

/-- The message schedule of SHA-384, word by word. -/
def schedRun : Nat → List (BitVec 64) → List (BitVec 64)
  | 0, w => w
  | k + 1, w => force (((shaSched 1 w).headD 0)) (fun x => schedRun k (x :: w))

theorem schedRun_eq : ∀ (k : Nat) (w : List (BitVec 64)), schedRun k w = shaSched k w
  | 0, _ => rfl
  | k + 1, w => by simp only [schedRun, force_eq]; rw [schedRun_eq k]; rfl

/-- The rounds of SHA-384, one by one. -/
def roundRun : List (BitVec 64 × BitVec 64) → List (BitVec 64) → List (BitVec 64)
  | [], h => h
  | x :: r, h => forceL (shaRound h x) (roundRun r)

theorem roundRun_eq : ∀ (l : List (BitVec 64 × BitVec 64)) (h : List (BitVec 64)), roundRun l h = l.foldl shaRound h
  | [], _ => rfl
  | x :: r, h => by simp only [roundRun, forceL_eq, List.foldl_cons]; exact roundRun_eq r _

/-- The blocks of SHA-384, one by one, under round constants `ks`. -/
def blocksRun (ks : List (BitVec 64)) : Nat → List (BitVec 64) → List Byte → List (BitVec 64)
  | 0, h, _ => h
  | k + 1, h, bs =>
    forceL ((upto 16).map (fun i => BitVec.ofNat 64 (beNat ((bs.drop (8 * i)).take 8)))) (fun w =>
      forceL (List.zipWith (· + ·) h (roundRun (List.zip ks (schedRun 64 w.reverse).reverse) h)) (fun h => blocksRun ks k h (bs.drop 128)))

theorem take_drop_take {α : Type} (l : List α) (i : Nat) (h : i < 16) : ((l.take 128).drop (8 * i)).take 8 = (l.drop (8 * i)).take 8 := by
  rw [List.drop_take, List.take_take]; congr 1; omega

theorem blocksRun_eq : ∀ (k : Nat) (h : List (BitVec 64)) (bs : List Byte), blocksRun shaK k h bs = shaBlocks k h bs
  | 0, _, _ => rfl
  | k + 1, h, bs => by
    simp only [blocksRun, forceL_eq, roundRun_eq, schedRun_eq]
    rw [blocksRun_eq k, shaBlocks, shaBlock]
    have e : (upto 16).map (fun i => BitVec.ofNat 64 (beNat (((bs.take 128).drop (8 * i)).take 8)))
        = (upto 16).map (fun i => BitVec.ofNat 64 (beNat ((bs.drop (8 * i)).take 8))) := by
      apply List.map_congr_left
      intro i hi
      rw [take_drop_take bs i ((mem_upto 16 i).mp hi)]
    rw [e]

/-- SHA-384 in the same form. -/
def sha384Run (bs : List Byte) : List Byte :=
  let l := bs.length
  let m := bs ++ [0x80#8] ++ List.replicate ((239 - l % 128) % 128) 0 ++ beBytes 16 (8 * l)
  ((forceL shaK (fun ks => forceL shaInit (fun h => blocksRun ks (m.length / 128) h m))).take 6).flatMap (fun w => beBytes 8 w.toNat)

theorem sha384_run (bs : List Byte) : sha384 bs = sha384Run bs := by
  simp only [sha384, sha384Run, forceL_eq, blocksRun_eq]

end Sys2Proof.Machine
end

