-- ==== Sys2Proof/Laws/State.lean ====
section
/-! SUPPORT. What each update of one part of the state leaves: one lemma per field per update, true by unfolding alone, and
one per update for the part it changes. -/

namespace Sys2Proof.Machine

open Sys2Proof

/-! ### `modCore` -/

@[simp] theorem modCore_u (s : State) (c : CoreId) (f : Core → Core) : (modCore s c f).u = s.u := rfl
@[simp] theorem modCore_cmd (s : State) (c : CoreId) (f : Core → Core) : (modCore s c f).cmd = s.cmd := rfl
@[simp] theorem modCore_fr (s : State) (c : CoreId) (f : Core → Core) : (modCore s c f).fr = s.fr := rfl
@[simp] theorem modCore_parts (s : State) (c : CoreId) (f : Core → Core) : (modCore s c f).parts = s.parts := rfl
@[simp] theorem modCore_cls (s : State) (c : CoreId) (f : Core → Core) : (modCore s c f).cls = s.cls := rfl
@[simp] theorem modCore_mov (s : State) (c : CoreId) (f : Core → Core) : (modCore s c f).mov = s.mov := rfl
@[simp] theorem modCore_eif (s : State) (c : CoreId) (f : Core → Core) : (modCore s c f).eif = s.eif := rfl
@[simp] theorem modCore_taps (s : State) (c : CoreId) (f : Core → Core) : (modCore s c f).taps = s.taps := rfl
@[simp] theorem modCore_mem (s : State) (c : CoreId) (f : Core → Core) : (modCore s c f).mem = s.mem := rfl
@[simp] theorem modCore_cnt (s : State) (c : CoreId) (f : Core → Core) : (modCore s c f).cnt = s.cnt := rfl
@[simp] theorem modCore_cntPar (s : State) (c : CoreId) (f : Core → Core) : (modCore s c f).cntPar = s.cntPar := rfl
@[simp] theorem modCore_xb (s : State) (c : CoreId) (f : Core → Core) : (modCore s c f).xb = s.xb := rfl
@[simp] theorem modCore_rmt (s : State) (c : CoreId) (f : Core → Core) : (modCore s c f).rmt = s.rmt := rfl
@[simp] theorem modCore_lnk (s : State) (c : CoreId) (f : Core → Core) : (modCore s c f).lnk = s.lnk := rfl
@[simp] theorem modCore_err (s : State) (c : CoreId) (f : Core → Core) : (modCore s c f).err = s.err := rfl
@[simp] theorem modCore_pwr (s : State) (c : CoreId) (f : Core → Core) : (modCore s c f).pwr = s.pwr := rfl
@[simp] theorem modCore_fuse (s : State) (c : CoreId) (f : Core → Core) : (modCore s c f).fuse = s.fuse := rfl
@[simp] theorem modCore_ld (s : State) (c : CoreId) (f : Core → Core) : (modCore s c f).ld = s.ld := rfl
@[simp] theorem modCore_bl (s : State) (c : CoreId) (f : Core → Core) : (modCore s c f).bl = s.bl := rfl
@[simp] theorem modCore_pins (s : State) (c : CoreId) (f : Core → Core) : (modCore s c f).pins = s.pins := rfl
@[simp] theorem modCore_hwf (s : State) (c : CoreId) (f : Core → Core) : (modCore s c f).hwf = s.hwf := rfl
@[simp] theorem modCore_tapSession (s : State) (c : CoreId) (f : Core → Core) : (modCore s c f).tapSession = s.tapSession := rfl
@[simp] theorem modCore_cad (s : State) (c : CoreId) (f : Core → Core) : (modCore s c f).cad = s.cad := rfl
@[simp] theorem modCore_fresh (s : State) (c : CoreId) (f : Core → Core) : (modCore s c f).fresh = s.fresh := rfl
@[simp] theorem modCore_pending (s : State) (c : CoreId) (f : Core → Core) : (modCore s c f).pending = s.pending := rfl

/-! ### `modCl` -/

@[simp] theorem modCl_u (s : State) (k : ClusterId) (f : Cluster → Cluster) : (modCl s k f).u = s.u := rfl
@[simp] theorem modCl_cmd (s : State) (k : ClusterId) (f : Cluster → Cluster) : (modCl s k f).cmd = s.cmd := rfl
@[simp] theorem modCl_fr (s : State) (k : ClusterId) (f : Cluster → Cluster) : (modCl s k f).fr = s.fr := rfl
@[simp] theorem modCl_parts (s : State) (k : ClusterId) (f : Cluster → Cluster) : (modCl s k f).parts = s.parts := rfl
@[simp] theorem modCl_cores (s : State) (k : ClusterId) (f : Cluster → Cluster) : (modCl s k f).cores = s.cores := rfl
@[simp] theorem modCl_mov (s : State) (k : ClusterId) (f : Cluster → Cluster) : (modCl s k f).mov = s.mov := rfl
@[simp] theorem modCl_eif (s : State) (k : ClusterId) (f : Cluster → Cluster) : (modCl s k f).eif = s.eif := rfl
@[simp] theorem modCl_taps (s : State) (k : ClusterId) (f : Cluster → Cluster) : (modCl s k f).taps = s.taps := rfl
@[simp] theorem modCl_mem (s : State) (k : ClusterId) (f : Cluster → Cluster) : (modCl s k f).mem = s.mem := rfl
@[simp] theorem modCl_cnt (s : State) (k : ClusterId) (f : Cluster → Cluster) : (modCl s k f).cnt = s.cnt := rfl
@[simp] theorem modCl_cntPar (s : State) (k : ClusterId) (f : Cluster → Cluster) : (modCl s k f).cntPar = s.cntPar := rfl
@[simp] theorem modCl_xb (s : State) (k : ClusterId) (f : Cluster → Cluster) : (modCl s k f).xb = s.xb := rfl
@[simp] theorem modCl_rmt (s : State) (k : ClusterId) (f : Cluster → Cluster) : (modCl s k f).rmt = s.rmt := rfl
@[simp] theorem modCl_lnk (s : State) (k : ClusterId) (f : Cluster → Cluster) : (modCl s k f).lnk = s.lnk := rfl
@[simp] theorem modCl_err (s : State) (k : ClusterId) (f : Cluster → Cluster) : (modCl s k f).err = s.err := rfl
@[simp] theorem modCl_pwr (s : State) (k : ClusterId) (f : Cluster → Cluster) : (modCl s k f).pwr = s.pwr := rfl
@[simp] theorem modCl_fuse (s : State) (k : ClusterId) (f : Cluster → Cluster) : (modCl s k f).fuse = s.fuse := rfl
@[simp] theorem modCl_ld (s : State) (k : ClusterId) (f : Cluster → Cluster) : (modCl s k f).ld = s.ld := rfl
@[simp] theorem modCl_bl (s : State) (k : ClusterId) (f : Cluster → Cluster) : (modCl s k f).bl = s.bl := rfl
@[simp] theorem modCl_pins (s : State) (k : ClusterId) (f : Cluster → Cluster) : (modCl s k f).pins = s.pins := rfl
@[simp] theorem modCl_hwf (s : State) (k : ClusterId) (f : Cluster → Cluster) : (modCl s k f).hwf = s.hwf := rfl
@[simp] theorem modCl_tapSession (s : State) (k : ClusterId) (f : Cluster → Cluster) : (modCl s k f).tapSession = s.tapSession := rfl
@[simp] theorem modCl_cad (s : State) (k : ClusterId) (f : Cluster → Cluster) : (modCl s k f).cad = s.cad := rfl
@[simp] theorem modCl_fresh (s : State) (k : ClusterId) (f : Cluster → Cluster) : (modCl s k f).fresh = s.fresh := rfl
@[simp] theorem modCl_pending (s : State) (k : ClusterId) (f : Cluster → Cluster) : (modCl s k f).pending = s.pending := rfl

/-! ### `modChan` -/

@[simp] theorem modChan_u (s : State) (h : ChanId) (f : Chan → Chan) : (modChan s h f).u = s.u := rfl
@[simp] theorem modChan_cmd (s : State) (h : ChanId) (f : Chan → Chan) : (modChan s h f).cmd = s.cmd := rfl
@[simp] theorem modChan_fr (s : State) (h : ChanId) (f : Chan → Chan) : (modChan s h f).fr = s.fr := rfl
@[simp] theorem modChan_parts (s : State) (h : ChanId) (f : Chan → Chan) : (modChan s h f).parts = s.parts := rfl
@[simp] theorem modChan_cores (s : State) (h : ChanId) (f : Chan → Chan) : (modChan s h f).cores = s.cores := rfl
@[simp] theorem modChan_cls (s : State) (h : ChanId) (f : Chan → Chan) : (modChan s h f).cls = s.cls := rfl
@[simp] theorem modChan_eif (s : State) (h : ChanId) (f : Chan → Chan) : (modChan s h f).eif = s.eif := rfl
@[simp] theorem modChan_taps (s : State) (h : ChanId) (f : Chan → Chan) : (modChan s h f).taps = s.taps := rfl
@[simp] theorem modChan_mem (s : State) (h : ChanId) (f : Chan → Chan) : (modChan s h f).mem = s.mem := rfl
@[simp] theorem modChan_cnt (s : State) (h : ChanId) (f : Chan → Chan) : (modChan s h f).cnt = s.cnt := rfl
@[simp] theorem modChan_cntPar (s : State) (h : ChanId) (f : Chan → Chan) : (modChan s h f).cntPar = s.cntPar := rfl
@[simp] theorem modChan_xb (s : State) (h : ChanId) (f : Chan → Chan) : (modChan s h f).xb = s.xb := rfl
@[simp] theorem modChan_rmt (s : State) (h : ChanId) (f : Chan → Chan) : (modChan s h f).rmt = s.rmt := rfl
@[simp] theorem modChan_lnk (s : State) (h : ChanId) (f : Chan → Chan) : (modChan s h f).lnk = s.lnk := rfl
@[simp] theorem modChan_err (s : State) (h : ChanId) (f : Chan → Chan) : (modChan s h f).err = s.err := rfl
@[simp] theorem modChan_pwr (s : State) (h : ChanId) (f : Chan → Chan) : (modChan s h f).pwr = s.pwr := rfl
@[simp] theorem modChan_fuse (s : State) (h : ChanId) (f : Chan → Chan) : (modChan s h f).fuse = s.fuse := rfl
@[simp] theorem modChan_ld (s : State) (h : ChanId) (f : Chan → Chan) : (modChan s h f).ld = s.ld := rfl
@[simp] theorem modChan_bl (s : State) (h : ChanId) (f : Chan → Chan) : (modChan s h f).bl = s.bl := rfl
@[simp] theorem modChan_pins (s : State) (h : ChanId) (f : Chan → Chan) : (modChan s h f).pins = s.pins := rfl
@[simp] theorem modChan_hwf (s : State) (h : ChanId) (f : Chan → Chan) : (modChan s h f).hwf = s.hwf := rfl
@[simp] theorem modChan_tapSession (s : State) (h : ChanId) (f : Chan → Chan) : (modChan s h f).tapSession = s.tapSession := rfl
@[simp] theorem modChan_cad (s : State) (h : ChanId) (f : Chan → Chan) : (modChan s h f).cad = s.cad := rfl
@[simp] theorem modChan_fresh (s : State) (h : ChanId) (f : Chan → Chan) : (modChan s h f).fresh = s.fresh := rfl
@[simp] theorem modChan_pending (s : State) (h : ChanId) (f : Chan → Chan) : (modChan s h f).pending = s.pending := rfl

/-! ### `modEa` -/

@[simp] theorem modEa_u (s : State) (a : EaId) (f : Attach → Attach) : (modEa s a f).u = s.u := rfl
@[simp] theorem modEa_cmd (s : State) (a : EaId) (f : Attach → Attach) : (modEa s a f).cmd = s.cmd := rfl
@[simp] theorem modEa_fr (s : State) (a : EaId) (f : Attach → Attach) : (modEa s a f).fr = s.fr := rfl
@[simp] theorem modEa_parts (s : State) (a : EaId) (f : Attach → Attach) : (modEa s a f).parts = s.parts := rfl
@[simp] theorem modEa_cores (s : State) (a : EaId) (f : Attach → Attach) : (modEa s a f).cores = s.cores := rfl
@[simp] theorem modEa_cls (s : State) (a : EaId) (f : Attach → Attach) : (modEa s a f).cls = s.cls := rfl
@[simp] theorem modEa_mov (s : State) (a : EaId) (f : Attach → Attach) : (modEa s a f).mov = s.mov := rfl
@[simp] theorem modEa_taps (s : State) (a : EaId) (f : Attach → Attach) : (modEa s a f).taps = s.taps := rfl
@[simp] theorem modEa_mem (s : State) (a : EaId) (f : Attach → Attach) : (modEa s a f).mem = s.mem := rfl
@[simp] theorem modEa_cnt (s : State) (a : EaId) (f : Attach → Attach) : (modEa s a f).cnt = s.cnt := rfl
@[simp] theorem modEa_cntPar (s : State) (a : EaId) (f : Attach → Attach) : (modEa s a f).cntPar = s.cntPar := rfl
@[simp] theorem modEa_xb (s : State) (a : EaId) (f : Attach → Attach) : (modEa s a f).xb = s.xb := rfl
@[simp] theorem modEa_rmt (s : State) (a : EaId) (f : Attach → Attach) : (modEa s a f).rmt = s.rmt := rfl
@[simp] theorem modEa_lnk (s : State) (a : EaId) (f : Attach → Attach) : (modEa s a f).lnk = s.lnk := rfl
@[simp] theorem modEa_err (s : State) (a : EaId) (f : Attach → Attach) : (modEa s a f).err = s.err := rfl
@[simp] theorem modEa_pwr (s : State) (a : EaId) (f : Attach → Attach) : (modEa s a f).pwr = s.pwr := rfl
@[simp] theorem modEa_fuse (s : State) (a : EaId) (f : Attach → Attach) : (modEa s a f).fuse = s.fuse := rfl
@[simp] theorem modEa_ld (s : State) (a : EaId) (f : Attach → Attach) : (modEa s a f).ld = s.ld := rfl
@[simp] theorem modEa_bl (s : State) (a : EaId) (f : Attach → Attach) : (modEa s a f).bl = s.bl := rfl
@[simp] theorem modEa_pins (s : State) (a : EaId) (f : Attach → Attach) : (modEa s a f).pins = s.pins := rfl
@[simp] theorem modEa_hwf (s : State) (a : EaId) (f : Attach → Attach) : (modEa s a f).hwf = s.hwf := rfl
@[simp] theorem modEa_tapSession (s : State) (a : EaId) (f : Attach → Attach) : (modEa s a f).tapSession = s.tapSession := rfl
@[simp] theorem modEa_cad (s : State) (a : EaId) (f : Attach → Attach) : (modEa s a f).cad = s.cad := rfl
@[simp] theorem modEa_fresh (s : State) (a : EaId) (f : Attach → Attach) : (modEa s a f).fresh = s.fresh := rfl
@[simp] theorem modEa_pending (s : State) (a : EaId) (f : Attach → Attach) : (modEa s a f).pending = s.pending := rfl

/-! ### `modTap` -/

@[simp] theorem modTap_u (s : State) (t : TapId) (f : Tap → Tap) : (modTap s t f).u = s.u := rfl
@[simp] theorem modTap_cmd (s : State) (t : TapId) (f : Tap → Tap) : (modTap s t f).cmd = s.cmd := rfl
@[simp] theorem modTap_fr (s : State) (t : TapId) (f : Tap → Tap) : (modTap s t f).fr = s.fr := rfl
@[simp] theorem modTap_parts (s : State) (t : TapId) (f : Tap → Tap) : (modTap s t f).parts = s.parts := rfl
@[simp] theorem modTap_cores (s : State) (t : TapId) (f : Tap → Tap) : (modTap s t f).cores = s.cores := rfl
@[simp] theorem modTap_cls (s : State) (t : TapId) (f : Tap → Tap) : (modTap s t f).cls = s.cls := rfl
@[simp] theorem modTap_mov (s : State) (t : TapId) (f : Tap → Tap) : (modTap s t f).mov = s.mov := rfl
@[simp] theorem modTap_eif (s : State) (t : TapId) (f : Tap → Tap) : (modTap s t f).eif = s.eif := rfl
@[simp] theorem modTap_mem (s : State) (t : TapId) (f : Tap → Tap) : (modTap s t f).mem = s.mem := rfl
@[simp] theorem modTap_cnt (s : State) (t : TapId) (f : Tap → Tap) : (modTap s t f).cnt = s.cnt := rfl
@[simp] theorem modTap_cntPar (s : State) (t : TapId) (f : Tap → Tap) : (modTap s t f).cntPar = s.cntPar := rfl
@[simp] theorem modTap_xb (s : State) (t : TapId) (f : Tap → Tap) : (modTap s t f).xb = s.xb := rfl
@[simp] theorem modTap_rmt (s : State) (t : TapId) (f : Tap → Tap) : (modTap s t f).rmt = s.rmt := rfl
@[simp] theorem modTap_lnk (s : State) (t : TapId) (f : Tap → Tap) : (modTap s t f).lnk = s.lnk := rfl
@[simp] theorem modTap_err (s : State) (t : TapId) (f : Tap → Tap) : (modTap s t f).err = s.err := rfl
@[simp] theorem modTap_pwr (s : State) (t : TapId) (f : Tap → Tap) : (modTap s t f).pwr = s.pwr := rfl
@[simp] theorem modTap_fuse (s : State) (t : TapId) (f : Tap → Tap) : (modTap s t f).fuse = s.fuse := rfl
@[simp] theorem modTap_ld (s : State) (t : TapId) (f : Tap → Tap) : (modTap s t f).ld = s.ld := rfl
@[simp] theorem modTap_bl (s : State) (t : TapId) (f : Tap → Tap) : (modTap s t f).bl = s.bl := rfl
@[simp] theorem modTap_pins (s : State) (t : TapId) (f : Tap → Tap) : (modTap s t f).pins = s.pins := rfl
@[simp] theorem modTap_hwf (s : State) (t : TapId) (f : Tap → Tap) : (modTap s t f).hwf = s.hwf := rfl
@[simp] theorem modTap_tapSession (s : State) (t : TapId) (f : Tap → Tap) : (modTap s t f).tapSession = s.tapSession := rfl
@[simp] theorem modTap_cad (s : State) (t : TapId) (f : Tap → Tap) : (modTap s t f).cad = s.cad := rfl
@[simp] theorem modTap_fresh (s : State) (t : TapId) (f : Tap → Tap) : (modTap s t f).fresh = s.fresh := rfl
@[simp] theorem modTap_pending (s : State) (t : TapId) (f : Tap → Tap) : (modTap s t f).pending = s.pending := rfl

/-! ### `modPart` -/

@[simp] theorem modPart_u (s : State) (p : Part) (f : PartSt → PartSt) : (modPart s p f).u = s.u := rfl
@[simp] theorem modPart_cmd (s : State) (p : Part) (f : PartSt → PartSt) : (modPart s p f).cmd = s.cmd := rfl
@[simp] theorem modPart_fr (s : State) (p : Part) (f : PartSt → PartSt) : (modPart s p f).fr = s.fr := rfl
@[simp] theorem modPart_cores (s : State) (p : Part) (f : PartSt → PartSt) : (modPart s p f).cores = s.cores := rfl
@[simp] theorem modPart_cls (s : State) (p : Part) (f : PartSt → PartSt) : (modPart s p f).cls = s.cls := rfl
@[simp] theorem modPart_mov (s : State) (p : Part) (f : PartSt → PartSt) : (modPart s p f).mov = s.mov := rfl
@[simp] theorem modPart_eif (s : State) (p : Part) (f : PartSt → PartSt) : (modPart s p f).eif = s.eif := rfl
@[simp] theorem modPart_taps (s : State) (p : Part) (f : PartSt → PartSt) : (modPart s p f).taps = s.taps := rfl
@[simp] theorem modPart_mem (s : State) (p : Part) (f : PartSt → PartSt) : (modPart s p f).mem = s.mem := rfl
@[simp] theorem modPart_cnt (s : State) (p : Part) (f : PartSt → PartSt) : (modPart s p f).cnt = s.cnt := rfl
@[simp] theorem modPart_cntPar (s : State) (p : Part) (f : PartSt → PartSt) : (modPart s p f).cntPar = s.cntPar := rfl
@[simp] theorem modPart_xb (s : State) (p : Part) (f : PartSt → PartSt) : (modPart s p f).xb = s.xb := rfl
@[simp] theorem modPart_rmt (s : State) (p : Part) (f : PartSt → PartSt) : (modPart s p f).rmt = s.rmt := rfl
@[simp] theorem modPart_lnk (s : State) (p : Part) (f : PartSt → PartSt) : (modPart s p f).lnk = s.lnk := rfl
@[simp] theorem modPart_err (s : State) (p : Part) (f : PartSt → PartSt) : (modPart s p f).err = s.err := rfl
@[simp] theorem modPart_pwr (s : State) (p : Part) (f : PartSt → PartSt) : (modPart s p f).pwr = s.pwr := rfl
@[simp] theorem modPart_fuse (s : State) (p : Part) (f : PartSt → PartSt) : (modPart s p f).fuse = s.fuse := rfl
@[simp] theorem modPart_ld (s : State) (p : Part) (f : PartSt → PartSt) : (modPart s p f).ld = s.ld := rfl
@[simp] theorem modPart_bl (s : State) (p : Part) (f : PartSt → PartSt) : (modPart s p f).bl = s.bl := rfl
@[simp] theorem modPart_pins (s : State) (p : Part) (f : PartSt → PartSt) : (modPart s p f).pins = s.pins := rfl
@[simp] theorem modPart_hwf (s : State) (p : Part) (f : PartSt → PartSt) : (modPart s p f).hwf = s.hwf := rfl
@[simp] theorem modPart_tapSession (s : State) (p : Part) (f : PartSt → PartSt) : (modPart s p f).tapSession = s.tapSession := rfl
@[simp] theorem modPart_cad (s : State) (p : Part) (f : PartSt → PartSt) : (modPart s p f).cad = s.cad := rfl
@[simp] theorem modPart_fresh (s : State) (p : Part) (f : PartSt → PartSt) : (modPart s p f).fresh = s.fresh := rfl
@[simp] theorem modPart_pending (s : State) (p : Part) (f : PartSt → PartSt) : (modPart s p f).pending = s.pending := rfl

/-! ### `modStream` -/

@[simp] theorem modStream_u (s : State) (t : StreamId) (f : Stream → Stream) : (modStream s t f).u = s.u := rfl
@[simp] theorem modStream_cmd (s : State) (t : StreamId) (f : Stream → Stream) : (modStream s t f).cmd = s.cmd := rfl
@[simp] theorem modStream_fr (s : State) (t : StreamId) (f : Stream → Stream) : (modStream s t f).fr = s.fr := rfl
@[simp] theorem modStream_parts (s : State) (t : StreamId) (f : Stream → Stream) : (modStream s t f).parts = s.parts := rfl
@[simp] theorem modStream_cores (s : State) (t : StreamId) (f : Stream → Stream) : (modStream s t f).cores = s.cores := rfl
@[simp] theorem modStream_cls (s : State) (t : StreamId) (f : Stream → Stream) : (modStream s t f).cls = s.cls := rfl
@[simp] theorem modStream_mov (s : State) (t : StreamId) (f : Stream → Stream) : (modStream s t f).mov = s.mov := rfl
@[simp] theorem modStream_eif (s : State) (t : StreamId) (f : Stream → Stream) : (modStream s t f).eif = s.eif := rfl
@[simp] theorem modStream_taps (s : State) (t : StreamId) (f : Stream → Stream) : (modStream s t f).taps = s.taps := rfl
@[simp] theorem modStream_mem (s : State) (t : StreamId) (f : Stream → Stream) : (modStream s t f).mem = s.mem := rfl
@[simp] theorem modStream_cnt (s : State) (t : StreamId) (f : Stream → Stream) : (modStream s t f).cnt = s.cnt := rfl
@[simp] theorem modStream_cntPar (s : State) (t : StreamId) (f : Stream → Stream) : (modStream s t f).cntPar = s.cntPar := rfl
@[simp] theorem modStream_xb (s : State) (t : StreamId) (f : Stream → Stream) : (modStream s t f).xb = s.xb := rfl
@[simp] theorem modStream_lnk (s : State) (t : StreamId) (f : Stream → Stream) : (modStream s t f).lnk = s.lnk := rfl
@[simp] theorem modStream_err (s : State) (t : StreamId) (f : Stream → Stream) : (modStream s t f).err = s.err := rfl
@[simp] theorem modStream_pwr (s : State) (t : StreamId) (f : Stream → Stream) : (modStream s t f).pwr = s.pwr := rfl
@[simp] theorem modStream_fuse (s : State) (t : StreamId) (f : Stream → Stream) : (modStream s t f).fuse = s.fuse := rfl
@[simp] theorem modStream_ld (s : State) (t : StreamId) (f : Stream → Stream) : (modStream s t f).ld = s.ld := rfl
@[simp] theorem modStream_bl (s : State) (t : StreamId) (f : Stream → Stream) : (modStream s t f).bl = s.bl := rfl
@[simp] theorem modStream_pins (s : State) (t : StreamId) (f : Stream → Stream) : (modStream s t f).pins = s.pins := rfl
@[simp] theorem modStream_hwf (s : State) (t : StreamId) (f : Stream → Stream) : (modStream s t f).hwf = s.hwf := rfl
@[simp] theorem modStream_tapSession (s : State) (t : StreamId) (f : Stream → Stream) : (modStream s t f).tapSession = s.tapSession := rfl
@[simp] theorem modStream_cad (s : State) (t : StreamId) (f : Stream → Stream) : (modStream s t f).cad = s.cad := rfl
@[simp] theorem modStream_fresh (s : State) (t : StreamId) (f : Stream → Stream) : (modStream s t f).fresh = s.fresh := rfl
@[simp] theorem modStream_pending (s : State) (t : StreamId) (f : Stream → Stream) : (modStream s t f).pending = s.pending := rfl

/-! ### `modDom` -/

@[simp] theorem modDom_u (s : State) (d : DomId) (f : Dom → Dom) : (modDom s d f).u = s.u := rfl
@[simp] theorem modDom_cmd (s : State) (d : DomId) (f : Dom → Dom) : (modDom s d f).cmd = s.cmd := rfl
@[simp] theorem modDom_fr (s : State) (d : DomId) (f : Dom → Dom) : (modDom s d f).fr = s.fr := rfl
@[simp] theorem modDom_parts (s : State) (d : DomId) (f : Dom → Dom) : (modDom s d f).parts = s.parts := rfl
@[simp] theorem modDom_cores (s : State) (d : DomId) (f : Dom → Dom) : (modDom s d f).cores = s.cores := rfl
@[simp] theorem modDom_cls (s : State) (d : DomId) (f : Dom → Dom) : (modDom s d f).cls = s.cls := rfl
@[simp] theorem modDom_mov (s : State) (d : DomId) (f : Dom → Dom) : (modDom s d f).mov = s.mov := rfl
@[simp] theorem modDom_eif (s : State) (d : DomId) (f : Dom → Dom) : (modDom s d f).eif = s.eif := rfl
@[simp] theorem modDom_taps (s : State) (d : DomId) (f : Dom → Dom) : (modDom s d f).taps = s.taps := rfl
@[simp] theorem modDom_mem (s : State) (d : DomId) (f : Dom → Dom) : (modDom s d f).mem = s.mem := rfl
@[simp] theorem modDom_cnt (s : State) (d : DomId) (f : Dom → Dom) : (modDom s d f).cnt = s.cnt := rfl
@[simp] theorem modDom_cntPar (s : State) (d : DomId) (f : Dom → Dom) : (modDom s d f).cntPar = s.cntPar := rfl
@[simp] theorem modDom_xb (s : State) (d : DomId) (f : Dom → Dom) : (modDom s d f).xb = s.xb := rfl
@[simp] theorem modDom_rmt (s : State) (d : DomId) (f : Dom → Dom) : (modDom s d f).rmt = s.rmt := rfl
@[simp] theorem modDom_lnk (s : State) (d : DomId) (f : Dom → Dom) : (modDom s d f).lnk = s.lnk := rfl
@[simp] theorem modDom_err (s : State) (d : DomId) (f : Dom → Dom) : (modDom s d f).err = s.err := rfl
@[simp] theorem modDom_fuse (s : State) (d : DomId) (f : Dom → Dom) : (modDom s d f).fuse = s.fuse := rfl
@[simp] theorem modDom_ld (s : State) (d : DomId) (f : Dom → Dom) : (modDom s d f).ld = s.ld := rfl
@[simp] theorem modDom_bl (s : State) (d : DomId) (f : Dom → Dom) : (modDom s d f).bl = s.bl := rfl
@[simp] theorem modDom_pins (s : State) (d : DomId) (f : Dom → Dom) : (modDom s d f).pins = s.pins := rfl
@[simp] theorem modDom_hwf (s : State) (d : DomId) (f : Dom → Dom) : (modDom s d f).hwf = s.hwf := rfl
@[simp] theorem modDom_tapSession (s : State) (d : DomId) (f : Dom → Dom) : (modDom s d f).tapSession = s.tapSession := rfl
@[simp] theorem modDom_cad (s : State) (d : DomId) (f : Dom → Dom) : (modDom s d f).cad = s.cad := rfl
@[simp] theorem modDom_fresh (s : State) (d : DomId) (f : Dom → Dom) : (modDom s d f).fresh = s.fresh := rfl
@[simp] theorem modDom_pending (s : State) (d : DomId) (f : Dom → Dom) : (modDom s d f).pending = s.pending := rfl

/-! ### `raiseEvt` -/

@[simp] theorem raiseEvt_cmd (s : State) (e : Evt) : (raiseEvt s e).cmd = s.cmd := rfl
@[simp] theorem raiseEvt_fr (s : State) (e : Evt) : (raiseEvt s e).fr = s.fr := rfl
@[simp] theorem raiseEvt_parts (s : State) (e : Evt) : (raiseEvt s e).parts = s.parts := rfl
@[simp] theorem raiseEvt_cores (s : State) (e : Evt) : (raiseEvt s e).cores = s.cores := rfl
@[simp] theorem raiseEvt_cls (s : State) (e : Evt) : (raiseEvt s e).cls = s.cls := rfl
@[simp] theorem raiseEvt_mov (s : State) (e : Evt) : (raiseEvt s e).mov = s.mov := rfl
@[simp] theorem raiseEvt_eif (s : State) (e : Evt) : (raiseEvt s e).eif = s.eif := rfl
@[simp] theorem raiseEvt_taps (s : State) (e : Evt) : (raiseEvt s e).taps = s.taps := rfl
@[simp] theorem raiseEvt_mem (s : State) (e : Evt) : (raiseEvt s e).mem = s.mem := rfl
@[simp] theorem raiseEvt_cnt (s : State) (e : Evt) : (raiseEvt s e).cnt = s.cnt := rfl
@[simp] theorem raiseEvt_cntPar (s : State) (e : Evt) : (raiseEvt s e).cntPar = s.cntPar := rfl
@[simp] theorem raiseEvt_xb (s : State) (e : Evt) : (raiseEvt s e).xb = s.xb := rfl
@[simp] theorem raiseEvt_rmt (s : State) (e : Evt) : (raiseEvt s e).rmt = s.rmt := rfl
@[simp] theorem raiseEvt_lnk (s : State) (e : Evt) : (raiseEvt s e).lnk = s.lnk := rfl
@[simp] theorem raiseEvt_err (s : State) (e : Evt) : (raiseEvt s e).err = s.err := rfl
@[simp] theorem raiseEvt_pwr (s : State) (e : Evt) : (raiseEvt s e).pwr = s.pwr := rfl
@[simp] theorem raiseEvt_fuse (s : State) (e : Evt) : (raiseEvt s e).fuse = s.fuse := rfl
@[simp] theorem raiseEvt_ld (s : State) (e : Evt) : (raiseEvt s e).ld = s.ld := rfl
@[simp] theorem raiseEvt_bl (s : State) (e : Evt) : (raiseEvt s e).bl = s.bl := rfl
@[simp] theorem raiseEvt_pins (s : State) (e : Evt) : (raiseEvt s e).pins = s.pins := rfl
@[simp] theorem raiseEvt_hwf (s : State) (e : Evt) : (raiseEvt s e).hwf = s.hwf := rfl
@[simp] theorem raiseEvt_tapSession (s : State) (e : Evt) : (raiseEvt s e).tapSession = s.tapSession := rfl
@[simp] theorem raiseEvt_cad (s : State) (e : Evt) : (raiseEvt s e).cad = s.cad := rfl
@[simp] theorem raiseEvt_fresh (s : State) (e : Evt) : (raiseEvt s e).fresh = s.fresh := rfl
@[simp] theorem raiseEvt_pending (s : State) (e : Evt) : (raiseEvt s e).pending = s.pending := rfl

/-! ### `countEv` -/

@[simp] theorem countEv_u (s : State) (e : PwrEv) (n : Nat) : (countEv s e n).u = s.u := rfl
@[simp] theorem countEv_cmd (s : State) (e : PwrEv) (n : Nat) : (countEv s e n).cmd = s.cmd := rfl
@[simp] theorem countEv_fr (s : State) (e : PwrEv) (n : Nat) : (countEv s e n).fr = s.fr := rfl
@[simp] theorem countEv_parts (s : State) (e : PwrEv) (n : Nat) : (countEv s e n).parts = s.parts := rfl
@[simp] theorem countEv_cores (s : State) (e : PwrEv) (n : Nat) : (countEv s e n).cores = s.cores := rfl
@[simp] theorem countEv_cls (s : State) (e : PwrEv) (n : Nat) : (countEv s e n).cls = s.cls := rfl
@[simp] theorem countEv_mov (s : State) (e : PwrEv) (n : Nat) : (countEv s e n).mov = s.mov := rfl
@[simp] theorem countEv_eif (s : State) (e : PwrEv) (n : Nat) : (countEv s e n).eif = s.eif := rfl
@[simp] theorem countEv_taps (s : State) (e : PwrEv) (n : Nat) : (countEv s e n).taps = s.taps := rfl
@[simp] theorem countEv_mem (s : State) (e : PwrEv) (n : Nat) : (countEv s e n).mem = s.mem := rfl
@[simp] theorem countEv_cnt (s : State) (e : PwrEv) (n : Nat) : (countEv s e n).cnt = s.cnt := rfl
@[simp] theorem countEv_cntPar (s : State) (e : PwrEv) (n : Nat) : (countEv s e n).cntPar = s.cntPar := rfl
@[simp] theorem countEv_xb (s : State) (e : PwrEv) (n : Nat) : (countEv s e n).xb = s.xb := rfl
@[simp] theorem countEv_rmt (s : State) (e : PwrEv) (n : Nat) : (countEv s e n).rmt = s.rmt := rfl
@[simp] theorem countEv_lnk (s : State) (e : PwrEv) (n : Nat) : (countEv s e n).lnk = s.lnk := rfl
@[simp] theorem countEv_err (s : State) (e : PwrEv) (n : Nat) : (countEv s e n).err = s.err := rfl
@[simp] theorem countEv_fuse (s : State) (e : PwrEv) (n : Nat) : (countEv s e n).fuse = s.fuse := rfl
@[simp] theorem countEv_ld (s : State) (e : PwrEv) (n : Nat) : (countEv s e n).ld = s.ld := rfl
@[simp] theorem countEv_bl (s : State) (e : PwrEv) (n : Nat) : (countEv s e n).bl = s.bl := rfl
@[simp] theorem countEv_pins (s : State) (e : PwrEv) (n : Nat) : (countEv s e n).pins = s.pins := rfl
@[simp] theorem countEv_hwf (s : State) (e : PwrEv) (n : Nat) : (countEv s e n).hwf = s.hwf := rfl
@[simp] theorem countEv_tapSession (s : State) (e : PwrEv) (n : Nat) : (countEv s e n).tapSession = s.tapSession := rfl
@[simp] theorem countEv_cad (s : State) (e : PwrEv) (n : Nat) : (countEv s e n).cad = s.cad := rfl
@[simp] theorem countEv_fresh (s : State) (e : PwrEv) (n : Nat) : (countEv s e n).fresh = s.fresh := rfl
@[simp] theorem countEv_pending (s : State) (e : PwrEv) (n : Nat) : (countEv s e n).pending = s.pending := rfl

/-! ### `setCtr` -/

@[simp] theorem setCtr_u (s : State) (c : Ctr) (x : Counter) : (setCtr s c x).u = s.u := rfl
@[simp] theorem setCtr_cmd (s : State) (c : Ctr) (x : Counter) : (setCtr s c x).cmd = s.cmd := rfl
@[simp] theorem setCtr_fr (s : State) (c : Ctr) (x : Counter) : (setCtr s c x).fr = s.fr := rfl
@[simp] theorem setCtr_parts (s : State) (c : Ctr) (x : Counter) : (setCtr s c x).parts = s.parts := rfl
@[simp] theorem setCtr_cores (s : State) (c : Ctr) (x : Counter) : (setCtr s c x).cores = s.cores := rfl
@[simp] theorem setCtr_cls (s : State) (c : Ctr) (x : Counter) : (setCtr s c x).cls = s.cls := rfl
@[simp] theorem setCtr_mov (s : State) (c : Ctr) (x : Counter) : (setCtr s c x).mov = s.mov := rfl
@[simp] theorem setCtr_eif (s : State) (c : Ctr) (x : Counter) : (setCtr s c x).eif = s.eif := rfl
@[simp] theorem setCtr_taps (s : State) (c : Ctr) (x : Counter) : (setCtr s c x).taps = s.taps := rfl
@[simp] theorem setCtr_mem (s : State) (c : Ctr) (x : Counter) : (setCtr s c x).mem = s.mem := rfl
@[simp] theorem setCtr_cntPar (s : State) (c : Ctr) (x : Counter) : (setCtr s c x).cntPar = s.cntPar := rfl
@[simp] theorem setCtr_xb (s : State) (c : Ctr) (x : Counter) : (setCtr s c x).xb = s.xb := rfl
@[simp] theorem setCtr_rmt (s : State) (c : Ctr) (x : Counter) : (setCtr s c x).rmt = s.rmt := rfl
@[simp] theorem setCtr_lnk (s : State) (c : Ctr) (x : Counter) : (setCtr s c x).lnk = s.lnk := rfl
@[simp] theorem setCtr_err (s : State) (c : Ctr) (x : Counter) : (setCtr s c x).err = s.err := rfl
@[simp] theorem setCtr_pwr (s : State) (c : Ctr) (x : Counter) : (setCtr s c x).pwr = s.pwr := rfl
@[simp] theorem setCtr_fuse (s : State) (c : Ctr) (x : Counter) : (setCtr s c x).fuse = s.fuse := rfl
@[simp] theorem setCtr_ld (s : State) (c : Ctr) (x : Counter) : (setCtr s c x).ld = s.ld := rfl
@[simp] theorem setCtr_bl (s : State) (c : Ctr) (x : Counter) : (setCtr s c x).bl = s.bl := rfl
@[simp] theorem setCtr_pins (s : State) (c : Ctr) (x : Counter) : (setCtr s c x).pins = s.pins := rfl
@[simp] theorem setCtr_hwf (s : State) (c : Ctr) (x : Counter) : (setCtr s c x).hwf = s.hwf := rfl
@[simp] theorem setCtr_tapSession (s : State) (c : Ctr) (x : Counter) : (setCtr s c x).tapSession = s.tapSession := rfl
@[simp] theorem setCtr_cad (s : State) (c : Ctr) (x : Counter) : (setCtr s c x).cad = s.cad := rfl
@[simp] theorem setCtr_fresh (s : State) (c : Ctr) (x : Counter) : (setCtr s c x).fresh = s.fresh := rfl
@[simp] theorem setCtr_pending (s : State) (c : Ctr) (x : Counter) : (setCtr s c x).pending = s.pending := rfl

/-! ### The part an update changes, and the others beside it -/

/-- The part `modCore` changes, by its number. -/
@[simp] theorem modCore_at (s : State) (c : CoreId) (f : Core → Core) : (modCore s c f).cores[c.val] = f s.cores[c.val] := by simp [modCore]
/-- The part `modCore` changes. -/
theorem modCore_self (s : State) (c : CoreId) (f : Core → Core) : (modCore s c f).cores[c] = f s.cores[c] := by
  simp [modCore]
/-- Every other part stays. -/
theorem modCore_other (s : State) (c : CoreId) (f : Core → Core) (j : CoreId) (h : j ≠ c) : (modCore s c f).cores[j] = s.cores[j] := by
  have h' : c.val ≠ j.val := fun e => h (Fin.ext e.symm)
  simp [modCore, h']

/-- The part `modCl` changes, by its number. -/
@[simp] theorem modCl_at (s : State) (k : ClusterId) (f : Cluster → Cluster) : (modCl s k f).cls[k.val] = f s.cls[k.val] := by simp [modCl]
/-- The part `modCl` changes. -/
theorem modCl_self (s : State) (k : ClusterId) (f : Cluster → Cluster) : (modCl s k f).cls[k] = f s.cls[k] := by
  simp [modCl]
/-- Every other part stays. -/
theorem modCl_other (s : State) (k : ClusterId) (f : Cluster → Cluster) (j : ClusterId) (h : j ≠ k) : (modCl s k f).cls[j] = s.cls[j] := by
  have h' : k.val ≠ j.val := fun e => h (Fin.ext e.symm)
  simp [modCl, h']

/-- The part `modChan` changes, by its number. -/
@[simp] theorem modChan_at (s : State) (h : ChanId) (f : Chan → Chan) : (modChan s h f).mov.chans[h.val] = f s.mov.chans[h.val] := by simp [modChan]
/-- The part `modChan` changes. -/
theorem modChan_self (s : State) (h : ChanId) (f : Chan → Chan) : (modChan s h f).mov.chans[h] = f s.mov.chans[h] := by
  simp [modChan]
/-- Every other part stays. -/
theorem modChan_other (s : State) (h : ChanId) (f : Chan → Chan) (j : ChanId) (hj : j ≠ h) : (modChan s h f).mov.chans[j] = s.mov.chans[j] := by
  have h' : h.val ≠ j.val := fun e => hj (Fin.ext e.symm)
  simp [modChan, h']

/-- The part `modEa` changes, by its number. -/
@[simp] theorem modEa_at (s : State) (a : EaId) (f : Attach → Attach) : (modEa s a f).eif[a.val] = f s.eif[a.val] := by simp [modEa]
/-- The part `modEa` changes. -/
theorem modEa_self (s : State) (a : EaId) (f : Attach → Attach) : (modEa s a f).eif[a] = f s.eif[a] := by
  simp [modEa]
/-- Every other part stays. -/
theorem modEa_other (s : State) (a : EaId) (f : Attach → Attach) (j : EaId) (h : j ≠ a) : (modEa s a f).eif[j] = s.eif[j] := by
  have h' : a.val ≠ j.val := fun e => h (Fin.ext e.symm)
  simp [modEa, h']

/-- The part `modTap` changes, by its number. -/
@[simp] theorem modTap_at (s : State) (t : TapId) (f : Tap → Tap) : (modTap s t f).taps[t.val] = f s.taps[t.val] := by simp [modTap]
/-- The part `modTap` changes. -/
theorem modTap_self (s : State) (t : TapId) (f : Tap → Tap) : (modTap s t f).taps[t] = f s.taps[t] := by
  simp [modTap]
/-- Every other part stays. -/
theorem modTap_other (s : State) (t : TapId) (f : Tap → Tap) (j : TapId) (h : j ≠ t) : (modTap s t f).taps[j] = s.taps[j] := by
  have h' : t.val ≠ j.val := fun e => h (Fin.ext e.symm)
  simp [modTap, h']

/-- The part `modPart` changes, by its number. -/
@[simp] theorem modPart_at (s : State) (p : Part) (f : PartSt → PartSt) : (modPart s p f).parts[p.val] = f s.parts[p.val] := by simp [modPart]
/-- The part `modPart` changes. -/
theorem modPart_self (s : State) (p : Part) (f : PartSt → PartSt) : (modPart s p f).parts[p] = f s.parts[p] := by
  simp [modPart]
/-- Every other part stays. -/
theorem modPart_other (s : State) (p : Part) (f : PartSt → PartSt) (j : Part) (h : j ≠ p) : (modPart s p f).parts[j] = s.parts[j] := by
  have h' : p.val ≠ j.val := fun e => h (Fin.ext e.symm)
  simp [modPart, h']

/-- The part `modStream` changes, by its number. -/
@[simp] theorem modStream_at (s : State) (t : StreamId) (f : Stream → Stream) : (modStream s t f).rmt.streams[t.val] = f s.rmt.streams[t.val] := by simp [modStream]
/-- The part `modStream` changes. -/
theorem modStream_self (s : State) (t : StreamId) (f : Stream → Stream) : (modStream s t f).rmt.streams[t] = f s.rmt.streams[t] := by
  simp [modStream]
/-- Every other part stays. -/
theorem modStream_other (s : State) (t : StreamId) (f : Stream → Stream) (j : StreamId) (h : j ≠ t) : (modStream s t f).rmt.streams[j] = s.rmt.streams[j] := by
  have h' : t.val ≠ j.val := fun e => h (Fin.ext e.symm)
  simp [modStream, h']

/-- The part `modDom` changes, by its number. -/
@[simp] theorem modDom_at (s : State) (d : DomId) (f : Dom → Dom) : (modDom s d f).pwr.dom[d.val] = f s.pwr.dom[d.val] := by simp [modDom]
/-- The part `modDom` changes. -/
theorem modDom_self (s : State) (d : DomId) (f : Dom → Dom) : (modDom s d f).pwr.dom[d] = f s.pwr.dom[d] := by
  simp [modDom]
/-- Every other part stays. -/
theorem modDom_other (s : State) (d : DomId) (f : Dom → Dom) (j : DomId) (h : j ≠ d) : (modDom s d f).pwr.dom[j] = s.pwr.dom[j] := by
  have h' : d.val ≠ j.val := fun e => h (Fin.ext e.symm)
  simp [modDom, h']

theorem modChan_rest (s : State) (h : ChanId) (f : Chan → Chan) : (modChan s h f).mov = { s.mov with chans := (modChan s h f).mov.chans } := rfl
theorem modStream_rest (s : State) (t : StreamId) (f : Stream → Stream) : (modStream s t f).rmt = { s.rmt with streams := (modStream s t f).rmt.streams } := rfl
theorem modDom_rest (s : State) (d : DomId) (f : Dom → Dom) : (modDom s d f).pwr = { s.pwr with dom := (modDom s d f).pwr.dom } := rfl

@[simp] theorem raiseEvt_state (s : State) (e : Evt) : (raiseEvt s e).u.state = s.u.state := rfl
@[simp] theorem raiseEvt_evtStat (s : State) (e : Evt) :
    (raiseEvt s e).u.evtStat = s.u.evtStat ||| (1#18 <<< e.bit) := rfl
@[simp] theorem countEv_dom (s : State) (e : PwrEv) (n : Nat) : (countEv s e n).pwr.dom = s.pwr.dom := rfl

end Sys2Proof.Machine
end

