-- ==== Sys2Proof/Laws/Issue.lean ====
section
/-! SUPPORT. Issue of a core instruction: what `touchDom`, `progress`, `retire` and `issue` can do, said once. -/

namespace Sys2Proof.Machine

theorem OnlyWoken.refl (s : State) : OnlyWoken s s := ⟨rfl, fun _ => .inl rfl⟩

theorem OnlyWoken.trans {s t u : State} (h : OnlyWoken s t) (k : OnlyWoken t u) : OnlyWoken s u := by
  obtain ⟨h1, h2⟩ := h
  obtain ⟨k1, k2⟩ := k
  refine ⟨by rw [k1, h1], fun d => ?_⟩
  rcases h2 d with h | ⟨h, h'⟩ <;> rcases k2 d with k | ⟨k, k'⟩
  · left; rw [k, h]
  · right; rw [k', h]; rw [h] at k; exact ⟨k, rfl⟩
  · right; rw [k]; exact ⟨h, h'⟩
  · rw [h'] at k; simp at k

/-- An access changes the power block alone. -/
theorem touchDom_eq (s : State) (d : DomId) : touchDom s d = { s with pwr := (touchDom s d).pwr } := by
  unfold touchDom; split <;> rfl

/-- An access wakes a domain in GATED and nothing else. -/
theorem touchDom_woken (s : State) (d : DomId) : OnlyWoken s (touchDom s d) := by
  unfold touchDom
  split
  · rename_i h
    refine ⟨rfl, fun e => ?_⟩
    by_cases he : e = d
    · subst he; right; exact ⟨h.1, by rw [modDom_self]⟩
    · left; exact modDom_other s d _ e he
  · exact .refl s

/-- The work of an agent changes the power block alone. -/
theorem touchAg_eq (s : State) (ag : Agent) : touchAg s ag = { s with pwr := (touchAg s ag).pwr } := by
  cases ag with
  | core c =>
    have e1 := touchDom_eq s ⟨3 + c.val / 4, by omega⟩
    have e2 := touchDom_eq (touchDom s ⟨3 + c.val / 4, by omega⟩) ⟨7 + c.val / 4, by omega⟩
    simp only [touchAg]
    rw [e2]
    congr 1 <;> rw [e1]
  | chan h => exact touchDom_eq s 2
  | ea a => exact touchDom_eq s 23

/-- The work of an agent wakes its domains and nothing else. -/
theorem touchAg_woken (s : State) (ag : Agent) : OnlyWoken s (touchAg s ag) := by
  cases ag with
  | core c => exact (touchDom_woken s _).trans (touchDom_woken _ _)
  | chan h => exact touchDom_woken s 2
  | ea a => exact touchDom_woken s 23

/-- Progress of a core changes its agent part and wakes domains. -/
theorem progress_core (s : State) (c : CoreId) :
    OnlyCore c s (progress s (.core c)) ∧
      (progress s (.core c)).cores[c] = { s.cores[c] with ag := { s.cores[c].ag with progressed := true, wait := none } } := by
  unfold progress
  have e := touchAg_eq (modAg s (.core c) fun g => { g with progressed := true, wait := none }) (.core c)
  have hc : (touchAg (modAg s (.core c) fun g => { g with progressed := true, wait := none }) (.core c)).cores
      = (modAg s (.core c) fun g => { g with progressed := true, wait := none }).cores := by rw [e]
  refine ⟨⟨?_, ?_, ?_⟩, ?_⟩
  · rw [e]; rfl
  · intro k hk; rw [hc]; exact modCore_other s c _ k hk
  · exact touchAg_woken (modAg s (.core c) fun g => { g with progressed := true, wait := none }) (.core c)
  · rw [hc]; exact modCore_self s c _

/-- What `OnlyCore` says survives a change of the core before it. -/
theorem OnlyCore.before {s t : State} {c : CoreId} {f : Core → Core} (h : OnlyCore c (modCore s c f) t) : OnlyCore c s t := by
  obtain ⟨h1, h2, h3⟩ := h
  exact ⟨by rw [h1]; rfl, fun k hk => by rw [h2 k hk, modCore_other s c f k hk], h3⟩

/-- An instruction that changes its core by `f` and issues. -/
theorem retire_modCore (s : State) (c : CoreId) (f : Core → Core) (hlt : s.cores[c].pc < 2048)
    (hpc : (f s.cores[c]).pc = s.cores[c].pc) (hag : (f s.cores[c]).ag = s.cores[c].ag) :
    IssuedAs c s (retire (modCore s c f) c 1) (f s.cores[c]) := by
  have p := progress_core (modCore (modCore s c f) c fun x => { x with pc := min 2048 (x.pc + 1) }) c
  refine ⟨p.1.before.before, ?_⟩
  unfold retire
  rw [p.2, modCore_self, modCore_self]
  simp only [issued, hpc, hag]
  congr 1
  omega

/-- An instruction that changes nothing of its core and issues. -/
theorem retire_same (s : State) (c : CoreId) (hlt : s.cores[c].pc < 2048) : IssuedAs c s (retire s c 1) s.cores[c] := by
  have p := progress_core (modCore s c fun x => { x with pc := min 2048 (x.pc + 1) }) c
  refine ⟨p.1.before, ?_⟩
  unfold retire
  rw [p.2, modCore_self]
  simp only [issued]
  congr 1
  omega

/-- Work that presents no further access waits for no window. -/
theorem outside_fewer {s t : State} (h : t.xb.reqs.length ≤ s.xb.reqs.length) : outside s t = t := by
  simp [outside, List.drop_eq_nil_of_le h]

/-- Work that leaves the crossbar alone waits for no window. -/
theorem outside_same {s t : State} (h : t.xb = s.xb) : outside s t = t := outside_fewer (by rw [h])

/-- Outside the reserved windows nothing waits for one. -/
theorem outside_open {s : State} (h : anyWindow s = false) (t : State) : outside s t = t := by simp [outside, h]

/-- What a master does waits, or happens. -/
theorem outside_cases (s t : State) : outside s t = s ∨ outside s t = t := by
  unfold outside; split
  · exact .inl rfl
  · exact .inr rfl

/-- Nothing of a ready core holds an instruction up. -/
theorem clear_ready {s : State} {c : CoreId} (h : Ready s c) (n : Needs) : clear s c n = true := by
  unfold clear; rw [h.2.2]; rfl

/-- A core that may issue does what the instruction does, once no window excludes an access of it. -/
theorem issue_outside {s : State} {c : CoreId} (h : Ready s c) (n : Needs) (f : State → State) :
    issue s c n f = outside s (f s) := by
  simp only [issue, h.1, clear_ready h, Bool.and_self, if_true, Nat.not_le.mpr h.2.1, if_false]

/-- A core that may issue runs an effect that presents no access. -/
theorem issue_ready {s : State} {c : CoreId} (h : Ready s c) (n : Needs) {f : State → State} (hx : (f s).xb = s.xb) :
    issue s c n f = f s := by rw [issue_outside h, outside_same hx]

/-- A core that may issue runs an effect that presents no further access. -/
theorem issue_fewer {s : State} {c : CoreId} (h : Ready s c) (n : Needs) {f : State → State}
    (hx : (f s).xb.reqs.length ≤ s.xb.reqs.length) : issue s c n f = f s := by rw [issue_outside h, outside_fewer hx]

/-- Outside the reserved windows, a core that may issue runs any effect. -/
theorem issue_open {s : State} {c : CoreId} (h : Ready s c) (n : Needs) (f : State → State) (hw : anyWindow s = false) :
    issue s c n f = f s := by rw [issue_outside h, outside_open hw]

/-- A core that may not issue changes nothing. -/
theorem issue_blocked {s : State} {c : CoreId} (h : canIssue s c = false) (n : Needs) (f : State → State) : issue s c n f = s := by
  simp [issue, h]

/-- An instruction waits, runs past the instruction memory, or has its effect. -/
theorem issue_cases (s : State) (c : CoreId) (n : Needs) (f : State → State) :
    issue s c n f = s ∨ issue s c n f = failCore s c .pcRange 0 ∨ issue s c n f = f s := by
  unfold issue; split
  · split
    · exact .inr (.inl rfl)
    · rcases outside_cases s (f s) with h | h
      · exact .inl h
      · exact .inr (.inr h)
  · exact .inl rfl

/-- Issue leaves the crossbar as the effect left it. -/
@[simp] theorem retire_xb (s : State) (c : CoreId) (n : Nat) : (retire s c n).xb = s.xb := by
  unfold retire
  rw [(progress_core _ c).1.1]
  rfl

/-- The core of a vector write. -/
theorem writeV_eq (s : State) (c : CoreId) (v : VReg) (x : Bits) (psn : Bool) :
    writeV s c v x psn = modCore s c (fun k => wroteV k v x psn) := rfl

end Sys2Proof.Machine
end

