-- ==== Sys2Proof/Laws/Ops.lean ====
section
/-! SUPPORT. What each shared operation of `Machine/Ops.lean` can do, said once: the fields it may change, what it leaves in
them, and that it keeps the invariant. -/

namespace Sys2Proof.Machine

/-! ### Events and the error log -/

/-- A log entry changes the error log and the event word alone. -/
theorem logAt_eq (s : State) (e : Err) (cls loc : Nat) (t : Option (Fin 64)) (d : Nat) :
    logAt s e cls loc t d = { s with err := (logAt s e cls loc t d).err, u := (logAt s e cls loc t d).u } := by
  unfold logAt; dsimp only; split
  · rfl
  · split <;> rfl

/-- A log entry sets event bits and clears none. -/
theorem logAt_u (s : State) (e : Err) (cls loc : Nat) (t : Option (Fin 64)) (d : Nat) :
    (logAt s e cls loc t d).u = s.u ∨ (logAt s e cls loc t d).u = (raiseEvt s .error).u := by
  unfold logAt; dsimp only; split
  · exact .inl rfl
  · split
    · exact .inr rfl
    · exact .inl rfl

/-- A repeat within the frame is counted and nothing more (R371). -/
theorem logAt_seen {s : State} {e : Err} {loc : Nat} {t : Option (Fin 64)} (h : seenKey e loc t ∈ s.err.seen) (cls d : Nat) :
    logAt s e cls loc t d = { s with err := countCls s.err cls } := by
  unfold logAt; simp [countCls, h]

@[simp] theorem logRun_mem (s : State) (e : Err) (loc d : Nat) : (logRun s e loc d).mem = s.mem := by
  rw [logRun, logAt_eq]

@[simp] theorem logRun_cnt (s : State) (e : Err) (loc d : Nat) : (logRun s e loc d).cnt = s.cnt := by
  rw [logRun, logAt_eq]

@[simp] theorem logRun_hwf (s : State) (e : Err) (loc d : Nat) : (logRun s e loc d).hwf = s.hwf := by
  rw [logRun, logAt_eq]

/-! ### Power: accesses wake, events are counted -/

@[simp] theorem touchDom_mem (s : State) (d : DomId) : (touchDom s d).mem = s.mem := by rw [touchDom_eq]

@[simp] theorem touchDom_cnt (s : State) (d : DomId) : (touchDom s d).cnt = s.cnt := by rw [touchDom_eq]

@[simp] theorem countGranule_mem (s : State) : (countGranule s).mem = s.mem := rfl

@[simp] theorem countGranule_cnt (s : State) : (countGranule s).cnt = s.cnt := rfl

/-- Presenting accesses changes the crossbar, and wakes its domain. -/
theorem presents_eq (s : State) (rs : List XbReq) (n : Nat) :
    presents s rs n = { s with pwr := (presents s rs n).pwr, xb := (presents s rs n).xb } := by
  unfold presents; dsimp only; rw [touchDom_eq]

@[simp] theorem presents_mem (s : State) (rs : List XbReq) (n : Nat) : (presents s rs n).mem = s.mem := by rw [presents_eq]

@[simp] theorem presents_cnt (s : State) (rs : List XbReq) (n : Nat) : (presents s rs n).cnt = s.cnt := by rw [presents_eq]

@[simp] theorem presentWords_mem (s : State) (who : Who) (b : Bool) (part ws : List Nat) : (presentWords s who b part ws).mem = s.mem := by
  unfold presentWords; split
  · rfl
  · exact presents_mem ..

@[simp] theorem presentWords_cnt (s : State) (who : Who) (b : Bool) (part ws : List Nat) : (presentWords s who b part ws).cnt = s.cnt := by
  unfold presentWords; split
  · rfl
  · exact presents_cnt ..

/-- Granule accesses are counted in the power block alone. -/
theorem countGranules_eq (s : State) (ws : List Nat) : countGranules s ws = { s with pwr := (countGranules s ws).pwr } := by
  unfold countGranules
  generalize ((ws.filter (fun w => isDs (64 * w))).map (fun w => granuleOf (64 * w))).dedup = l
  induction l generalizing s with
  | nil => rfl
  | cons x r ih => rw [List.foldl_cons, ih]; rfl

/-- What opens a read or a write of words touches no store. -/
@[simp] theorem openRead_mem (s : State) (who : Who) (ws : List Nat) : (openRead s who ws).mem = s.mem := by
  unfold openRead; dsimp only; rw [countGranules_eq]; exact presentWords_mem ..

@[simp] theorem openRead_cnt (s : State) (who : Who) (ws : List Nat) : (openRead s who ws).cnt = s.cnt := by
  unfold openRead; dsimp only; rw [countGranules_eq]; exact presentWords_cnt ..

@[simp] theorem openWrite_mem (s : State) (who : Who) (ws : List WordWr) : (openWrite s who ws).mem = s.mem := by
  unfold openWrite; dsimp only; rw [countGranules_eq]; exact presentWords_mem ..

@[simp] theorem openWrite_cnt (s : State) (who : Who) (ws : List WordWr) : (openWrite s who ws).cnt = s.cnt := by
  unfold openWrite; dsimp only; rw [countGranules_eq]; exact presentWords_cnt ..

/-! ### Arrival counters -/

/-- A counter file without a parity error is read as it stands. -/
theorem checkParity_ok {s : State} {c : Ctr} (h : HwFault.cntParity c ∉ s.hwf) : checkParity s c = s := by
  unfold checkParity; simp [h]

@[simp] theorem ctrOf_setCtr (s : State) (c : Ctr) (x : Counter) : ctrOf (setCtr s c x) c = x := by simp [ctrOf, setCtr]

theorem ctrOf_setCtr_other (s : State) {c k : Ctr} (x : Counter) (h : k ≠ c) : ctrOf (setCtr s c x) k = ctrOf s k := by
  simp only [ctrOf, setCtr]; exact look_put_other _ _ _ _ (fun e => h (Fin.ext e))

/-- An increment of a sound counter adds, and poison sticks (R286, R288). -/
theorem incCtr_ok {s : State} {c : Ctr} (h : HwFault.cntParity c ∉ s.hwf) (a : Word) (p : Bool) :
    incCtr s c a p = setCtr s c { ctrOf s c with val := (ctrOf s c).val + a, psn := (ctrOf s c).psn || p } := by
  unfold incCtr; simp [checkParity_ok h, h]

/-- An increment of another partition's counter is dropped and logged (R24). -/
theorem incCtrBy_crossed {s : State} {p : Part} {c : Ctr} (h : crosses s p (ctrPart s c) = true) (loc : Nat) (a : Word)
    (b : Bool) : incCtrBy s p loc c a b = logRun s .partCross loc 0 := by simp [incCtrBy, h]

theorem incCtrBy_own {s : State} {p : Part} {c : Ctr} (h : crosses s p (ctrPart s c) = false) (loc : Nat) (a : Word)
    (b : Bool) : incCtrBy s p loc c a b = incCtr s c a b := by simp [incCtrBy, h]

/-- An increment reaches one counter: every other keeps its value and mark. -/
theorem ctrOf_incCtr_other (s : State) {c k : Ctr} (h : k ≠ c) (a : Word) (p : Bool) : ctrOf (incCtr s c a p) k = ctrOf s k := by
  by_cases hf : HwFault.cntParity c ∈ s.hwf
  · have : incCtr s c a p = checkParity s c := by unfold incCtr; simp [checkParity, hf, setCtr]
    rw [this]; unfold checkParity; simp only [List.contains_iff_mem, hf, if_true]
    show ctrOf (logRun _ _ _ _) k = _
    simp only [ctrOf, logRun_cnt, setCtr]
    exact look_put_other _ _ _ _ (fun e => h (Fin.ext e))
  · rw [incCtr_ok hf]; exact ctrOf_setCtr_other s _ h

/-- A counter once poisoned stays so until it is reset (R288). -/
theorem poison_sticks (s : State) (c : Ctr) (a : Word) (p : Bool) (h : (ctrOf s c).psn = true) :
    (ctrOf (incCtr s c a p) c).psn = true := by
  by_cases hf : HwFault.cntParity c ∈ s.hwf
  · have : incCtr s c a p = checkParity s c := by unfold incCtr; simp [checkParity, hf, setCtr]
    rw [this]; unfold checkParity; simp only [List.contains_iff_mem, hf, if_true]
    simp [ctrOf, setCtr]
  · rw [incCtr_ok hf]; simp [h]

/-- A fence poisons the counters it names and keeps their values. -/
theorem ctrOf_poisonCtrs (cs : List Ctr) (s : State) (k : Ctr) :
    ctrOf (poisonCtrs s cs) k = { ctrOf s k with psn := (ctrOf s k).psn || decide (k ∈ cs) } := by
  induction cs generalizing s with
  | nil => simp [poisonCtrs]
  | cons c r ih =>
    have e : poisonCtrs s (c :: r) = poisonCtrs (poisonCtr s c) r := rfl
    rw [e, ih]
    by_cases h : k = c
    · subst h; simp [poisonCtr]
    · rw [poisonCtr, ctrOf_setCtr_other s _ h]; simp [h]

/-- Poisoning changes the counter file alone. -/
theorem poisonCtrs_eq (cs : List Ctr) (s : State) : poisonCtrs s cs = { s with cnt := (poisonCtrs s cs).cnt } := by
  induction cs generalizing s with
  | nil => rfl
  | cons c r ih =>
    have e : poisonCtrs s (c :: r) = poisonCtrs (poisonCtr s c) r := rfl
    rw [e]
    conv => lhs; rw [ih (poisonCtr s c)]
    rfl

/-! ### The stores -/

/-- The bytes of the stores, the written bits, the spans of its groups and the arrival counters stand. -/
def KeepsStores (s t : State) : Prop :=
  t.mem.mem = s.mem.mem ∧ (∀ g : GroupId, t.mem.groups[g].epoch = s.mem.groups[g].epoch) ∧ t.mem.written = s.mem.written ∧
    t.mem.allWritten = s.mem.allWritten ∧ t.cnt = s.cnt

theorem KeepsStores.refl (s : State) : KeepsStores s s := ⟨rfl, fun _ => rfl, rfl, rfl, rfl⟩

theorem KeepsStores.trans {s t u : State} (h : KeepsStores s t) (k : KeepsStores t u) : KeepsStores s u :=
  ⟨k.1.trans h.1, fun g => (k.2.1 g).trans (h.2.1 g), k.2.2.1.trans h.2.2.1, k.2.2.2.1.trans h.2.2.2.1, k.2.2.2.2.trans h.2.2.2.2⟩

/-- The same stores and counters. -/
theorem KeepsStores.same {s t : State} (h : t.mem = s.mem) (k : t.cnt = s.cnt) : KeepsStores s t :=
  ⟨by rw [h], fun _ => by rw [h], by rw [h], by rw [h], k⟩

/-- Stores with the same bytes, groups and written bits, and the same counters. -/
theorem KeepsStores.ofGroups {s t : State} (h : t.mem.mem = s.mem.mem) (g : t.mem.groups = s.mem.groups)
    (w : t.mem.written = s.mem.written) (a : t.mem.allWritten = s.mem.allWritten) (k : t.cnt = s.cnt) :
    KeepsStores s t := ⟨h, fun _ => by rw [g], w, a, k⟩

theorem KeepsStores.memByte {s t : State} (h : KeepsStores s t) (a : Nat) : memByte t.mem a = memByte s.mem a :=
  memByte_congr h.1 h.2.1 a

theorem KeepsStores.isWritten {s t : State} (h : KeepsStores s t) (g : Nat) : isWritten t.mem g = isWritten s.mem g := by
  simp only [Machine.isWritten, h.2.2.1, h.2.2.2.1]

/-- What keeps the stores keeps what every read finds. -/
theorem KeepsStores.readByte {s t : State} (h : KeepsStores s t) (a : Nat) : readByte t.mem a = readByte s.mem a := by
  simp only [Machine.readByte, h.isWritten, h.memByte]

theorem logRun_keeps (s : State) (e : Err) (loc d : Nat) : KeepsStores s (logRun s e loc d) := .same (by simp) (by simp)

theorem openRead_keeps (s : State) (who : Who) (ws : List Nat) : KeepsStores s (openRead s who ws) := .same (by simp) (by simp)

theorem openWrite_keeps (s : State) (who : Who) (ws : List WordWr) : KeepsStores s (openWrite s who ws) := .same (by simp) (by simp)

/-- The check of a word read changes counts, addresses kept and the log: no byte of the stores. -/
theorem eccRead_keeps (s : State) (w : Nat) : KeepsStores s (eccRead s w) := by
  unfold eccRead; dsimp only
  repeat' split
  all_goals exact .ofGroups (by simp) (by simp) (by simp) (by simp) (by simp)

theorem groupOff_keeps (s : State) (who : Who) (a : Nat) (b : Bool) : KeepsStores s (groupOff s who a b) := by
  unfold groupOff; dsimp only
  repeat' split
  all_goals exact .ofGroups (by simp) (by simp) (by simp) (by simp) (by simp)

/-- A change of a port keeps the bytes and the spans. -/
theorem modPort_keeps (s : State) (st : StoreId) (f : Port → Port) : KeepsStores s (modPort s st f) := by
  cases st with
  | ds => exact ⟨rfl, fun _ => rfl, rfl, rfl, rfl⟩
  | ns k =>
    refine ⟨rfl, fun g => ?_, rfl, rfl, rfl⟩
    simp only [modPort]
    by_cases h : k.val = g.val
    · have : k = g := Fin.ext h
      subst this; simp
    · simp only [Fin.getElem_fin]; rw [Vector.getElem_set_ne _ _ h]

/-- A port that wakes keeps its bytes and its span. -/
theorem wakePort_keeps (s : State) (st : StoreId) : KeepsStores s (wakePort s st) := by
  unfold wakePort; dsimp only; split
  · split
    · generalize hf : (fun p : Port => _) = f
      exact (modPort_keeps s st f).trans (.same (by simp) (by simp))
    · exact modPort_keeps ..
  · exact .refl s

/-- A read changes no byte of the stores and no arrival counter. -/
theorem readWord_keeps (s : State) (who : Who) (w : Nat) : KeepsStores s (readWord s who w).1 := by
  have p := wakePort_keeps s (storeOf (64 * w))
  unfold readWord; dsimp only
  split
  · exact logRun_keeps ..
  split
  · exact groupOff_keeps ..
  split
  · refine p.trans (.trans ?_ (eccRead_keeps _ w))
    exact .same rfl rfl
  split
  · exact p.trans (eccRead_keeps _ w)
  · exact p

/-- Reads one after another change no byte of the stores and no arrival counter. -/
theorem readWords_keeps (s : State) (who : Who) (ws : List Nat) : KeepsStores s (readWords s who ws).1 := by
  suffices h : ∀ (ws : List Nat) (t : State) (acc : List RdWord),
      KeepsStores t (ws.foldl (fun acc w => let r := readWord acc.1 who w; (r.1, acc.2 ++ [r.2])) (t, acc)).1 from
    (openRead_keeps s who ws).trans (h ws _ _)
  intro ws
  induction ws with
  | nil => exact fun t _ => .refl t
  | cons w r ih => exact fun t acc => (readWord_keeps t who w).trans (ih _ _)

/-- Where the word's granule is written, nothing precedes a write; else the granule's bytes are gone. -/
theorem memByte_beforeWrite (m : Stores) (w a : Nat) (h : holds m w = true ∨ granuleOf a ≠ granuleOf (64 * w) ∨ isDs a = false) :
    memByte (beforeWrite m w) a = memByte m a := by
  unfold beforeWrite; split
  · rfl
  · rename_i hh
    have hd : isDs (64 * w) = true := by simp [holds] at hh; exact hh.1
    rcases h with h | h | h
    · exact absurd h hh
    all_goals
      refine memByte_dropRange_other m ?_
      simp only [isDs, granuleOf, decide_eq_true_eq, decide_eq_false_iff_not] at *
      omega

/-- Before a write a byte of the word's store reads as it did. -/
theorem memByte_beforeWrite_read (m : Stores) (w a : Nat) (h : isDs a = isDs (64 * w) ∧ granuleOf a = granuleOf (64 * w)) :
    memByte (beforeWrite m w) a = readByte m a := by
  unfold beforeWrite readByte holds
  by_cases hd : isDs (64 * w) = true
  · rw [h.1, h.2, hd]
    cases hw : isWritten m (granuleOf (64 * w))
    · simp only [Bool.not_true, Bool.or_self, Bool.not_false, Bool.and_self, if_true, Bool.false_eq_true, if_false]
      have hr := h.2
      have ha : isDs a = true := h.1.trans hd
      simp only [isDs, granuleOf, decide_eq_true_eq] at ha hd hr
      rw [memByte_dropRange_self m (by omega) (by omega)]
      simp only [blankByte]
      rw [if_neg (by simp only [isNs, decide_eq_true_eq]; omega)]
    · simp
  · simp only [Bool.not_eq_true] at hd
    simp [h.1, hd]

theorem memByte_storeWord (m : Stores) (w a : Nat) (x mask : BitVec 512) (psn : Bool) :
    memByte (storeWord m w x mask psn) a = memByte (setBytes (beforeWrite m w) (64 * w) x mask) a := by
  unfold storeWord; dsimp only
  split <;> exact memByte_congr rfl (fun _ => rfl) a

theorem setBytes_written (m : Stores) (a : Nat) (x mask : BitVec 512) :
    (setBytes m a x mask).written = m.written ∧ (setBytes m a x mask).allWritten = m.allWritten := by
  rw [setBytes_fold]
  generalize upto 64 = l
  induction l generalizing m with
  | nil => exact ⟨rfl, rfl⟩
  | cons i r ih => rw [List.foldl_cons, (ih _).1, (ih _).2]; split <;> exact ⟨rfl, rfl⟩

/-- A word write in Deep Store sets its granule's written bit, and no other. -/
theorem isWritten_storeWord (m : Stores) (w g : Nat) (x mask : BitVec 512) (psn : Bool) :
    isWritten (storeWord m w x mask psn) g = (isWritten m g || (isDs (64 * w) && decide (g = granuleOf (64 * w)))) := by
  have b : (beforeWrite m w).written = m.written ∧ (beforeWrite m w).allWritten = m.allWritten := by
    unfold beforeWrite; split <;> exact ⟨rfl, rfl⟩
  have e := setBytes_written (beforeWrite m w) (64 * w) x mask
  rw [b.1, b.2] at e
  unfold storeWord isWritten; dsimp only
  split
  · rename_i h; simp only [e.1, e.2, setHas_setAdd, h, Bool.true_and]
    cases m.allWritten <;> simp [Bool.or_comm]
  · rename_i h; simp only [e.1, e.2, h, Bool.false_and, Bool.or_false]

/-- A byte outside the word reads as before. -/
theorem readByte_storeWord_other (m : Stores) {w a : Nat} (x mask : BitVec 512) (psn : Bool) (h : a < 64 * w ∨ 64 * w + 64 ≤ a) :
    readByte (storeWord m w x mask psn) a = readByte m a := by
  have e : memByte (storeWord m w x mask psn) a = memByte (beforeWrite m w) a := by
    rw [memByte_storeWord, memByte_setBytes_other _ (64 * w) a x mask h]
  by_cases k : isDs a = isDs (64 * w) ∧ granuleOf a = granuleOf (64 * w)
  · rw [← memByte_beforeWrite_read m w a k, ← e]
    unfold readByte
    rw [isWritten_storeWord, k.2, k.1]
    cases isDs (64 * w) <;> simp
  · have e2 : memByte (beforeWrite m w) a = memByte m a := by
      refine memByte_beforeWrite m w a ?_
      unfold holds
      cases hd : isDs (64 * w)
      · exact .inl (by simp)
      · cases ha : isDs a
        · exact .inr (.inr rfl)
        · exact .inr (.inl (fun q => k ⟨by rw [ha, hd], q⟩))
    unfold readByte
    rw [isWritten_storeWord, e, e2]
    cases ha : isDs a
    · simp
    · cases hd : isDs (64 * w)
      · simp
      · have : granuleOf a ≠ granuleOf (64 * w) := fun q => k ⟨by rw [ha, hd], q⟩
        simp [this]

/-- A byte of the word takes the bits that the mask names. -/
theorem readByte_storeWord_self (m : Stores) (w i : Nat) (x mask : BitVec 512) (psn : Bool) (h : i < 64) :
    readByte (storeWord m w x mask psn) (64 * w + i)
      = (readByte m (64 * w + i) &&& ~~~byteAt mask i) ||| (byteAt x i &&& byteAt mask i) := by
  have k : isDs (64 * w + i) = isDs (64 * w) ∧ granuleOf (64 * w + i) = granuleOf (64 * w) := by
    constructor
    · simp only [isDs, decide_eq_decide]; omega
    · simp only [granuleOf]; omega
  rw [← memByte_beforeWrite_read m w _ k, ← memByte_setBytes_self _ (64 * w) i x mask h, ← memByte_storeWord m w _ x mask psn]
  unfold readByte
  rw [isWritten_storeWord, k.2, k.1]
  cases isDs (64 * w) <;> simp

theorem wf_beforeWrite {m : Stores} (w : Nat) (h : Memory.wf m = true) : Memory.wf (beforeWrite m w) = true := by
  unfold beforeWrite; split
  · exact h
  · exact wf_dropRange _ _ h

theorem wf_storeWord {m : Stores} (w : Nat) (x mask : BitVec 512) (psn : Bool) (h : Memory.wf m = true) :
    Memory.wf (storeWord m w x mask psn) = true := by
  have k := wf_setBytes (64 * w) x mask (wf_beforeWrite w h)
  unfold storeWord; dsimp only
  split <;> exact (wf_congr (m := setBytes (beforeWrite m w) (64 * w) x mask) (by rfl) (by exact fun _ => rfl)).trans k

/-- A word write either leaves the stores as they are, or merges the beat into stores with the same bytes. -/
theorem writeWord_cases (s : State) (who : Who) (w : Nat) (x mask : BitVec 512) (psn : Bool) :
    ((writeWord s who w x mask psn).2 ≠ .done ∧ KeepsStores s (writeWord s who w x mask psn).1) ∨
      ((writeWord s who w x mask psn).2 = .done ∧ ∃ t : State, KeepsStores s t ∧
        writeWord s who w x mask psn = ({ t with mem := storeWord t.mem w x mask psn }, .done)) := by
  have p := wakePort_keeps s (storeOf (64 * w))
  unfold writeWord; dsimp only
  split
  · exact .inl ⟨by simp, logRun_keeps ..⟩
  split
  · exact .inl ⟨by simp, groupOff_keeps ..⟩
  · generalize wakePort s (storeOf (64 * w)) = g at p ⊢
    have q : KeepsStores g (if mask = BitVec.allOnes 512 ∨ holds g.mem w = false then g else eccRead g w) := by
      split
      · exact .refl _
      · exact eccRead_keeps g w
    generalize (if mask = BitVec.allOnes 512 ∨ holds g.mem w = false then g else eccRead g w) = e at q ⊢
    refine .inr ⟨rfl, if isNs (64 * w) then countEv { e with pwr := { e.pwr with nsWr := sat32 e.pwr.nsWr 1 } } .nsWr 1
      else e, p.trans (q.trans ?_), rfl⟩
    split
    · exact .same rfl rfl
    · exact .refl _

/-- A word write leaves every byte outside its word as it was. -/
theorem readByte_writeWord_other (s : State) (who : Who) {w a : Nat} (x mask : BitVec 512) (psn : Bool)
    (h : a < 64 * w ∨ 64 * w + 64 ≤ a) : readByte (writeWord s who w x mask psn).1.mem a = readByte s.mem a := by
  rcases writeWord_cases s who w x mask psn with ⟨-, k⟩ | ⟨-, t, k, e⟩
  · exact k.readByte a
  · rw [e]; exact (readByte_storeWord_other t.mem x mask psn h).trans (k.readByte a)

/-! ### The invariant -/

/-- What keeps the bytes, the spans and the counters keeps the invariant. -/
theorem Inv.keeps {s t : State} (h : Inv s) (k : KeepsStores s t) : Inv t :=
  ⟨by rw [wf_congr k.1 k.2.1]; exact h.1, by rw [k.2.2.2.2]; exact h.2⟩

theorem Inv.setCtr {s : State} (h : Inv s) (c : Ctr) (x : Counter) : Inv (setCtr s c x) := ⟨h.1, tableWf_put _ _ _ _ h.2⟩

theorem Inv.logRun {s : State} (h : Inv s) (e : Err) (loc d : Nat) : Inv (logRun s e loc d) :=
  h.keeps (logRun_keeps ..)

theorem Inv.incCtr {s : State} (h : Inv s) (c : Ctr) (a : Word) (p : Bool) : Inv (incCtr s c a p) := by
  by_cases hf : HwFault.cntParity c ∈ s.hwf
  · have e : Sys2Proof.Machine.incCtr s c a p = checkParity s c := by
      unfold Sys2Proof.Machine.incCtr; simp [checkParity, hf, Sys2Proof.Machine.setCtr]
    rw [e]; unfold checkParity; simp only [List.contains_iff_mem, hf, if_true]
    exact (h.setCtr c { ctrOf s c with psn := true }).keeps (.same (by simp) (by simp))
  · rw [incCtr_ok hf]; exact h.setCtr c _

theorem Inv.incCtrBy {s : State} (h : Inv s) (p : Part) (loc : Nat) (c : Ctr) (a : Word) (b : Bool) :
    Inv (incCtrBy s p loc c a b) := by
  unfold Sys2Proof.Machine.incCtrBy; split
  · exact h.logRun _ _ _
  · exact h.incCtr _ _ _

theorem Inv.poisonCtrs {s : State} (h : Inv s) (cs : List Ctr) : Inv (poisonCtrs s cs) := by
  induction cs generalizing s with
  | nil => exact h
  | cons c r ih => exact ih (h.setCtr c _)

theorem Inv.readWord {s : State} (h : Inv s) (who : Who) (w : Nat) : Inv (readWord s who w).1 :=
  h.keeps (readWord_keeps s who w)

theorem Inv.writeWord {s : State} (h : Inv s) (who : Who) (w : Nat) (x mask : BitVec 512) (psn : Bool) :
    Inv (writeWord s who w x mask psn).1 := by
  rcases writeWord_cases s who w x mask psn with ⟨-, k⟩ | ⟨-, t, k, e⟩
  · exact h.keeps k
  · rw [e]; exact ⟨wf_storeWord _ _ _ _ (h.keeps k).1, (h.keeps k).2⟩

theorem Inv.putWords {s : State} (h : Inv s) (who : Who) (l : List WordWr) (psn : Bool) :
    Inv (putWords s who l psn).1 := by
  induction l generalizing s with
  | nil => exact h
  | cons x r ih =>
    have k := h.writeWord who x.word x.data x.mask psn
    unfold Sys2Proof.Machine.putWords
    split <;> rename_i e <;> rw [e] at k
    · exact ih k
    · exact ih k
    · exact k

theorem Inv.writeWords {s : State} (h : Inv s) (who : Who) (l : List WordWr) (psn : Bool) : Inv (writeWords s who l psn).1 :=
  Inv.putWords (h.keeps (openWrite_keeps s who l)) who l psn

theorem Inv.modPart {s : State} (h : Inv s) (p : Part) (f : PartSt → PartSt) : Inv (modPart s p f) := h.keeps (.same rfl rfl)

theorem Inv.absorb {s : State} (h : Inv s) (f : Fin 45 → Part → Bool) : Inv (absorb s f) := h.keeps (.same rfl rfl)

/-- A task abort poisons counters, and stops agents, and touches no store (R381). -/
theorem Inv.abortTask {s : State} (h : Inv s) (p : Part) : Inv (abortTask s p) := by
  unfold Sys2Proof.Machine.abortTask
  dsimp only
  refine Inv.modPart (Inv.absorb (Inv.poisonCtrs ?_ _) _) _ _
  exact h.keeps (.same rfl rfl)

theorem Inv.fenceCore {s : State} (h : Inv s) (c : CoreId) : Inv (fenceCore s c) :=
  Inv.abortTask (s := modCore s c fun x => { x with st := .fenced, errDue := true }) (h.keeps (.same rfl rfl)) _

theorem Inv.failCore {s : State} (h : Inv s) (c : CoreId) (e : Err) (d : Nat) : Inv (failCore s c e d) :=
  (h.logRun e (locCore c) d).fenceCore c

theorem Inv.unitFatal {s : State} (h : Inv s) (e : Err) (d : Nat) : Inv (unitFatal s e d) := by
  unfold Sys2Proof.Machine.unitFatal
  dsimp only
  refine Inv.poisonCtrs (Inv.absorb ?_ _) _
  exact (h.logRun e locUnit d).keeps (.same rfl rfl)

/-- An abort withdraws reads at the crossbar and presents none (R356). -/
theorem absorb_reqs (s : State) (f : Fin 45 → Part → Bool) : (absorb s f).xb.reqs.length ≤ s.xb.reqs.length := by
  simp only [absorb]; exact List.length_filter_le ..

theorem fenceCore_reqs (s : State) (c : CoreId) : (fenceCore s c).xb.reqs.length ≤ s.xb.reqs.length := by
  have m : ∀ (s : State) (p : Part) (f : PartSt → PartSt), (modPart s p f).xb = s.xb := fun _ _ _ => rfl
  unfold fenceCore abortTask; dsimp only
  rw [m]
  refine (absorb_reqs _ _).trans ?_
  rw [poisonCtrs_eq]
  generalize (poisonCtrs _ _).cnt = k
  exact le_refl _

theorem failCore_reqs (s : State) (c : CoreId) (e : Err) (d : Nat) : (failCore s c e d).xb.reqs.length ≤ s.xb.reqs.length := by
  refine (fenceCore_reqs _ c).trans ?_
  rw [logRun, logAt_eq]

/-- The progress of a core touches no store and no counter. -/
theorem Inv.retire {s : State} (h : Inv s) (c : CoreId) (n : Nat) : Inv (retire s c n) := by
  have e := (progress_core (modCore s c fun x => { x with pc := min 2048 (x.pc + n) }) c).1.1
  unfold Sys2Proof.Machine.retire; rw [e]
  exact h.keeps (.same rfl rfl)

/-- An instruction keeps the invariant when its effect does. -/
theorem Inv.issue {s : State} (h : Inv s) (c : CoreId) (n : Needs) {f : State → State} (hf : Inv (f s)) : Inv (issue s c n f) := by
  rcases issue_cases s c n f with e | e | e <;> rw [e]
  · exact h
  · exact h.failCore _ _ _
  · exact hf

end Sys2Proof.Machine
end

