-- ==== Sys2Proof/Laws/Ladle.lean ====
section
/-! SUPPORT. What an access of a master can change, and that a gather changes no byte of the stores and no core: one lemma
for each function of a Ladle's run. -/

namespace Sys2Proof.Machine

/-- What accesses and their counts may change, and nothing else: the stores, the log with its event, the crossbar, the power
block, the counts of the Ladles, and the free values drawn. -/
def Moves (s t : State) : Prop :=
  t = { s with mem := t.mem, err := t.err, u := t.u, xb := t.xb, pwr := t.pwr, cls := t.cls, fresh := t.fresh } ∧
    t.u = { s.u with evtStat := t.u.evtStat } ∧
    ∀ k : ClusterId, t.cls[k].running = s.cls[k].running ∧ t.cls[k].waiting = s.cls[k].waiting

/-- What reads may change: no byte of the stores either. -/
def Looks (s t : State) : Prop := Moves s t ∧ KeepsStores s t

theorem Moves.refl (s : State) : Moves s s := ⟨rfl, rfl, fun _ => ⟨rfl, rfl⟩⟩

theorem Moves.trans {s t u : State} (h : Moves s t) (k : Moves t u) : Moves s u := by
  obtain ⟨h1, h2, h3⟩ := h
  obtain ⟨k1, k2, k3⟩ := k
  exact ⟨by rw [k1, h1], by rw [k2, h2], fun c => ⟨(k3 c).1.trans (h3 c).1, (k3 c).2.trans (h3 c).2⟩⟩

theorem Looks.refl (s : State) : Looks s s := ⟨.refl s, .refl s⟩

theorem Looks.trans {s t u : State} (h : Looks s t) (k : Looks t u) : Looks s u := ⟨h.1.trans k.1, h.2.trans k.2⟩

theorem Moves.cores {s t : State} (h : Moves s t) : t.cores = s.cores := by rw [h.1]

theorem Moves.cnt {s t : State} (h : Moves s t) : t.cnt = s.cnt := by rw [h.1]

theorem logAt_evt (s : State) (e : Err) (cls loc : Nat) (t : Option (Fin 64)) (d : Nat) :
    (logAt s e cls loc t d).u = { s.u with evtStat := (logAt s e cls loc t d).u.evtStat } := by
  rcases logAt_u s e cls loc t d with h | h
  · rw [h]
  · rw [h]; rfl

theorem logRun_looks (s : State) (e : Err) (loc d : Nat) : Looks s (logRun s e loc d) := by
  have h := logAt_eq s e e.runClass loc none d
  refine ⟨⟨?_, logAt_evt .., fun k => ?_⟩, logRun_keeps ..⟩
  · rw [logRun, h]
  · rw [logRun, h]; exact ⟨rfl, rfl⟩

theorem raiseEvt_looks (s : State) (e : Evt) : Looks s (raiseEvt s e) := ⟨⟨rfl, rfl, fun _ => ⟨rfl, rfl⟩⟩, .same rfl rfl⟩

theorem touchDom_looks (s : State) (d : DomId) : Looks s (touchDom s d) := by
  rw [touchDom_eq]; exact ⟨⟨rfl, rfl, fun _ => ⟨rfl, rfl⟩⟩, .same rfl rfl⟩

theorem countEv_looks (s : State) (e : PwrEv) (n : Nat) : Looks s (countEv s e n) := ⟨⟨rfl, rfl, fun _ => ⟨rfl, rfl⟩⟩, .same rfl rfl⟩

theorem drawFree_looks (s : State) : Looks s (drawFree s).1 := ⟨⟨rfl, rfl, fun _ => ⟨rfl, rfl⟩⟩, .same rfl rfl⟩

/-- A count of a cluster. -/
theorem modCl_looks (s : State) (k : ClusterId) (f : Cluster → Cluster) (h : ∀ x, (f x).running = x.running ∧ (f x).waiting = x.waiting) :
    Looks s (modCl s k f) := by
  refine ⟨⟨rfl, rfl, fun c => ?_⟩, .same rfl rfl⟩
  by_cases e : c = k
  · subst e; simp only [modCl, Fin.getElem_fin, Vector.getElem_set_self]; exact h _
  · have : k.val ≠ c.val := fun q => e (Fin.ext q.symm)
    simp only [modCl, Fin.getElem_fin, Vector.getElem_set_ne _ _ this, and_self]

theorem countLadOob_looks (s : State) (k : ClusterId) (n : Nat) : Looks s (countLadOob s k n) := modCl_looks _ _ _ fun _ => ⟨rfl, rfl⟩
theorem countLadMerge_looks (s : State) (k : ClusterId) (n : Nat) : Looks s (countLadMerge s k n) := modCl_looks _ _ _ fun _ => ⟨rfl, rfl⟩
theorem countLadConf_looks (s : State) (k : ClusterId) (n : Nat) : Looks s (countLadConf s k n) := modCl_looks _ _ _ fun _ => ⟨rfl, rfl⟩
theorem countLadReq_looks (s : State) (k : ClusterId) (n : Nat) : Looks s (countLadReq s k n) :=
  (modCl_looks s k (fun x => { x with req := sat32 x.req n }) fun _ => ⟨rfl, rfl⟩).trans (countEv_looks ..)
theorem countLadAdd_looks (s : State) (k : ClusterId) (n : Nat) : Looks s (countLadAdd s k n) :=
  (modCl_looks s k (fun x => { x with adds := sat32 x.adds n }) fun _ => ⟨rfl, rfl⟩).trans (countEv_looks ..)
theorem reachPos_looks (s : State) (k : ClusterId) (n : Nat) : Looks s (reachPos s k n) := modCl_looks _ _ _ fun _ => ⟨rfl, rfl⟩

theorem presents_looks (s : State) (rs : List XbReq) (n : Nat) : Looks s (presents s rs n) := by
  rw [presents_eq]; exact ⟨⟨rfl, rfl, fun _ => ⟨rfl, rfl⟩⟩, .same rfl rfl⟩

theorem presentWords_looks (s : State) (who : Who) (b : Bool) (part ws : List Nat) : Looks s (presentWords s who b part ws) := by
  unfold presentWords; split
  · exact .refl s
  · exact presents_looks ..

theorem countGranules_looks (s : State) (ws : List Nat) : Looks s (countGranules s ws) := by
  rw [countGranules_eq]; exact ⟨⟨rfl, rfl, fun _ => ⟨rfl, rfl⟩⟩, .same rfl rfl⟩

theorem modPort_looks (s : State) (st : StoreId) (f : Port → Port) : Looks s (modPort s st f) := by
  refine ⟨?_, modPort_keeps s st f⟩
  cases st <;> exact ⟨rfl, rfl, fun _ => ⟨rfl, rfl⟩⟩

theorem wakePort_looks (s : State) (st : StoreId) : Looks s (wakePort s st) := by
  unfold wakePort; dsimp only; split
  · split
    · exact (modPort_looks ..).trans (touchDom_looks ..)
    · exact modPort_looks ..
  · exact .refl s

/-- The stores alone changed. -/
theorem mem_moves (s : State) (m : Stores) : Moves s { s with mem := m } := ⟨rfl, rfl, fun _ => ⟨rfl, rfl⟩⟩

theorem eccRead_looks (s : State) (w : Nat) : Looks s (eccRead s w) := by
  refine ⟨?_, eccRead_keeps s w⟩
  unfold eccRead; dsimp only
  repeat' split
  all_goals first
    | exact .refl s
    | exact mem_moves s _
    | exact (mem_moves s _).trans (logRun_looks ..).1

theorem groupOff_looks (s : State) (who : Who) (a : Nat) (b : Bool) : Looks s (groupOff s who a b) := by
  refine ⟨?_, groupOff_keeps s who a b⟩
  unfold groupOff; dsimp only
  repeat' split
  all_goals first
    | exact ((mem_moves s _).trans (logRun_looks ..).1).trans (raiseEvt_looks ..).1
    | exact (mem_moves s _).trans (logRun_looks ..).1

/-- A word read. -/
theorem readWord_looks (s : State) (who : Who) (w : Nat) : Looks s (readWord s who w).1 := by
  refine ⟨?_, readWord_keeps s who w⟩
  have p := (wakePort_looks s (storeOf (64 * w))).1
  unfold readWord; dsimp only
  repeat' split
  · exact (logRun_looks ..).1
  · exact (groupOff_looks s who (64 * w) false).1
  · refine p.trans (.trans ?_ (eccRead_looks _ w).1)
    exact ⟨rfl, rfl, fun _ => ⟨rfl, rfl⟩⟩
  · exact p.trans (eccRead_looks _ w).1
  · exact p

theorem openRead_looks (s : State) (who : Who) (ws : List Nat) : Looks s (openRead s who ws) :=
  (presentWords_looks ..).trans (countGranules_looks ..)

theorem openWrite_looks (s : State) (who : Who) (ws : List WordWr) : Looks s (openWrite s who ws) :=
  (presentWords_looks ..).trans (countGranules_looks ..)

/-- Words read. -/
theorem readWords_looks (s : State) (who : Who) (ws : List Nat) : Looks s (readWords s who ws).1 := by
  suffices h : ∀ (ws : List Nat) (t : State) (acc : List RdWord),
      Looks t (ws.foldl (fun acc w => let r := readWord acc.1 who w; (r.1, acc.2 ++ [r.2])) (t, acc)).1 from
    (openRead_looks s who ws).trans (h ws _ _)
  intro ws
  induction ws with
  | nil => exact fun t _ => .refl t
  | cons w r ih => exact fun t acc => (readWord_looks t who w).trans (ih _ _)

/-- A word written. -/
theorem writeWord_moves (s : State) (who : Who) (w : Nat) (x mask : BitVec 512) (psn : Bool) :
    Moves s (writeWord s who w x mask psn).1 := by
  have p := (wakePort_looks s (storeOf (64 * w))).1
  unfold writeWord; dsimp only
  split
  · exact (logRun_looks ..).1
  split
  · exact (groupOff_looks s who (64 * w) true).1
  · generalize wakePort s (storeOf (64 * w)) = g at p ⊢
    have q : Moves g (if mask = BitVec.allOnes 512 ∨ holds g.mem w = false then g else eccRead g w) := by
      split
      · exact .refl _
      · exact (eccRead_looks g w).1
    generalize (if mask = BitVec.allOnes 512 ∨ holds g.mem w = false then g else eccRead g w) = e at q ⊢
    refine p.trans (q.trans (.trans ?_ (mem_moves _ _)))
    split
    · exact ⟨rfl, rfl, fun _ => ⟨rfl, rfl⟩⟩
    · exact .refl _

theorem putWords_moves (who : Who) (psn : Bool) : ∀ (l : List WordWr) (s : State), Moves s (putWords s who l psn).1 := by
  intro l
  induction l with
  | nil => exact fun s => .refl s
  | cons x r ih =>
    intro s
    have k := writeWord_moves s who x.word x.data x.mask psn
    unfold putWords
    split <;> rename_i e <;> rw [e] at k
    · exact k.trans (ih _)
    · exact k.trans (ih _)
    · exact k

/-- Words written. -/
theorem writeWords_moves (s : State) (who : Who) (l : List WordWr) (psn : Bool) : Moves s (writeWords s who l psn).1 :=
  (openWrite_looks s who l).1.trans (putWords_moves who psn l _)

theorem readRun_looks (s : State) (who : Who) (ba n fill : Nat) : Looks s (readRun s who ba n fill).1 := readWords_looks ..

/-! ### Gather -/

theorem readPlace_looks (s : State) (who : Who) (d : Desc) (p : Option RowPlace) (a n : Nat) : Looks s (readPlace s who d p a n).1 := by
  unfold readPlace; split
  · exact .refl s
  · exact readWords_looks ..

theorem drawElems_looks : ∀ (n : Nat) (s : State), Looks s (drawElems n s).1
  | 0, s => .refl s
  | n + 1, s => (drawFree_looks s).trans (drawElems_looks n _)

theorem moveElems_looks (s : State) (w wd : Nat) (xs : List Nat) : Looks s (moveElems s w wd xs).1 := by
  unfold moveElems; split
  · exact .refl s
  · exact drawElems_looks ..

theorem resolveIndex_looks (s : State) (c : LadCmd) (x : Int) : Looks s (resolveIndex s c x).1 := by
  unfold resolveIndex; dsimp only
  repeat' split
  all_goals first | exact .refl s | exact readWords_looks ..

theorem resolveAll_looks (c : LadCmd) : ∀ (xs : List Int) (s : State) (lg : Bool), Looks s (resolveAll c xs s lg).1
  | [], s, _ => .refl s
  | x :: r, s, lg => by
    have h := resolveIndex_looks s c x
    unfold resolveAll; dsimp only
    split
    · exact h
    · refine h.trans (.trans ?_ (resolveAll_looks c r _ _))
      split
      · exact logRun_looks ..
      · exact .refl _

theorem indexBeat_looks (c : LadCmd) (j : Nat) (s : State) : Looks s (indexBeat c j s).1 := readWords_looks ..

theorem passPositions_looks (c : LadCmd) : ∀ (n j : Nat) (s : State) (lg : Bool), Looks s (passPositions c (indexBeat c) n j s lg).1
  | 0, _, s, _ => .refl s
  | n + 1, j, s, lg => by
    have h := indexBeat_looks c j s
    unfold passPositions; dsimp only
    split
    · exact h
    · have q := h.trans (resolveAll_looks c (indexBeat c j s).2.1 (indexBeat c j s).1 lg)
      split
      · exact q
      · exact q.trans (passPositions_looks c n (j + 1) _ _)

theorem readBeatsAt_looks (who : Who) (d : Desc) (p : Option RowPlace) (n per : Nat) :
    ∀ (b h : Nat) (s : State), Looks s (readBeatsAt who d p n per b h s).1
  | 0, _, s => .refl s
  | b + 1, h, _ => (readPlace_looks ..).trans (readBeatsAt_looks who d p n per b (h + 1) _)

theorem readSlice_looks (c : LadCmd) (f : RowsFrom) (p j x : Nat) (d : Desc) :
    ∀ (n i : Nat) (s : State), Looks s (readSlice c f p j x d n i s).1
  | 0, _, s => .refl s
  | n + 1, i, s => by
    unfold readSlice; dsimp only
    refine Looks.trans ?_ (readSlice_looks c f p j x d n (i + 1) _)
    split
    · exact readBeatsAt_looks ..
    · exact .refl s

theorem gatherRows_looks (c : LadCmd) (k : ClusterId) (f : RowsFrom) (p : Nat) :
    ∀ (ps : List LadPos) (j : Nat) (seen : Seen) (s : State), Looks s (gatherRows c k f p ps j seen s).1
  | [], _, _, s => .refl s
  | q :: r, j, seen, s => by
    have h := countLadReq_looks s k (ladInner c)
    unfold gatherRows; dsimp only
    split
    · exact (h.trans (countLadOob_looks ..)).trans (gatherRows_looks c k f p r _ _ _)
    · split
      · exact (h.trans (countLadMerge_looks ..)).trans (gatherRows_looks c k f p r _ _ _)
      · exact (h.trans (readSlice_looks ..)).trans (gatherRows_looks c k f p r _ _ _)

theorem gatherRound_looks (c : LadCmd) (k : ClusterId) (row : Option RowPlace) (ps : List LadPos) (seen : List (Nat × Nat × Bool × Bool))
    (s : State) : Looks s (gatherRound c k row ps seen s).1 := by
  unfold gatherRound; dsimp only
  exact ((((countLadReq_looks s k 1).trans (countLadConf_looks ..)).trans (countLadOob_looks ..)).trans (countLadMerge_looks ..)).trans
    (readWords_looks ..)

theorem gatherElems_looks (c : LadCmd) (k : ClusterId) (row : Option RowPlace) :
    ∀ (n : Nat) (ps : List LadPos) (seen : List (Nat × Nat × Bool × Bool)) (s : State), Looks s (gatherElems c k row n ps seen s).1
  | 0, _, _, s => .refl s
  | n + 1, _, _, _ => (gatherRound_looks ..).trans (gatherElems_looks c k row n _ _ _)

/-- A fold of steps that only look. -/
theorem foldl_looks {α β : Type} (f : State × α → β → State × α) (h : ∀ a b, Looks a.1 (f a b).1) :
    ∀ (l : List β) (a : State × α), Looks a.1 (l.foldl f a).1
  | [], a => .refl a.1
  | b :: r, a => (h a b).trans (foldl_looks f h r _)

theorem gatherPass_looks (c : LadCmd) (k : ClusterId) (f : RowsFrom) (p : Nat) (ps : List LadPos) (s : State) :
    Looks s (gatherPass c k f p ps s).1 := by
  unfold gatherPass; dsimp only; split
  · exact foldl_looks (α := List (Nat × Bool × Bool)) _ (fun a b => by dsimp only; exact gatherElems_looks ..) (windowsOf ps) (s, [])
  · exact foldl_looks (α := List LadBeat) _ (fun a b => by dsimp only; exact gatherRows_looks ..) (windowsOf ps) (s, [])

theorem gatherPasses_looks (c : LadCmd) (k : ClusterId) : ∀ (n p : Nat) (lg : Bool) (s : State), Looks s (gatherPasses c k n p lg s).1
  | 0, _, _, s => .refl s
  | n + 1, p, lg, s => by
    have h := ((passPositions_looks c (idxBeats c) 0 s lg).trans (gatherPass_looks c k .mem p
      (passPositions c (indexBeat c) (idxBeats c) 0 s lg).2.1 _)).trans (reachPos_looks _ k
      (passPositions c (indexBeat c) (idxBeats c) 0 s lg).2.1.length)
    unfold gatherPasses; dsimp only
    split
    · exact h
    · exact h.trans (gatherPasses_looks c k n (p + 1) _ _)

/-- A gather changes no byte of the stores, no counter of an agent and no core (R152, R160). -/
theorem runGather_looks (c : LadCmd) (k : ClusterId) (s : State) : Looks s (runGather c k s).1 := gatherPasses_looks ..

theorem gatherEntries_looks (s : State) (c : LadCmd) (d : Desc) (bs : List LadBeat) : Looks s (gatherEntries s c d bs).1 := by
  unfold gatherEntries; dsimp only
  refine foldl_looks (α := Kept × List (List WordWr × Bool)) _ (fun a b => ?_) bs (s, [], [])
  split <;> exact moveElems_looks ..

/-! ### Scatter -/

/-- A fold of steps of a run that only move. -/
theorem foldl_moves {β : Type} (f : LadRun → β → LadRun) (h : ∀ a b, Moves a.s (f a b).s) :
    ∀ (l : List β) (a : LadRun), Moves a.s (l.foldl f a).s
  | [], a => .refl a.s
  | b :: r, a => (h a b).trans (foldl_moves f h r _)

theorem ladWrite_moves (c : LadCmd) (ws : List WordWr) (psn : Bool) (r : LadRun) : Moves r.s (ladWrite c ws psn r).s := by
  unfold ladWrite; dsimp only; split
  · exact .refl _
  · exact writeWords_moves ..

theorem writeVals_moves (c : LadCmd) (q : RowPlace) (c0 : Nat) (b : LadVals) (r : LadRun) : Moves r.s (writeVals c q c0 b r).s :=
  ladWrite_moves c _ _ { r with kept := _ }

theorem writeRow_moves (c : LadCmd) (p : Nat) (i : LadItem) (r : LadRun) : Moves r.s (writeRow c p i r).s := by
  unfold writeRow
  repeat' split
  · exact .refl _
  · exact .refl _
  · exact foldl_moves _ (fun a b => writeVals_moves ..) _ { r with pos := i.pos }

theorem writeSum_moves (c : LadCmd) (q : RowPlace) (c0 : Nat) (b : LadVals) (r : LadRun) : Moves r.s (writeSum c q c0 b r).s :=
  ladWrite_moves ..

theorem addRow_moves (c : LadCmd) (k : ClusterId) (p : Nat) (g : List LadItem) (r : LadRun) : Moves r.s (addRow c k p g r).s := by
  cases g with
  | nil => exact .refl _
  | cons i g =>
    have h := (countLadReq_looks r.s k 1).trans (countLadAdd_looks _ k (addCount c.slice (i :: g)))
    unfold addRow; dsimp only
    repeat' split
    · exact .refl _
    · exact .refl _
    · exact h.1
    · exact (h.trans (readBeatsAt_looks ..)).1.trans
        (foldl_moves _ (fun a b => writeSum_moves ..) _ { r with s := _, pos := i.pos })

theorem countRound_looks (k : ClusterId) (q : RowPlace) (es : List LadItem) (s : State) : Looks s (countRound k q es s) :=
  (countLadReq_looks s k 1).trans (countLadConf_looks ..)

theorem writeRound_moves (c : LadCmd) (k : ClusterId) (q : RowPlace) (es : List LadItem) (r : LadRun) :
    Moves r.s (writeRound c k q es r).s := by
  unfold writeRound; dsimp only; split
  · exact .refl _
  · exact (countRound_looks k q es r.s).1.trans (foldl_moves _ (fun a b => ladWrite_moves ..) _ { r with s := _, kept := _, pos := _ })

theorem addElems_moves (c : LadCmd) (k : ClusterId) (q : RowPlace) (xs : List LadItem) (r : LadRun) :
    Moves r.s (addElems c k q xs r).s := by
  have f : ∀ (l : List (List LadItem)) (s : State), Moves s (l.foldl (fun s es => countRound k q es s) s) := by
    intro l
    induction l with
    | nil => exact fun s => .refl s
    | cons b t ih => exact fun s => (countRound_looks k q b s).1.trans (ih _)
  unfold addElems; dsimp only
  repeat' split
  · exact .refl _
  · exact f _ _
  · refine (f (roundsOf xs ((targets (inBounds xs)).filterMap List.head?)) r.s).trans (.trans ?_ (foldl_moves _ (fun a b => ladWrite_moves ..) _ { r with s := _, pos := _ }))
    exact ((countLadAdd_looks ..).trans (readWords_looks ..)).1
  · exact f _ _

theorem scatterRows_moves (c : LadCmd) (k : ClusterId) (p : Nat) (acc : Bool) (xs : List LadItem) (r : LadRun) :
    Moves r.s (scatterRows c k p acc xs r).s := by
  unfold scatterRows; dsimp only
  split
  · exact foldl_moves _ (fun a b => addRow_moves ..) _ r
  split
  · exact ((countLadMerge_looks ..).trans (countLadReq_looks ..)).1.trans
      (foldl_moves _ (fun a b => writeRow_moves ..) _ { r with s := _ })
  · exact (countLadReq_looks ..).1.trans (foldl_moves _ (fun a b => writeRow_moves ..) _ { r with s := _ })

theorem scatterElems_moves (c : LadCmd) (k : ClusterId) (p : Nat) (acc : Bool) (xs : List LadItem) (r : LadRun) :
    Moves r.s (scatterElems c k p acc xs r).s := by
  unfold scatterElems; dsimp only
  repeat' split
  · exact .refl _
  · exact addElems_moves ..
  · exact (countLadMerge_looks ..).1.trans (foldl_moves _ (fun a b => writeRound_moves ..) _ { r with s := _ })

theorem srcFromMem_looks (c : LadCmd) (who : Who) (d : Desc) (p : Nat) :
    ∀ (l : List (Nat × Nat × Nat)) (s : State), Looks s (srcFromMem c who d p l s).1
  | [], s => .refl s
  | _ :: r, _ => ((readPlace_looks ..).trans (moveElems_looks ..)).trans (srcFromMem_looks c who d p r _)

theorem srcBeats_looks (c : LadCmd) (p n : Nat) (f : SctFrom) (s : State) : Looks s (srcBeats c p n f s).1 := by
  unfold srcBeats; dsimp only
  split
  · exact .refl s
  · exact srcFromMem_looks ..
  · exact .refl s

theorem scatterPass_moves (c : LadCmd) (k : ClusterId) (acc : Bool) (f : SctFrom) (p : Nat) (ps : List LadPos) (r : LadRun) :
    Moves r.s (scatterPass c k acc f p ps r).s := by
  unfold scatterPass; dsimp only
  have h := ((countLadOob_looks r.s k (ps.filter (fun x => decide (x = .out))).length).trans (srcBeats_looks c p ps.length f _)).1
  have g : ∀ (l : List Nat) (a : LadRun) (items : List LadItem) (per : Nat), Moves a.s (l.foldl (fun r w =>
      if c.k = 0 then scatterElems c k p acc ((items.drop (w * per)).take per) r
      else scatterRows c k p acc ((items.drop (w * per)).take per) r) a).s := fun l a items per =>
    foldl_moves _ (fun a b => by split; exacts [scatterElems_moves .., scatterRows_moves ..]) l a
  generalize hr : List.foldl _ _ (upto _) = x
  have q : Moves r.s x.s := by rw [← hr]; exact h.trans (g _ { r with s := _ } _ _)
  split <;> exact q.trans (reachPos_looks ..).1

theorem scatterPasses_moves (c : LadCmd) (k : ClusterId) (acc : Bool) (f : SctFrom) :
    ∀ (n p : Nat) (lg : Bool) (r : LadRun), Moves r.s (scatterPasses c k acc f n p lg r).s
  | 0, _, _, r => .refl r.s
  | n + 1, p, lg, r => by
    have h := (passPositions_looks c (idxBeats c) 0 r.s lg).1.trans (scatterPass_moves c k acc f p
      (passPositions c (indexBeat c) (idxBeats c) 0 r.s lg).2.1 { r with s := (passPositions c (indexBeat c) (idxBeats c) 0 r.s lg).1 })
    unfold scatterPasses; dsimp only
    repeat' split
    · exact .refl _
    all_goals first | exact h | exact h.trans (scatterPasses_moves c k acc f n (p + 1) _ _)

/-- A scatter changes the stores, the counts and the log, and no core and no counter (R153, R162 to R165). -/
theorem runScatter_moves (c : LadCmd) (k : ClusterId) (acc : Bool) (f : SctFrom) (s : State) : Moves s (runScatter c k acc f s).s :=
  scatterPasses_moves c k acc f (ladPasses c) 0 false { s := s }

end Sys2Proof.Machine
end

