-- ==== Sys2Proof/WellFormed.lean ====
section
/-! DEFINITION. Which terms of `Instr` are commands that the spec's encodings allow: the checks of operands that the types of
Syntax.lean do not make (R175, R189, R197, R244, R423, R437). -/

namespace Sys2Proof

/-- A `FMT` code that Table 3-4 defines. -/
def fmtDefined (f : BitVec 5) : Bool := decide (f.toNat ≤ 22)

/-- `INC` is not its reserved encoding (R192, Table 10-1). -/
def incDefined (i : BitVec 2) : Bool := decide (i ≠ 3)

/-- Lengths that a transport block has (R423). -/
def blockSized (b : Block) : Bool := decide (b.payload.length = 4096)

/-- A chain packet carries at most 255 payload words (Table 14-7). -/
def packetSized (p : ChainPkt) : Bool := decide (p.words.length ≤ 255)

/-- A far record, where there is one, has its length (R437, R459). -/
def recordSized (n : Nat) (r : Option (List Byte)) : Bool := match r with | some bs => decide (bs.length = n) | none => true

/-- Rows, lanes and codes of a test result exist (R276, R284, R413). -/
def resultOk (r : TestResult) : Bool :=
  r.nsBadRows.all (fun x => decide (x.1 < 64) && decide (x.2 < 256)) && r.dsBadLanes.all (fun x => decide (x.1 < 32) && decide (x.2 < 256))
    && decide (r.ageing.length = 28)

/-- Lanes of the die-to-die interface (R283). -/
def lanesOk (lanes : List (Nat × Nat)) (failed : List Nat) : Bool :=
  lanes.all (fun x => decide (x.1 < 8448)) && failed.all (fun l => decide (l < 8448))

/-- The command is one that the spec's encodings allow. -/
def Instr.wellFormed : Instr → Bool
  | .cvt _ _ _ sf df _ _ _ _ => fmtDefined sf && fmtDefined df
  | .pack _ _ _ _ _ f => fmtDefined f
  | .unpk _ _ _ (.queue p _) f => fmtDefined p && fmtDefined f
  | .unpk _ _ _ (.mem _ _) f => fmtDefined f
  | .rwt _ _ i _ _ _ _ _ => incDefined i
  | .rrd _ _ i _ _ _ _ => incDefined i
  | .rinc _ _ a n _ _ _ _ => a || !n
  | .fuse _ _ st => decide (1 ≤ st.length) && decide (st.length ≤ 6)
  | .panel _ m _ _ _ _ _ _ => decide (m ≠ 3)
  | .drain _ _ _ _ i _ _ _ _ => incDefined i
  | .transportBlock b => blockSized b
  | .endMarker b => blockSized b
  | .ident p => packetSized p
  | .address p => packetSized p
  | .rd p => packetSized p
  | .routeLoad _ _ r => recordSized 2752 r
  | .whiskLoad _ _ r => recordSized 2048 r
  | .testGo r => resultOk r
  | .dsRefreshWindow lanes failed => lanesOk lanes failed
  | .fuseWriteDone rows => decide (rows.length = 1) || decide (rows.length = 6)
  | .seqNext _ v => !v.getLsbD 30
  | .cancel _ v => v.getLsbD 30
  | _ => true

end Sys2Proof
end

