-- ==== Sys2Proof/Laws/PerInstr.lean ====
section
/-! SUPPORT. One lemma per command: a well-formed command carries no longer a list than its encoding has room for. -/

namespace Sys2Proof.Laws
open Sys2Proof

/-- How many items the longest list that a command carries under a length check holds. -/
def Sized.carried : Instr → Nat
  | .fuse _ _ st => st.length
  | .transportBlock b | .endMarker b => b.payload.length
  | .ident p | .address p | .rd p => p.words.length
  | .routeLoad _ _ (some bs) | .whiskLoad _ _ (some bs) => bs.length
  | .testGo r => r.ageing.length
  | .fuseWriteDone rows => rows.length
  | _ => 0

/-- A well-formed command carries at most a transport block's 4,096 bytes. -/
def Sized.Statement (i : Instr) : Prop := i.wellFormed = true → Sized.carried i ≤ 4096

theorem Sized.nop (c : CoreId) : Sized.Statement (.nop c) := fun _ => Nat.zero_le _
theorem Sized.halt (c : CoreId) : Sized.Statement (.halt c) := fun _ => Nat.zero_le _
theorem Sized.fwait (c : CoreId) (f : BitVec 24) : Sized.Statement (.fwait c f) := fun _ => Nat.zero_le _
theorem Sized.lyend (c : CoreId) : Sized.Statement (.lyend c) := fun _ => Nat.zero_le _
theorem Sized.loop (c : CoreId) (countM1 : BitVec 24) : Sized.Statement (.loop c countM1) := fun _ => Nat.zero_le _
theorem Sized.endl (c : CoreId) : Sized.Statement (.endl c) := fun _ => Nat.zero_le _
theorem Sized.vld (c : CoreId) (adv : Bool) (vd : VReg) (d : DReg) (b o : BitVec 12) : Sized.Statement (.vld c adv vd d b o) := fun _ => Nat.zero_le _
theorem Sized.vst (c : CoreId) (adv : Bool) (d : DReg) (va : VReg) (b o : BitVec 12) : Sized.Statement (.vst c adv d va b o) := fun _ => Nat.zero_le _
theorem Sized.vmov (c : CoreId) (vd va : VReg) : Sized.Statement (.vmov c vd va) := fun _ => Nat.zero_le _
theorem Sized.vbc (c : CoreId) (e : Fin 6) (vd : VReg) (src : VbcSrc) : Sized.Statement (.vbc c e vd src) := fun _ => Nat.zero_le _
theorem Sized.vsel (c : CoreId) (e : Fin 6) (vd va vb vm : VReg) : Sized.Statement (.vsel c e vd va vb vm) := fun _ => Nat.zero_le _
theorem Sized.vlq (c : CoreId) (vd : VReg) : Sized.Statement (.vlq c vd) := fun _ => Nat.zero_le _
theorem Sized.vsq (c : CoreId) (va : VReg) : Sized.Statement (.vsq c va) := fun _ => Nat.zero_le _
theorem Sized.twr (c : CoreId) (adv : Bool) (cls : TClass) (nM1 : BitVec 7) (t : TrivetId) (src : TwrSrc) : Sized.Statement (.twr c adv cls nM1 t src) := fun _ => Nat.zero_le _
theorem Sized.trd (c : CoreId) (adv : Bool) (cls : TClass) (rel : Bool) (t : TrivetId) (start cntM1 : BitVec 11) (dst : TrdDst) : Sized.Statement (.trd c adv cls rel t start cntM1 dst) := fun _ => Nat.zero_le _
theorem Sized.trel (c : CoreId) (t : TrivetId) (cls : Option TClass) : Sized.Statement (.trel c t cls) := fun _ => Nat.zero_le _
theorem Sized.vrel (c : CoreId) (mask : Word) : Sized.Statement (.vrel c mask) := fun _ => Nat.zero_le _
theorem Sized.prm (c : CoreId) (e : Fin 6) (vd va : VReg) (src : RouteSrc) : Sized.Statement (.prm c e vd va src) := fun _ => Nat.zero_le _
theorem Sized.prmg (c : CoreId) (e : Fin 6) (vd va : VReg) (src : GangSrc) : Sized.Statement (.prmg c e vd va src) := fun _ => Nat.zero_le _
theorem Sized.gth (c : CoreId) (adv : Bool) (dst : GthDst) (srcD idxD : DReg) (k : BitVec 3) (var : Bool) : Sized.Statement (.gth c adv dst srcD idxD k var) := fun _ => Nat.zero_le _
theorem Sized.sct (c : CoreId) (adv : Bool) (dstD : DReg) (src : SctSrc) (idxD : DReg) (k : BitVec 3) (var acc : Bool) : Sized.Statement (.sct c adv dstD src idxD k var acc) := fun _ => Nat.zero_le _
theorem Sized.cvt (c : CoreId) (vd va : VReg) (sfmt dfmt : BitVec 5) (round sat : Bool) (ps pd : BitVec 2) : Sized.Statement (.cvt c vd va sfmt dfmt round sat ps pd) := fun _ => Nat.zero_le _
theorem Sized.pack (c : CoreId) (adv : Bool) (d : DReg) (va : VReg) (k : PairId) (container : BitVec 5) : Sized.Statement (.pack c adv d va k container) := fun _ => Nat.zero_le _
theorem Sized.unpk (c : CoreId) (adv : Bool) (vd : VReg) (src : UnpkSrc) (container : BitVec 5) : Sized.Statement (.unpk c adv vd src container) := fun _ => Nat.zero_le _
theorem Sized.wcnt (c : CoreId) (adv : Bool) (sa : SReg) (ctr : Ctr) (step : BitVec 14) : Sized.Statement (.wcnt c adv sa ctr step) := fun _ => Nat.zero_le _
theorem Sized.sig (c : CoreId) (ctr : Ctr) (amtM1 : BitVec 14) : Sized.Statement (.sig c ctr amtM1) := fun _ => Nat.zero_le _
theorem Sized.rwt (c : CoreId) (adv : Bool) (inc : BitVec 2) (d : DReg) (va : VReg) (ctr : Ctr) (st : StreamId) (nM1 : BitVec 5) : Sized.Statement (.rwt c adv inc d va ctr st nM1) := fun _ => Nat.zero_le _
theorem Sized.rrd (c : CoreId) (adv : Bool) (inc : BitVec 2) (dd sd : DReg) (ctr : Ctr) (st : StreamId) : Sized.Statement (.rrd c adv inc dd sd ctr st) := fun _ => Nat.zero_le _
theorem Sized.rinc (c : CoreId) (adv add cnt : Bool) (d : DReg) (sa : SReg) (ctr : Ctr) (st : StreamId) : Sized.Statement (.rinc c adv add cnt d sa ctr st) := fun _ => Nat.zero_le _
theorem Sized.fuse (c : CoreId) (bM1 : BitVec 24) (stages : List (BitVec 64)) : Sized.Statement (.fuse c bM1 stages) := by simp [Sized.Statement, Sized.carried, Instr.wellFormed]; omega
theorem Sized.clear (c : CoreId) (tap : TapId) : Sized.Statement (.clear c tap) := fun _ => Nat.zero_le _
theorem Sized.arm (c : CoreId) (tap : TapId) : Sized.Statement (.arm c tap) := fun _ => Nat.zero_le _
theorem Sized.stop (c : CoreId) (tap : TapId) : Sized.Statement (.stop c tap) := fun _ => Nat.zero_le _
theorem Sized.emit (c : CoreId) (tap : TapId) (vd : VReg) : Sized.Statement (.emit c tap vd) := fun _ => Nat.zero_le _
theorem Sized.panel (a : EaId) (mode : BitVec 2) (haM1 hbM1 : BitVec 4) (srcA srcB : Fin 8) (tM1 : BitVec 11) (ctl : BitVec 24) : Sized.Statement (.panel a mode haM1 hbM1 srcA srcB tM1 ctl) := fun _ => Nat.zero_le _
theorem Sized.presentation (a : EaId) : Sized.Statement (.presentation a) := fun _ => Nat.zero_le _
theorem Sized.drain (a : EaId) (trn tap : Bool) (ddesc : Fin 16) (inc : BitVec 2) (ctr : Ctr) (tilesM1 ofs : BitVec 7) (first : BitVec 24) : Sized.Statement (.drain a trn tap ddesc inc ctr tilesM1 ofs first) := fun _ => Nat.zero_le _
theorem Sized.drainRow (a : EaId) (row : BitVec 4096) (psn : Bool) : Sized.Statement (.drainRow a row psn) := fun _ => Nat.zero_le _
theorem Sized.waitc (a : EaId) (ctr : Ctr) (step : BitVec 14) : Sized.Statement (.waitc a ctr step) := fun _ => Nat.zero_le _
theorem Sized.clip (a : EaId) (sM1 : Fin 8) : Sized.Statement (.clip a sM1) := fun _ => Nat.zero_le _
theorem Sized.clipEmit (a : EaId) (mask : BitVec 3) : Sized.Statement (.clipEmit a mask) := fun _ => Nat.zero_le _
theorem Sized.send (a : EaId) (ddesc : Fin 16) (ctr : Ctr) (idx : BitVec 24) : Sized.Statement (.send a ddesc ctr idx) := fun _ => Nat.zero_le _
theorem Sized.clipWait (a : EaId) (ctr : Ctr) (step : BitVec 14) : Sized.Statement (.clipWait a ctr step) := fun _ => Nat.zero_le _
theorem Sized.sum (a : EaId) (ddesc : Fin 16) (nM1 : BitVec 24) : Sized.Statement (.sum a ddesc nM1) := fun _ => Nat.zero_le _
theorem Sized.scale (a : EaId) (m : Word) : Sized.Statement (.scale a m) := fun _ => Nat.zero_le _
theorem Sized.bcast (a : EaId) (ddesc : Fin 16) (ctr : Ctr) : Sized.Statement (.bcast a ddesc ctr) := fun _ => Nat.zero_le _
theorem Sized.store (a : EaId) (ddesc : Fin 16) : Sized.Statement (.store a ddesc) := fun _ => Nat.zero_le _
theorem Sized.endw (a : EaId) : Sized.Statement (.endw a) := fun _ => Nat.zero_le _
theorem Sized.itemStart (ag : Agent) : Sized.Statement (.itemStart ag) := fun _ => Nat.zero_le _
theorem Sized.fetchTransfer (c : CoreId) (nM1 : Fin 4) : Sized.Statement (.fetchTransfer c nM1) := fun _ => Nat.zero_le _
theorem Sized.storePathWrite (c : CoreId) : Sized.Statement (.storePathWrite c) := fun _ => Nat.zero_le _
theorem Sized.ladleStart (cl : ClusterId) : Sized.Statement (.ladleStart cl) := fun _ => Nat.zero_le _
theorem Sized.blockStart (ch : ChanId) : Sized.Statement (.blockStart ch) := fun _ => Nat.zero_le _
theorem Sized.beatSlotGrant : Sized.Statement (.beatSlotGrant) := fun _ => Nat.zero_le _
theorem Sized.transferComplete (ch : ChanId) : Sized.Statement (.transferComplete ch) := fun _ => Nat.zero_le _
theorem Sized.farXlate (ch : ChanId) (addr : BitVec 48) : Sized.Statement (.farXlate ch addr) := fun _ => Nat.zero_le _
theorem Sized.farResponse (ch : ChanId) (data : Bits) (cycles : Nat) : Sized.Statement (.farResponse ch data cycles) := fun _ => Nat.zero_le _
theorem Sized.rearm (ch : ChanId) : Sized.Statement (.rearm ch) := fun _ => Nat.zero_le _
theorem Sized.listEnd (ch : ChanId) : Sized.Statement (.listEnd ch) := fun _ => Nat.zero_le _
theorem Sized.flitAccept (st : StreamId) : Sized.Statement (.flitAccept st) := fun _ => Nat.zero_le _
theorem Sized.linkSlot : Sized.Statement (.linkSlot) := fun _ => Nat.zero_le _
theorem Sized.wr (link : Bool) (f : Flit) : Sized.Statement (.wr link f) := fun _ => Nat.zero_le _
theorem Sized.rdReq (link : Bool) (f : Flit) : Sized.Statement (.rdReq link f) := fun _ => Nat.zero_le _
theorem Sized.rdRsp (link : Bool) (f : Flit) : Sized.Statement (.rdRsp link f) := fun _ => Nat.zero_le _
theorem Sized.inc (link : Bool) (f : Flit) : Sized.Statement (.inc link f) := fun _ => Nat.zero_le _
theorem Sized.add (link : Bool) (f : Flit) : Sized.Statement (.add link f) := fun _ => Nat.zero_le _
theorem Sized.cred (link : Bool) (f : Flit) : Sized.Statement (.cred link f) := fun _ => Nat.zero_le _
theorem Sized.cret (link : Bool) (f : Flit) : Sized.Statement (.cret link f) := fun _ => Nat.zero_le _
theorem Sized.nack (link : Bool) (f : Flit) : Sized.Statement (.nack link f) := fun _ => Nat.zero_le _
theorem Sized.tickMarker (f : Flit) (since : Fin 16) : Sized.Statement (.tickMarker f since) := fun _ => Nat.zero_le _
theorem Sized.flitForward (link : Bool) (f : Flit) : Sized.Statement (.flitForward link f) := fun _ => Nat.zero_le _
theorem Sized.recall (st : StoreId) : Sized.Statement (.recall st) := fun _ => Nat.zero_le _
theorem Sized.nakRetry : Sized.Statement (.nakRetry) := fun _ => Nat.zero_le _
theorem Sized.laneSwap (l : LaneId) : Sized.Statement (.laneSwap l) := fun _ => Nat.zero_le _
theorem Sized.spareReadyTimeout (l : LaneId) : Sized.Statement (.spareReadyTimeout l) := fun _ => Nat.zero_le _
theorem Sized.linkRetrain (lostLane : Option LaneId) : Sized.Statement (.linkRetrain lostLane) := fun _ => Nat.zero_le _
theorem Sized.retrainDone (ok : Bool) : Sized.Statement (.retrainDone ok) := fun _ => Nat.zero_le _
theorem Sized.linkTrain (ok : Bool) (lat : BitVec 16) : Sized.Statement (.linkTrain ok lat) := fun _ => Nat.zero_le _
theorem Sized.tick (num : Option Word) (skew : Int) : Sized.Statement (.tick num skew) := fun _ => Nat.zero_le _
theorem Sized.tickSelf : Sized.Statement (.tickSelf) := fun _ => Nat.zero_le _
theorem Sized.lock : Sized.Statement (.lock) := fun _ => Nat.zero_le _
theorem Sized.tickLost : Sized.Statement (.tickLost) := fun _ => Nat.zero_le _
theorem Sized.seqEntryEnd (p : Part) : Sized.Statement (.seqEntryEnd p) := fun _ => Nat.zero_le _
theorem Sized.stallCycle (ag : Agent) : Sized.Statement (.stallCycle ag) := fun _ => Nat.zero_le _
theorem Sized.dsRefreshWindow (lanes : List (Nat × Nat)) (failed : List Nat) : Sized.Statement (.dsRefreshWindow lanes failed) := fun _ => Nat.zero_le _
theorem Sized.patrolScrub : Sized.Statement (.patrolScrub) := fun _ => Nat.zero_le _
theorem Sized.powerIntervalStart (d : DomId) : Sized.Statement (.powerIntervalStart d) := fun _ => Nat.zero_le _
theorem Sized.portClose (st : StoreId) : Sized.Statement (.portClose st) := fun _ => Nat.zero_le _
theorem Sized.wake (d : DomId) : Sized.Statement (.wake d) := fun _ => Nat.zero_le _
theorem Sized.droopExhausted : Sized.Statement (.droopExhausted) := fun _ => Nat.zero_le _
theorem Sized.vwarn : Sized.Statement (.vwarn) := fun _ => Nat.zero_le _
theorem Sized.droop : Sized.Statement (.droop) := fun _ => Nat.zero_le _
theorem Sized.vreset : Sized.Statement (.vreset) := fun _ => Nat.zero_le _
theorem Sized.vresetRecovery : Sized.Statement (.vresetRecovery) := fun _ => Nat.zero_le _
theorem Sized.ageingSample (code : BitVec 16) : Sized.Statement (.ageingSample code) := fun _ => Nat.zero_le _
theorem Sized.aonPwrOk (high pllLock : Bool) : Sized.Statement (.aonPwrOk high pllLock) := fun _ => Nat.zero_le _
theorem Sized.rstChipN (high : Bool) : Sized.Statement (.rstChipN high) := fun _ => Nat.zero_le _
theorem Sized.pwrVidAck : Sized.Statement (.pwrVidAck) := fun _ => Nat.zero_le _
theorem Sized.vidAckTimeout : Sized.Statement (.vidAckTimeout) := fun _ => Nat.zero_le _
theorem Sized.ident (p : ChainPkt) : Sized.Statement (.ident p) := by simp [Sized.Statement, Sized.carried, Instr.wellFormed, packetSized]; omega
theorem Sized.address (p : ChainPkt) : Sized.Statement (.address p) := by simp [Sized.Statement, Sized.carried, Instr.wellFormed, packetSized]; omega
theorem Sized.rd (p : ChainPkt) : Sized.Statement (.rd p) := by simp [Sized.Statement, Sized.carried, Instr.wellFormed, packetSized]; omega
theorem Sized.testGo (r : TestResult) : Sized.Statement (.testGo r) := by simp [Sized.Statement, Sized.carried, Instr.wellFormed, resultOk]; omega
theorem Sized.resetCore (c : CoreId) : Sized.Statement (.resetCore c) := fun _ => Nat.zero_le _
theorem Sized.resetCluster (cl : ClusterId) : Sized.Statement (.resetCluster cl) := fun _ => Nat.zero_le _
theorem Sized.resetPartition (p : Part) : Sized.Statement (.resetPartition p) := fun _ => Nat.zero_le _
theorem Sized.resetUnit (linkKeep : Bool) : Sized.Statement (.resetUnit linkKeep) := fun _ => Nat.zero_le _
theorem Sized.errorReset (c : CoreId) : Sized.Statement (.errorReset c) := fun _ => Nat.zero_le _
theorem Sized.taskStart (p : Part) (seq : Fin 16) (frame : Word) : Sized.Statement (.taskStart p seq frame) := fun _ => Nat.zero_le _
theorem Sized.loadBegin (source timeout : BitVec 16) : Sized.Statement (.loadBegin source timeout) := fun _ => Nat.zero_le _
theorem Sized.transportBlock (b : Block) : Sized.Statement (.transportBlock b) := by simp [Sized.Statement, Sized.carried, Instr.wellFormed, blockSized]; omega
theorem Sized.endMarker (b : Block) : Sized.Statement (.endMarker b) := by simp [Sized.Statement, Sized.carried, Instr.wellFormed, blockSized]; omega
theorem Sized.loadGate : Sized.Statement (.loadGate) := fun _ => Nat.zero_le _
theorem Sized.loadIncomplete : Sized.Statement (.loadIncomplete) := fun _ => Nat.zero_le _
theorem Sized.repairAuth (fcrc : Byte) : Sized.Statement (.repairAuth fcrc) := fun _ => Nat.zero_le _
theorem Sized.fuseProgDbgDisable : Sized.Statement (.fuseProgDbgDisable) := fun _ => Nat.zero_le _
theorem Sized.fuseProgSigRequired : Sized.Statement (.fuseProgSigRequired) := fun _ => Nat.zero_le _
theorem Sized.fuseProgDetached : Sized.Statement (.fuseProgDetached) := fun _ => Nat.zero_le _
theorem Sized.fuseProgKeyHash : Sized.Statement (.fuseProgKeyHash) := fun _ => Nat.zero_le _
theorem Sized.fuseWriteDone (readBack : List (BitVec 64)) : Sized.Statement (.fuseWriteDone readBack) := by simp [Sized.Statement, Sized.carried, Instr.wellFormed]; omega
theorem Sized.detach : Sized.Statement (.detach) := fun _ => Nat.zero_le _
theorem Sized.preempt (p : Part) : Sized.Statement (.preempt p) := fun _ => Nat.zero_le _
theorem Sized.resume (p : Part) : Sized.Statement (.resume p) := fun _ => Nat.zero_le _
theorem Sized.haltCommand (p : Part) (save : Bool) : Sized.Statement (.haltCommand p save) := fun _ => Nat.zero_le _
theorem Sized.routeLoad (c : CoreId) (slot : Fin 64) (record : Option (List Byte)) : Sized.Statement (.routeLoad c slot record) := by
  cases record <;> simp [Sized.Statement, Sized.carried, Instr.wellFormed, recordSized]; omega
theorem Sized.whiskLoad (cl : ClusterId) (slot : Fin 32) (record : Option (List Byte)) : Sized.Statement (.whiskLoad cl slot record) := by
  cases record <;> simp [Sized.Statement, Sized.carried, Instr.wellFormed, recordSized]; omega
theorem Sized.dump (c : CoreId) : Sized.Statement (.dump c) := fun _ => Nat.zero_le _
theorem Sized.pwrForce (d : BitVec 5) (cap : BitVec 2) : Sized.Statement (.pwrForce d cap) := fun _ => Nat.zero_le _
theorem Sized.seqNext (p : Part) (v : Word) : Sized.Statement (.seqNext p v) := fun _ => Nat.zero_le _
theorem Sized.cancel (p : Part) (v : Word) : Sized.Statement (.cancel p v) := fun _ => Nat.zero_le _
theorem Sized.errAck (n : BitVec 7) : Sized.Statement (.errAck n) := fun _ => Nat.zero_le _
theorem Sized.tickCfgWrite (v : Word) : Sized.Statement (.tickCfgWrite v) := fun _ => Nat.zero_le _
theorem Sized.registerWrite (off : BitVec 20) (v : Word) : Sized.Statement (.registerWrite off v) := fun _ => Nat.zero_le _
theorem Sized.idcode : Sized.Statement (.idcode) := fun _ => Nat.zero_le _
theorem Sized.window (dr : BitVec 72) : Sized.Statement (.window dr) := fun _ => Nat.zero_le _
theorem Sized.tickGenerator : Sized.Statement (.tickGenerator) := fun _ => Nat.zero_le _
theorem Sized.idle (f : Flit) : Sized.Statement (.idle f) := fun _ => Nat.zero_le _
theorem Sized.flitCrcFail (link : Bool) (f : Flit) : Sized.Statement (.flitCrcFail link f) := fun _ => Nat.zero_le _
theorem Sized.candidateSpareReady (l : LaneId) : Sized.Statement (.candidateSpareReady l) := fun _ => Nat.zero_le _
theorem Sized.gatedAfterIdle (d : DomId) : Sized.Statement (.gatedAfterIdle d) := fun _ => Nat.zero_le _

end Sys2Proof.Laws
end

