-- ==== Sys2Proof/Laws/Tiles.lean ====
section
/-! SUPPORT. Multi-beat instructions: what launching one does, and what its pushes and its takes do. -/

namespace Sys2Proof.Machine

theorem modCore_modCore (s : State) (c : CoreId) (f g : Core → Core) :
    modCore (modCore s c f) c g = modCore s c (fun x => g (f x)) := by
  simp [modCore]

/-- A change that leaves its core as it was changes nothing. -/
theorem modCore_id (s : State) (c : CoreId) (f : Core → Core) (h : f s.cores[c] = s.cores[c]) : modCore s c f = s := by
  unfold modCore; rw [h]; simp

/-! ### Progress -/

/-- A domain that an access would wake. -/
def Sleeps (s : State) (d : DomId) : Prop := s.pwr.dom[d].ps = .gated ∧ s.pwr.dom[d].forced = none

theorem touchDom_awake {s : State} {d : DomId} (h : ¬Sleeps s d) : touchDom s d = s := if_neg h

theorem not_sleeps_touched (s : State) (d : DomId) : ¬Sleeps (touchDom s d) d := by
  unfold touchDom; split
  · simp [Sleeps]
  · assumption

theorem not_sleeps_touch {s : State} {d : DomId} (h : ¬Sleeps s d) (e : DomId) : ¬Sleeps (touchDom s e) d := by
  rcases (touchDom_woken s e).2 d with q | ⟨-, q⟩ <;> simp only [Sleeps, q]
  · exact h
  · simp

theorem touchAg_again (s : State) (c : CoreId) : touchAg (touchAg s (.core c)) (.core c) = touchAg s (.core c) := by
  simp only [touchAg]
  rw [touchDom_awake (d := ⟨3 + c.val / 4, by omega⟩), touchDom_awake]
  · exact not_sleeps_touched _ _
  · exact not_sleeps_touch (not_sleeps_touched _ _) _

/-- Waking domains and changing a core do not meet. -/
theorem touchAg_modCore (s : State) (c : CoreId) (f : Core → Core) :
    touchAg (modCore s c f) (.core c) = modCore (touchAg s (.core c)) c f := by
  have t : ∀ (s : State) (d : DomId), touchDom (modCore s c f) d = modCore (touchDom s d) c f := by
    intro s d; unfold touchDom
    have : (modCore s c f).pwr = s.pwr := rfl
    simp only [this]
    split <;> rfl
  simp only [touchAg, t]

theorem progress_eq (s : State) (c : CoreId) : progress s (.core c) =
    touchAg (modCore s c (fun x => { x with ag := { x.ag with progressed := true, wait := none } })) (.core c) := rfl

/-- Progress and a change of the core that leaves its agent alone do not meet. -/
theorem progress_modCore (s : State) (c : CoreId) (f : Core → Core)
    (h : ∀ (x : Core) (g : AgentSt), f { x with ag := g } = { f x with ag := g }) (k : ∀ x, (f x).ag = x.ag) :
    progress (modCore s c f) (.core c) = modCore (progress s (.core c)) c f := by
  simp only [progress_eq, touchAg_modCore, modCore_modCore]
  congr 1
  funext x
  exact (congrArg (fun g : AgentSt => ({ f x with ag := { g with progressed := true, wait := none } } : Core)) (k x)).trans
    (h x { x.ag with progressed := true, wait := none }).symm

/-- Progress twice over is progress once. -/
theorem progress_progress (s : State) (c : CoreId) : progress (progress s (.core c)) (.core c) = progress s (.core c) := by
  simp only [progress_eq]
  rw [← touchAg_modCore, touchAg_again, modCore_modCore]

/-! ### Pushes -/

/-- Entries with their own addresses are pushed while there is room (R89). -/
theorem pushSome_own (c : CoreId) : ∀ (es : List SqEntry) (s : State), s.cores[c].errDue = false →
    pushSome c (es.map .own) s = (modCore s c (fun x => { x with sq := x.sq ++ es.take (room s.cores[c]) }),
      (es.drop (room s.cores[c])).map .own)
  | [], s, _ => by
    have : modCore s c (fun x => { x with sq := x.sq ++ List.take (room s.cores[c]) [] }) = s :=
      modCore_id s c _ (by simp)
    simp only [List.map_nil, pushSome, List.drop_nil]; rw [this]
  | e :: r, s, h => by
    simp only [List.map_cons, pushSome]
    rw [if_neg (by rw [h]; simp)]
    split
    · rename_i q
      have z : room s.cores[c] = 0 := by unfold room; omega
      simp only [z, List.take_zero, List.append_nil, List.drop_zero, List.map_cons]
      rw [modCore_id s c _ rfl]
    · rename_i q
      obtain ⟨n, hn⟩ : ∃ n, room s.cores[c] = n + 1 := ⟨15 - s.cores[c].sq.length, by unfold room; omega⟩
      have hr : room (pushBeat s c (.own e)).cores[c] = n := by
        simp only [pushBeat, pushOwn, modCore_self, room, List.length_append, List.length_cons, List.length_nil] at hn ⊢
        omega
      have he : (pushBeat s c (.own e)).cores[c].errDue = false := by simp only [pushBeat, pushOwn, modCore_self]; exact h
      rw [pushSome_own c r _ he, hr, hn]
      simp only [pushBeat, pushOwn, modCore_modCore, List.take_succ_cons, List.drop_succ_cons, List.append_assoc,
        List.singleton_append]

/-! ### Launch -/

/-- A core that runs launches an instruction with none before it: it goes on at once, and is kept when it has not completed
(R87). -/
theorem launch_eq {s : State} {c : CoreId} {adv : State → State} (p : Prog) (n : Nat)
    (hp : (adv s).cores[c].prog = []) (hr : (adv s).cores[c].st = .run) :
    launch s c p n adv = (let q := runProg c (p.need + 3) p (retire (adv s) c n)
      match q.2 with
      | some p => if q.1.cores[c].st = .run then modCore q.1 c (fun x => { x with prog := x.prog ++ [p] }) else q.1
      | none => q.1) := by
  have hc : (retire (adv s) c n).cores[c].prog = [] ∧ (retire (adv s) c n).cores[c].st = .run := by
    unfold retire; rw [(progress_core _ c).2, modCore_self]; exact ⟨hp, hr⟩
  unfold launch runProgs
  rw [modCore_self, modCore_modCore, modCore_id _ c _ (by rw [← hc.1])]
  simp only [hc.1, List.nil_append, runList, hc.2]
  simp only [ne_eq, not_true_eq_false, if_false] <;> rfl

end Sys2Proof.Machine
end

