-- ==== Sys2Proof/Tests/Slice0.lean ====
section
/-! SUPPORT. Tests of the model: ill-formed terms that each check of WellFormed.lean refuses, the spec's worked examples, and
for every statement with hypotheses states that meet them, clause by clause. -/

namespace Sys2Proof.Tests
set_option Elab.async false
open Sys2Proof Sys2Proof.Machine

/-! ### What each check of WellFormed.lean refuses -/

theorem test_cvt_refused : Instr.wellFormed (.cvt 0 0 0 23 0 false false 0 0) = false := by decide
theorem test_cvt_target_refused : Instr.wellFormed (.cvt 0 0 0 0 31 false false 0 0) = false := by decide
theorem test_pack_refused : Instr.wellFormed (.pack 0 false 0 0 0 23) = false := by decide
theorem test_unpk_refused : Instr.wellFormed (.unpk 0 false 0 (.queue 23 0) 0) = false := by decide
theorem test_unpk_mem_refused : Instr.wellFormed (.unpk 0 false 0 (.mem 0 0) 23) = false := by decide
theorem test_rwt_refused : Instr.wellFormed (.rwt 0 false 3 0 0 0 0 0) = false := by decide
theorem test_rrd_refused : Instr.wellFormed (.rrd 0 false 3 0 0 0 0) = false := by decide
theorem test_rinc_refused : Instr.wellFormed (.rinc 0 false false true 0 0 0 0) = false := by decide
theorem test_fuse_refused : Instr.wellFormed (.fuse 0 0 []) = false := by decide
theorem test_fuse_long_refused : Instr.wellFormed (.fuse 0 0 [0, 0, 0, 0, 0, 0, 0]) = false := by decide
theorem test_panel_refused : Instr.wellFormed (.panel 0 3 0 0 0 0 0 0) = false := by decide
theorem test_drain_refused : Instr.wellFormed (.drain 0 false false 0 3 0 0 0 0) = false := by decide
theorem test_block_refused : Instr.wellFormed (.transportBlock ⟨[0], 0⟩) = false := by decide
theorem test_marker_refused : Instr.wellFormed (.endMarker ⟨[], 0⟩) = false := by decide
theorem test_packet_refused : Instr.wellFormed (.rd ⟨0, List.replicate 256 0, 0⟩) = false := by decide +kernel
theorem test_route_record_refused : Instr.wellFormed (.routeLoad 0 0 (some [0])) = false := by decide
theorem test_whisk_record_refused : Instr.wellFormed (.whiskLoad 0 0 (some [])) = false := by decide
theorem test_row_refused : Instr.wellFormed (.testGo ⟨[(64, 0)], [], true, 0, 0, 0, List.replicate 28 0⟩) = false := by decide
theorem test_lane_refused : Instr.wellFormed (.testGo ⟨[], [(0, 256)], true, 0, 0, 0, List.replicate 28 0⟩) = false := by decide
theorem test_codes_refused : Instr.wellFormed (.testGo ⟨[], [], true, 0, 0, 0, []⟩) = false := by decide
theorem test_window_lane_refused : Instr.wellFormed (.dsRefreshWindow [(8448, 1)] []) = false := by decide
theorem test_failed_lane_refused : Instr.wellFormed (.dsRefreshWindow [] [8448]) = false := by decide
theorem test_read_back_refused : Instr.wellFormed (.fuseWriteDone [0, 0]) = false := by decide
theorem test_seq_next_refused : Instr.wellFormed (.seqNext 0 0x40000000) = false := by decide
theorem test_cancel_refused : Instr.wellFormed (.cancel 0 0) = false := by decide

/-! ### States to test on -/

/-- A unit that runs, with an item running on every core and attachment, in no reserved window. -/
def on : State :=
  { State.reset with
    u := { state := .running, step := 7, blendOk := true, lcores := 16, gangOk := 0xF, ladleOk := 0xF, eaOk := 3 }
    fr := { State.reset.fr with scrubOff := 1000 }
    cores := Vector.replicate 16 { st := .run, ag := { run := some 0 } }
    eif := Vector.replicate 2 { ag := { run := some 0 } } }

/-- The same unit with core 0 changed. -/
def onCore (f : Core → Core) : State := modCore on 0 f
/-- The same unit with attachment 0 changed. -/
def onEa (f : Attach → Attach) : State := { on with eif := on.eif.set 0 (f on.eif[(0 : Fin 2)]) }
/-- The same unit with channel 0 changed. -/
def onChan (f : Chan → Chan) : State := modChan on 0 f
/-- A unit that waits for commands in READY. -/
def ready : State := { State.reset with u := { state := .ready, step := 7, blendOk := true } }

/-- A descriptor of rank 1: address, space, format, layout 0, size. -/
def td (base space fmt size : Nat) : Desc := BitVec.ofNat 512 (base + space * 2 ^ 48 + fmt * 2 ^ 50 + 2 ^ 58 + (size - 1) * 2 ^ 64)

/-- Core 0 with descriptor `d` in d0. -/
def withTd (d : Desc) : State := onCore (fun k => { k with d := k.d.set 0 d })

/-! ### Core instructions -/

theorem witness_ready : Ready on 0 := by unfold Ready; decide +kernel

theorem witness_not_ready : instrCore (.nop 0) = some 0 ∧ canIssue State.reset 0 = false := by decide +kernel

theorem witness_past_the_end : let s := onCore (fun k => { k with pc := 2048 })
    canIssue s 0 = true ∧ s.cores[(0 : Fin 16)].prog = [] ∧ 2048 ≤ s.cores[(0 : Fin 16)].pc := by
  decide +kernel

theorem witness_control :
    (Ready on 0 ∧ syncBusy on 0 = false ∧ ¬ (on.cores[(0 : Fin 16)].ag.run = some on.fr.ctr ∧ on.fr.cyc < (0 : BitVec 24).toNat)) ∧
    on.cores[(0 : Fin 16)].loops.length < 4 ∧
    (let s := onCore (fun k => { k with loops := List.replicate 3 ⟨0, 0, 0⟩ }); Ready s 0 ∧ s.cores[(0 : Fin 16)].loops.length < 4) ∧
    (let s := onCore (fun k => { k with loops := [⟨1, 5, 0⟩] }); Ready s 0 ∧ s.cores[(0 : Fin 16)].loops = ⟨1, 5, 0⟩ :: []) ∧
    (let s := onCore (fun k => { k with loops := [⟨1, 5, 1⟩] }); Ready s 0 ∧ s.cores[(0 : Fin 16)].loops = ⟨1, 5, 1⟩ :: []) ∧
    on.cores[(0 : Fin 16)].sq = [] := by
  unfold Ready; decide +kernel

theorem witness_wcnt :
    (Ready on 0 ∧ syncBusy on 0 = false ∧ HwFault.cntParity 0 ∉ on.hwf) ∧
    ((ctrOf on 0).psn = false ∧ ((ctrOf on 0).val - on.cores[(0 : Fin 16)].s[(0 : SReg)]).toNat < 2 ^ 31) ∧
    (let s := { on with cnt := [(0, { psn := true })] }; Ready s 0 ∧ syncBusy s 0 = false ∧ (ctrOf s 0).psn = true) ∧
    (let s := onCore (fun k => { k with s := k.s.set 0 0x80000000 })
     Ready s 0 ∧ syncBusy s 0 = false ∧ (ctrOf s 0).psn = false ∧ 2 ^ 31 ≤ ((ctrOf s 0).val - s.cores[(0 : Fin 16)].s[(0 : SReg)]).toNat) ∧
    (let s := onCore (fun k => { k with s := k.s.set 0 0x80000001 })
     Ready s 0 ∧ ((ctrOf s 0).val - s.cores[(0 : Fin 16)].s[(0 : SReg)]).toNat < 2 ^ 31) ∧
    (on.cores[(0 : Fin 16)].sq = [] ∧ crosses on (corePart 0) (ctrPart on 0) = false) := by
  unfold Ready; decide +kernel

/-- Core 0 with a store list of one block of `n` beats, which takes a credit of counter 5 when `cred`. -/
def storing (n : Nat) (cred : Bool) : State :=
  let s := onCore (fun k => { k with storeList := some ⟨0, 1⟩ })
  { s with
    mov := { s.mov with mem := [(0, BitVec.ofNat 256 ((if cred then 2 ^ 14 + 5 * 2 ^ 15 else 0) + (256 * n - 1) * 2 ^ 132))] }
    cnt := [(5, { val := 1 })] }

theorem witness_queues :
    (let s := onCore (fun k => { k with lq := [{ data := 5, psn := true }] })
     Ready s 0 ∧ s.cores[(0 : Fin 16)].lq = { data := 5, psn := true } :: []) ∧
    (∀ b ∈ [false, true], let s := storing 1 b
     let k := s.cores[(0 : Fin 16)]
     let e := listEntry s 0
     Ready s 0 ∧ k.storeList = some ⟨0, 1⟩ ∧ 0 < storeLeft s 0 ∧ k.sq.length < 16 ∧ HwFault.listUe 0 ∉ s.hwf ∧
       HwFault.listCe 0 ∉ s.hwf ∧ k.storePos.beat = 0 ∧ coreBlockCheck e (blockDesc k e false) false = none ∧ bCredEn e = b ∧
       HwFault.cntParity 5 ∉ s.hwf ∧ (b = true → bCredCtr e = 5) ∧ crosses s 0 (ctrPart s 5) = false ∧ creditOk (ctrOf s 5) = true) ∧
    (let s := modCore (storing 2 false) 0 (fun k => { k with storePos := ⟨0, 1⟩ }); s.cores[(0 : Fin 16)].storePos.beat ≠ 0 ∧ 0 < storeLeft s 0) := by
  unfold Ready; decide +kernel

theorem witness_vld_vst :
    (let s := withTd (td 0 0 0 64)
     Ready s 0 ∧ checkTd s.cores[(0 : Fin 16)].d[(0 : DReg)] false beatOk = none ∧ anyWindow s = false ∧ s.cores[(0 : Fin 16)].sq.length < 16) ∧
    (Ready on 0 ∧ checkTd on.cores[(0 : Fin 16)].d[(0 : DReg)] false beatOk = some .tdInvalid) ∧
    (let s := withTd (td 0 0 0 65)
     checkTd s.cores[(0 : Fin 16)].d[(0 : DReg)] false beatOk = none) := by
  unfold Ready; decide +kernel

theorem witness_words : crosses on 0 (addrPart on (64 * 0)) = false ∧ (portOf on (storeOf (64 * 0))).isOpen = true ∧
    isNs (64 * 0) = true ∧ isNs (64 * 0x1000000) = false ∧ isWritten on.mem (granuleOf (64 * 0x1000000)) = false ∧
    (let s := { on with mem := { on.mem with allWritten := true } }
     isWritten s.mem (granuleOf (64 * 0x1000000)) = true ∧ (portOf s (storeOf (64 * 0x1000000))).isOpen = true ∧
       crosses s 0 (addrPart s (64 * 0x1000000)) = false) := by
  decide +kernel

/-- Core 0 with a full Trivet t0 of one row. -/
def trivet1 : Trivet := { cls := .w16, full := true, rows := 1, cols := 128, data := [1] }

theorem witness_trivets :
    (Ready on 0 ∧ on.cores[(0 : Fin 16)].t[(0 : TrivetId)].full = false ∧ (31 : VReg).val + (0 : BitVec 7).toNat + 1 ≤ 32) ∧
    (let s := onCore (fun k => { k with t := k.t.set 0 trivet1 })
     let x := s.cores[(0 : Fin 16)].t[(0 : TrivetId)]
     Ready s 0 ∧ x.full = true ∧ (31 : VReg).val + (0 : BitVec 11).toNat + 1 ≤ 32 ∧ (127 : BitVec 11).toNat + (0 : BitVec 11).toNat + 1 ≤ beatsHeld x) ∧
    (let s := onCore (fun k => { k with d := k.d.set 0 (td 0 0 2 64), t := k.t.set 0 { cls := .w16 } })
     let k := s.cores[(0 : Fin 16)]
     Ready s 0 ∧ checkTd k.d[(0 : DReg)] false isLocal = none ∧ tdClass k.d[(0 : DReg)] = k.t[(0 : TrivetId)].cls ∧
       k.t[(0 : TrivetId)].full = false ∧ anyWindow s = false) := by
  unfold Ready; decide +kernel

/-- Core 0 with that Trivet, a descriptor of its class in d0, and `n` entries in the store queue. -/
def trdS (n : Nat) : State := onCore (fun k => { k with
  d := k.d.set 0 (td 0 0 2 64), t := k.t.set 0 trivet1, sq := List.replicate n { dst := .mem [], psn := false } })

/-- TRD of two columns to memory, with room in the store queue for both or for one. -/
theorem witness_trd_memory : ∀ n ∈ [14, 15], let s := trdS n
    let k := s.cores[(0 : Fin 16)]
    let es := (List.range ((1 : BitVec 11).toNat + 1)).flatMap (fun (i : Nat) => columnEntries k.t[(0 : TrivetId)] k.d[(0 : DReg)] 0 ((0 : Int) + (i : Int)) (126 + i))
    Ready s 0 ∧ checkTd k.d[(0 : DReg)] false isLocal = none ∧ tdClass k.d[(0 : DReg)] = k.t[(0 : TrivetId)].cls ∧
      k.t[(0 : TrivetId)].full = true ∧ (126 : BitVec 11).toNat + (1 : BitVec 11).toNat + 1 ≤ k.t[(0 : TrivetId)].cols ∧
      (n = 14 → es.length ≤ room k) ∧ (n = 15 → room k < es.length) := by
  unfold Ready; decide +kernel

theorem witness_twr_queue :
    (let s := onCore (fun k => { k with lq := [{ data := 1, psn := false }] })
     let k := s.cores[(0 : Fin 16)]
     Ready s 0 ∧ k.t[(0 : TrivetId)].full = false ∧ k.lq = [{ data := 1, psn := false }] ++ [] ∧
       [({ data := 1, psn := false } : LqBeat)].length = (0 : BitVec 7).toNat + 1 ∧ ∀ b ∈ [({ data := 1, psn := false } : LqBeat)], b.inc = none) ∧
    (let s := onCore (fun k => { k with loadList := some ⟨0, 1⟩, lq := [{ data := 1, psn := false }] })
     let k := s.cores[(0 : Fin 16)]
     Ready s 0 ∧ k.lq.length < (1 : BitVec 7).toNat + 1 ∧ (1 : BitVec 7).toNat + 1 ≤ lqAvail s 0 ∧ ∀ b ∈ k.lq, b.inc = none) := by
  unfold Ready; decide +kernel

/-- TRD of two beats at the store list, with room in the store queue for both or for one. -/
theorem witness_trd_queue : ∀ n ∈ [14, 15],
    let s := modCore (storing 2 false) 0 (fun k => { k with t := k.t.set 0 trivet1, sq := List.replicate n { dst := .mem [], psn := false } })
    let k := s.cores[(0 : Fin 16)]
    let q := pushSome 0 ((span (0 : BitVec 11).toNat ((1 : BitVec 11).toNat + 1)).map (fun j => .list (trivetBeat k.t[(0 : TrivetId)] j) k.t[(0 : TrivetId)].psn)) (retire s 0 1)
    Ready s 0 ∧ k.t[(0 : TrivetId)].full = true ∧ (0 : BitVec 11).toNat + (1 : BitVec 11).toNat + 1 ≤ beatsHeld k.t[(0 : TrivetId)] ∧
      (1 : BitVec 11).toNat + 1 ≤ storeLeft s 0 ∧ q.1.cores[(0 : Fin 16)].errDue = false ∧ (q.2 = []) = (n = 14) := by
  unfold Ready; decide +kernel

/-- A PRMG of a gang whose cores agree. -/
def prmg0 : Present := { e := 4, vd := 0, va := 1, src := .route 0 }

/-- The cores of cluster 0 with routes for gang route 0, and the Whisk slot loaded. -/
def gang (present : Bool) : State :=
  { on with
    cores := on.cores.mapFinIdx (fun i k _ => if i < 4 then
      { k with routes := [(0, { tag := 0x14 }), (1, { tag := 0x1C })], present := if present && decide (0 < i) then some prmg0 else none } else k)
    cls := on.cls.set 0 { on.cls[(0 : Fin 4)] with whiskLoaded := 1, whisk := [(0, 1)] } }

/-- The map i to i of the 128 elements of 16 bits, in d0. -/
def mapD : Desc := BitVec.ofNat 512 (7 + 2 ^ 32 + 2 * 2 ^ 48 + 4 * 2 ^ 64 + 8 * 2 ^ 80 + 16 * 2 ^ 96 + 32 * 2 ^ 112 + 64 * 2 ^ 128)

theorem witness_prm :
    (let s := onCore (fun k => { k with routes := [(0, { tag := 8 })] })
     Ready s 0 ∧ routeCheck s 0 0 (.slot 0) = none ∧ HwFault.routeUe 0 0 ∉ s.hwf ∧ s.hwf = []) ∧
    (let s := onCore (fun k => { k with d := k.d.set 0 mapD }); Ready s 0 ∧ routeCheck s 0 4 (.map 0) = none ∧ s.hwf = [] ∧
       sumsAgree 4 2048 (readV s 0 0).1.toNat (routeApply s 0 4 s.cores[(0 : Fin 16)].d (.map 0) (readV s 0 0).1).toNat = true) := by
  unfold Ready; decide +kernel

theorem witness_prmg_waits :
    let s := gang false
    Ready s 0 ∧ gangCheck s 0 4 (.route 0) = none ∧ (∃ q : CoreId, clOf q = clOf 0 ∧ q ≠ 0 ∧ s.cores[q].present = none) := by
  unfold Ready; decide +kernel

/-- The four presentations of the gang. -/
def gang4 : List (CoreId × Present) := [(0, prmg0), (1, prmg0), (2, prmg0), (3, prmg0)]

theorem witness_prmg_issues : let s := gang true
    Ready s 0 ∧ gangCheck s 0 4 (.route 0) = none ∧ gangReady (modCore s 0 (fun k => { k with present := some prmg0 })) (clOf 0) = some gang4 ∧
      s.hwf = [] ∧ (∀ q ∈ gang4, gangKey s q.1 q.2 = gangKey s 0 prmg0) := by
  unfold Ready; decide +kernel

/-- A PRMG over the map i to i of the 512 elements of 16 bits. -/
def prmgMap : Present := { e := 4, vd := 0, va := 1, src := .map 0 }

/-- Cluster 0 with that map, where the three other cores present it. -/
def gangMapS : State :=
  { on with cores := on.cores.mapFinIdx (fun i k _ => if i < 4 then
      { k with d := k.d.set 0 (setFld (setFld mapD 0 32 9) 144 32 (128 + 256 * 2 ^ 16)), present := if 0 < i then some prmgMap else none } else k) }

theorem witness_prmg_map : let s := gangMapS
    let ps : List (CoreId × Present) := [(0, prmgMap), (1, prmgMap), (2, prmgMap), (3, prmgMap)]
    Ready s 0 ∧ gangCheck s 0 4 (.map 0) = none ∧ gangReady (modCore s 0 (fun k => { k with present := some prmgMap })) (clOf 0) = some ps ∧
      s.hwf = [] ∧ (∀ q ∈ ps, gangKey s q.1 q.2 = gangKey s 0 prmgMap) ∧
      (let xs := ps.map (fun q => (readV s q.1 q.2.va).1)
       sumsAgree 4 8192 (gangValue xs) (gangValue (gangMap (affineOf s.cores[(0 : Fin 16)].d[(0 : DReg)]) 16 xs)) = true) := by
  unfold Ready; decide +kernel

theorem witness_prmg_differs :
    let s := modCore (gang true) 1 (fun k => { k with present := some { prmg0 with e := 3 } })
    gangReady (modCore s 0 (fun k => { k with present := some prmg0 })) (clOf 0) = some (gang4.set 1 (1, { prmg0 with e := 3 })) ∧
      gangKey s 1 { prmg0 with e := 3 } ≠ gangKey s 0 prmg0 := by
  decide +kernel

/-- Core 0 with a slice in d0, one index in d1, and a destination in d2. -/
def lad : State := onCore (fun k => { k with d := ((k.d.set 0 (td 0 0 0 64)).set 1 (td 0x1000 0 1 1)).set 2 (td 0x2000 0 0 1) })
/-- Their Ladle command. -/
def lad0 : LadCmd := coreLadCmd lad.cores[(0 : Fin 16)].d 0 0 1 0 false
/-- The same core while its Ladle runs a command of another core. -/
def ladBusyS : State := modCl lad 0 (fun k => { k with running := some (.core 1) })

theorem witness_ladle_waits :
    Ready ladBusyS 0 ∧ anyWindow ladBusyS = false ∧ ladBusy ladBusyS (clOf 0) = true ∧ ladBusyS.cls[clOf 0].running ≠ some (.core 0) ∧
      (∀ dst ∈ [GthDst.regs 31, .mem 2], gthCheck ladBusyS 0 lad0 dst = none) ∧
      (∀ src ∈ [SctSrc.regs 31, .mem 2], ∀ acc ∈ [false, true], sctCheck ladBusyS 0 lad0 0 src acc = none) ∧
      (let s := modCl (storing 2 false) 0 (fun k => { k with running := some (.core 1) })
       let s := modCore s 0 (fun k => { k with d := lad.cores[(0 : Fin 16)].d, loadList := some ⟨0, 1⟩ })
       gthCheck s 0 lad0 .queue = none ∧ sctCheck s 0 lad0 0 .queue false = none ∧ ladBeats lad0 ≤ storeLeft s 0 ∧ ladBeats lad0 ≤ lqAvail s 0) := by
  unfold Ready; decide +kernel

theorem witness_gather :
    (Ready lad 0 ∧ anyWindow lad = false ∧ ladBusy lad (clOf 0) = false) ∧
    (gthCheck lad 0 lad0 (.regs 31) = none ∧
      (runGather lad0 (clOf 0) (retire (ladTakes lad (clOf 0) (.core 0)) 0 1)).2.2 = false) ∧
    (∀ n ∈ [15, 16], let s := modCore lad 0 (fun k => { k with sq := List.replicate n { dst := .mem [], psn := false } })
     let g := runGather lad0 (clOf 0) (retire (ladTakes s (clOf 0) (.core 0)) 0 1)
     let es := (gatherEntries g.1 lad0 s.cores[(0 : Fin 16)].d[(2 : DReg)] g.2.1).2
     Ready s 0 ∧ gthCheck s 0 lad0 (.mem 2) = none ∧ g.2.2 = false ∧ (n = 15 → es.length ≤ room s.cores[(0 : Fin 16)]) ∧
       (n = 16 → room s.cores[(0 : Fin 16)] < es.length)) := by
  unfold Ready; decide +kernel

theorem witness_gather_queue : ∀ n ∈ [15, 16],
    let s := modCore (storing 2 false) 0 (fun k => { k with
      d := lad.cores[(0 : Fin 16)].d, sq := List.replicate n { dst := .mem [], psn := false } })
    let g := runGather lad0 (clOf 0) (retire (ladTakes s (clOf 0) (.core 0)) 0 1)
    let q := pushSome 0 (g.2.1.map (fun b => .list (beatBits lad0 b) b.psn)) g.1
    Ready s 0 ∧ anyWindow s = false ∧ ladBusy s (clOf 0) = false ∧ gthCheck s 0 lad0 .queue = none ∧ ladBeats lad0 ≤ storeLeft s 0 ∧
      g.2.2 = false ∧ q.1.cores[(0 : Fin 16)].errDue = false ∧ (q.2 = []) = (n = 15) := by
  unfold Ready; decide +kernel

theorem witness_scatter :
    (∀ src ∈ [SctSrc.regs 31, .mem 2], ∀ acc ∈ [false, true],
      let w := retire (ladTakes lad (clOf 0) (.core 0)) 0 1
      sctCheck lad 0 lad0 0 src acc = none ∧
        (runScatter lad0 (clOf 0) acc (sctFrom w 0 lad0 (markOf lad.cores[(0 : Fin 16)]) [] src) w).stop = none) ∧
    (let x : LqBeat := { data := 1, psn := false }
     let s := modCore lad 0 (fun k => { k with lq := List.replicate (ladBeats lad0) x })
     let k := s.cores[(0 : Fin 16)]
     let w := modCore (retire (ladTakes s (clOf 0) (.core 0)) 0 1) 0 (fun k => { k with lq := [] })
     Ready s 0 ∧ sctCheck s 0 lad0 0 .queue false = none ∧ k.lq = List.replicate (ladBeats lad0) x ++ [] ∧
       (List.replicate (ladBeats lad0) x).length = ladBeats lad0 ∧ (∀ b ∈ List.replicate (ladBeats lad0) x, b.inc = none) ∧
       (runScatter lad0 (clOf 0) false (sctFrom w 0 lad0 (markOf k) (List.replicate (ladBeats lad0) (x.data, x.psn)) .queue) w).stop = none) := by
  unfold Ready; decide +kernel

theorem witness_ladle_start :
    (ladNext (ladMay on on.cls[(0 : ClusterId)].waiting) = none ∧ ladBusyS.cls[(0 : ClusterId)].running.isSome = true) ∧
    (let p : Prog := { cmd := .gth 0 false (.regs 31) 0 1 0 false, needs := {}, mark := markOf lad.cores[(0 : Fin 16)], ladle := true }
     let s := modCore (modCl lad 0 (fun k => { k with waiting := [.chan 0, .core 0] })) 0 (fun k => { k with prog := [p] })
     let x := s.cores[(0 : Fin 16)]
     s.cls[(0 : ClusterId)].running = none ∧ anyWindow s = false ∧ ladNext (ladMay s s.cls[(0 : ClusterId)].waiting) = some (.core 0) ∧
       clOf 0 = 0 ∧ x.st = .run ∧ x.errDue = false ∧ x.prog = [p] ∧ p.ladle = true ∧ p.out = [] ∧ p.need = 0 ∧
       (runGather (coreLadCmd p.mark.d 0 0 1 0 false) 0 (modCore (ladTakes s 0 (.core 0)) 0 (fun x => { x with prog := [] }))).2.2 = false) := by
  decide +kernel

theorem witness_cvt : Ready on 0 ∧ (8 : BitVec 5).toNat ≤ 8 ∧
    ((1 : BitVec 2).toNat * fmtWidth 2 < max (fmtWidth 2) (fmtWidth 0) ∧ (0 : BitVec 2).toNat * fmtWidth 0 < max (fmtWidth 2) (fmtWidth 0)) ∧
    ((0 : BitVec 2).toNat * fmtWidth 0 < max (fmtWidth 0) (fmtWidth 8) ∧ (3 : BitVec 2).toNat * fmtWidth 8 < max (fmtWidth 0) (fmtWidth 8)) := by
  unfold Ready; decide +kernel

/-- A plane descriptor of 9 planes of BF16 rows of 2,048 elements. -/
def planes : Desc := setFld (setFld (setFld (td 0 0 2 2048) 55 3 3) 432 32 4) 496 5 9

/-- Its form: nine planes of BF16. -/
def planesForm : PForm := { fmt := 2, planes := 9 }

theorem witness_pack :
    (∀ n ∈ [0, 16], let s := modCore (withTd planes) 0 (fun k => { k with sq := List.replicate n { dst := .mem [], psn := false } })
      let k := s.cores[(0 : Fin 16)]
      let es := packEntries k.d[(0 : DReg)] planesForm 0 0 ((List.range (pfRegs planesForm)).map (fun i => readV s 0 (vPlus 0 i)))
      Ready s 0 ∧ packedForm k.d[(0 : DReg)] = some planesForm ∧ packCheck k.d[(0 : DReg)] 0 (sInt s 0 0) = none ∧ anyWindow s = false ∧
        (n = 0 → es.length ≤ room k) ∧ (n = 16 → room k < es.length)) ∧
    packCheck on.cores[(0 : Fin 16)].d[(0 : DReg)] 0 0 = some .tdInvalid := by
  unfold Ready; decide +kernel

theorem witness_unpk_queue :
    let q : PForm := { fmt := 14, planes := 1 }
    let xs : List LqBeat := List.replicate (pfBeats q) { data := 0, psn := false }
    (let s := onCore (fun k => { k with lq := xs })
     Ready s 0 ∧ (0 : VReg).val + pfRegs q ≤ 32 ∧ s.cores[(0 : Fin 16)].lq = xs ++ [] ∧ xs.length = pfBeats q ∧ ∀ b ∈ xs, b.inc = none) ∧
    (let s := modCore (storing 5 false) 0 (fun k => { k with loadList := some ⟨0, 1⟩ })
     s.cores[(0 : Fin 16)].lq.length < pfBeats q ∧ pfBeats q ≤ lqAvail s 0) ∧
    lqAvail on 0 < pfBeats q := by
  unfold Ready; decide +kernel

/-- A fused copy of beats: a VLD stage from d0 and a VST stage to d1. -/
def copyStages : List (BitVec 64) := [0x0800006000000000, 0x0900610000000000]
/-- Core 0 with the two descriptors. -/
def fused : State := onCore (fun k => { k with d := (k.d.set 0 (td 0 0 0 64)).set 1 (td 0x1000 0 0 64) })

theorem witness_fuse :
    let p : Prog := { cmd := .fuse 0 0 copyStages, needs := fuseNeeds copyStages, mark := markOf fused.cores[(0 : Fin 16)], need := 1
                      stages := copyStages.map (fun w => { w := w }) }
    Ready fused 0 ∧ copyStages.head? = some 0x0800006000000000 ∧ copyStages.getLast? = some 0x0900610000000000 ∧
      stagesCheck fused 0 copyStages = none ∧ anyWindow fused = false ∧ ¬ (opKind (wSrcA 0x0800006000000000) = 5 ∧ lqAvail fused 0 < 1) ∧
      ¬ (opKind (wDst 0x0900610000000000) = 6 ∧ storeLeft fused 0 < fuseOut (markOf fused.cores[(0 : Fin 16)]) 1 copyStages) ∧
      (runProg 0 (p.need + 3) p (retire (copyStages.foldl (fun s w => stageAdvance 0 w s) fused) 0 3)).1.cores[(0 : Fin 16)].errDue = false := by
  unfold Ready; decide +kernel

/-- Stream 0 of core 0, over the link, label 5, with credit and quota; a global descriptor in d0, a local one in d1. -/
def remote : State :=
  let s := onCore (fun k => { k with d := (k.d.set 0 (td 0x100000000 1 7 256)).set 1 (td 0 0 7 256) })
  { s with rmt := { s.rmt with streams := s.rmt.streams.set 0 { entry := 1, cred := 1, qleft := 1 } } }

theorem witness_remote_instructions :
    (Ready remote 0 ∧ syncBusy remote 0 = false ∧ coreStream remote.rmt.streams[(0 : StreamId)] 0 = true ∧
      remote.rmt.streams[(0 : StreamId)].fenced = false) ∧
    checkTd remote.cores[(0 : Fin 16)].d[(0 : DReg)] false isGlobal = none ∧
    checkTds [(remote.cores[(0 : Fin 16)].d[(1 : DReg)], rrdDst), (remote.cores[(0 : Fin 16)].d[(0 : DReg)], rrdSrc)] = none ∧
    rincCheck remote.cores[(0 : Fin 16)].d[(0 : DReg)] false = none ∧ rincCheck remote.cores[(0 : Fin 16)].d[(0 : DReg)] true = none := by
  unfold Ready; decide +kernel

/-- A WR flit of one word on label 5 to Near Store address 64. -/
def wrFlit : Flit := { hdr := mkHdr 1 5 1 3 64 0 true false, data := 7 }

theorem witness_sealed : fType wrFlit ≤ 9 ∧ fInc wrFlit ≠ 3 ∧ fReserved wrFlit = 0 ∧ 4095 < 4096 := by decide +kernel

theorem witness_tap : Ready on 0 ∧ crosses on (corePart 0) (tapPart on 0) = false := by unfold Ready; decide +kernel

/-! ### Attachments -/

/-- Attachment 0 at a CLIP stage. -/
def clip1 (f : Attach → Attach) : State := onEa (fun x => f { x with st := .clip, clipLeft := 1 })

theorem no_fault (a : EaId) (w : Fin 512) : HwFault.eifUe a w ∉ ([] : List HwFault) ∧ HwFault.eifCe a w ∉ ([] : List HwFault) := by simp

theorem witness_port : PortReady on 0 ∧ on.eif[(0 : EaId)].drainRun = none ∧ on.eif[(0 : EaId)].streamEn = false :=
  ⟨⟨by decide +kernel, by decide +kernel, no_fault 0⟩, by decide +kernel⟩

theorem witness_stage : StageReady (clip1 id) 0 ∧ (clip1 id).eif[(0 : EaId)].errDue = false :=
  ⟨⟨by decide +kernel, by decide +kernel, by decide +kernel, by decide +kernel, by decide +kernel, no_fault 0⟩, by decide +kernel⟩

/-- A PANEL of one presentation with a beat in each FIFO. -/
def panel1 : State := onEa (fun x => { x with
  st := .panel, panel := some { mode := 0, ha := 1, hb := 1, srcA := 0, srcB := 0, t := 1, ctl := 9 }
  portA := { x.portA with fifo := [{ core := 0, pos := 0, data := 1, psn := false }] }
  portB := { x.portB with fifo := [{ core := 0, pos := 0, data := 2, psn := true }] } })

theorem witness_presentation :
    let x := panel1.eif[(0 : EaId)]
    let p : Panel := { mode := 0, ha := 1, hb := 1, srcA := 0, srcB := 0, t := 1, ctl := 9 }
    (x.panel = some p ∧ eaRuns panel1 0 = true ∧ x.portA.fifo = [{ core := 0, pos := 0, data := 1, psn := false }] ∧
      lastTaken x.portA 0 ≤ 0 ∧ lastTaken x.portB 0 ≤ 0 ∧
      scalesDue p p.ha x.pos = 0 ∧ scalesDue p p.hb x.pos = 0) ∧
    offerBeat (offerOf x.portA 0 p.srcA x.pos p.ha 0) = some (1, false) ∧ offerBeat (offerOf x.portB 0 p.srcB x.pos p.hb 0) = some (2, true) := by
  decide +kernel

/-- A drain of one tile through a local FP32 descriptor of rows of 128 elements. -/
def drain0 (trn : Bool) : DrainRun := { trn := trn, tap := false, ddesc := 0, inc := 0, ctr := 0, tiles := 1, ofs := 0, first := 0 }
/-- Attachment 0 with that descriptor. -/
def drainS (f : Attach → Attach) : State := onEa (fun x => f { x with desc := x.desc.set 0 (td 0 0 0 128) })

theorem witness_drain :
    (drainS id).eif[(0 : EaId)].drainFenced = false ∧ checkTd (drainS id).eif[(0 : EaId)].desc[(0 : Fin 16)] false drainAccepts = none ∧
    tdSpace (drainS id).eif[(0 : EaId)].desc[(0 : Fin 16)] ≠ 1 ∧
    (drainS (fun x => { x with drainFenced := true })).eif[(0 : EaId)].drainFenced = true ∧
    checkTd on.eif[(0 : EaId)].desc[(0 : Fin 16)] false drainAccepts = some .tdInvalid ∧
    checkTd (drainS (fun x => { x with desc := x.desc.set 0 (td 0x100000000 1 0 128) })).eif[(0 : EaId)].desc[(0 : Fin 16)] false drainAccepts = none := by
  decide +kernel

/-- Attachment 0 with that drain running, its tap armed or not. -/
def rowS (trn tap armed : Bool) : State :=
  let s := drainS (fun x => { x with drainRun := some { drain0 trn with tap := tap } })
  { s with taps := s.taps.set 0 { s.taps[(0 : Fin 3)] with armed := armed } }

theorem witness_drain_row :
    (∀ trn ∈ [false, true], ∀ tap ∈ [false, true], ∀ armed ∈ [false, true], let s := rowS trn tap armed
      drainHold s 0 = false ∧ discards s 0 = false ∧ s.eif[(0 : EaId)].drainRun = some { drain0 trn with tap := tap } ∧
        s.taps[(⟨(0 : EaId).val, by decide⟩ : TapId)].armed = armed) ∧
    drainHold on 0 = true ∧ discards (onEa (fun x => { x with drainFenced := true })) 0 = true := by
  decide +kernel

/-- The oldest row of a local drain, at row 0 of its destination; byte 0x1000 is outside it. -/
theorem witness_drain_cycle :
    let x : DrainRow := { num := 0, vals := List.replicate 128 0, psn := false, wait := 0, left := 0 }
    let s := drainS (fun y => { y with drainRun := some (drain0 false), fifo := [x] })
    let d := s.eif[(0 : EaId)].desc[(drain0 false).ddesc]
    s.eif[(0 : EaId)].fifo = x :: [] ∧ tdSpace d ≠ 1 ∧
      ((drainRowAt d ((drain0 false).first + x.num)).map (fun off =>
        (drainWrites d (drain0 false).ofs off x.vals).all (fun w => decide (0x1000 / 64 ≠ w.word)))) = some true := by
  decide +kernel

theorem witness_waits :
    (eaRuns on 0 = true ∧ on.eif[(0 : EaId)].panel = none ∧ on.eif[(0 : EaId)].clipSent = false ∧ HwFault.cntParity 0 ∉ on.hwf ∧
      on.eif[(0 : EaId)].clipLeft = 0 ∧ (ctrOf on 0).psn = false ∧ reached (ctrOf on 0).val 0 = true ∧ reached (ctrOf on 0).val 1 = false) ∧
    (let s := { on with cnt := [(0, { psn := true })] }; eaRuns s 0 = true ∧ (ctrOf s 0).psn = true) ∧
    (let s := clip1 id; eaRuns s 0 = true ∧ s.eif[(0 : EaId)].panel = none ∧ 0 < s.eif[(0 : EaId)].clipLeft) := by
  decide +kernel

theorem witness_sum : StageReady (clip1 id) 0 ∧ anyWindow (clip1 id) = false :=
  ⟨witness_stage.1, by decide +kernel⟩

theorem witness_scale : clipScale 0 0x3F800000 = some 0x3F800000 ∧ clipScale 0x7FC00000 0x3F800000 = none ∧
    clipScale 0x42C80000 0x3F800000 = some 0x3DCCCCCD := by
  decide +kernel

theorem witness_send :
    let s := clip1 id
    let x := s.eif[(0 : EaId)]
    let b := (tdBase x.desc[(0 : Fin 16)] % 2 ^ 32 + 64 * (0 : BitVec 24).toNat) % 2 ^ 32
    (tdBase x.desc[(0 : Fin 16)] / 2 ^ 32 = s.u.addr.toNat ∧ HwFault.cntParity 0 ∉ s.hwf ∧ crosses s (eaPart 0) (addrPart s (64 * (b / 64))) = false ∧
      crosses s (eaPart 0) (ctrPart s 0) = false ∧ (portOf s (storeOf (64 * (b / 64)))).isOpen = true ∧ anyWindow s = false) ∧
    (let t := clip1 (fun x => { x with desc := x.desc.set 0 (td 0x100000000 1 0 1) })
     tdBase t.eif[(0 : EaId)].desc[(0 : Fin 16)] / 2 ^ 32 ≠ t.u.addr.toNat ∧ t.rmt.streams[eaStream t.eif[(0 : EaId)]].fenced = false) := by
  decide +kernel

/-- Attachment 0 at a BCAST of one route entry, at address 0, whose byte `i` is `v`: for another unit over the NoC, or SELF. -/
def bcast1 (i : Nat) (v : Byte) : State := let s := clip1 id; { s with mem := setByte s.mem i v }

/-- The entries that the BCAST takes. -/
def liveS (s : State) : List (Word × Bool) :=
  let x := s.eif[(0 : EaId)]
  (routeEntries (whoDrain 0) x.desc[(0 : Fin 16)] (tdSize x.desc[(0 : Fin 16)] 0) 0 s).2.filter
    (fun e => !routeSkipped (stD2 s.rmt.streams[eaBStream x]) e.1)

theorem witness_bcast :
    (let s := bcast1 1 0x10
     s.eif[(0 : EaId)].errDue = false ∧ anyWindow s = false ∧ liveS s = (0x1000, false) :: [] ∧ bitOf (0x1000 : Word) 23 = false ∧
       s.rmt.streams[eaBStream s.eif[(0 : EaId)]].fenced = false) ∧
    (let s := bcast1 2 0x80
     let r := routeEntries (whoDrain 0) s.eif[(0 : EaId)].desc[(0 : Fin 16)] 1 0 s
     anyWindow s = false ∧ liveS s = [(0x800000, false)] ∧ bitOf (0x800000 : Word) 23 = true ∧ HwFault.cntParity 0 ∉ s.hwf ∧
       crosses s (eaPart 0) (addrPart s 0) = false ∧ crosses s (eaPart 0) (ctrPart s 0) = false ∧ (portOf r.1 (storeOf 0)).isOpen = true) ∧
    liveS (clip1 id) = [] := by
  decide +kernel

/-! ### Work lists, fetch engine, store path -/

/-- A work item with no offset. -/
def item0 : WorkItem := { frame := 0, idx := 0, item := { offset := 0, done := 0, fields := 0 } }
/-- An agent with that item. -/
def due0 : AgentSt := { items := [item0] }
/-- A unit that runs, with an item due on a core, a channel and an attachment, whose channel 1 is fenced. -/
def items : State :=
  { on with
    cores := on.cores.set 0 { ag := due0 }
    eif := on.eif.set 0 { ag := due0 }
    mov := { on.mov with chans := (on.mov.chans.set 0 { ag := due0 }).set 1 { st := .fenced, ag := due0 } } }

theorem witness_items : ∀ ag ∈ [Agent.core 0, .ea 0, .chan 0, .chan 1],
    (agOf items ag).items = item0 :: [] ∧ canStart items ag = true ∧ itemDue items item0 = true := by decide +kernel

theorem witness_item_channels : items.mov.chans[(1 : ChanId)].st = .fenced ∧ items.mov.chans[(0 : ChanId)].st ≠ .fenced ∧ isPersistent 0 = false := by
  decide +kernel

/-- Core 0 with a load list of one block of 512 bytes, which asks for a credit of counter 5 when `cred`. -/
def fetching (b : Nat) (cred : Bool) : State :=
  let s := onCore (fun k => { k with loadList := some ⟨0, 1⟩, bucket := b })
  { s with mov := { s.mov with mem := [(0, BitVec.ofNat 256 ((if cred then 2 ^ 14 + 5 * 2 ^ 15 else 0) + 511 * 2 ^ 132))] } }

theorem witness_fetch :
    (∀ b ∈ [0, 1024], ∀ cred ∈ [false, true], let s := fetching b cred
      let k := s.cores[(0 : Fin 16)]
      s.u.state = .running ∧ k.st = .run ∧ k.errDue = false ∧ k.prog = [] ∧ (1 : Fin 4).val + 1 ≤ blockLeft s 0 ∧
        k.lq.length + (1 : Fin 4).val + 1 ≤ 16 ∧ anyWindow s = false ∧ s.hwf = [] ∧ k.fetch.beat = 0 ∧ k.loadDesc = none ∧
        k.loadList = some ⟨0, 1⟩ ∧ coreBlockCheck (listEntry s 0) (blockDesc k (listEntry s 0) true) true = none) ∧
    (loadCredit (fetching 0 true) 0).2 = false ∧ (loadCredit (fetching 0 false) 0) = (fetching 0 false, true) ∧
    (loadCredit { fetching 1024 true with cnt := [(5, { val := 1 })] } 0) = ({ fetching 1024 true with cnt := [(5, { val := 1 })] }, true) ∧
    (let k := (fetching 0 false).cores[(0 : Fin 16)]; refill k.reg k.bucket < 64 * ((1 : Fin 4).val + 1)) ∧
    (let k := (fetching 1024 false).cores[(0 : Fin 16)]; 64 * ((1 : Fin 4).val + 1) ≤ refill k.reg k.bucket) := by
  decide +kernel

/-- An entry for one word of memory. -/
def sqMem : SqEntry := { dst := .mem [{ word := 1, data := 5, mask := 0xFF }], psn := false }
/-- An entry for the A port's FIFO. -/
def sqFeed : SqEntry := { dst := .feeder false 0 7, psn := false }

theorem witness_store_path :
    (let s := onCore (fun k => { k with sq := [sqMem] })
     s.cores[(0 : Fin 16)].errDue = false ∧ s.u.state ≠ .fenced ∧ s.cores[(0 : Fin 16)].prog = [] ∧ anyWindow s = false ∧
       s.cores[(0 : Fin 16)].sq = sqMem :: [] ∧ (portOf s (storeOf (64 * 1))).isOpen = true) ∧
    (let s := onCore (fun k => { k with sq := [sqFeed] })
     s.cores[(0 : Fin 16)].sq = sqFeed :: [] ∧ (portFifo s (eaOf 0) false).fifo.length < 16) ∧
    (let s := { onCore (fun k => { k with sq := [sqFeed] }) with
       eif := on.eif.set 0 { portA := { fifo := List.replicate 16 { core := 0, pos := 0, data := 0, psn := false } } } }
     s.cores[(0 : Fin 16)].sq = sqFeed :: [] ∧ 16 ≤ (portFifo s (eaOf 0) false).fifo.length) := by
  decide +kernel

/-! ### Stream Mover -/

/-- A list of one block. -/
def list1 : RunList := { first := 0, count := 1, idx := 0 }
/-- Channel 0 at a list whose only block is a COPY that takes a credit of counter 5. -/
def blocks (kind credit : Nat) : State :=
  let s := onChan (fun x => { x with st := .run, list := some list1, desc := ((x.desc.set 0 (td 0 0 0 64)).set 1 (td 0x1000 0 1 1)).set 2 (td 0x2000 0 0 1) })
  { s with
    cnt := [(5, { val := BitVec.ofNat 32 credit })]
    mov := { s.mov with mem := [(0, BitVec.ofNat 256 (if kind = 0 then 2 ^ 14 + 5 * 2 ^ 15 + 2 ^ 84 * 0x1000 else 2 + 1 * 2 ^ 40 + 2 * 2 ^ 36))] } }

theorem witness_block_start :
    (∀ k ∈ [0, 2], ∀ n ∈ [0, 1], let s := blocks k n
      let c := s.mov.chans[(0 : ChanId)]
      s.u.state = .running ∧ stopped s (chanPart s 0) = false ∧ c.list = some list1 ∧ c.st ≠ .fenced ∧ list1.idx < list1.count ∧
        c.blks.all blkIssued = true ∧ outstanding c < 8 ∧ s.hwf = [] ∧ anyWindow s = false) ∧
    (let s := blocks 0 0
     let e := listEntry s 0
     bCredEn e = true ∧ bCredCtr e = 5 ∧ reached (ctrOf s (bCredCtr e)).val ((ctrOf s (bCredCtr e)).taken + 1) = false ∧
       (ctrOf { s with cnt := [(5, { val := 1, psn := true })] } 5).psn = true ∧
       crosses { s with u := { s.u with taskMode := true, cntSplit := 0 } } (chanPart s 0) (ctrPart { s with u := { s.u with taskMode := true, cntSplit := 0 } } 5) = true) ∧
    (let s := blocks 0 1
     let e := listEntry s 0
     bCredEn e = true ∧ crosses s (chanPart s 0) (ctrPart s (bCredCtr e)) = false ∧ (ctrOf s (bCredCtr e)).psn = false ∧
       reached (ctrOf s (bCredCtr e)).val ((ctrOf s (bCredCtr e)).taken + 1) = true ∧
       blockCheck s 0 (openBlock s.mov.chans[(0 : ChanId)] e 0) = none) ∧
    (∀ b ∈ [false, true], let s := blocks 2 0
     let e := listEntry s 0
     let s := if b then modCl s (bClu e) (fun k => { k with running := some (.core 1) }) else s
     bCredEn e = false ∧ bKind e = 2 ∧ ladBusy s (bClu e) = b ∧ blockCheck s 0 (openBlock s.mov.chans[(0 : ChanId)] e 0) = none) := by
  decide +kernel

/-- Persistent channel 28 changed. -/
def persist (f : Chan → Chan) : State := modChan on 28 f

theorem witness_rearm :
    (isPersistent 28 = true ∧ on.mov.chans[(28 : ChanId)].st ≠ .fenced ∧ on.u.state = .running) ∧
    (let c := (persist (fun x => { x with raFirst := 0x1FFF, raCount := 1 })).mov.chans[(28 : ChanId)]; 8192 < (staged c).first + (staged c).count) ∧
    (let c := (persist (fun x => { x with raFirst := 0x1FFF })).mov.chans[(28 : ChanId)]
     (staged c).first + (staged c).count ≤ 8192 ∧ c.shadow = none ∧ c.list = none) ∧
    (let c := (persist (fun x => { x with list := some list1 })).mov.chans[(28 : ChanId)]; c.shadow = none ∧ c.list.isSome = true) ∧
    (let c := (persist (fun x => { x with list := some list1, shadow := some ⟨0, 1, 0, 0⟩ })).mov.chans[(28 : ChanId)]; c.shadow.isSome = true) := by
  decide +kernel

theorem witness_list_end :
    let l : RunList := { first := 0, count := 1, idx := 1 }
    (let c := (persist (fun x => { x with list := some l, shadow := some ⟨0, 1, 0, 0⟩ })).mov.chans[(28 : ChanId)]
     c.list = some l ∧ l.count ≤ l.idx ∧ c.blks.all blkIssued = true ∧ c.shadow = some ⟨0, 1, 0, 0⟩ ∧ c.rearmWait = none) ∧
    (let c := (persist (fun x => { x with list := some l })).mov.chans[(28 : ChanId)]; c.list = some l ∧ c.blks.all blkIssued = true ∧ c.shadow = none) := by
  decide +kernel

/-- A COPY block of 256 bytes in flight from address 0 to 0x1000, with `n` transfers of which the first may land. -/
def flying (n : Nat) (data : List MovBeat) (dspace : Nat) : BlkRun :=
  { entry := BitVec.ofNat 256 (0x1000 * 2 ^ 84 + dspace * 2 ^ 82 + 255 * 2 ^ 132), idx := 0, row := 1
    fly := List.replicate n { src := some 0, dst := some 0x1000, len := 256, issued := 1, data := data } }

theorem witness_beat_slots :
    on.u.state = .running ∧ anyWindow on = false ∧ 64 ≤ refill on.mov.reg[(0 : Fin 4)] on.mov.bucket[(0 : Fin 4)] ∧ sameTask on 0 (chanPart on 0) = true ∧
      chanReady (onChan (fun x => { x with st := .run, blks := [{ flying 0 [] 0 with row := 0 }] })) 0 {} 0 = true ∧
      (∀ h : ChanId, nextBeat on.mov.chans[h] = none) := by
  decide +kernel

theorem witness_transfers :
    let m : MovBeat := { data := 0, psn := false, pad := 0 }
    (let s := onChan (fun x => { x with st := .run, blks := [flying 2 [m] 0] })
     let b := flying 2 [m] 0
     let x : Xfer := { src := some 0, dst := some 0x1000, len := 256, issued := 1, data := [m] }
     anyWindow s = false ∧ firstDone s.mov.chans[(0 : ChanId)] = some (0, b, 0, x) ∧ (landXfer s 0 b x).2.2 = false ∧ 1 < b.fly.length) ∧
    (let s := onChan (fun x => { x with st := .run, blks := [flying 0 [] 0] })
     firstDone s.mov.chans[(0 : ChanId)] = none ∧ firstClosed s.mov.chans[(0 : ChanId)] = some 0 ∧
       s.mov.chans[(0 : ChanId)].blks[0]? = some (flying 0 [] 0) ∧ (flying 0 [] 0).stop = none ∧ HwFault.cntParity 0 ∉ s.hwf ∧ crosses s (chanPart s 0) (ctrPart s 0) = false) ∧
    (let e := BitVec.ofNat 256 (4 + 255 * 2 ^ 132); bInc e = 1 ∧ bDspace e ≠ 1 ∧ bSspace e ≠ 1) := by
  decide +kernel

/-- An INDEX block whose Ladle command met a poisoned index, or a closed port, with nothing left in flight. -/
theorem witness_stopped_block : ∀ x ∈ [LadStop.poisonIndex, .off],
    let b : BlkRun := { entry := 2, idx := 0, stage := .out, stop := some x }
    let s := onChan (fun c => { c with st := .run, blks := [b] })
    firstDone s.mov.chans[(0 : ChanId)] = none ∧ firstClosed s.mov.chans[(0 : ChanId)] = some 0 ∧ s.mov.chans[(0 : ChanId)].blks[0]? = some b ∧
      (b.stop = some .poisonIndex ∨ b.stop = some .off) := by
  decide +kernel

/-- A COPY block that waits for a far-memory beat. -/
def farBlk : BlkRun :=
  { entry := BitVec.ofNat 256 (2 * 2 ^ 32 + 0x1000 * 2 ^ 84 + 255 * 2 ^ 132), idx := 0, row := 1
    fly := [{ src := some 0, dst := some 0x1000, len := 256, issued := 1 }] }

theorem witness_far :
    (let s := onChan (fun x => { x with st := .run, blks := [farBlk] })
     let c := s.mov.chans[(0 : ChanId)]
     c.farDead = 0 ∧ c.drain = [] ∧ (farWaiting c.blks).isSome = true ∧ faultBlock c (0 : BitVec 48).toNat = some farBlk ∧
       faultBlock c (255 : BitVec 48).toNat = some farBlk) ∧
    (let c := (onChan (fun x => { x with drain := [farBlk] })).mov.chans[(0 : ChanId)]; c.farDead = 0 ∧ (farWaiting c.drain).isSome = true) ∧
    0 < (onChan (fun x => { x with farDead := 1 })).mov.chans[(0 : ChanId)].farDead := by
  decide +kernel

/-! ### Remote operations and the link -/

/-- Stream 0 of core 0 with one WR flit that waits; `cred` credits, by the link or over the NoC. -/
def sending (cred : Nat) (noc : Bool) : State :=
  { on with
    lnk := { on.lnk with st := .up }
    rmt := { on.rmt with streams := on.rmt.streams.set 0 {
      entry := 1, cred := BitVec.ofNat 16 cred, qleft := 1, wait := [{ f := wrFlit, viaNoc := noc, viaUnit := 3, hops := 1 }] } } }

theorem witness_accept :
    (∀ noc ∈ [false, true], ∀ cred ∈ [0, 1], let s := sending cred noc
      let x := s.rmt.streams[(0 : StreamId)]
      let o : OutFlit := { f := wrFlit, viaNoc := noc, viaUnit := 3, hops := 1 }
      x.wait = o :: [] ∧ x.fenced = false ∧ stBcast x = false ∧ o.cret = false ∧ mayAccept s x o = decide (cred = 1)) := by
  decide +kernel

/-- A deliver label 5: window of the first 4 KiB of Near Store, reads allowed or not, one credit of stream 0. -/
def label5 (rd : Bool) : BitVec 128 := BitVec.ofNat 128 (3 + (if rd then 2 ^ 81 else 0) + 2 ^ 103)
/-- A forward label 6 toward label 9, over the NoC or the link. -/
def label6 (noc : Bool) : BitVec 128 := BitVec.ofNat 128 (1 + 9 * 4 + (if noc then 2 ^ 14 + 2 ^ 15 * 7 else 0))
/-- A unit that runs, its link UP, with those labels. -/
def net (rd noc : Bool) : State :=
  { on with lnk := { on.lnk with st := .up }, rmt := { on.rmt with labels := [(5, label5 rd), (6, label6 noc)] } }
/-- A flit with its checks written out. -/
def sealed (typ label addr : Nat) (data : Bits) (crc hcrc : Nat) : Flit :=
  { hdr := mkHdr typ label 1 3 addr 0 true false + BitVec.ofNat 128 (hcrc * 2 ^ 88 + crc * 2 ^ 96), data := data }

/-- Header and payload check, evaluated byte by byte. -/
def good (f : Flit) : Bool :=
  decide (fldN f.hdr 88 8 = (crc8Run (bytesOf f.hdr 11) 0).toNat)
    && decide (fldN f.hdr 96 32 = (crcRun (bytesOf (crcHdr f.hdr) 16 ++ bytesOf f.data 256) 0xFFFFFFFF#32 ^^^ 0xFFFFFFFF#32).toNat)
    && fReserved f = 0 && decide (fType f ≤ 9) && decide (fInc f ≠ 3)

theorem good_is_good (f : Flit) (h : good f = true) : flitGood f = true := by
  simp only [good, Bool.and_eq_true, decide_eq_true_eq] at h
  obtain ⟨⟨⟨⟨h1, h2⟩, h3⟩, h4⟩, h5⟩ := h
  simp only [flitGood, flitHcrc, flitCrc, crc8_run, crc32c_run, Bool.and_eq_true, Bool.or_eq_true, decide_eq_true_eq]
  exact ⟨⟨⟨⟨h1, .inr h2⟩, h3⟩, h4⟩, h5⟩

/-- What arrives, by type, on label 5. -/
def arrived : List Flit :=
  [sealed 1 5 0 7 1223815549 162, sealed 2 5 0 rdData 140166832 131, sealed 3 5 0 7 2883924560 156, sealed 4 5 0 7 2018007864 193,
   sealed 5 5 0 7 2335441366 222, sealed 6 5 0 (grantBits 0 1 false) 1780752932 255, sealed 6 5 0 (grantBits 0 0 true) 1941910180 255,
   sealed 7 5 0 7 1746977531 224, sealed 8 5 0 7 971652148 69, sealed 1 5 0x1000 7 1346554675 201, sealed 5 5 0x1000 7 2475113368 181,
   sealed 1 6 0 7 1223815549 188, sealed 1 7 0 7 1223815549 75]
where
  rdData : Bits := (td 0 0 7 256).setWidth 2048 ||| ((td 0x40 0 7 256).setWidth 2048 <<< 512)

set_option maxRecDepth 4000 in
theorem test_arrived_good : arrived.all good = true := by decide +kernel

theorem witness_arrives : ∀ f ∈ arrived, heldInReset (net true false) = false ∧ flitGood f = true ∧ fwdFull (net true false) f = false ∧
    (net true false).lnk.st = .up ∧ fSeq f = (net true false).lnk.expSeq := by
  have h : ∀ f ∈ arrived, heldInReset (net true false) = false ∧ fwdFull (net true false) f = false ∧ (net true false).lnk.st = .up ∧
      fSeq f = (net true false).lnk.expSeq := by decide +kernel
  intro f hf
  obtain ⟨h1, h2, h3, h4⟩ := h f hf
  exact ⟨h1, good_is_good f (List.all_eq_true.mp test_arrived_good f hf), h2, h3, h4⟩

theorem witness_types : arrived.map fType = [1, 2, 3, 4, 5, 6, 6, 7, 8, 1, 5, 1, 1] ∧
    arrived.map fLabel = [5, 5, 5, 5, 5, 5, 5, 5, 5, 5, 5, 6, 7] := by decide +kernel

theorem witness_delivers : Delivers (net true false) wrFlit ∧ TakesWord (net true false) wrFlit 0 ∧ TakesCtr (net true false) wrFlit ∧
    (∀ st : StreamId, (net true false).rmt.streams[st].tomb = 0) ∧ inWin (labelOf (net true false) 5) 0 64 = true := by
  unfold Delivers TakesWord TakesCtr; decide +kernel

theorem witness_window :
    inWin (labelOf (net true false) 5) 0x1000 64 = false ∧ inWin (labelOf (net true false) 5) 0xFC0 64 = true ∧
    lbRdOk (labelOf (net false false) 5) = false ∧ lbRdOk (labelOf (net true false) 5) = true ∧
    lbViaNoc (labelOf (net true false) 5) = false ∧ isNs 0 = true ∧
    (let f := arrived[1]; reqOk (labelOf (net true false) 5) (reqDescs f).1 = true ∧ rowOf (reqDescs f).2 0 = some 0x40 ∧ 0 < rowLen (reqDescs f).2) := by
  decide +kernel

theorem witness_grants : (arrived[5]).data = grantBits (0 : StreamId).val 1 false ∧ 1 < 2 ^ 16 ∧ (arrived[6]).data = grantBits (0 : StreamId).val 0 true ∧
    (0 : StreamId).val = fldN (arrived[8]).data 16 6 := by
  decide +kernel

theorem witness_recall_done : (∀ e ∈ (net true false).rmt.labels, lbViaNoc e.2 = false) ∧ (net true false).rmt.ret = [] ∧
    closesIn (net true false) .ds 2 0 = false ∧ (portOf (modPort (net true false) .ds (fun p => { p with recalled := true })) .ds).recalled = true := by
  decide +kernel

theorem witness_forward : (∀ b ∈ [false, true], let e := labelOf (net true b) 6
      lbValid e = true ∧ lbDeliver e = false ∧ lbViaNoc e = b) ∧ lbValid (labelOf (net true false) 7) = false ∧
    fType wrFlit ≠ tIdle ∧ fType wrFlit ≠ tTick := by
  decide +kernel

theorem witness_idle : fType idleWord = tIdle ∧ (net true false).lnk.st = .up ∧ fType (resealHdr idleWord) = tIdle ∧ flitGood (resealHdr idleWord) = true := by
  decide +kernel

/-- The link UP with words to resend, or with flits to send, or with a full replay buffer. -/
def slotS (r : List Replay) (n : Nat) (tx : List Flit) : State :=
  { on with lnk := { on.lnk with st := .up, resend := r, replay := List.replicate n { seq := 0, f := wrFlit }, tx := tx } }

theorem witness_slots :
    (let s := slotS [{ seq := 3, f := wrFlit }] 1 []
     s.lnk.st = .up ∧ slotNow s = some 0 ∧ s.lnk.slotUsed ≠ some (s.fr.ctr, 0) ∧ s.fr.own.treeOut = false ∧
       s.lnk.resend = { seq := 3, f := wrFlit } :: []) ∧
    (let s := slotS [] 127 [wrFlit]; s.lnk.resend = [] ∧ s.lnk.replay.length < 128 ∧ s.lnk.tx = wrFlit :: [] ∧ s.rmt.ret = [] ∧
       credLabel s false = none) ∧
    (let s := slotS [] 128 [wrFlit]; s.lnk.resend = [] ∧ 128 ≤ s.lnk.replay.length) := by
  decide +kernel

/-- The slots of a frame: slot 0 for the marker, the last one, none in the cycles left, and one that is used. -/
theorem witness_slot_times :
    (∀ c ∈ [0, 8], let s := { slotS [] 0 [] with fr := { on.fr with ticked := true, cyc := c, own := { on.fr.own with treeOut := true } } }
      slotNow s = some 0 ∧ s.lnk.markerFrame ≠ some s.fr.ctr) ∧
    slotNow { on with fr := { on.fr with cyc := 9 } } = some 1 ∧ slotNow { on with fr := { on.fr with cyc := 61433 } } = some 6825 ∧
    slotNow { on with fr := { on.fr with cyc := 61434 } } = none ∧
    (let s := { on with lnk := { on.lnk with st := .up, slotUsed := some (0, 0) } }; slotNow s = some 0 ∧ s.lnk.slotUsed = some (s.fr.ctr, 0)) := by
  decide +kernel

/-- A link UP, its spare lane 4 ready or not, that has asked `n` times for one flit. -/
def lanes (ready : Bool) (n : Nat) : State :=
  { on with lnk := { on.lnk with st := .up, spareReady := ready, spare := 4, nakOut := true, nakTimes := n, candidate := some 1 } }

theorem witness_lanes :
    (let s := lanes true 0
     s.lnk.spareReady = true ∧ s.lnk.spare.toNat ≠ (0 : LaneId).val ∧ s.lnk.laneFail.getLsbD (0 : LaneId).val = false ∧ s.lnk.candidate = some 1 ∧
       s.lnk.st = .up ∧ s.lnk.nakOut = true) ∧
    (let s := lanes false 7
     s.lnk.st = .up ∧ s.lnk.spare.toNat ≠ (0 : LaneId).val ∧ s.lnk.laneFail.getLsbD (0 : LaneId).val = false ∧ s.lnk.spareReady = false ∧
       s.lnk.spare.toNat = (4 : LaneId).val ∧ s.lnk.nakTimes < 8 ∧ 8 ≤ (lanes true 8).lnk.nakTimes) ∧
    (∀ n ∈ [0, 1, 2], let s := { on with lnk := { on.lnk with st := .retraining, fails := n } }; s.lnk.st = .retraining ∧ s.lnk.fails = n) ∧
    (on.lnk.st = .down ∧ 5 ≤ on.u.step ∧ on.u.state ≠ .detached ∧ (512 : BitVec 16).toNat ≤ 512 ∧ 512 < (513 : BitVec 16).toNat) := by
  decide +kernel

/-! ### Frames, ticks, sequences, the watchdog -/

/-- An anchor with its link UP; the marker of frame 0 with the period 0x1000. -/
def anchor : State := { on with lnk := { on.lnk with st := .up }, fr := { on.fr with own := { on.fr.own with src := 2 } } }
def marker0 : Flit := sealed 9 0 0 (BitVec.ofNat 2048 (0x1000 * 2 ^ 64)) 2877343305 120

set_option maxRecDepth 4000 in
theorem test_marker_good : good marker0 = true := by decide +kernel

theorem witness_marker : anchor.lnk.st = .up ∧ fType marker0 = tTick ∧ flitGood marker0 = true ∧ markerOk marker0 = true ∧
    anchor.fr.own.src = 2 ∧ markerPeriod marker0 = anchor.fr.own.period.toNat ∧ (markerSkew anchor marker0 9).natAbs ≤ 32 ∧ anchor.hwf = [] ∧
    32 < (markerSkew { anchor with fr := { anchor.fr with ticked := true, cyc := 42 } } marker0 9).natAbs :=
  ⟨by decide +kernel, by decide +kernel, good_is_good _ test_marker_good, by decide +kernel, by decide +kernel, by decide +kernel, by decide +kernel, by decide +kernel, by decide +kernel⟩

theorem witness_lock :
    (∀ n ∈ [3, 4], let s := { on with fr := { on.fr with good := n, absent := n, own := { on.fr.own with src := 1 } } }
      s.fr.good = n ∧ s.fr.absent = n ∧ s.fr.lost = false ∧ heldInReset s = false ∧ s.fr.own.src = 1 ∧ generatorDue s = true ∧ s.fr.marker = none) ∧
    on.fr.own.src = 0 := by
  decide +kernel

/-- The unit in cycle `n` of a frame that a tick began; `n = 61440` is a whole frame. -/
def inFrame (n : Nat) : State := { on with fr := { on.fr with ticked := true, cyc := n } }

theorem witness_ticks : heldInReset on = false ∧ on.fr.ticked = false ∧
    (frameLenOf (inFrame 61408) 0 ≤ elapsed (inFrame 61408) + 32) ∧ (elapsed (inFrame 61407) + 32 < frameLenOf (inFrame 61407) 0) ∧
    (frameLenOf (inFrame 61472) 0 + 32 ≤ elapsed (inFrame 61472)) ∧ elapsed (inFrame 61471) < frameLenOf (inFrame 61471) 0 + 32 ∧
    (some (1 : Word) = some (on.fr.ctr + 1)) := by
  decide +kernel

/-- A partition whose entry ends: with a change due, with the sequence's end, or with another entry. -/
def entryEnds (pending seqEnd : Bool) : State :=
  { on with
    parts := on.parts.set 0 { task := true, entryEnd := true, nextPending := pending, nextWhen := 1 }
    bl := { on.bl with entries := [{ template := 0, layerEnd := true, seqEnd := seqEnd, repeats := 1, next := 0 }] } }

theorem witness_entries :
    (∀ a ∈ [false, true], ∀ b ∈ [false, true], let s := entryEnds a b
      taskPart s 0 = 0 ∧ s.parts[(0 : Part)].task = true ∧ s.parts[(0 : Part)].entryEnd = true ∧ (seqEntry s 0).seqEnd = b ∧
        changeDue s.parts[(0 : Part)] (seqEntry s 0) (s.fr.ctr - 1) = a) := by
  decide +kernel

theorem witness_stall :
    (∀ n ∈ [1, 2], let g : AgentSt := { stall := BitVec.ofNat 32 n }
      let s := { on with
        cores := on.cores.set 0 { ag := g }, eif := on.eif.set 0 { ag := g }, mov := { on.mov with chans := on.mov.chans.set 0 { ag := g } } }
      s.err.wdt ≠ 0 ∧ ∀ ag ∈ [Agent.core 0, .ea 0, .chan 0], (s.err.wdt.toNat ≤ (agOf s ag).stall.toNat) = (n = 2)) ∧
    (onCore (fun k => { k with errDue := true })).cores[(0 : Fin 16)].errDue = true ∧ on.cores[(0 : Fin 16)].errDue = false := by
  decide +kernel

/-! ### Power, supply, ageing -/

/-- A running unit whose domain 2 follows a plan with one idle interval of template 0, in the cycle in which it begins. -/
def planned (d cap b : Nat) (ps : PState) : State :=
  { on with
    parts := on.parts.set 0 { task := true }
    pwr := { on.pwr with dom := Vector.replicate 24 { planned := true, ps := ps } }
    mem := { on.mem with groups := Vector.replicate 8 { port := { ps := ps } } }
    bl := { on.bl with
      templates := [(0, { intervals := [{ a := 0, b := b, dom := d, cap := cap }] })]
      entries := [{ template := 0, layerEnd := true, seqEnd := true, repeats := 1, next := 0 }] } }

theorem witness_intervals :
    (on.u.state = .running ∧ (domPlan on 2).find? (fun i => i.a = on.fr.cyc) = none ∧ (planned 2 1 5000 .active).pwr.dom[(2 : DomId)].planned = true) ∧
    (∀ d ∈ [(2 : DomId), 11], let s := planned d.val 1 5000 .active
      (domPlan s d).find? (fun i => i.a = s.fr.cyc) = some { a := 0, b := 5000, cap := 1, idle := false } ∧
        planState s (domPlan s 20) d { a := 0, b := 5000, cap := 1, idle := false } = 1 ∧ domState s d = .active) ∧
    (∀ d ∈ [(2 : DomId), 11], let s := planned d.val 2 100000 .active
      (domPlan s d).find? (fun i => i.a = s.fr.cyc) = some { a := 0, b := 100000, cap := 2, idle := false } ∧
        planState s (domPlan s 20) d { a := 0, b := 100000, cap := 2, idle := false } = 2 ∧ domUp s d = true ∧ (domStore d).isSome = decide (d = 11)) ∧
    (let s := planned 2 1 3 .active; planState s (domPlan s 20) 2 { a := 0, b := 3, cap := 1, idle := false } = 0) := by
  decide +kernel

theorem witness_wakes :
    (∀ p ∈ [PState.gated, .retain, .off],
      let s := { on with pwr := { on.pwr with dom := on.pwr.dom.set 2 { ps := p, goal := p, until_ := some 4 } } }
      s.u.state = .running ∧ s.pwr.dom[(2 : DomId)].until_ = some 4 ∧ domState s 2 = p ∧ 4 ≤ s.fr.cyc + 4 ∧
        (p = .gated ∨ 4 ≤ s.fr.cyc + exitOf (depthOf s.pwr.dom[(2 : DomId)].goal))) ∧
    (let s := { ready with pwr := { on.pwr with dom := on.pwr.dom.set 2 { ps := .active } } }
     (2 : DomId).val ≠ 0 ∧ s.u.state ≠ .running ∧ s.u.state ≠ .fenced ∧ domState s 2 = .active ∧ s.pwr.dom[(2 : DomId)].forced = none) := by
  decide +kernel

theorem witness_port_close :
    (∀ n ∈ [0, 1], let r := { on with pwr := { on.pwr with dom := on.pwr.dom.set 11 { ps := .active, goal := .retain } } }
      let s := modPort r (.ns 0) (fun p => { p with closing := true, hold := n, ps := .active })
      (portOf s (.ns 0)).closing = true ∧ (portOf s (.ns 0)).hold = n ∧ inFlight s (.ns 0) = 0 ∧ (11 : DomId) ∈ storeDoms (.ns 0) ∧
        s.pwr.dom[(11 : DomId)].goal ≠ .active ∧ domUp s 11 = true) := by
  decide +kernel

theorem witness_recall :
    let s := planned 11 2 100000 .active
    let s := { s with bl := { s.bl with entries := [{ template := 0, layerEnd := true, seqEnd := false, repeats := 1, next := 0 }] } }
    (portOf s (.ns 0)).recalled = false ∧ closesIn s (.ns 0) 2 0 = true ∧ s.rmt.labels = [] ∧ s.rmt.ret = [] := by
  decide +kernel

theorem witness_supply :
    (on.pwr.aonOk = true ∧ on.pwr.vresetHold = false) ∧
    (let s := { on with pwr := { on.pwr with divider := true, divEpisode := 2 ^ 33 } }; s.pwr.divider = true) ∧
    (let s := { on with pwr := { on.pwr with divFrame := 5532 } }
     s.u.state = .running ∧ droopReserve s < s.pwr.divFrame / 3 ∧ s.pwr.exhausted = false) ∧
    (let s := { on with pwr := { on.pwr with divFrame := 5531 } }; s.pwr.divFrame / 3 ≤ droopReserve s) := by
  decide +kernel

theorem witness_ageing :
    (heldInReset on = false ∧ frameCycles (inFrame 61376) ≤ (inFrame 61376).fr.cyc + 64 ∧ (inFrame 61376).fr.cyc < frameCycles (inFrame 61376) ∧
     (inFrame 61439).fr.cyc < frameCycles (inFrame 61439) ∧ on.pwr.divFrame = 0 ∧ on.pwr.sampled ≠ some (inFrame 61376).fr.ctr ∧ on.pwr.monNext % 28 < 27) ∧
    (let s := { on with pwr := { on.pwr with sampled := some 0 } }; s.u.state = .running ∧ s.pwr.sampled = some s.fr.ctr) ∧
    (let s := { inFrame 61376 with
       pwr := { on.pwr with monNext := 27, round := List.replicate 27 0x1000 }
       fuse := { on.fuse with shadow := (State.reset.fuse.array.set 0 0x23000) } }
     s.pwr.monNext % 28 = 27 ∧ s.u.state = .running) ∧
    (heldInReset ready = false ∧ ready.u.state ≠ .running) := by
  decide +kernel

theorem witness_scrub :
    (let s := inFrame 1000
     s.u.state = .running ∧ s.fr.ctr.toNat % 8 = 0 ∧ s.fr.cyc = s.fr.scrubOff ∧ domUp s 11 = true) ∧
    (inFrame 1).fr.cyc ≠ (inFrame 1).fr.scrubOff ∧
    (let s := { on with fr := { on.fr with refW := 320, refP := 15360 } }
     refreshStarts s = true ∧ domUp s 20 = true ∧ (0 : Fin 32).val = s.mem.refCnt.toNat % 32 ∧ 0 ∈ groupLanes 0 ∧ s.mem.laneErr = [] ∧
       s.mem.laneThr ≠ 0 ∧ s.mem.outLanes.contains 0 = false ∧ s.mem.deadLanes.contains 0 = false ∧ s.mem.spares[(0 : Fin 32)] < 8) ∧
    domUp { on with mem := { on.mem with ds := { ps := .off } } } 20 = false := by
  decide +kernel

/-! ### Bring-up, resets, the chain, the TAP -/

/-- The unit without AON power, with other bits in fuse row 0. -/
def dark (row0 : BitVec 64) (rst : Bool) : State :=
  { State.reset with pwr := { State.reset.pwr with aonOk := false, rstN := rst }, fuse := { array := factoryFuses.set 0 row0 } }

theorem factory_ok_run (rows : List (BitVec 64))
    (h : (crcRun (rowBytes8 (factoryRows rows)) 0xFFFFFFFF#32 ^^^ 0xFFFFFFFF#32) = fld (rows.getD 55 0) 0 32) : factoryOk rows = true := by
  simp [factoryOk, crc32c_run, h]

set_option maxRecDepth 4000 in
theorem witness_fuses_good : factoryOk (dark 0x3000 true).fuse.array.toList = true ∧ factoryOk (dark 0x43000 true).fuse.array.toList = true :=
  ⟨factory_ok_run _ (by decide +kernel), factory_ok_run _ (by decide +kernel)⟩

set_option maxRecDepth 4000 in
theorem witness_fuses_bad : factoryOk (dark 0x3001 true).fuse.array.toList = false := by
  have h : (crcRun (rowBytes8 (factoryRows (dark 0x3001 true).fuse.array.toList)) 0xFFFFFFFF#32 ^^^ 0xFFFFFFFF#32) ≠
      fld ((dark 0x3001 true).fuse.array.toList.getD 55 0) 0 32 := by decide +kernel
  rw [factoryOk, crc32c_run]
  exact decide_eq_false h

theorem witness_aon : ∀ b ∈ [false, true], let s := dark 0x3000 b
    s.pwr.aonOk = false ∧ s.u.hasAddr = false ∧ fldN s.fuse.array[(0 : Fin 64)] 14 2 ≠ 3 ∧ bitOf s.fuse.array[(0 : Fin 64)] 18 = false ∧ s.pwr.rstN = b ∧
      bitOf (dark 0x43000 true).fuse.array[(0 : Fin 64)] 18 = true := by
  decide +kernel

theorem witness_reset_pins :
    (heldInReset on = false ∧ fuseDead on = false) ∧
    (∀ b ∈ [false, true], let s := { ready with pwr := { ready.pwr with rstN := false, vresetHold := b } }
      s.pwr.rstN = false ∧ s.pwr.aonOk = true ∧ fuseDead s = false ∧ s.u.state ≠ .detached ∧ s.pwr.vresetHold = b ∧ s.u.hasAddr = false) ∧
    (∀ b ∈ [false, true], let s := { ready with pwr := { ready.pwr with rstN := b, vresetHold := true } }
      s.pwr.vresetHold = true ∧ s.pwr.aonOk = true ∧ s.pwr.rstN = b ∧ s.u.hasAddr = false) ∧
    on.pwr.vresetHold = false := by
  decide +kernel

theorem witness_command : TakesCommand ready ∧ TakesCommand on := by unfold TakesCommand; decide +kernel

theorem witness_test_go :
    (let s : State := { State.reset with u := { state := .addressed, step := 3 } }; TakesCommand s ∧ s.u.state = .addressed ∧ s.u.step = 3) ∧
    ready.u.state ≠ .addressed ∧ ready.u.state ≠ .detached ∧ ready.u.hasAddr = false ∧ fastOk false ready = false := by
  unfold TakesCommand; decide +kernel

/-- A tested unit, its link UP, with the check of its shadow: a unit that may take the fast path. -/
def tested : State :=
  { ready with u := { ready.u with tested := true }, lnk := { ready.lnk with st := .up }, fuse := { ready.fuse with crc := 821882304 } }

set_option maxRecDepth 4000 in
theorem witness_fast : fastOk true tested = true ∧ TakesCommand tested ∧ tested.u.state ≠ .detached := by
  have h : shadowCrc tested.fuse.shadow.toList = tested.fuse.crc := by
    rw [shadowCrc, crc32c_run]; decide +kernel
  refine ⟨?_, by unfold TakesCommand; decide +kernel, by decide +kernel⟩
  unfold fastOk
  rw [decide_eq_true h]
  decide +kernel

/-- A packet of a kind in a mode toward a target. -/
def packet (kind mode target : Nat) (words : List Word) : ChainPkt := mkPkt (pktHdr kind mode target words.length false false) words

/-- A unit that has address 5. -/
def addressed : State := { State.reset with u := { state := .addressed, step := 3, addr := 5, hasAddr := true } }

theorem takes (s : State) (kind mode target : Nat) (words : List Word) (h : s.u.state ≠ .detached ∧ s.pwr.aonOk = true)
    (hk : pKind (packet kind mode target words) = kind) (hr : bitOf (packet kind mode target words).hdr 30 = false)
    (hm : (kindModes (pKind (packet kind mode target words))).contains (pMode (packet kind mode target words)) = true)
    (hu : pktUse s (packet kind mode target words) = .take) (hl : words.length = pLen (packet kind mode target words)) :
    TakesPacket s (packet kind mode target words) kind :=
  ⟨⟨hk, hr, h.1, h.2⟩, hu, by rw [pktGood, hm, pktOk, decide_eq_true (p := (packet kind mode target words).words.length = _) hl]; simp [packet, mkPkt]⟩

theorem witness_packets :
    TakesPacket addressed (packet 1 0 0 []) 1 ∧ TakesPacket addressed (packet 1 1 5 []) 1 ∧
    TakesPacket addressed (packet 3 1 5 [0]) 3 ∧ TakesPacket addressed (packet 4 1 5 [0, 1]) 4 ∧ TakesPacket addressed (packet 2 0 0 [5]) 2 ∧
    TakesPacket addressed (packet 2 0 0 [6]) 2 ∧ TakesPacket State.reset (packet 2 0 0 [0]) 2 ∧ TakesPacket State.reset (packet 2 0 0 [1]) 2 := by
  refine ⟨?_, ?_, ?_, ?_, ?_, ?_, ?_, ?_⟩ <;>
    exact takes _ _ _ _ _ (by decide +kernel) (by decide +kernel) (by decide +kernel) (by decide +kernel) (by decide +kernel) (by decide +kernel)

theorem witness_addresses :
    fuseDead addressed = false ∧ addressed.u.hasAddr = true ∧ (5 : BitVec 16) = addressed.u.addr ∧ State.reset.u.hasAddr = false ∧
    State.reset.u.state = .powered ∧ (0 : BitVec 16).toNat % 64 = fldN (fuseRow State.reset 0) 0 6 ∧
    (1 : BitVec 16).toNat % 64 ≠ fldN (fuseRow State.reset 0) 0 6 ∧ addressed.u.state ≠ .powered := by
  decide +kernel

theorem witness_passed :
    (let p := packet 1 0 1 []
     pKind p = 1 ∧ bitOf p.hdr 30 = false ∧ addressed.u.state ≠ .detached ∧ addressed.pwr.aonOk = true ∧ pMode p = 0 ∧ pTarget p % 64 ≠ 0) ∧
    (let p : ChainPkt := { hdr := pktHdr 1 0 0 1 false false, words := [], crc := 0 }
     pKind p = 1 ∧ bitOf p.hdr 30 = false ∧ pktUse addressed p = .take) ∧
    bitOf (packet 1 0 0 []).hdr 30 = false ∧ bitOf (pktHdr 1 0 0 0 true false) 30 = true ∧ pKind (packet 8 1 5 []) = 8 := by
  decide +kernel

theorem witness_damaged : pktGood { hdr := pktHdr 1 0 0 1 false false, words := [], crc := 0 } = false := by
  rw [pktGood, pktOk, decide_eq_false (by decide +kernel)]; rfl

theorem witness_tap_window :
    (let s := { ready with fuse := { ready.fuse with shadow := ready.fuse.shadow.set 0 0x10000 } }; tapClosed s = true) ∧
    tapClosed ready = false ∧ ready.hwf = [] ∧ heldInReset ready = false ∧ fuseDead ready = false ∧ bitOf (0 : BitVec 72) 52 = false ∧
    bitOf (BitVec.ofNat 72 (2 ^ 52 + 0x34)) 52 = true ∧ fldN (BitVec.ofNat 72 (2 ^ 52 + 0x34)) 0 20 = 0x34 := by
  decide +kernel

theorem witness_busy : let s := { ready with cmd := { ready.cmd with busy := true } }
    isCommand (.dump 0) = true ∧ s.pwr.aonOk = true ∧ fuseDead s = false ∧ s.cmd.busy = true := by
  decide +kernel

/-! ### Commands of the window -/

/-- The unit running a task on partition 0. -/
def running : State := { on with parts := on.parts.set 0 { task := true, started := true } }

theorem witness_resets :
    (TakesCommand on ∧ taskRuns on (corePart 0) = false ∧ on.cores[(0 : Fin 16)].sq = []) ∧ (TakesCommand running ∧ taskRuns running (corePart 0) = true) ∧
    (taskRuns on (clPart 0) = false ∧ ∀ c ∈ coresOf 0, on.cores[c].sq = []) ∧
    (on.u.state ≠ .fenced ∧ on.u.state ≠ .detached ∧ Quiet on) ∧
    (∀ n ∈ [0, 1, 2], ({ on with cmd := { on.cmd with left := n } }).cmd.left = n) := by
  unfold TakesCommand Quiet; decide +kernel

/-- A READY unit whose Blend defines sequence 0 of partition 0. -/
def startable : State := { ready with bl := { ready.bl with seqs := ready.bl.seqs.set 0 { defined := true } } }

theorem witness_starts :
    (let s := startable
     TakesCommand s ∧ s.u.state = .ready ∧ s.u.blendOk = true ∧ s.parts[(0 : Part)].started = false ∧
       startCheck { s with fr := { s.fr with cfg := s.fr.own } } = none ∧ seqDefined s 0 0 = true ∧ ∀ k ∈ taskCls s 0, clFailed s k = false) ∧
    (let s := { startable with u := { startable.u with blendOk := false } }; s.u.blendOk = false ∧ s.u.state ≠ .running) ∧
    (let s := { startable with parts := startable.parts.set 0 { started := true } }; s.parts[(0 : Part)].started = true) := by
  unfold TakesCommand; decide +kernel

theorem witness_stops :
    (TakesCommand running ∧ mayStop running 0 = true ∧ (∀ c : CoreId, running.cores[c].sq = [] ∧ running.cores[c].prog = []) ∧
      (∀ g : GroupId, (portOf running (.ns g)).isOpen = true) ∧ (portOf running .ds).isOpen = true) ∧
    (let s := { on with parts := on.parts.set 0 { task := true, halted := true } }; mayResume s 0 = true) ∧
    (mayStop on 0 = false ∧ mayResume on 0 = false) ∧
    (∀ x ∈ [CState.preempted, .halted, .fenced], let s := onCore (fun k => { k with st := x })
      s.cores[(0 : Fin 16)].st = x ∧ saveShut s [0] = none ∧
        (let s := modPort (modPort s .ds (fun p => { p with isOpen := false })) (storeOf (slotAddr s 0)) (fun p => { p with isOpen := false }); (saveShut s [0]).isSome = true)) ∧
    on.cores[(0 : Fin 16)].st = .run := by
  unfold TakesCommand; decide +kernel

set_option maxRecDepth 10000 in
theorem witness_slots_loaded :
    (TakesCommand ready ∧ ready.u.state = .ready ∧ slotCheck (modCore ready 0 (fun x => { x with routes := put {} x.routes 63 (slotRecord (slice (List.replicate 2752 0) 0 2752)) })) 0 63
       (slotRecord (slice (List.replicate 2752 0) 0 2752)) = none) ∧
    (running.u.state = .running ∧ taskRuns running (corePart 0) = true) ∧
    whiskWordOk (BitVec.ofNat 16384 (228 * ((2 ^ 16384 - 1) / 255))) (whiskWidth ready 0 31) = true ∧
    whiskWordOk (leBits 16384 (slice [] 0 2048)) (whiskWidth ready 0 31) = false := by
  unfold TakesCommand; decide +kernel

theorem witness_forces :
    (3 : BitVec 5).toNat = (3 : DomId).val ∧ 0 < (3 : DomId).val ∧ (3 : BitVec 2).toNat ≤ deepest ready 3 ∧ domUp ready 3 = true ∧
    (2 : BitVec 5).toNat = (2 : DomId).val ∧ deepest ready 2 < (3 : BitVec 2).toNat := by
  decide +kernel

theorem witness_fuse_writes :
    allZero (keyHash ready) = true ∧
    (let s := { ready with fuse := { ready.fuse with shadow := ready.fuse.shadow.set 7 1 } }; allZero (keyHash s) = false) ∧
    (let s := { ready with u := { ready.u with repairPend := true } }
     s.u.state ≠ .fenced ∧ s.u.repairPend = true ∧ fld s.fuse.pend 56 8 = (0 : Byte) ∧ emptyRow s = some 56) ∧
    (let s := { ready with fuse := { ready.fuse with writing := some .sigRequired } }
     s.fuse.writing = some .sigRequired ∧ (0 : BitVec 64) ≠ setFld (fuseRow s 0) 17 1 1) := by
  decide +kernel

/-! ### Loading -/

/-- A unit in CONFIG_WAIT that receives a load, with the blocks `l` taken. -/
def loading (l : List (Nat × List Byte)) : State :=
  { State.reset with u := { state := .configWait, step := 7 }, ld := { active := true, blocks := l } }

/-- Block 1 of an image of zeros. -/
def block1 : Block := ⟨List.replicate 4096 0, BitVec.ofNat 128 (1 + 3123572811 * 2 ^ 96)⟩
/-- Block 0 of the same image. -/
def block0 : Block := ⟨List.replicate 4096 0, BitVec.ofNat 128 (2338071675 * 2 ^ 96)⟩
/-- The end marker of an image of one block. -/
def marker1 : Block := ⟨1 :: List.replicate 4095 0, BitVec.ofNat 128 (0x10000 + 2124872476 * 2 ^ 96)⟩

set_option maxRecDepth 100000 in
theorem test_block1_check : crcRun (block1.payload ++ bytesOf block1.trailer 12) 0xFFFFFFFF#32 ^^^ 0xFFFFFFFF#32 = fld block1.trailer 96 32 := by
  decide +kernel

set_option maxRecDepth 100000 in
theorem test_marker1_check : crcRun (marker1.payload ++ bytesOf marker1.trailer 12) 0xFFFFFFFF#32 ^^^ 0xFFFFFFFF#32 = fld marker1.trailer 96 32 := by
  decide +kernel

theorem block1_ok : blockOk block1 = true := by
  unfold blockOk
  rw [Bool.and_eq_true, decide_eq_true_eq, decide_eq_true_eq, crc32c_run]
  exact ⟨List.length_replicate, test_block1_check⟩

theorem marker1_ok : endMarkerOk marker1 = true := by
  have h : blockOk marker1 = true := by
    unfold blockOk
    rw [Bool.and_eq_true, decide_eq_true_eq, decide_eq_true_eq, crc32c_run]
    exact ⟨by rw [marker1, List.length_cons, List.length_replicate]; rfl, test_marker1_check⟩
  unfold endMarkerOk
  rw [h]; decide +kernel

theorem witness_block_received : let s := loading []
    receiving s = true ∧ blockOk block1 = true ∧ tKind block1 = 0 ∧ ofImage s block1 = true ∧ tSeq block1 ≠ 0 ∧
      received s.ld (tSeq block1) = false ∧ stagingFull (fixImage s block1) = false ∧ block1.payload ≠ [] :=
  ⟨by decide +kernel, block1_ok, by decide +kernel, by decide +kernel, by decide +kernel, by decide +kernel, by decide +kernel, by decide +kernel⟩

theorem witness_block_damaged : blockOk ⟨[], 0⟩ = false := by
  unfold blockOk
  rw [Bool.and_eq_false_iff]
  exact Or.inl (by decide)

theorem witness_end_marker : let s := loading []; let t := loading [(0, List.replicate 4096 0)]
    (receiving s = true ∧ endMarkerOk marker1 = true ∧ ofImage s marker1 = true ∧
      clearBits { s.ld with imageId := some (s.ld.imageId.getD (tImage marker1)), blockCnt := some (numAt marker1.payload 0 4) } ≠ []) ∧
    (receiving t = true ∧ ofImage t marker1 = true ∧
      clearBits { t.ld with imageId := some (t.ld.imageId.getD (tImage marker1)), blockCnt := some (numAt marker1.payload 0 4) } = []) :=
  ⟨⟨by decide +kernel, marker1_ok, by decide +kernel, by decide +kernel⟩, by decide +kernel⟩

theorem witness_load_begin :
    (TakesCommand ready ∧ (ready.u.state = .ready ∨ ready.u.state = .configWait) ∧ 2 ≤ (stagingGroups ready).length) ∧
    (let s := { ready with mem := { ready.mem with retain := 0xFE } }
     TakesCommand s ∧ (stagingGroups s).length < 2 ∧ bitOf s.mem.retain (groupOf 0x1000000).val = true) ∧
    receiving ready = false := by
  unfold TakesCommand; decide +kernel

theorem witness_regulator :
    (let s := { loading [] with ld := { active := true, waitVid := true } }
     s.ld.waitVid = true ∧ s.u.state = .configWait ∧ s.pins.vidAck = false) := by
  decide +kernel

theorem witness_gate_waits : receiving (loading []) = true ∧ wholeImage (loading []) = none := by decide +kernel

set_option maxRecDepth 100000 in
theorem witness_gate_fails :
    let x : List Byte := List.replicate 4095 0 ++ [1]
    let s := { loading [] with ld := { active := true, blocks := [(0, x)], blockCnt := some 1 } }
    receiving s = true ∧ wholeImage s = some (x, 1) ∧ gateCheck s x 1 = some ⟨.blendSize, 0xFFFF⟩ := by
  decide +kernel

/-! ### Registers -/

theorem witness_seq_next : let s := startable
    (bitOf (0 : Word) 30 = false ∧ s.parts[(0 : Part)].nextPending = false ∧ seqDefined s 0 (fld (0 : Word) 0 4).toFin = true ∧
      fldN (0 : Word) 8 2 < 2 ∧ s.parts[(0 : Part)].idle = false) ∧
    seqDefined s 0 (fld (1 : Word) 0 4).toFin = false ∧
    (modPart s 0 (fun x => { x with nextPending := true })).parts[(0 : Part)].nextPending = true ∧ bitOf (0x40000000 : Word) 30 = true := by
  decide +kernel

theorem witness_tick_cfg :
    blendRuns ready = false ∧ (400 ≤ fldN (0x190 : Word) 0 20 ∧ fldN (0x190 : Word) 0 20 ≤ 1000000 ∧ fldN (0x190 : Word) 20 7 ≤ 100 ∧ fldN (0x190 : Word) 27 2 ≠ 3) ∧
    (400 ≤ fldN (0x164F4240 : Word) 0 20 ∧ fldN (0x164F4240 : Word) 0 20 ≤ 1000000 ∧ fldN (0x164F4240 : Word) 20 7 ≤ 100 ∧ fldN (0x164F4240 : Word) 27 2 ≠ 3) ∧
    fldN (0x18F : Word) 0 20 < 400 ∧ blendRuns running = true := by
  decide +kernel

theorem witness_register_writes :
    heldInReset ready = false ∧ fuseDead ready = false ∧ fldN (0x60 : Word) 0 8 = 0x60 ∧
    heldInReset { ready with pwr := { ready.pwr with rstN := false } } = true := by
  decide +kernel

theorem witness_log_fields : (3 : Nat) < 4 ∧ (255 : Nat) < 256 ∧ (2 ^ 32 - 1 : Nat) < 2 ^ 32 ∧ (2 ^ 24 - 1 : Nat) < 2 ^ 24 := by decide

/-! ### A Blend that passes the gate -/

-- The digest of "abc" that FIPS 180-4 gives.
set_option maxRecDepth 100000 in
theorem test_sha384_abc : sha384Run [0x61, 0x62, 0x63] =
    [0xcb, 0x00, 0x75, 0x3f, 0x45, 0xa3, 0x5e, 0x8b, 0xb5, 0xa0, 0x3d, 0x69, 0x9a, 0xc6, 0x50, 0x07, 0x27, 0x2c, 0x32, 0xab, 0x0e, 0xde, 0xd1, 0x63,
     0x1a, 0x8b, 0x60, 0x5a, 0x43, 0xff, 0x5b, 0xed, 0x80, 0x86, 0x07, 0x2b, 0xa1, 0xe7, 0xcc, 0x23, 0x58, 0xba, 0xec, 0xa1, 0x34, 0xc8, 0x25, 0xa7] := by
  decide +kernel

/-- A section table entry: type, offset, length. -/
def entry (typ off len : Nat) : List Byte :=
  [BitVec.ofNat 8 typ, 0, 0, 0, 0, 0, 0, 0, BitVec.ofNat 8 off, BitVec.ofNat 8 (off / 256), 0, 0, BitVec.ofNat 8 len, BitVec.ofNat 8 (len / 256), 0, 0]
    ++ List.replicate 16 0

/-- The smallest Blend of one unit: SYS, UNIT, FIRMWARE, one TEMPLATE, SEQ and PWRPLAN, up to its closing record. -/
def imageBody : List Byte :=
  ([0x42, 0x4C, 0x4E, 0x44, 1, 0, 0xC0, 0, 0x40, 0x0B, 0, 0, 6, 0] ++ List.replicate 50 0)
    ++ (entry 1 256 2112 ++ entry 2 2368 64 ++ entry 4 2432 128 ++ entry 16 2560 64 ++ entry 17 2624 72 ++ entry 18 2752 72)
    ++ ([0, 0, 0, 0, 0, 0x10, 0, 0] ++ List.replicate 56 0 ++ [0, 0x80] ++ List.replicate 2046 0)
    ++ ([0x20, 0, 0, 0, 0, 0, 0, 0, 0, 0, 0, 0, 0x1E, 0, 0x1E, 0, 0, 6, 0, 0, 0, 0, 0, 0x40] ++ List.replicate 40 0)
    ++ List.replicate 192 0
    ++ ([1, 0, 0, 0, 0, 1] ++ List.replicate 58 0 ++ [0xC0] ++ List.replicate 63 0)
    ++ List.replicate 128 0

/-- Its digest. -/
def imageDigest : List Byte := [0xf8, 0x37, 0x70, 0x4d, 0x77, 0x0f, 0x02, 0xd9, 0x6d, 0xeb, 0x1e, 0x9b, 0x57, 0x2c, 0x11, 0xc6, 0x21, 0xdb, 0x09, 0xfa, 0x28, 0x5a, 0x21, 0xff, 0xf0, 0xd1, 0x86, 0x8c, 0x19, 0x95, 0x38, 0xc2, 0xdc, 0xa4, 0xff, 0xcf, 0xfa, 0x83, 0xa8, 0xac, 0x3a, 0xad, 0x68, 0x6b, 0x5c, 0x3c, 0x12, 0x9f]

/-- Its one block. -/
def image : List Byte := imageBody ++ (imageDigest ++ List.replicate 1168 0)

/-- A unit that has received it. -/
def received1 : State :=
  { State.reset with u := { state := .configWait, step := 7 }, ld := { active := true, blocks := [(0, image)], blockCnt := some 1 } }

set_option maxRecDepth 100000 in
theorem test_digest : sha384Run imageBody = imageDigest := by decide +kernel

set_option maxRecDepth 100000 in
theorem test_image_header : (headerOf image).closeOff = 2880 ∧ imageBody.length = 2880 ∧ (headerOf image).flags % 2 = 0 := by decide +kernel

set_option maxRecDepth 100000 in
theorem test_image_size :
    need (decide (1 = ceilDiv (2880 + 256) blockBytes) && allZero (image.drop (2880 + 256))) (failHead .blendSize) = none := by decide +kernel

set_option maxRecDepth 100000 in
theorem test_image_closing :
    imageDigest = (slice image 2880 256).take 48 ∧ need (signatureOk received1 false (slice image 2880 256)) (failHead .loadSig) = none := by
  decide +kernel

theorem image_passes_the_gate : gateCheck received1 image 1 = none := by
  have e : image.take 2880 = imageBody := by
    rw [image, ← test_image_header.2.1]; exact List.take_left
  simp only [gateCheck, test_image_header.1, test_image_header.2.2, e, sha384_run, test_digest, ← test_image_closing.1, test_image_size]
  exact test_image_closing.2

set_option maxRecDepth 100000 in
theorem image_table_passes : checkTable image (keptSects received1 image) = none := by decide +kernel

set_option maxRecDepth 100000 in
theorem image_kept_pass :
    checkKept received1 (candidate received1 image) image (keptSects received1 image) = none := by
  decide +kernel

set_option maxRecDepth 100000 in
theorem image_received : receiving received1 = true ∧ wholeImage received1 = some (image, 1) ∧ baseOk received1 = false := by decide +kernel

theorem witness_gate_passes :
    receiving received1 = true ∧ wholeImage received1 = some (image, 1) ∧ gateCheck received1 image 1 = none ∧
    (baseOk received1 = true → planVid received1 (binOf (headerOf image).bin) ≤ vidMax received1) ∧
    checkTable image (keptSects received1 image) = none ∧
    checkKept received1 (candidate received1 image) image (keptSects received1 image) = none :=
  ⟨image_received.1, image_received.2.1, image_passes_the_gate, fun h => absurd h (by rw [image_received.2.2]; decide),
    image_table_passes, image_kept_pass⟩

/-! ### Worked examples of the spec -/

-- 00_scope.md: cycles of a default frame at H, S and E; 02_frames_ticks.md: its droop reserve at H is 1,843 cycles.
theorem test_frame_cycles :
    let f (b : Bin) : Nat := frameCycles { State.reset with fr := { State.reset.fr with clk := b } }
    f .h = 61440 ∧ f .s = 55296 ∧ f .e = 49152 ∧ droopReserve { State.reset with fr := { State.reset.fr with clk := .h } } = 1843 := by
  decide +kernel

-- 01_unit_organisation.md, Table 1-3: factory fuse names core 3 of cluster 1, a field-repair row core 1 of cluster 2.
theorem test_logical_map :
    let s := { State.reset with fuse := { State.reset.fuse with
      shadow := (State.reset.fuse.shadow.set 1 0xFDF).set 56 0x8200000000000063 } }
    (goodCores s 1).take 4 = [0, 1, 2, 4] ∧ (goodCores s 2).take 4 = [0, 2, 3, 4] ∧ fieldRowOk (fuseRow s 56) = true := by
  decide +kernel

-- 03_tensor_layouts.md: element (77, 5) of a panel of 128 lanes lies at byte 0x536 in L-KP2 as BF16, and in byte 53 of beat 3
-- in L-KQ4 as FP8.
theorem test_panel_element :
    let kp2 : Desc := BitVec.ofNat 512 (0x400000 + 2 * 2 ^ 50 + 2 ^ 55 + 2 * 2 ^ 58 + 127 * 2 ^ 64 + 1023 * 2 ^ 88)
    let kq4 : Desc := BitVec.ofNat 512 (0x400000 + 5 * 2 ^ 50 + 2 * 2 ^ 55 + 2 * 2 ^ 58 + 127 * 2 ^ 64 + 1023 * 2 ^ 88)
    laneBit kp2 (tdBase kp2) 5 + 32 * 77 = 8 * 0x400536 ∧ panelBeats kp2 = 1024 ∧
    laneBit kq4 (tdBase kq4) 5 + 32 * 77 = 8 * (0x400000 + 256 * 3 + 53) ∧ panelBeats kq4 = 512 := by
  decide +kernel

-- 04_reorder_core.md: ten vector registers, 128 rows of t0 and 64 rows of t2 take 232 cycles and 53,056 bytes, and slot 1
-- of a partition that saves at 0x60000000 puts t0 at 0x60026800.
theorem test_save :
    let v := (upto 10).foldl (fun (v : Vector VecReg 32) i => v.setIfInBounds i { full := true }) (Vector.replicate 32 {})
    let x : Core := { v := v, t := ((Vector.replicate 4 {}).set 0 { cls := .w16, full := true, rows := 128 }).set 2 { cls := .w8, full := true, rows := 64 } }
    let s := { State.reset with u := { State.reset.u with taskMode := true, saveBase := State.reset.u.saveBase.set 1 0x60000000 } }
    saveCycles x = 232 ∧ 256 + 1088 + 256 * (saveCycles x - 30) = 53056 ∧ slotAddr s 9 + 0x2800 = 0x60026800 := by
  decide +kernel

-- 05_permutation_network.md: the transposition of 8 x 16 blocks takes output element 43 from input element 53.
theorem test_affine_map :
    let d : Desc := BitVec.ofNat 512 (7 + 0x0008 * 2 ^ 32 + 0x0010 * 2 ^ 48 + 0x0020 * 2 ^ 64 + 0x0040 * 2 ^ 80 + 2 ^ 96 + 2 * 2 ^ 112 + 4 * 2 ^ 128)
    mapOk d 7 = true ∧ isBpc (affineOf d) = true ∧ affineSrc (affineOf d) 43 = 53 := by
  decide +kernel

-- 11_stores.md: 0x01834A40 is in group 6, bank number 49.
theorem test_store_address : groupOf 0x01834A40 = 6 ∧ bankOf 0x01834A40 = 49 := by decide

-- 14_bringup_reset.md: the CRC-8 of 0x63 and six zero bytes.
theorem test_crc8 : crc8 [0x63, 0, 0, 0, 0, 0, 0] = 0x82 := by rw [crc8_run]; decide +kernel

-- 15_errors_containment.md: word 0 and the detail of the entry of core 3.
theorem test_log_word :
    fldN (entryBits .stallCycle 2 0x23 5 0 none 0x28) 0 32 = 0x0232020E ∧ fldN (entryBits .stallCycle 2 0x23 5 0 none 0x28) 32 96 = 5 + 0x28 * 2 ^ 64 := by
  decide +kernel

-- 16_power_ageing.md: 29 ps at H with 8 steps of margin support S, whose VID is VID_START.
theorem test_ageing :
    let s := { State.reset with
      fuse := { State.reset.fuse with shadow := State.reset.fuse.shadow.set 2 0x14048 }, pwr := { State.reset.pwr with delta := 29 } }
    maxClock s 29 = 1 ∧ planVid s .h = 0x4A ∧ vidMax s = 0x48 ∧ planVid s .s = 0x40 := by
  decide +kernel

-- 17_blend_format.md: the blocks of an image whose closing record is at 9,437,120.
theorem test_block_count : ceilDiv (9437120 + 256) blockBytes = 2305 := by decide

-- 18_register_map.md: the merge counter of cluster 2 is at offset 0x60208.
theorem test_merge_count :
    let s := { State.reset with cls := State.reset.cls.set 2 { State.reset.cls[(2 : Fin 4)] with merge := 5 } }
    regRead s 0x60208 = 5 ∧ regRead s 0x50208 = 0 := by
  decide +kernel

end Sys2Proof.Tests
end

section
/-! PROOFS. Vector moves of a core: VMOV, VLQ, VSQ and VREL (R183, R186). -/

namespace Sys2Proof.Machine

/-! ### Issue of an instruction whose whole effect is a change of its core -/

/-- An instruction that first brings the state to `r`, its cores and the crossbar untouched, and then changes its core by `f`,
issues as one that changes the core by `f` from `r`. -/
theorem issue_retire {s r : State} {c : CoreId} (h : Ready s c) (n : Needs) {F : State → State} {f : Core → Core}
    (hF : F s = retire (modCore r c f) c 1) (hxb : r.xb = s.xb) (hcores : r.cores = s.cores)
    (hpc : (f s.cores[c]).pc = s.cores[c].pc) (hag : (f s.cores[c]).ag = s.cores[c].ag) :
    IssuedAs c r (issue s c n F) (f s.cores[c]) := by
  have hx : (F s).xb = s.xb := by rw [hF, retire_xb, modCore_xb, hxb]
  rw [issue_ready h n hx, hF]
  rw [← hcores] at hpc hag ⊢
  exact retire_modCore r c f (by rw [hcores]; exact h.2.1) hpc hag

/-- An instruction that always issues and whose effect is to change its core by `f`. -/
theorem issueNext_modCore {s : State} {c : CoreId} (h : Ready s c) (n : Needs) {F : State → State} {f : Core → Core}
    (hF : F s = modCore s c f) (hpc : (f s.cores[c]).pc = s.cores[c].pc) (hag : (f s.cores[c]).ag = s.cores[c].ag) :
    IssuedAs c s (issueNext s c n F) (f s.cores[c]) :=
  issue_retire h n (congrArg (fun t => retire t c 1) hF) rfl rfl hpc hag

/-- A core that may issue has no contained error. -/
theorem Ready.errDue_false {s : State} {c : CoreId} (h : Ready s c) : s.cores[c].errDue = false := by
  obtain ⟨issues, -, -⟩ := h
  simp only [canIssue, Bool.and_eq_true, Bool.not_eq_true'] at issues
  obtain ⟨⟨-, sound⟩, -⟩ := issues
  exact sound

/-! ### VMOV -/

/-- An empty register reads as zeros without poison (R81). -/
theorem readV_eq (s : State) (c : CoreId) (v : VReg) :
    readV s c v = (if s.cores[c].v[v].full then s.cores[c].v[v].data else 0, s.cores[c].v[v].full && s.cores[c].v[v].psn) := by
  unfold readV
  generalize s.cores[c].v[v] = x
  cases hx : x.full <;> simp [hx]

theorem exec_vmov (s : State) (c : CoreId) (vd va : VReg) : exec (.vmov c vd va) s = execVmov c vd va s := rfl

theorem vmov_issued {s : State} {c : CoreId} (h : Ready s c) (vd va : VReg) :
    ∃ t, exec (.vmov c vd va) s = .next t ∧
      IssuedAs c s t (wroteV s.cores[c] vd (readV s c va).1 (readV s c va).2) := by
  rw [exec_vmov]
  exact ⟨_, rfl, issueNext_modCore h _ (f := fun k => wroteV k vd (readV s c va).1 (readV s c va).2) rfl rfl rfl⟩

/-! ### VLQ -/

/-- The increment that a beat taken from the load queue of core `c` releases, where it releases one (R210). -/
def releaseInc (s : State) (c : CoreId) : Option IncOp → State
  | some i => incCtrBy s (corePart c) (locCore c) i.ctr i.amt i.psn
  | none => s

/-- A log entry reads nothing of a core. -/
theorem logRun_modCore (s : State) (c : CoreId) (f : Core → Core) (e : Err) (loc d : Nat) :
    logRun (modCore s c f) e loc d = modCore (logRun s e loc d) c f := by
  unfold logRun logAt
  simp only [apply_ite (modCore · c f)]
  rfl

/-- The parity check of a counter reads nothing of a core. -/
theorem checkParity_modCore (s : State) (c : CoreId) (f : Core → Core) (k : Ctr) :
    checkParity (modCore s c f) k = modCore (checkParity s k) c f := by
  unfold checkParity
  simp only [apply_ite (modCore · c f), ← logRun_modCore]
  rfl

/-- An increment and a change of a core do not meet. -/
theorem incCtrBy_modCore (s : State) (c : CoreId) (f : Core → Core) (p : Part) (loc : Nat) (k : Ctr) (a : Word) (b : Bool) :
    incCtrBy (modCore s c f) p loc k a b = modCore (incCtrBy s p loc k a b) c f := by
  unfold incCtrBy incCtr
  simp only [apply_ite (modCore · c f), ← logRun_modCore, checkParity_modCore]
  rfl

/-- The increment a beat releases and a change of a core do not meet. -/
theorem releaseInc_modCore (s : State) (c : CoreId) (f : Core → Core) (i : Option IncOp) :
    releaseInc (modCore s c f) c i = modCore (releaseInc s c i) c f := by
  cases i with
  | none => rfl
  | some i => exact incCtrBy_modCore s c f _ _ _ _ _

/-- A parity check changes the counter file and the error log alone. -/
theorem checkParity_eq (s : State) (k : Ctr) : checkParity s k = { s with
    cnt := (checkParity s k).cnt, cntPar := (checkParity s k).cntPar, err := (checkParity s k).err, u := (checkParity s k).u } := by
  unfold checkParity
  split
  · rw [logRun, logAt_eq]; rfl
  · rfl

/-- An increment changes the counter file and the error log alone. -/
theorem incCtrBy_eq (s : State) (p : Part) (loc : Nat) (k : Ctr) (a : Word) (b : Bool) : incCtrBy s p loc k a b = { s with
    cnt := (incCtrBy s p loc k a b).cnt, cntPar := (incCtrBy s p loc k a b).cntPar
    err := (incCtrBy s p loc k a b).err, u := (incCtrBy s p loc k a b).u } := by
  unfold incCtrBy
  split
  · rw [logRun, logAt_eq]
  · unfold incCtr
    dsimp only
    split
    · exact checkParity_eq s k
    · rw [checkParity_eq]; rfl

/-- The increment a beat releases changes no core and not the crossbar. -/
theorem releaseInc_frame (s : State) (c : CoreId) (i : Option IncOp) :
    (releaseInc s c i).cores = s.cores ∧ (releaseInc s c i).xb = s.xb := by
  cases i with
  | none => exact ⟨rfl, rfl⟩
  | some i => rw [releaseInc, incCtrBy_eq]; exact ⟨rfl, rfl⟩

/-- The front beat leaves the load queue with the increment it releases (R85, R210). -/
theorem popLq_cons {s : State} {c : CoreId} {b : LqBeat} {r : List LqBeat} (h : s.cores[c].lq = b :: r) :
    popLq s c = (modCore (releaseInc s c b.inc) c (fun k => { k with lq := r }), b.data, b.psn) := by
  rw [← releaseInc_modCore]
  unfold popLq
  simp only [h]
  cases b.inc <;> rfl

theorem exec_vlq (s : State) (c : CoreId) (vd : VReg) : exec (.vlq c vd) s = execVlq c vd s := rfl

theorem vlq_issued {s : State} {c : CoreId} (h : Ready s c) (vd : VReg) {b : LqBeat} {r : List LqBeat}
    (hlq : s.cores[c].lq = b :: r) :
    ∃ t, exec (.vlq c vd) s = .next t ∧
      IssuedAs c (releaseInc s c b.inc) t { wroteV s.cores[c] vd b.data b.psn with lq := r } := by
  have avail : lqAvail s c ≠ 0 := by rw [lqAvail, hlq, List.length_cons]; omega
  obtain ⟨hcores, hxb⟩ := releaseInc_frame s c b.inc
  rw [exec_vlq]
  refine ⟨_, rfl, issue_retire h _ (f := fun k => { wroteV k vd b.data b.psn with lq := r }) ?_ hxb hcores rfl rfl⟩
  simp only [avail, hlq, popLq_cons hlq, writeV_eq, modCore_modCore, List.isEmpty_cons, if_false, Bool.false_eq_true]
  rfl

/-! ### VSQ -/

/-- An entry whose check bits are right is read as it stands (R203). -/
theorem readEntry_ok {s : State} {i : Nat} (hu : HwFault.listUe ⟨i % 8192, by omega⟩ ∉ s.hwf)
    (hc : HwFault.listCe ⟨i % 8192, by omega⟩ ∉ s.hwf) : readEntry s i = (s, some (listEntry s i)) := by
  simp [readEntry, hu, hc]

/-- The counter that entry `e` takes its credit from is sound, belongs to partition `p` and holds one, if `e` asks for a credit
(R24, R214, R289). -/
def HoldsCredit (s : State) (p : Part) (e : BitVec 256) : Prop :=
  bCredEn e = true → HwFault.cntParity (bCredCtr e) ∉ s.hwf ∧ crosses s p (ctrPart s (bCredCtr e)) = false ∧
    creditOk (ctrOf s (bCredCtr e)) = true

theorem askCredit_held {s : State} {p : Part} {e : BitVec 256} (h : HoldsCredit s p e) (loc : Nat) :
    askCredit s p loc e = (s, true) := by
  unfold askCredit
  cases he : bCredEn e with
  | false => rfl
  | true =>
    obtain ⟨sound, own, held⟩ := h he
    simp [own, checkParity_ok sound, held]

/-- The entry of the block at the store position of list `l`. -/
def storeBlock (s : State) (c : CoreId) (l : ListRef) : BitVec 256 := listEntry s (l.first + s.cores[c].storePos.block)

/-- The descriptor of that block: that of its start, once it has started. -/
def storeBlockDesc (s : State) (c : CoreId) (l : ListRef) : Desc :=
  let k := s.cores[c]
  let d := blockDesc k (storeBlock s c l) false
  if k.storePos.beat = 0 then d else k.storeDesc.getD d

/-- The state once the block at the store position has started: a block takes its credit with its first beat (R214). -/
def storeStarted (s : State) (c : CoreId) (l : ListRef) : State :=
  if s.cores[c].storePos.beat = 0 then takeCredit s (storeBlock s c l) else s

/-- The block at the store position goes on, or may start: its entry reads without an error, passes the checks of Table 9-3
and holds its credit (R203, R212, R214). -/
def StoreGoesOn (s : State) (c : CoreId) (l : ListRef) : Prop :=
  s.cores[c].storePos.beat = 0 →
    readEntry s (l.first + s.cores[c].storePos.block) = (s, some (storeBlock s c l)) ∧
    coreBlockCheck (storeBlock s c l) (storeBlockDesc s c l) false = none ∧
    HoldsCredit s (corePart c) (storeBlock s c l)

/-- The core with a beat pushed at the next position of its store list, in block `e` with descriptor `d` (R89, R212). -/
def pushed (e : BitVec 256) (d : Desc) (x : Bits) (psn : Bool) (k : Core) : Core :=
  let p := stepPos k.storePos 1 (blockBeats e d)
  { k with
    sq := k.sq ++ [storeEntry e d k.storePos.beat k.feedPos x psn (decide (k.storePos.beat + 1 = blockBeats e d))]
    storePos := p, feedPos := k.feedPos + 1, storeDesc := if p.beat = 0 then none else some d }

/-- The start of a block changes no core and not the crossbar. -/
theorem storeStarted_frame (s : State) (c : CoreId) (l : ListRef) :
    (storeStarted s c l).cores = s.cores ∧ (storeStarted s c l).xb = s.xb := by
  unfold storeStarted takeCredit
  split
  · split
    · exact ⟨rfl, rfl⟩
    · exact ⟨rfl, rfl⟩
  · exact ⟨rfl, rfl⟩

theorem storeCredit_held {s : State} {c : CoreId} {l : ListRef} (hl : s.cores[c].storeList = some l)
    (h : StoreGoesOn s c l) : storeCredit s c = (s, true) := by
  unfold storeCredit
  simp only [hl]
  split
  · rfl
  · rename_i hb
    obtain ⟨-, -, held⟩ := h (not_not.mp hb)
    exact askCredit_held held _

theorem startStore_passes {s : State} {c : CoreId} {l : ListRef} (h : StoreGoesOn s c l) :
    startStore s c l = (storeStarted s c l, some (storeBlock s c l, storeBlockDesc s c l)) := by
  unfold startStore storeStarted
  by_cases hb : s.cores[c].storePos.beat = 0
  · obtain ⟨read, check, -⟩ := h hb
    have desc : storeBlockDesc s c l = blockDesc s.cores[c] (storeBlock s c l) false := if_pos hb
    rw [desc] at check ⊢
    simp only [hb, read, check, if_true]
  · simp only [hb, storeBlockDesc, if_false]
    cases s.cores[c].storeDesc <;> rfl

theorem pushList_passes {s : State} {c : CoreId} {l : ListRef} (hl : s.cores[c].storeList = some l)
    (h : StoreGoesOn s c l) (x : Bits) (psn : Bool) :
    pushList s c x psn = modCore (storeStarted s c l) c (pushed (storeBlock s c l) (storeBlockDesc s c l) x psn) := by
  unfold pushList
  simp only [hl, startStore_passes h]
  rfl

theorem exec_vsq (s : State) (c : CoreId) (va : VReg) : exec (.vsq c va) s = execVsq c va s := rfl

theorem vsq_issued {s : State} {c : CoreId} (h : Ready s c) (va : VReg) {l : ListRef}
    (hl : s.cores[c].storeList = some l) (left : 0 < storeLeft s c) (free : s.cores[c].sq.length < 16)
    (goes : StoreGoesOn s c l) :
    ∃ t, exec (.vsq c va) s = .next t ∧ IssuedAs c (storeStarted s c l) t
      (pushed (storeBlock s c l) (storeBlockDesc s c l) (readV s c va).1 (readV s c va).2 s.cores[c]) := by
  obtain ⟨hcores, hxb⟩ := storeStarted_frame s c l
  have notFull : sqFull s c = false := decide_eq_false (Nat.not_le.mpr free)
  rw [exec_vsq]
  refine ⟨_, rfl, issue_retire h _ (f := pushed (storeBlock s c l) (storeBlockDesc s c l) (readV s c va).1 (readV s c va).2)
    ?_ hxb hcores rfl rfl⟩
  have sound : ((modCore (storeStarted s c l) c
      (pushed (storeBlock s c l) (storeBlockDesc s c l) (readV s c va).1 (readV s c va).2)).cores[c]).errDue = false := by
    rw [modCore_self, hcores]; exact h.errDue_false
  simp only [left.ne', notFull, storeCredit_held hl goes, pushList_passes hl goes, sound, if_false, Bool.not_true,
    Bool.or_self, Bool.false_eq_true]

/-- Settles O7: each of the three instructions is the change of its core that the statement names, made on the state that the
beat's increment or the block's credit leaves. -/
theorem vmovVlqAndVsq : Obligations.VmovVlqAndVsq := by
  refine ⟨fun s c h vd va => ?_, fun s c h => ⟨fun vd b r hlq => ?_, fun va l hl left free hu hc => ?_⟩⟩
  · have issued := vmov_issued h vd va
    rwa [readV_eq] at issued
  · obtain ⟨t, run, issued⟩ := vlq_issued h vd hlq
    refine ⟨t, run, ?_⟩
    cases hi : b.inc with
    | none => rwa [hi] at issued
    | some i => rwa [hi] at issued
  · intro k e d p start
    refine vsq_issued h va hl left free (fun hb => ?_)
    obtain ⟨check, credit⟩ := start hb
    exact ⟨readEntry_ok hu hc, check, credit⟩

/-! ### VREL -/

/-- The core with the registers of `mask` released: they are empty, and so is a latch that holds one (R95, R97). -/
def releasedV (mask : Word) (k : Core) : Core :=
  { k with
    v := k.v.mapIdx (fun i r => if bitOf mask i then {} else r)
    latch := k.latch.filter (fun r => !mask.getLsbD r.val) }

theorem releasedV_reg (mask : Word) (k : Core) (r : VReg) :
    (releasedV mask k).v[r] = if mask.getLsbD r.val then {} else k.v[r] :=
  Vector.getElem_mapIdx r.isLt

/-- A mask of 0 releases nothing. -/
theorem releasedV_zero (k : Core) : releasedV 0 k = k := by
  have hv : k.v.mapIdx (fun i r => if bitOf (0 : Word) i then {} else r) = k.v := by
    ext i hi; simp [bitOf]
  have hl : k.latch.filter (fun r => !(0 : Word).getLsbD r.val) = k.latch := by
    cases k.latch <;> simp
  simp only [releasedV, hv, hl]

theorem exec_vrel (s : State) (c : CoreId) (mask : Word) : exec (.vrel c mask) s = execVrel c mask s := rfl

theorem vrel_issued {s : State} {c : CoreId} (h : Ready s c) (mask : Word) :
    ∃ t, exec (.vrel c mask) s = .next t ∧ IssuedAs c s t (releasedV mask s.cores[c]) := by
  rw [exec_vrel]
  refine ⟨_, rfl, issueNext_modCore h _ (f := releasedV mask) ?_ rfl rfl⟩
  congr 1
  funext k
  unfold releasedV
  congr 1
  cases k.latch with
  | none => rfl
  | some r =>
    show (if bitOf mask r.val then none else some r) = if !bitOf mask r.val then some r else none
    cases bitOf mask r.val <;> rfl

/-- A register that the issued instruction has left empty reads as zeros (R81). -/
theorem readV_released {s t : State} {c : CoreId} {mask : Word} (h : IssuedAs c s t (releasedV mask s.cores[c])) {r : VReg}
    (hr : mask.getLsbD r.val = true) : readV t c r = (0, false) := by
  have empty : t.cores[c].v[r] = {} := by
    rw [h.2]; exact (releasedV_reg mask s.cores[c] r).trans (if_pos hr)
  rw [readV_eq, empty]; rfl

/-- Settles O8: VREL changes its core as its mask says, and a mask of 0 says nothing. -/
theorem vrelReleasesItsMask : Obligations.VrelReleasesItsMask := by
  refine fun s c h => ⟨fun mask => ?_, ?_⟩
  · obtain ⟨t, run, issued⟩ := vrel_issued h mask
    exact ⟨t, _, run, issued, releasedV_reg mask s.cores[c], fun _ => readV_released issued⟩
  · have issued := vrel_issued h 0
    rwa [releasedV_zero] at issued

end Sys2Proof.Machine
end

section
/-! PROOFS. The error log in the register window and the layout of its entries (R372, R396, Table 15-10). -/

namespace Sys2Proof.Machine

/-! ### Reads of the ERR block -/

/-- A word of the ERR and DBG blocks is read there. -/
theorem regRead_errBlock (s : State) {off : Nat} (word : off % 4 = 0) (lo : 0x6000 ≤ off) (hi : off < 0x8000) :
    regRead s off = readErr s off := by
  have aligned : off % 2 ^ 20 / 4 * 4 = off := by omega
  simp only [regRead, aligned, show ¬ off < 0x2000 by omega, show ¬ off < 0x3000 by omega, show ¬ off < 0x5000 by omega,
    show ¬ off < 0x6000 by omega, hi, if_true, if_false]

/-- `ERR_FIRST` is read word by word (Table 15-7). -/
theorem regRead_errFirst (s : State) (j : Fin 4) : regRead s (0x6030 + 4 * j.val) = wordOf s.err.first j.val := by
  have hj := j.isLt
  rw [regRead_errBlock s (by omega) (by omega) (by omega), readErr, dif_neg (by omega), if_pos (by omega)]
  congr 1
  omega

/-- `ERR_ENT_i` is read word by word (R396). -/
theorem regRead_errEnt (s : State) (i : Fin 64) (j : Fin 4) :
    regRead s (0x6100 + 16 * i.val + 4 * j.val) = wordOf s.err.ent[i] j.val := by
  have hi := i.isLt
  have hj := j.isLt
  have slot : (0x6100 + 16 * i.val + 4 * j.val - 0x6100) / 16 = i.val := by omega
  have part : (0x6100 + 16 * i.val + 4 * j.val - 0x6100) / 4 % 4 = j.val := by omega
  rw [regRead_errBlock s (by omega) (by omega) (by omega), readErr, dif_neg (by omega), if_neg (by omega), dif_pos (by omega)]
  simp only [slot, part]
  rfl

/-! ### Fields laid out one after the other -/

/-- The number that holds the fields of a list of (width, value) one after the other, the first lowest. -/
def packFields : List (Nat × Nat) → Nat
  | [] => 0
  | (w, x) :: r => x + 2 ^ w * packFields r

/-- The bit at which field `k` of fields of these widths starts. -/
def fieldStart (widths : List Nat) (k : Nat) : Nat := (widths.take k).sum

/-- Where every field fits its width, each one is found at its start. -/
theorem packFields_field {fs : List (Nat × Nat)} (fit : ∀ f ∈ fs, f.2 < 2 ^ f.1) {k : Nat} {f : Nat × Nat}
    (at_k : fs[k]? = some f) : packFields fs / 2 ^ fieldStart (fs.map Prod.fst) k % 2 ^ f.1 = f.2 := by
  induction fs generalizing k with
  | nil => simp at at_k
  | cons g r ih =>
    obtain ⟨fit_g, fit_r⟩ := List.forall_mem_cons.mp fit
    cases k with
    | zero =>
      obtain rfl : g = f := by simpa using at_k
      simp [packFields, fieldStart, Nat.mod_eq_of_lt fit_g]
    | succ k =>
      have above : (g.2 + 2 ^ g.1 * packFields r) / 2 ^ g.1 = packFields r := by
        rw [Nat.add_mul_div_left _ _ (Nat.two_pow_pos _), Nat.div_eq_of_lt fit_g, Nat.zero_add]
      have start : fieldStart ((g :: r).map Prod.fst) (k + 1) = g.1 + fieldStart (r.map Prod.fst) k := by simp [fieldStart]
      rw [start, Nat.pow_add, ← Nat.div_div_eq_div_mul, packFields, above]
      exact ih fit_r (by simpa using at_k)

/-- A field ends within the fields' common width. -/
theorem fieldStart_add_le {widths : List Nat} {k w : Nat} (at_k : widths[k]? = some w) : fieldStart widths k + w ≤ widths.sum :=
  calc fieldStart widths k + w = (widths.take (k + 1)).sum := by
        rw [fieldStart, List.take_add_one, at_k, List.sum_append]; rfl
    _ ≤ widths.sum := (List.take_sublist _ widths).sum_le_sum (fun _ _ => Nat.zero_le _)

/-- A field of a number is cut out of it by division. -/
theorem fldN_ofNat {n lo w : Nat} (x : Nat) (within : lo + w ≤ n) : fldN (BitVec.ofNat n x) lo w = x / 2 ^ lo % 2 ^ w := by
  rw [fldN, BitVec.extractLsb'_toNat, BitVec.toNat_ofNat, Nat.shiftRight_eq_div_pow]
  obtain ⟨m, rfl⟩ := Nat.exists_eq_add_of_le within
  rw [Nat.add_assoc, Nat.pow_add, Nat.mod_mul_right_div_self, Nat.pow_add, Nat.mod_mul_right_mod]

/-- A bit is the field of width 1. -/
theorem bitOf_of_fldN {n : Nat} {x : BitVec n} {i : Nat} {b : Bool} (h : fldN x i 1 = b2n b) : bitOf x i = b := by
  have one : (x.extractLsb' i 1).getLsbD 0 = bitOf x i := by simp [bitOf]
  rw [← one, BitVec.getLsbD, ← fldN, h]
  cases b <;> rfl

/-! ### The layout of an entry -/

/-- The widths of the fields of an entry, from bit 0 upward (Table 15-10). -/
def entryWidths : List Nat := [16, 2, 1, 1, 8, 4, 32, 24, 6, 1, 1, 32]

/-- The fields of an entry with their widths, from bit 0 upward, reserved ones as zeros (Table 15-10). -/
def entryFields (e : Err) (cls loc frame fcyc : Nat) (stream : Option (Fin 64)) (detail : Nat) : List (Nat × Nat) :=
  [(16, e.value), (2, cls % 4), (1, b2n e.hw), (1, 0), (8, loc % 256), (4, 0), (32, frame % 2 ^ 32), (24, fcyc % 2 ^ 24),
    (6, stream.elim 0 Fin.val), (1, b2n stream.isSome), (1, 0), (32, detail % 2 ^ 32)]

@[simp] theorem b2n_true : b2n true = 1 := rfl
@[simp] theorem b2n_false : b2n false = 0 := rfl

theorem b2n_lt_two (b : Bool) : b2n b < 2 := by cases b <;> decide

/-- Every code fits the field `CODE` (Table 15-3). -/
theorem Err.value_lt (e : Err) : e.value < 2 ^ 16 := by cases e <;> decide

section EntryLayout

variable (e : Err) (cls loc frame fcyc : Nat) (stream : Option (Fin 64)) (detail : Nat)

theorem entryFields_fit : ∀ f ∈ entryFields e cls loc frame fcyc stream detail, f.2 < 2 ^ f.1 := by
  have code := e.value_lt
  have hw := b2n_lt_two e.hw
  have valid := b2n_lt_two stream.isSome
  have id : stream.elim 0 Fin.val < 2 ^ 6 := by cases stream with
    | none => decide
    | some t => exact t.isLt
  simp only [entryFields, List.forall_mem_cons, List.not_mem_nil, false_imp_iff, implies_true, and_true]
  omega

/-- An entry's bits are its fields one after the other. -/
theorem entryBits_eq_packFields : entryBits e cls loc frame fcyc stream detail =
    BitVec.ofNat 128 (packFields (entryFields e cls loc frame fcyc stream detail)) := by
  refine congrArg (BitVec.ofNat 128) ?_
  cases stream with
  | none => simp only [entryFields, packFields, Option.elim_none, Option.isSome_none, b2n_false]; omega
  | some t => simp only [entryFields, packFields, Option.elim_some, Option.isSome_some, b2n_true]; omega

variable {e cls loc frame fcyc stream detail}

/-- Field `k` of an entry is read where it starts. -/
theorem fldN_entryBits {k lo w v : Nat} (at_k : (entryFields e cls loc frame fcyc stream detail)[k]? = some (w, v))
    (start : fieldStart entryWidths k = lo) : fldN (entryBits e cls loc frame fcyc stream detail) lo w = v := by
  have widths : (entryFields e cls loc frame fcyc stream detail).map Prod.fst = entryWidths := rfl
  have width_k : entryWidths[k]? = some w := by rw [← widths, List.getElem?_map, at_k]; rfl
  have within : fieldStart entryWidths k + w ≤ 128 := fieldStart_add_le width_k
  rw [entryBits_eq_packFields, ← start, fldN_ofNat _ within, ← widths]
  exact packFields_field (entryFields_fit e cls loc frame fcyc stream detail) at_k

end EntryLayout

/-- Settles O60: the reads give the entry's words, and the entry is the fields of Table 15-10 one after the other. -/
theorem logEntriesReadAsTheirFields : Obligations.LogEntriesReadAsTheirFields := by
  refine ⟨fun s i j => ⟨regRead_errEnt s i j, regRead_errFirst s j⟩, ?_⟩
  intro e cls loc frame fcyc stream detail hcls hloc hframe hfcyc hdetail
  exact ⟨fldN_entryBits (k := 0) rfl rfl,
    (fldN_entryBits (k := 1) rfl rfl).trans (Nat.mod_eq_of_lt hcls),
    bitOf_of_fldN (fldN_entryBits (k := 2) rfl rfl),
    bitOf_of_fldN (fldN_entryBits (k := 3) rfl rfl),
    (fldN_entryBits (k := 4) rfl rfl).trans (Nat.mod_eq_of_lt hloc),
    fldN_entryBits (k := 5) rfl rfl,
    (fldN_entryBits (k := 6) rfl rfl).trans (Nat.mod_eq_of_lt hframe),
    (fldN_entryBits (k := 7) rfl rfl).trans (Nat.mod_eq_of_lt hfcyc),
    bitOf_of_fldN (fldN_entryBits (k := 9) rfl rfl),
    fun t ht => (fldN_entryBits (k := 8) rfl rfl).trans (by rw [ht]; rfl),
    bitOf_of_fldN (fldN_entryBits (k := 10) rfl rfl),
    (fldN_entryBits (k := 11) rfl rfl).trans (Nat.mod_eq_of_lt hdetail)⟩

end Sys2Proof.Machine
end

section
set_option Elab.async false -- one proof after another: this bounds the memory that a check of the whole text takes
/-! PROOFS. The block as a whole: a step takes the front command, the reset state is canonical, and a core instruction issues
only when its core may (R87, R93). -/

namespace Sys2Proof.Machine

/-- Settles O1: both clauses are the two arms of `step`. -/
theorem stepTakesTheFrontCommand : Obligations.StepTakesTheFrontCommand := by
  refine ⟨fun c r s => rfl, fun s none => ?_⟩
  unfold step
  rw [none]

/-- Settles O2: no byte and no counter is listed after reset. -/
theorem resetIsCanonical : Obligations.ResetIsCanonical := ⟨rfl, rfl⟩

/-- Every core instruction but PRMG goes through `issue`, with needs and an effect of its own. -/
theorem exec_issue {i : Instr} {c : CoreId} (h : instrCore i = some c) (s : State) :
    ∃ n f, exec i s = .next (issue s c n f) := by
  cases i <;> simp only [instrCore, Option.some.injEq, reduceCtorEq] at h <;> subst h <;> exact ⟨_, _, rfl⟩

/-- Past instruction 2,047, with nothing in progress, a core that may issue fails (R93). -/
theorem issue_past {s : State} {c : CoreId} (may : canIssue s c = true) (idle : s.cores[c].prog = [])
    (past : 2048 ≤ s.cores[c].pc) (n : Needs) (f : State → State) : issue s c n f = failCore s c .pcRange 0 := by
  have free : clear s c n = true := by unfold clear; rw [idle]; rfl
  unfold issue
  rw [may, free, Bool.and_self, if_pos rfl, if_pos past]

/-- Settles O4: what `issue` does with a core that may not issue, and with one past the last instruction. -/
theorem coreInstructionsIssueOnlyWhenTheyMay : Obligations.CoreInstructionsIssueOnlyWhenTheyMay := by
  intro i c s h
  obtain ⟨n, f, run⟩ := exec_issue h s
  rw [run]
  exact ⟨fun may => by rw [issue_blocked may], fun may idle past => by rw [issue_past may idle past]⟩

end Sys2Proof.Machine
end

section
set_option Elab.async false -- one proof after another: this bounds the memory that a check of the whole text takes
/-! PROOFS. Control and synchronisation instructions of a core: NOP, FWAIT, LOOP, ENDL, HALT, LYEND, WCNT and SIG (R90 to R93,
R179 to R181, R191, R192). -/

namespace Sys2Proof.Machine

/-! ### Issue and progress -/

/-- An instruction that does nothing but issue. -/
theorem issue_retire_same {s : State} {c : CoreId} (h : Ready s c) (n : Needs) {F : State → State} (hF : F s = retire s c 1) :
    IssuedAs c s (issue s c n F) s.cores[c] := by
  rw [issue_ready h n (by rw [hF, retire_xb]), hF]
  exact retire_same s c h.2.1

/-- An instruction whose effect changes its core by `f`. -/
theorem issue_modCore {s : State} {c : CoreId} (h : Ready s c) (n : Needs) {F : State → State} {f : Core → Core}
    (hF : F s = retire (modCore s c f) c 1) (hpc : (f s.cores[c]).pc = s.cores[c].pc) (hag : (f s.cores[c]).ag = s.cores[c].ag) :
    IssuedAs c s (issue s c n F) (f s.cores[c]) := issue_retire h n hF rfl rfl hpc hag

@[simp] theorem progress_xb (s : State) (c : CoreId) : (progress s (.core c)).xb = s.xb := by
  rw [(progress_core s c).1.1]

/-- A further change of the core changes nothing else. -/
theorem OnlyCore.after {s t : State} {c : CoreId} (h : OnlyCore c s t) (f : Core → Core) : OnlyCore c s (modCore t c f) := by
  obtain ⟨frame, others, woken⟩ := h
  exact ⟨by rw [frame]; rfl, fun k hk => by rw [modCore_other _ _ _ _ hk, others k hk], woken⟩

theorem OnlyCore.modCore (s : State) (c : CoreId) (f : Core → Core) : OnlyCore c s (modCore s c f) :=
  ⟨rfl, fun k hk => modCore_other s c f k hk, .refl s⟩

theorem waitFor_core (s : State) (c : CoreId) (w : Wait) :
    waitFor s (.core c) w = modCore s c (fun x => { x with ag := { x.ag with wait := some w } }) := rfl

/-! ### NOP, FWAIT, LOOP and ENDL -/

theorem nop_issued {s : State} {c : CoreId} (h : Ready s c) : ∃ t, exec (.nop c) s = .next t ∧ IssuedAs c s t s.cores[c] :=
  ⟨_, rfl, issue_retire_same h _ rfl⟩

theorem fwait_issued {s : State} {c : CoreId} (h : Ready s c) (f : BitVec 24) (free : syncBusy s c = false)
    (past : ¬(s.cores[c].ag.run = some s.fr.ctr ∧ s.fr.cyc < f.toNat)) :
    ∃ t, exec (.fwait c f) s = .next t ∧ IssuedAs c s t s.cores[c] :=
  ⟨_, rfl, issue_retire_same h _ (by simp only [free, past, if_false, Bool.false_eq_true])⟩

theorem loop_entered {s : State} {c : CoreId} (h : Ready s c) (n : BitVec 24) (room : s.cores[c].loops.length < 4) :
    ∃ t e, exec (.loop c n) s = .next t ∧ e.start = s.cores[c].pc + 1 ∧ e.left = n.toNat ∧
      IssuedAs c s t { s.cores[c] with loops := e :: s.cores[c].loops } := by
  let x := s.cores[c]
  let e : LoopEnt := { start := x.pc + 1, stop := matchEndl x.imem (2047 - x.pc) (x.pc + 1) 0, left := n.toNat }
  exact ⟨_, e, rfl, rfl, rfl, issue_modCore h _ (f := fun k => { k with loops := e :: k.loops }) (if_pos room) rfl rfl⟩

theorem endl_leaves {s : State} {c : CoreId} (h : Ready s c) {e : LoopEnt} {r : List LoopEnt} (inner : s.cores[c].loops = e :: r)
    (last : e.left = 0) :
    ∃ t, exec (.endl c) s = .next t ∧ IssuedAs c s t { s.cores[c] with loops := r } :=
  ⟨_, rfl, issue_modCore h _ (f := fun k => { k with loops := r }) (by simp only [inner, last, if_true]) rfl rfl⟩

theorem endl_goesBack {s : State} {c : CoreId} (h : Ready s c) {e : LoopEnt} {r : List LoopEnt} (inner : s.cores[c].loops = e :: r)
    (more : e.left ≠ 0) :
    ∃ t, exec (.endl c) s = .next t ∧ OnlyCore c s t ∧
      t.cores[c] = { issued s c { s.cores[c] with loops := { e with left := e.left - 1 } :: r } with pc := e.start } := by
  let back : Core → Core := fun k => { k with loops := { e with left := e.left - 1 } :: r, pc := e.start }
  obtain ⟨only, core⟩ := progress_core (modCore s c back) c
  refine ⟨_, rfl, ?_⟩
  rw [issue_ready h]
  · simp only [inner, more, if_false]
    exact ⟨only.before, core.trans (by rw [modCore_self]; rfl)⟩
  · simp only [inner, more, if_false]
    exact progress_xb _ c

/-! ### HALT and LYEND -/

/-- A core with nothing in progress has no write to make. -/
theorem writesDone_ready {s : State} {c : CoreId} (h : Ready s c) : writesDone s c = true := by
  unfold writesDone; rw [h.2.2]; rfl

theorem halt_ends {s : State} {c : CoreId} (h : Ready s c) (empty : s.cores[c].sq = []) (free : syncBusy s c = false) :
    ∃ t, exec (.halt c) s = .next t ∧
      t.cores[c] = { s.cores[c] with
        st := .idle, lq := [], lqDone := true, loops := []
        ag := { s.cores[c].ag with run := none, progressed := true, wait := none } } ∧
      OnlyCore c s t := by
  obtain ⟨only, core⟩ := progress_core s c
  have done : (allDone s c && s.cores[c].sq.isEmpty && !syncBusy s c) = true := by
    unfold allDone; rw [h.2.2, empty, free]; rfl
  refine ⟨_, rfl, ?_⟩
  rw [issue_ready h]
  · simp only [done, if_true]
    exact ⟨by rw [modCore_self, core]; rfl, only.after _⟩
  · simp only [done, if_true]
    exact progress_xb s c

theorem lyend_issued {s : State} {c : CoreId} (h : Ready s c) (empty : s.cores[c].sq = []) (free : syncBusy s c = false) :
    ∃ t, exec (.lyend c) s = .next t ∧ IssuedAs c s t { s.cores[c] with lq := [], lqDone := true } :=
  ⟨_, rfl, issue_modCore h _ (f := fun x => { x with lq := [], lqDone := true })
    (by simp only [writesDone_ready h, empty, free, List.isEmpty_nil, Bool.not_false, Bool.and_self, if_true]) rfl rfl⟩

/-- Settles O5: each instruction's own lemma. -/
theorem controlInstructions : Obligations.ControlInstructions :=
  ⟨fun _ _ h => ⟨nop_issued h, fun f free past => fwait_issued h f free past, fun n room => loop_entered h n room,
      fun _ _ inner => ⟨fun last => endl_leaves h inner last, fun more => endl_goesBack h inner more⟩⟩,
    fun _ _ h empty free => ⟨halt_ends h empty free, lyend_issued h empty free⟩⟩

/-! ### WCNT and SIG -/

section Wcnt
variable {s : State} {c : CoreId} {ctr : Ctr} (h : Ready s c) (free : syncBusy s c = false)
  (sound : HwFault.cntParity ctr ∉ s.hwf)
include h free sound

theorem wcnt_poisoned (adv : Bool) (sa : SReg) (step : BitVec 14) (psn : (ctrOf s ctr).psn = true) :
    exec (.wcnt c adv sa ctr step) s = .next (failCore s c .poisonConsumed 0) := by
  refine congrArg Host.Outcome.next ?_
  rw [issue_fewer h] <;> simp only [free, checkParity_ok sound, psn, if_true, if_false, Bool.false_eq_true]
  exact failCore_reqs ..

theorem wcnt_issued (adv : Bool) (sa : SReg) (step : BitVec 14) (good : (ctrOf s ctr).psn = false)
    (there : ((ctrOf s ctr).val - s.cores[c].s[sa]).toNat < 2 ^ 31) :
    ∃ t, exec (.wcnt c adv sa ctr step) s = .next t ∧
      IssuedAs c s t (if adv then
        { s.cores[c] with s := s.cores[c].s.set sa.val (s.cores[c].s[sa] + step.setWidth 32) } else s.cores[c]) := by
  have met : reached (ctrOf s ctr).val s.cores[c].s[sa] = true := decide_eq_true there
  refine ⟨_, rfl, ?_⟩
  cases adv with
  | false =>
    exact issue_retire_same h _ (by
      simp only [free, checkParity_ok sound, good, met, if_true, if_false, Bool.false_eq_true])
  | true =>
    exact issue_modCore h _ (f := fun k => { k with s := k.s.set sa.val (s.cores[c].s[sa] + step.setWidth 32) }) (by
      simp only [free, checkParity_ok sound, good, met, if_true, if_false, Bool.false_eq_true]) rfl rfl

theorem wcnt_waits (adv : Bool) (sa : SReg) (step : BitVec 14) (good : (ctrOf s ctr).psn = false)
    (ahead : 2 ^ 31 ≤ ((ctrOf s ctr).val - s.cores[c].s[sa]).toNat) :
    ∃ t, exec (.wcnt c adv sa ctr step) s = .next t ∧ OnlyCore c s t ∧
      t.cores[c] = { s.cores[c] with
        wcntStall := sat32 s.cores[c].wcntStall 1, ag := { s.cores[c].ag with wait := some (.ctr ctr s.cores[c].s[sa]) } } := by
  have unmet : reached (ctrOf s ctr).val s.cores[c].s[sa] = false := decide_eq_false (Nat.not_lt.mpr ahead)
  refine ⟨_, rfl, ?_⟩
  rw [issue_ready h] <;> simp only [free, checkParity_ok sound, good, unmet, waitFor_core, if_false,
    Bool.false_eq_true]
  · exact ⟨(OnlyCore.modCore s c _).after _, by rw [modCore_self, modCore_self]⟩
  · rfl

end Wcnt

theorem sig_increments {s : State} {c : CoreId} {ctr : Ctr} (m : BitVec 14) (h : Ready s c) (empty : s.cores[c].sq = [])
    (free : syncBusy s c = false) (sound : HwFault.cntParity ctr ∉ s.hwf) (own : crosses s (corePart c) (ctrPart s ctr) = false) :
    ∃ t, exec (.sig c ctr m) s = .next t ∧
      (ctrOf t ctr).val = (ctrOf s ctr).val + BitVec.ofNat 32 (m.toNat + 1) ∧
      (ctrOf t ctr).psn = ((ctrOf s ctr).psn || s.cores[c].wrPsn) ∧ (ctrOf t ctr).taken = (ctrOf s ctr).taken ∧
      (∀ k : Ctr, k ≠ ctr → ctrOf t k = ctrOf s k) ∧
      IssuedAs c { s with cnt := t.cnt } t s.cores[c] := by
  let x : Counter := { ctrOf s ctr with
    val := (ctrOf s ctr).val + BitVec.ofNat 32 (m.toNat + 1), psn := (ctrOf s ctr).psn || s.cores[c].wrPsn }
  let r := setCtr s ctr x
  have raised : IssuedAs c r (retire r c 1) s.cores[c] := retire_same r c h.2.1
  have cnt : (retire r c 1).cnt = r.cnt := by rw [raised.1.1]
  have effect (F : State → State) (hF : F s = retire r c 1) : issue s c syncNeeds F = retire r c 1 := by
    rw [issue_ready h _ (by rw [hF, retire_xb]; rfl), hF]
  have run : exec (.sig c ctr m) s = .next (retire r c 1) := by
    refine congrArg Host.Outcome.next (effect _ ?_)
    simp only [writesDone_ready h, empty, free, List.isEmpty_nil, Bool.not_false, Bool.and_self, if_true,
      incCtrBy_own own, incCtr_ok sound]
    rfl
  have reads (k : Ctr) : ctrOf (retire r c 1) k = ctrOf r k := by unfold ctrOf; rw [cnt]
  refine ⟨_, run, ?_, ?_, ?_, fun k hk => ?_, ?_⟩
  · rw [reads, ctrOf_setCtr]
  · rw [reads, ctrOf_setCtr]
  · rw [reads, ctrOf_setCtr]
  · rw [reads, ctrOf_setCtr_other s x hk]
  · rw [cnt]; exact raised

/-- Settles O6: the three outcomes of WCNT, and the increment of SIG. -/
theorem wcntWaitsAndSigIncrements : Obligations.WcntWaitsAndSigIncrements :=
  ⟨fun _ _ adv sa _ step h free sound => ⟨wcnt_poisoned h free sound adv sa step, wcnt_issued h free sound adv sa step,
      wcnt_waits h free sound adv sa step⟩,
    fun _ _ _ m h empty free sound own => sig_increments m h empty free sound own⟩

end Sys2Proof.Machine
end

section
set_option Elab.async false -- one proof after another: this bounds the memory that a check of the whole text takes
/-! PROOFS. Elements inside a beat, and the vector moves VBC and VSEL (R184, R185). -/

namespace Sys2Proof.Machine

/-! ### Ranges of numbers -/

theorem span_eq_range' : ∀ a n, span a n = List.range' a n
  | _, 0 => rfl
  | a, n + 1 => by rw [span, span_eq_range' (a + 1) n, List.range'_succ]

theorem upto_eq_range (n : Nat) : upto n = List.range n := by rw [upto, span_eq_range', List.range_eq_range']

/-! ### Elements of a number -/

/-- Element `i` of a number laid out from elements is the `i`-th of them. -/
theorem ofElems_div_mod (w : Nat) : ∀ (xs : List Nat) (i : Nat), ofElems w xs / 2 ^ (w * i) % 2 ^ w = xs.getD i 0 % 2 ^ w
  | [], i => by simp [ofElems]
  | x :: r, 0 => by simp [ofElems]
  | x :: r, i + 1 => by
    have low : x % 2 ^ w < 2 ^ w := Nat.mod_lt _ (Nat.two_pow_pos w)
    have step : ofElems w (x :: r) / 2 ^ w = ofElems w r := by
      show (x % 2 ^ w + 2 ^ w * ofElems w r) / 2 ^ w = ofElems w r
      rw [Nat.add_mul_div_left _ _ (Nat.two_pow_pos w), Nat.div_eq_of_lt low, Nat.zero_add]
    rw [Nat.mul_succ, Nat.add_comm, Nat.pow_add, ← Nat.div_div_eq_div_mul, step, List.getD_cons_succ]
    exact ofElems_div_mod w r i

/-- A number laid out from elements is below the room they take. -/
theorem ofElems_lt (w : Nat) : ∀ xs : List Nat, ofElems w xs < 2 ^ (w * xs.length)
  | [] => by simp [ofElems]
  | x :: r => by
    have low : x % 2 ^ w < 2 ^ w := Nat.mod_lt _ (Nat.two_pow_pos w)
    have high : 2 ^ w * (ofElems w r + 1) ≤ 2 ^ w * 2 ^ (w * r.length) := Nat.mul_le_mul_left _ (ofElems_lt w r)
    show x % 2 ^ w + 2 ^ w * ofElems w r < 2 ^ (w * (r.length + 1))
    rw [Nat.mul_succ, Nat.add_comm (w * r.length), Nat.pow_add]
    rw [Nat.mul_succ] at high
    omega

/-- A number laid out from elements is kept by bits that have room for them. -/
theorem ofElems_mod {w n : Nat} {xs : List Nat} (fits : w * xs.length ≤ n) : ofElems w xs % 2 ^ n = ofElems w xs :=
  Nat.mod_eq_of_lt ((ofElems_lt w xs).trans_le (Nat.pow_le_pow_right Nat.two_pos fits))

/-- Bit `j` of element `u`. -/
theorem testBit_ofElems {w j : Nat} (hj : j < w) (xs : List Nat) (u : Nat) :
    (ofElems w xs).testBit (u * w + j) = (xs.getD u 0).testBit j := by
  have bit (x : Nat) : x.testBit j = (x % 2 ^ w).testBit j := by rw [Nat.testBit_mod_two_pow]; simp [hj]
  rw [bit (xs.getD u 0), ← ofElems_div_mod, ← bit, Nat.testBit_div_two_pow, Nat.add_comm, Nat.mul_comm]

/-- Copies of an element are that element laid out over and over. -/
theorem repeatElem_eq_ofElems (w x : Nat) : ∀ n, repeatElem w x n = ofElems w (List.replicate n x) := by
  intro n
  by_cases hw : w = 0
  · subst hw
    have zero : ofElems 0 (List.replicate n x) < 1 := by simpa using ofElems_lt 0 (List.replicate n x)
    simp only [repeatElem, if_true]; omega
  · have base : 2 ≤ 2 ^ w := by simpa using Nat.pow_le_pow_right (n := 2) (by omega) (Nat.one_le_iff_ne_zero.mpr hw)
    have sum (n : Nat) : repeatElem w x n = x % 2 ^ w * ∑ k ∈ Finset.range n, (2 ^ w) ^ k := by
      rw [repeatElem, if_neg hw, Nat.geomSum_eq base, Nat.pow_mul]
    induction n with
    | zero => simp [sum, ofElems]
    | succ n ih =>
      rw [sum] at ih ⊢
      rw [List.replicate_succ]
      show _ = x % 2 ^ w + 2 ^ w * ofElems w (List.replicate n x)
      rw [← ih, Finset.sum_range_succ', pow_zero, Nat.mul_add, Nat.mul_one, Nat.add_comm, Nat.mul_left_comm]
      simp only [pow_succ', Finset.mul_sum]

/-! ### Elements of a beat -/

/-- An element of a beat laid out from elements that it has room for. -/
theorem elemAt_ofElems {w : Nat} {xs : List Nat} (fits : w * xs.length ≤ 2048) (i : Nat) :
    elemAt w (BitVec.ofNat 2048 (ofElems w xs)) i = xs.getD i 0 % 2 ^ w := by
  rw [elemAt, BitVec.toNat_ofNat, ofElems_mod fits, ofElems_div_mod]

/-- Every element of a beat of copies is the element copied. -/
theorem elemAt_repeatElem {w n i : Nat} (fits : w * n ≤ 2048) (hi : i < n) (x : Nat) :
    elemAt w (BitVec.ofNat 2048 (repeatElem w x n)) i = x % 2 ^ w := by
  have copy : (List.replicate n x).getD i 0 = x := by simp [hi]
  rw [repeatElem_eq_ofElems, elemAt_ofElems (by simpa using fits), copy]

theorem elemAt_mod (w : Nat) (x : Bits) (i : Nat) : elemAt w x i % 2 ^ w = elemAt w x i := Nat.mod_mod _ _

/-- The elements of width 2^e fill a beat. -/
theorem elems_fill (e : Fin 6) : 2 ^ e.val * 2 ^ (11 - e.val) = 2048 := by
  rw [← Nat.pow_add, Nat.add_sub_of_le (by omega)]

/-- Bit `j` of element `u` lies in the beat. -/
theorem bit_inside (e : Fin 6) {u j : Nat} (hu : u < 2 ^ (11 - e.val)) (hj : j < 2 ^ e.val) : u * 2 ^ e.val + j < 2048 := by
  have next : 2 ^ e.val * (u + 1) ≤ 2 ^ e.val * 2 ^ (11 - e.val) := Nat.mul_le_mul_left _ hu
  rw [elems_fill, Nat.mul_succ, Nat.mul_comm] at next
  omega

/-- The bits of element `u` of an element mask are bit `u` of the register it is made from (R185). -/
theorem getLsbD_maskBits (e : Fin 6) (m : Bits) {u j : Nat} (hu : u < 2 ^ (11 - e.val)) (hj : j < 2 ^ e.val) :
    (maskBits e.val m).getLsbD (u * 2 ^ e.val + j) = m.getLsbD u := by
  have inside := bit_inside e hu hj
  have elem : ((upto (2 ^ (11 - e.val))).map (fun u => if bitOf m u then 2 ^ 2 ^ e.val - 1 else 0)).getD u 0
      = if bitOf m u then 2 ^ 2 ^ e.val - 1 else 0 := by
    rw [List.getD_eq_getElem?_getD, List.getElem?_map, upto_eq_range, List.getElem?_range hu]; rfl
  rw [maskBits, BitVec.getLsbD_ofNat, testBit_ofElems hj, elem, bitOf]
  cases m.getLsbD u <;> simp [inside, hj]

/-! ### VBC and VSEL -/

theorem vbc_issued {s : State} {c : CoreId} (h : Ready s c) (e : Fin 6) (vd : VReg) (src : VbcSrc) :
    ∃ t, exec (.vbc c e vd src) s = .next t ∧ IssuedAs c s t (wroteV s.cores[c] vd
      (BitVec.ofNat 2048 (repeatElem (2 ^ e.val) (vbcElem s c e.val src).1 (2 ^ (11 - e.val)))) (vbcElem s c e.val src).2) :=
  ⟨_, rfl, issueNext_modCore h _ (f := fun k => wroteV k vd
    (BitVec.ofNat 2048 (repeatElem (2 ^ e.val) (vbcElem s c e.val src).1 (2 ^ (11 - e.val)))) (vbcElem s c e.val src).2) rfl rfl rfl⟩

/-- The element that an immediate gives (R184). -/
theorem vbcElem_imm (s : State) (c : CoreId) (e : Fin 6) (imm : BitVec 16) : vbcElem s c e.val (.imm imm) =
    (if e.val = 5 then imm.toNat * 2 ^ 16 else imm.toNat % 2 ^ 2 ^ e.val, false) := by
  by_cases h : e.val = 5
  · simp [vbcElem, h]
  · simp [vbcElem, h, show e.val ≤ 4 by omega]

theorem vsel_issued {s : State} {c : CoreId} (h : Ready s c) (e : Fin 6) (vd va vb vm : VReg) :
    ∃ t, exec (.vsel c e vd va vb vm) s = .next t ∧ IssuedAs c s t (wroteV s.cores[c] vd
      (((readV s c vb).1 &&& maskBits e.val (readV s c vm).1) ||| ((readV s c va).1 &&& ~~~maskBits e.val (readV s c vm).1))
      ((readV s c va).2 || (readV s c vb).2 || (readV s c vm).2)) :=
  ⟨_, rfl, issueNext_modCore h _ (f := fun k => wroteV k vd
    (((readV s c vb).1 &&& maskBits e.val (readV s c vm).1) ||| ((readV s c va).1 &&& ~~~maskBits e.val (readV s c vm).1))
      ((readV s c va).2 || (readV s c vb).2 || (readV s c vm).2)) rfl rfl rfl⟩

/-- Settles O9: VBC's beat element by element, and VSEL's bit by bit. -/
theorem vbcFillsAndVselSelects : Obligations.VbcFillsAndVselSelects := by
  refine ⟨fun s c e vd src h => ?_, fun s c e vd va vb vm h => ?_⟩
  · obtain ⟨t, run, issued⟩ := vbc_issued h e vd src
    refine ⟨t, _, _, run, issued, fun imm hs => ?_, fun va u hs => ?_⟩
    · subst hs
      rw [vbcElem_imm]
      refine ⟨rfl, fun i hi => ?_⟩
      rw [elemAt_repeatElem (elems_fill e).le hi]
      split
      · rename_i h5
        exact Nat.mod_eq_of_lt (by rw [h5]; have := imm.isLt; omega)
      · exact Nat.mod_mod _ _
    · subst hs
      refine ⟨rfl, fun i hi => ?_⟩
      rw [elemAt_repeatElem (elems_fill e).le hi]
      exact elemAt_mod ..
  · obtain ⟨t, run, issued⟩ := vsel_issued h e vd va vb vm
    refine ⟨t, _, run, issued, fun u j hu hj => ?_⟩
    have mask := getLsbD_maskBits e (readV s c vm).1 hu hj
    have inside := bit_inside e hu hj
    rw [BitVec.getLsbD_or, BitVec.getLsbD_and, BitVec.getLsbD_and, BitVec.getLsbD_not, mask]
    cases (readV s c vm).1.getLsbD u <;> simp [inside]

end Sys2Proof.Machine
end

section
set_option Elab.async false -- one proof after another: this bounds the memory that a check of the whole text takes
/-! PROOFS. Words of the stores: what a read answers and what a write changes (R9, R61, R269, R272, R274, R279, R282). -/

namespace Sys2Proof.Machine

/-! ### Bytes of a value -/

/-- Little-endian bytes are laid out as elements of 8 bits (R9). -/
theorem leNat_eq_ofElems : ∀ bs : List Byte, leNat bs = ofElems 8 (bs.map (·.toNat))
  | [] => rfl
  | b :: r => by
    rw [List.map_cons]
    show b.toNat + 256 * leNat r = b.toNat % 256 + 256 * ofElems 8 (r.map (·.toNat))
    rw [leNat_eq_ofElems r, Nat.mod_eq_of_lt b.isLt]

/-- Byte `i` of a value made from as many bytes as it has room for. -/
theorem byteAt_leBits {n : Nat} {bs : List Byte} (fits : 8 * bs.length ≤ n) (i : Nat) : byteAt (leBits n bs) i = bs.getD i 0 := by
  apply BitVec.eq_of_toNat_eq
  rw [byteAt, BitVec.extractLsb'_toNat, leBits, BitVec.toNat_ofNat, leNat_eq_ofElems, ofElems_mod (by rwa [List.length_map]),
    Nat.shiftRight_eq_div_pow, ofElems_div_mod]
  rcases lt_or_ge i bs.length with h | h
  · simp only [List.getD_eq_getElem?_getD, List.getElem?_map, List.getElem?_eq_getElem h, Option.map_some, Option.getD_some]
    exact Nat.mod_eq_of_lt (bs[i]).isLt
  · simp [List.getElem?_eq_none h]

/-- A byte of bytes read from the stores. -/
theorem byteAt_memBits (m : Stores) (a : Nat) {n i : Nat} (h : i < n) : byteAt (memBits m a n) i = memByte m (a + i) := by
  rw [memBits, byteAt_leBits (by simp [span_eq_range'])]
  simp [span_eq_range', h]

theorem byteAt_memWord (m : Stores) (w : Nat) {i : Nat} (h : i < 64) : byteAt (memWord m w) i = memByte m (64 * w + i) :=
  byteAt_memBits m (64 * w) h

/-! ### Poison and check bits -/

/-- Poison, bad symbols and failed lanes stand: what a word's poison and judgement are read from (R273, R274, R280, R284). -/
def KeepsChecks (s t : State) : Prop :=
  t.mem.psn = s.mem.psn ∧ t.mem.bad = s.mem.bad ∧ t.mem.deadLanes = s.mem.deadLanes

theorem KeepsChecks.refl (s : State) : KeepsChecks s s := ⟨rfl, rfl, rfl⟩

theorem KeepsChecks.trans {s t u : State} (h : KeepsChecks s t) (k : KeepsChecks t u) : KeepsChecks s u :=
  ⟨k.1.trans h.1, k.2.1.trans h.2.1, k.2.2.trans h.2.2⟩

theorem KeepsChecks.ofMem {s t : State} (h : t.mem = s.mem) : KeepsChecks s t := by
  unfold KeepsChecks; rw [h]; exact ⟨rfl, rfl, rfl⟩

theorem KeepsChecks.uncorrectable {s t : State} (h : KeepsChecks s t) (w : Nat) :
    uncorrectable t.mem w = uncorrectable s.mem w := by
  obtain ⟨-, bad, dead⟩ := h
  unfold Machine.uncorrectable eccJudge badSyms
  rw [bad, dead]

theorem modPort_checks (s : State) (st : StoreId) (f : Port → Port) : KeepsChecks s (modPort s st f) := by
  cases st <;> exact .refl _

theorem wakePort_checks (s : State) (st : StoreId) : KeepsChecks s (wakePort s st) := by
  unfold wakePort; dsimp only
  split
  · split
    · exact (modPort_checks ..).trans (.ofMem (touchDom_mem ..))
    · exact modPort_checks ..
  · exact .refl s

theorem eccRead_checks (s : State) (w : Nat) : KeepsChecks s (eccRead s w) := by
  have logged (m : Stores) (e : Err) (l a : Nat) (h : KeepsChecks s { s with mem := m }) :
      KeepsChecks s (logRun { s with mem := m } e l a) := h.trans (.ofMem (logRun_mem ..))
  unfold eccRead; dsimp only
  repeat' split
  · exact .refl s
  · exact .refl s
  · exact ⟨rfl, rfl, rfl⟩
  · exact ⟨rfl, rfl, rfl⟩
  · exact logged _ _ _ _ ⟨rfl, rfl, rfl⟩
  · exact logged _ _ _ _ ⟨rfl, rfl, rfl⟩

/-- A word within its code's guarantee is found uncorrectable when it has more bad symbols than the code corrects (R273,
R280). -/
theorem uncorrectable_iff {m : Stores} {w : Nat} (h : badSyms m w ≤ 2 * correctable (64 * w)) :
    uncorrectable m w = true ↔ correctable (64 * w) < badSyms m w := by
  unfold uncorrectable eccJudge
  rw [decide_eq_true_eq]
  dsimp only
  split
  · omega
  split <;> omega

/-! ### A word read -/

/-- A byte that is not in a granule with a clear written bit is read as it is stored (R282). -/
theorem readByte_stored {m : Stores} {w i : Nat} (h : isNs (64 * w) = true ∨ isWritten m (granuleOf (64 * w)) = true)
    (hi : i < 64) : readByte m (64 * w + i) = memByte m (64 * w + i) := by
  have gran : granuleOf (64 * w + i) = granuleOf (64 * w) := by unfold granuleOf; omega
  unfold readByte
  rcases h with ns | written
  · have notDs : isDs (64 * w + i) = false := by
      simp only [isNs, isDs, decide_eq_true_eq, decide_eq_false_iff_not] at ns ⊢; omega
    rw [notDs]; rfl
  · rw [gran, written, Bool.not_true, Bool.and_false]; rfl

/-- What the stored word reads as, with its poison, from a state that reads alike. -/
def storedWord (t : State) (w : Nat) : RdWord := .data (memWord t.mem w) (setHas t.mem.psn w || uncorrectable t.mem w)

theorem readWord_open {s : State} {who : Who} {w : Nat} (own : crosses s who.part (addrPart s (64 * w)) = false)
    (up : (portOf s (storeOf (64 * w))).isOpen = true) :
    (isNs (64 * w) = true ∨ isWritten s.mem (granuleOf (64 * w)) = true →
      ∃ t, KeepsStores s t ∧ KeepsChecks s t ∧ (readWord s who w).2 = storedWord t w) ∧
    (isNs (64 * w) = false → isWritten s.mem (granuleOf (64 * w)) = false → (readWord s who w).2 = .data 0 false) := by
  have keeps := wakePort_keeps s (storeOf (64 * w))
  have checks := wakePort_checks s (storeOf (64 * w))
  have written := keeps.isWritten (granuleOf (64 * w))
  unfold readWord
  simp only [own, up, if_false, Bool.false_eq_true, Bool.true_eq_false]
  generalize wakePort s (storeOf (64 * w)) = g at keeps checks written ⊢
  refine ⟨fun stored => ?_, fun ns clear => ?_⟩
  · by_cases ns : isNs (64 * w) = true
    · rw [if_pos ns]
      let u := countEv { g with pwr := { g.pwr with nsRd := sat32 g.pwr.nsRd 1 } } .nsRd 1
      exact ⟨eccRead u w, (keeps.trans (.same rfl rfl)).trans (eccRead_keeps u w),
        (checks.trans (.ofMem rfl)).trans (eccRead_checks u w), rfl⟩
    · rw [if_neg ns, if_pos (written.trans (stored.resolve_left ns))]
      exact ⟨eccRead g w, keeps.trans (eccRead_keeps g w), checks.trans (eccRead_checks g w), rfl⟩
  · rw [ns, if_neg Bool.false_ne_true, written, clear, if_neg Bool.false_ne_true]

theorem writeWord_done {s : State} {who : Who} {w : Nat} (own : crosses s who.part (addrPart s (64 * w)) = false)
    (up : (portOf s (storeOf (64 * w))).isOpen = true) (x mask : BitVec 512) (psn : Bool) :
    (writeWord s who w x mask psn).2 = .done := by
  unfold writeWord
  simp only [own, up, if_false, Bool.false_eq_true, Bool.true_eq_false]

/-- A write that happens merges the named bits into the bytes of its word. -/
theorem readByte_writeWord_self {s : State} {who : Who} {w : Nat} (own : crosses s who.part (addrPart s (64 * w)) = false)
    (up : (portOf s (storeOf (64 * w))).isOpen = true) (x mask : BitVec 512) (psn : Bool) {i : Nat} (hi : i < 64) :
    readByte (writeWord s who w x mask psn).1.mem (64 * w + i) =
      (readByte s.mem (64 * w + i) &&& ~~~byteAt mask i) ||| (byteAt x i &&& byteAt mask i) := by
  rcases writeWord_cases s who w x mask psn with ⟨refused, -⟩ | ⟨-, t, keeps, run⟩
  · exact absurd (writeWord_done own up x mask psn) refused
  · rw [run]
    exact (readByte_storeWord_self t.mem w i x mask psn hi).trans (by rw [keeps.readByte])

/-- Settles O11: a read answers the stored word of a state that reads alike, and a write is one merged word. -/
theorem storeWordsReadAndWrite : Obligations.StoreWordsReadAndWrite := by
  refine ⟨fun s who w own up => ?_, fun s who w x mask psn own up =>
    ⟨writeWord_done own up x mask psn, fun i hi => readByte_writeWord_self own up x mask psn hi,
      fun a out => readByte_writeWord_other s who x mask psn out, (writeWord_moves ..).cores, (writeWord_moves ..).cnt⟩⟩
  obtain ⟨found, blank⟩ := readWord_open own up
  obtain ⟨moves, keeps⟩ := readWord_looks s who w
  by_cases stored : isNs (64 * w) = true ∨ isWritten s.mem (granuleOf (64 * w)) = true
  · obtain ⟨t, same, checks, reads⟩ := found stored
    refine ⟨_, _, reads, fun _ => ⟨?_, uncorrectable_iff, fun i hi => ?_⟩, fun ns clear => ?_,
      keeps.readByte, moves.cores, moves.cnt⟩
    · rw [checks.uncorrectable, checks.1]; simp [setHas]
    · rw [byteAt_memWord _ _ hi, same.memByte, readByte_stored stored hi]
    · rw [ns, clear] at stored; simp at stored
  · have ns : isNs (64 * w) = false := by simpa using fun h => stored (.inl h)
    have clear : isWritten s.mem (granuleOf (64 * w)) = false := by simpa using fun h => stored (.inr h)
    exact ⟨0, false, blank ns clear, fun h => absurd h stored, fun _ _ => ⟨rfl, rfl⟩, keeps.readByte, moves.cores, moves.cnt⟩

end Sys2Proof.Machine
end

section
set_option Elab.async false -- one proof after another: this bounds the memory that a check of the whole text takes
/-! PROOFS. VLD and VST (R89, R176, R182). -/

namespace Sys2Proof.Machine

/-! ### Reads of rows and beats -/

theorem readElems_looks (s : State) (who : Who) (d : Desc) (row : Option Nat) (c0 : Int) (n : Nat) :
    Looks s (readElems s who d row c0 n).1 := by
  unfold readElems; dsimp only
  split
  · exact .refl s
  split
  · exact .refl s
  · exact readWords_looks ..

theorem readLanes_looks (s : State) (who : Who) (d : Desc) (k1 c0 : Int) (n : Nat) : Looks s (readLanes s who d k1 c0 n).1 := by
  unfold readLanes; dsimp only
  split
  · exact .refl s
  · exact readWords_looks ..

theorem readRowAt_looks (s : State) (who : Who) (d : Desc) (c1 c0 : Int) (n : Nat) : Looks s (readRowAt s who d c1 c0 n).1 := by
  unfold readRowAt; dsimp only
  repeat' split
  · exact .refl s
  · exact .refl s
  · exact readWords_looks ..
  · exact readLanes_looks ..
  · exact readLanes_looks ..
  · exact readElems_looks ..

theorem readBeat_looks (s : State) (who : Who) (d : Desc) (pos : Option (Nat × Nat)) : Looks s (readBeat s who d pos).1 := by
  unfold readBeat
  split
  · exact .refl s
  · exact readWords_looks ..

/-! ### Descriptors -/

/-- `ADV` changes its core as `advanced` says (R176). -/
theorem advance_eq (s : State) (c : CoreId) (adv : Bool) (d : DReg) :
    advance s c adv d = modCore s c (fun k => advanced k adv d) := by
  unfold advance advanced
  split
  · rfl
  · exact (modCore_id s c _ rfl).symm

theorem advanced_pc (k : Core) (adv : Bool) (d : DReg) : (advanced k adv d).pc = k.pc := by unfold advanced; split <;> rfl

theorem advanced_ag (k : Core) (adv : Bool) (d : DReg) : (advanced k adv d).ag = k.ag := by unfold advanced; split <;> rfl

/-- An instruction whose descriptor check fails is a contained error of its core (R58, R100). -/
theorem issue_checkFails {s : State} {c : CoreId} (h : Ready s c) (n : Needs) {F : State → State} {e : Err} {d : Nat}
    (hF : F s = failCore s c e d) : issue s c n F = failCore s c e d := by
  rw [issue_fewer h _ (by rw [hF]; exact failCore_reqs ..), hF]

/-- Outside the reserved windows, an instruction that first brings the state to `r`, its cores untouched, and then changes its
core by `f`, issues as one that changes the core by `f` from `r`. -/
theorem issue_open_retire {s r : State} {c : CoreId} (h : Ready s c) (open_ : anyWindow s = false) (n : Needs)
    {F : State → State} {f : Core → Core} (hF : F s = retire (modCore r c f) c 1) (hcores : r.cores = s.cores)
    (hpc : (f s.cores[c]).pc = s.cores[c].pc) (hag : (f s.cores[c]).ag = s.cores[c].ag) :
    IssuedAs c r (issue s c n F) (f s.cores[c]) := by
  rw [issue_open h n _ open_, hF]
  rw [← hcores] at hpc hag ⊢
  exact retire_modCore r c f (by rw [hcores]; exact h.2.1) hpc hag

/-! ### VLD and VST -/

section
variable {s : State} {c : CoreId} {d : DReg} (h : Ready s c)
include h

theorem vld_issued (adv : Bool) (v : VReg) (b o : BitVec 12) (check : checkTd s.cores[c].d[d] false beatOk = none)
    (open_ : anyWindow s = false) :
    let t := s.cores[c].d[d]
    let r := readBeat s (whoFetch c) t (beatAt t (beatOuter t o.toNat) b.toNat)
    ∃ u, exec (.vld c adv v d b o) s = .next u ∧ IssuedAs c r.1 u (advanced (wroteV s.cores[c] v r.2.1 r.2.2) adv d) := by
  intro t r
  refine ⟨_, rfl, issue_open_retire h open_ _ (f := fun k => advanced (wroteV k v r.2.1 r.2.2) adv d) ?_
    (readBeat_looks ..).1.cores (advanced_pc ..) (advanced_ag ..)⟩
  simp only [withChecks, check, advance_eq, writeV_eq, modCore_modCore]
  rfl

theorem vst_issued (adv : Bool) (v : VReg) (b o : BitVec 12) (check : checkTd s.cores[c].d[d] false beatOk = none)
    (free : s.cores[c].sq.length < 16) :
    let t := s.cores[c].d[d]
    let w := writeBeat t (beatAt t (beatOuter t o.toNat) b.toNat) b.toNat (readV s c v).1
    ∃ u, exec (.vst c adv d v b o) s = .next u ∧ IssuedAs c s u (advanced { s.cores[c] with sq := s.cores[c].sq ++ [
      { dst := .mem w.1, psn := (readV s c v).2, drop := w.2, ew := tdWidth t }] } adv d) := by
  intro t w
  have notFull : sqFull s c = false := decide_eq_false (Nat.not_le.mpr free)
  refine ⟨_, rfl, issue_modCore h _ (f := fun k => advanced { k with
    sq := k.sq ++ [{ dst := .mem w.1, psn := (readV s c v).2, drop := w.2, ew := tdWidth t }] } adv d) ?_
    (advanced_pc ..) (advanced_ag ..)⟩
  simp only [withChecks, check, notFull, advance_eq, pushOwn, modCore_modCore, if_false, Bool.false_eq_true]
  rfl

theorem vld_checkFails (adv : Bool) (v : VReg) (b o : BitVec 12) {x : Err} (check : checkTd s.cores[c].d[d] false beatOk = some x) :
    exec (.vld c adv v d b o) s = .next (failCore s c x (if x = .shapeMismatch then s.cores[c].pc else 0)) :=
  congrArg Host.Outcome.next (issue_checkFails h _ (by simp only [withChecks, check]))

theorem vst_checkFails (adv : Bool) (v : VReg) (b o : BitVec 12) {x : Err} (check : checkTd s.cores[c].d[d] false beatOk = some x) :
    exec (.vst c adv d v b o) s = .next (failCore s c x (if x = .shapeMismatch then s.cores[c].pc else 0)) :=
  congrArg Host.Outcome.next (issue_checkFails h _ (by simp only [withChecks, check]))

end

/-- Settles O10: a beat read and a beat pushed, each followed by `ADV`, and the contained error of the check. -/
theorem vldAndVst : Obligations.VldAndVst :=
  fun _ _ adv _ v b o h => ⟨fun check => ⟨fun open_ => vld_issued h adv v b o check open_, fun free => vst_issued h adv v b o check free⟩,
    fun _ check => ⟨vld_checkFails h adv v b o check, vst_checkFails h adv v b o check⟩⟩

end Sys2Proof.Machine
end

section
set_option Elab.async false -- one proof after another: this bounds the memory that a check of the whole text takes
/-! PROOFS. A pass over a stored route is one permutation of the lines (R112, R113). -/

namespace Sys2Proof.Machine

/-! ### The switches of a stage -/

/-- The lines of a mask are first lines of switches with exchange bit `l`: bit `l` is clear, and the partner is a line. -/
def FirstLines (l : Nat) (m : Nat → Bool) : Prop := ∀ i, m i = true → i + 2 ^ l < 2048 ∧ i / 2 ^ l % 2 = 0

/-- The other line of a crossed switch is no first line. -/
theorem FirstLines.partner {l : Nat} {m : Nat → Bool} (h : FirstLines l m) {i : Nat} (hi : m i = true) : m (i + 2 ^ l) = false := by
  by_contra second
  have low := (h i hi).2
  have high := (h _ (by simpa using second)).2
  rw [Nat.add_div_right _ (Nat.two_pow_pos l)] at high
  omega

/-- The line that line `i` takes its bit from: the other of its switch, when that is crossed (R113). -/
def partner (l : Nat) (m : Nat → Bool) (i : Nat) : Nat :=
  if m i then i + 2 ^ l else if 2 ^ l ≤ i ∧ m (i - 2 ^ l) = true then i - 2 ^ l else i

theorem partner_lt {l : Nat} {m : Nat → Bool} (h : FirstLines l m) {i : Nat} (hi : i < 2048) : partner l m i < 2048 := by
  unfold partner
  split
  · exact (h i ‹_›).1
  · split
    · exact (Nat.sub_le _ _).trans_lt hi
    · exact hi

theorem partner_partner {l : Nat} {m : Nat → Bool} (h : FirstLines l m) (i : Nat) : partner l m (partner l m i) = i := by
  by_cases first : m i = true
  · have second := h.partner first
    simp [partner, first, second]
  · by_cases other : 2 ^ l ≤ i ∧ m (i - 2 ^ l) = true
    · have up : i - 2 ^ l + 2 ^ l = i := Nat.sub_add_cancel other.1
      simp [partner, first, other, up]
    · have stays : partner l m i = i := by simp only [partner, first, other, if_false, Bool.false_eq_true]
      rw [stays, stays]

/-- The exchange of the lines of crossed switches. -/
def exchange {l : Nat} {m : Nat → Bool} (h : FirstLines l m) : Equiv.Perm (Fin 2048) :=
  Function.Involutive.toPerm (fun i => ⟨partner l m i.val, partner_lt h i.isLt⟩) (fun i => Fin.ext (partner_partner h i.val))

/-- Exchanging by a mask moves every line to its partner's place. -/
theorem getLsbD_exchange {l : Nat} (m x : Bits) (h : FirstLines l m.getLsbD) (i : Fin 2048) :
    (x ^^^ ((x ^^^ (x >>> 2 ^ l)) &&& m) ^^^ (((x ^^^ (x >>> 2 ^ l)) &&& m) <<< 2 ^ l)).getLsbD i.val =
      x.getLsbD (exchange h i).val := by
  have at_i : (exchange h i).val = partner l m.getLsbD i.val := rfl
  simp only [BitVec.getLsbD_xor, BitVec.getLsbD_and, BitVec.getLsbD_shiftLeft, BitVec.getLsbD_ushiftRight, at_i, partner]
  by_cases first : m.getLsbD i.val = true
  · have below : (decide (i.val < 2 ^ l) || !m.getLsbD (i.val - 2 ^ l)) = true := by
      by_contra second
      simp only [Bool.or_eq_true, decide_eq_true_eq, Bool.not_eq_true', not_or, Bool.not_eq_false] at second
      have clash := h.partner second.2
      rw [Nat.sub_add_cancel (by omega), first] at clash
      exact absurd clash (by decide)
    rw [if_pos first, Nat.add_comm i.val]
    cases hlt : decide (i.val < 2 ^ l) <;> simp_all
  · rw [if_neg first, Bool.eq_false_of_not_eq_true first]
    by_cases other : 2 ^ l ≤ i.val ∧ m.getLsbD (i.val - 2 ^ l) = true
    · rw [if_pos other]
      simp [other.2, Nat.not_lt.mpr other.1, Nat.add_sub_cancel' other.1, Bool.xor_left_comm]
    · rw [if_neg other]
      by_cases below : i.val < 2 ^ l
      · simp [below]
      · have clear : m.getLsbD (i.val - 2 ^ l) = false := by
          simpa using fun h => other ⟨Nat.not_lt.mp below, h⟩
        simp [clear]

/-! ### The mask of a stage -/

/-- A power of two added to a number without that bit sets it. -/
theorem testBit_add_two_pow {a k : Nat} (h : a.testBit k = false) (i : Nat) :
    (a + 2 ^ k).testBit i = (a.testBit i || decide (i = k)) := by
  rw [Nat.add_comm]
  rcases lt_trichotomy i k with lt | rfl | gt
  · rw [Nat.testBit_two_pow_add_gt lt]
    simp [lt.ne]
  · rw [Nat.testBit_two_pow_add_eq, h]
    simp
  · have even : a / 2 ^ k % 2 = 0 := by
      rw [Nat.testBit_eq_decide_div_mod_eq, decide_eq_false_iff_not] at h; omega
    have carry : (2 ^ k + a) / 2 ^ (k + 1) = a / 2 ^ (k + 1) := by
      rw [Nat.pow_succ, ← Nat.div_div_eq_div_mul, ← Nat.div_div_eq_div_mul, Nat.add_div_left _ (Nat.two_pow_pos k)]
      omega
    have above (x : Nat) : x.testBit i = (x / 2 ^ (k + 1)).testBit (i - (k + 1)) := by
      rw [Nat.testBit_div_two_pow, Nat.sub_add_cancel gt]
    rw [above, carry, ← above]
    simp [gt.ne']

theorem switchLine_injective (l : Nat) : Function.Injective (switchLine l) := by
  have pos := Nat.two_pow_pos l
  have split (j : Nat) : switchLine l j % 2 ^ l = j % 2 ^ l ∧ switchLine l j / 2 ^ l = 2 * (j / 2 ^ l) := by
    have form : switchLine l j = j % 2 ^ l + 2 ^ l * (2 * (j / 2 ^ l)) := by unfold switchLine; ring
    rw [form, Nat.add_mul_mod_self_left, Nat.mod_mod, Nat.add_mul_div_left _ _ pos,
      Nat.div_eq_of_lt (Nat.mod_lt _ pos), Nat.zero_add]
    exact ⟨rfl, rfl⟩
  intro a b hab
  have low : a % 2 ^ l = b % 2 ^ l := by rw [← (split a).1, hab, (split b).1]
  have high : a / 2 ^ l = b / 2 ^ l := by have := (split a).2; rw [hab, (split b).2] at this; omega
  rw [← Nat.div_add_mod a (2 ^ l), high, low, Nat.div_add_mod]

/-- A switch's first line has bit `l` clear, and its partner is a line (R113). -/
theorem switchLine_first {l j : Nat} (hl : l ≤ 10) (hj : j < 1024) :
    switchLine l j + 2 ^ l < 2048 ∧ switchLine l j / 2 ^ l % 2 = 0 := by
  have pos := Nat.two_pow_pos l
  have form : switchLine l j = j % 2 ^ l + 2 ^ l * (2 * (j / 2 ^ l)) := by unfold switchLine; ring
  have lines : 2 ^ l * 2 ^ (10 - l) = 1024 := by rw [← Nat.pow_add, Nat.add_sub_of_le hl]
  have group : j / 2 ^ l < 2 ^ (10 - l) := Nat.div_lt_of_lt_mul (by rwa [lines])
  have room : 2 ^ l * (j / 2 ^ l + 1) ≤ 2 ^ l * 2 ^ (10 - l) := Nat.mul_le_mul_left _ group
  have low := Nat.mod_lt j pos
  constructor
  · rw [form, Nat.mul_left_comm]
    rw [lines, Nat.mul_succ] at room
    omega
  · rw [form, Nat.add_mul_div_left _ _ pos, Nat.div_eq_of_lt low]
    omega

/-- The bits of a sum of distinct powers. -/
theorem testBit_stageFold (l sw : Nat) : ∀ (js : List Nat) (a : Nat), js.Nodup → (∀ j ∈ js, a.testBit (switchLine l j) = false) →
    ∀ i, (js.foldl (fun a j => if sw.testBit j then a + 2 ^ switchLine l j else a) a).testBit i = true →
      a.testBit i = true ∨ ∃ j ∈ js, i = switchLine l j
  | [], _, _, _, _, h => .inl h
  | j :: r, a, distinct, clear, i, h => by
    obtain ⟨new, rest⟩ := List.nodup_cons.1 distinct
    have added := testBit_add_two_pow (clear j (by simp))
    have clear' : ∀ k ∈ r, (if sw.testBit j then a + 2 ^ switchLine l j else a).testBit (switchLine l k) = false := by
      intro k hk
      split
      · have other : switchLine l k ≠ switchLine l j := fun e => new (switchLine_injective l e ▸ hk)
        simp [added, clear k (by simp [hk]), other]
      · exact clear k (by simp [hk])
    rcases testBit_stageFold l sw r _ rest clear' i h with h | ⟨k, hk, rfl⟩
    · split at h
      · rw [added] at h
        rcases (Bool.or_eq_true _ _).mp h with h | h
        · exact .inl h
        · exact .inr ⟨j, by simp, by simpa using h⟩
      · exact .inl h
    · exact .inr ⟨k, by simp [hk], rfl⟩

theorem exchangeBit_le {st : Nat} (h : st < 21) : exchangeBit st ≤ 10 := by unfold exchangeBit; split <;> omega

/-- The mask of a stage names first lines. -/
theorem stageMask_first {l : Nat} (hl : l ≤ 10) (sw : Nat) : FirstLines l (BitVec.ofNat 2048 (stageMask l sw)).getLsbD := by
  intro i hi
  rw [BitVec.getLsbD_ofNat] at hi
  have set := ((Bool.and_eq_true _ _).mp hi).2
  rcases testBit_stageFold l sw (upto 1024) 0 (nodup_span 0 1024) (fun j _ => Nat.zero_testBit _) i set with h | ⟨j, hj, rfl⟩
  · simp at h
  · exact switchLine_first hl ((mem_upto 1024 j).mp hj)

/-! ### The pass -/

/-- Stages one after another are one permutation of the lines. -/
theorem runStages_permutes (r : BitVec 21504) : ∀ sts : List Nat, (∀ st ∈ sts, st < 21) →
    ∃ σ : Equiv.Perm (Fin 2048), ∀ (x : Bits) (i : Fin 2048), (sts.foldl (runStage r) x).getLsbD i.val = x.getLsbD (σ i).val
  | [], _ => ⟨1, fun _ _ => rfl⟩
  | st :: sts, h => by
    obtain ⟨σ, later⟩ := runStages_permutes r sts (fun st hst => h st (by simp [hst]))
    have first := stageMask_first (exchangeBit_le (h st (by simp))) (fldN r (1024 * st) 1024)
    exact ⟨exchange first * σ, fun x i => (later (runStage r x st) i).trans (getLsbD_exchange _ x first (σ i))⟩

/-- Settles O14: each stage exchanges the lines of its crossed switches, whatever the beat. -/
theorem routePassPermutesTheLines : Obligations.RoutePassPermutesTheLines :=
  fun r => runStages_permutes r (upto 21) (fun st hst => (mem_upto 21 st).mp hst)

end Sys2Proof.Machine
end

section
set_option Elab.async false -- one proof after another: this bounds the memory that a check of the whole text takes
/-! PROOFS. PRM: one pass of a core's own network (R94 to R96, R114, R118, R121, R126, R135, R138, R376). -/

namespace Sys2Proof.Machine

/-! ### Changes of one core -/

/-- Only what a change makes of its core matters. -/
theorem modCore_congr {s : State} {c : CoreId} {f g : Core → Core} (h : f s.cores[c] = g s.cores[c]) : modCore s c f = modCore s c g := by
  unfold modCore; rw [h]

/-- Counting an energy event and changing a core do not meet. -/
theorem countEv_modCore (s : State) (c : CoreId) (f : Core → Core) (e : PwrEv) (n : Nat) :
    countEv (modCore s c f) e n = modCore (countEv s e n) c f := rfl

theorem readV_congr {s t : State} {c : CoreId} (h : t.cores[c].v = s.cores[c].v) (v : VReg) : readV t c v = readV s c v := by
  unfold readV; rw [h]

/-! ### The parts of a network use -/

/-- The core after its network's source register is read: the latch holds it, and the hit or the read is counted (R94 to
R96). -/
def latched (v : VReg) (k : Core) : Core :=
  let hit := decide (k.latch = some v)
  { k with
    latch := some v
    latchHit := if hit then sat32 k.latchHit 1 else k.latchHit
    rfRd := if hit then k.rfRd else sat32 k.rfRd 1 }

/-- The event that the read counts. -/
def readEvent (k : Core) (v : VReg) : PwrEv := if decide (k.latch = some v) then .latchHit else .rfRd

theorem netRead_eq (s : State) (c : CoreId) (v : VReg) :
    netRead s c v = (modCore (countEv s (readEvent s.cores[c] v) 1) c (latched v), readV s c v) := by
  unfold netRead readEvent
  by_cases hit : s.cores[c].latch = some v
  · simp only [hit, if_true, decide_true, countEv_modCore]
    refine congrArg (·, readV s c v) (modCore_congr ?_)
    show _ = latched v s.cores[c]
    unfold latched
    simp only [hit, decide_true, if_true]
    rw [← hit]
    rfl
  · simp only [hit, if_false, decide_false, Bool.false_eq_true, countEv_modCore]
    refine congrArg (·, readV s c v) (modCore_congr ?_)
    show _ = latched v s.cores[c]
    unfold latched
    simp only [hit, decide_false, if_false, Bool.false_eq_true]
    rfl

/-- The core after a pass of its network: a corrected slot and the passes are counted, and a general map is factored (R121,
R126, R138). -/
def passed (s : State) (c : CoreId) (ds : Vector Desc 16) (src : RouteSrc) (k : Core) : Core :=
  { k with
    routeCe := if ∃ n, src = .slot n ∧ HwFault.routeCe c n ∈ s.hwf then sat32 k.routeCe 1 else k.routeCe
    netPass := sat32 k.netPass (routePasses ds src)
    factor := factorAfter s c ds src }

/-- A fold whose every step stays. -/
theorem foldl_stays {α β : Type} {f : α → β → α} {a : α} : ∀ {l : List β}, (∀ b ∈ l, f a b = a) → l.foldl f a = a
  | [], _ => rfl
  | b :: r, h => by
    rw [List.foldl_cons, h b (by simp)]
    exact foldl_stays fun x hx => h x (by simp [hx])

/-- No line of the network fails. -/
theorem badLines_zero {s : State} {c : CoreId} (h : ∀ l, HwFault.netLine c l ∉ s.hwf) : badLines s c = 0#2048 := by
  refine foldl_stays fun f hf => ?_
  split
  · rename_i d i
    exact if_neg (by rintro rfl; exact h i hf)
  · rfl

/-- The use reads a slot whose route memory has a corrected error (R121). -/
def slotCorrected (s : State) (c : CoreId) : RouteSrc → Bool
  | .slot n => s.hwf.contains (.routeCe c n)
  | .map _ => false

theorem slotCorrected_iff (s : State) (c : CoreId) (src : RouteSrc) :
    slotCorrected s c src = true ↔ ∃ n, src = .slot n ∧ HwFault.routeCe c n ∈ s.hwf := by
  cases src <;> simp [slotCorrected]

/-- A network use whose route memory has no uncorrectable word counts a corrected one and makes its passes (R121). -/
theorem netUse_eq {s : State} {c : CoreId} {src : RouteSrc} (ue : ∀ n, src = .slot n → HwFault.routeUe c n ∉ s.hwf)
    (pc e : Nat) (ds : Vector Desc 16) (x : Bits) : netUse s c pc e ds src x =
      (let r := if slotCorrected s c src then modCore s c (fun k => { k with routeCe := sat32 k.routeCe 1 }) else s
       let y := routeApply r c e ds src x ^^^ badLines r c
       let u := modCore (countPasses r c (routePasses ds src)) c (fun k => { k with factor := factorAfter r c ds src })
       if sumsAgree e 2048 x.toNat y.toNat then (u, some y)
       else (failCoreHw u c .netSum (sumDetail pc (routeNum src).1 (routeNum src).2), none)) := by
  cases src with
  | slot n =>
    have noUe : s.hwf.contains (.routeUe c n) = false := by simpa using ue n rfl
    unfold netUse
    simp only [noUe, if_false, Bool.false_eq_true]
    rfl
  | map d => rfl

/-- A network use whose route memory, lines and sums are sound gives the beat of its passes (R121, R135). -/
theorem netUse_passes {s : State} {c : CoreId} {e : Nat} {ds : Vector Desc 16} {src : RouteSrc} {x : Bits}
    (ue : ∀ n, src = .slot n → HwFault.routeUe c n ∉ s.hwf) (lines : ∀ l, HwFault.netLine c l ∉ s.hwf)
    (sums : sumsAgree e 2048 x.toNat (routeApply s c e ds src x).toNat = true) (pc : Nat) :
    netUse s c pc e ds src x =
      (modCore (countEv s .netPass (routePasses ds src)) c (passed s c ds src), some (routeApply s c e ds src x)) := by
  let counted (k : Core) : Core := { k with
    routeCe := if ∃ n, src = .slot n ∧ HwFault.routeCe c n ∈ s.hwf then sat32 k.routeCe 1 else k.routeCe }
  have ce : (if slotCorrected s c src then modCore s c (fun k => { k with routeCe := sat32 k.routeCe 1 }) else s)
      = modCore s c counted := by
    split <;> rename_i h <;> rw [slotCorrected_iff] at h
    · exact modCore_congr (by simp only [counted, if_pos h])
    · exact (modCore_id s c _ (by simp only [counted, if_neg h])).symm
  have beat : routeApply (modCore s c counted) c e ds src x = routeApply s c e ds src x := by
    cases src with
    | slot n => simp only [routeApply, slotOf, modCore_self, counted]
    | map d => rfl
  have factor : factorAfter (modCore s c counted) c ds src = factorAfter s c ds src := by
    simp only [factorAfter, modCore_self, counted]
  have bad : badLines (modCore s c counted) c = 0#2048 := badLines_zero lines
  rw [netUse_eq ue]
  simp only [ce, beat, bad, BitVec.xor_zero, sums, if_true, factor]
  rw [countPasses, countEv_modCore, countEv_modCore, modCore_modCore, modCore_modCore]
  rfl

/-- The clauses of O13 on PRM. -/
theorem prm_issued {s : State} {c : CoreId} {e : Fin 6} {vd va : VReg} {src : RouteSrc} (h : Ready s c)
    (check : routeCheck s c e.val src = none) (ue : ∀ n, src = .slot n → HwFault.routeUe c n ∉ s.hwf)
    (lines : ∀ l, HwFault.netLine c l ∉ s.hwf)
    (sums : sumsAgree e.val 2048 (readV s c va).1.toNat (routeApply s c e.val s.cores[c].d src (readV s c va).1).toNat = true) :
    ∃ t, exec (.prm c e vd va src) s = .next t ∧
      IssuedAs c (countEv (countEv s (readEvent s.cores[c] va) 1) .netPass (routePasses s.cores[c].d src)) t
        (wroteV (passed s c s.cores[c].d src (latched va s.cores[c])) vd
          (routeApply s c e.val s.cores[c].d src (readV s c va).1) (readV s c va).2) := by
  let ds := s.cores[c].d
  let y := routeApply s c e.val ds src (readV s c va).1
  let r := modCore (countEv s (readEvent s.cores[c] va) 1) c (latched va)
  have apply_r : routeApply r c e.val ds src (readV s c va).1 = y := by
    cases src with
    | slot n => simp only [routeApply, slotOf, r, modCore_self, y]; rfl
    | map d => rfl
  have passed_r (k : Core) : passed r c ds src k = passed s c ds src k := by
    have factor_r : factorAfter r c ds src = factorAfter s c ds src := by
      unfold factorAfter; simp only [r, modCore_self]; rfl
    unfold passed; rw [factor_r]; rfl
  have use := netUse_passes (s := r) (c := c) (e := e.val) (ds := ds) (src := src) (x := (readV s c va).1) ue lines
    (by rw [apply_r]; exact sums) s.cores[c].pc
  refine ⟨_, rfl, issue_retire h _
    (f := fun k => wroteV (passed s c ds src (latched va k)) vd y (readV s c va).2) ?_ rfl rfl rfl rfl⟩
  simp only [check, netRead_eq]
  rw [use]
  dsimp only
  rw [apply_r, writeV_eq, countEv_modCore, modCore_modCore, modCore_modCore]
  simp only [passed_r]
  rfl

end Sys2Proof.Machine
end

section
set_option Elab.async false -- one proof after another: this bounds the memory that a check of the whole text takes
/-! PROOFS. PRMG: the four cores of a cluster present, and issue in one cycle (R118, R121, R128 to R131, R138, R376). -/

namespace Sys2Proof.Machine

/-! ### The cores of a cluster -/

theorem mem_coresOf {k : ClusterId} {q : CoreId} : q ∈ coresOf k ↔ clOf q = k := by
  simp only [coresOf, List.mem_cons, List.not_mem_nil, or_false, clOf, Fin.ext_iff]
  omega

theorem nodup_coresOf (k : ClusterId) : (coresOf k).Nodup := by
  simp [coresOf, Fin.ext_iff]

/-- The cores of a list all present, in order. -/
theorem mapM_presents (s : State) : ∀ (l : List CoreId) (ps : List (CoreId × Present)),
    l.mapM (fun c => (s.cores[c].present).map (fun p => (c, p))) = some ps ↔
      ps.map Prod.fst = l ∧ ∀ q ∈ ps, s.cores[q.1].present = some q.2
  | [], ps => by cases ps <;> simp
  | c :: r, [] => by
    simp only [List.mapM_cons, Option.pure_def, Option.bind_eq_bind, Option.bind_eq_some_iff]
    simp
  | c :: r, (q, x) :: ps => by
    have tail := mapM_presents s r ps
    simp only [List.mapM_cons, Option.pure_def, Option.bind_eq_bind, Option.bind_eq_some_iff, Option.map_eq_some_iff,
      Option.some.injEq, List.cons.injEq, List.map_cons, List.mem_cons, forall_eq_or_imp]
    constructor
    · rintro ⟨_, ⟨y, hy, rfl⟩, ps', hps, ⟨rfl, rfl⟩, rfl⟩
      obtain ⟨keys, present⟩ := tail.mp hps
      exact ⟨⟨rfl, keys⟩, hy, present⟩
    · rintro ⟨⟨rfl, keys⟩, hy, present⟩
      exact ⟨_, ⟨x, hy, rfl⟩, ps, tail.mpr ⟨keys, present⟩, rfl, rfl⟩

/-- A cluster's gang is ready when its four cores present. -/
theorem gangReady_iff (s : State) (k : ClusterId) (ps : List (CoreId × Present)) :
    gangReady s k = some ps ↔ ps.map Prod.fst = coresOf k ∧ ∀ q ∈ ps, s.cores[q.1].present = some q.2 :=
  mapM_presents s (coresOf k) ps

/-! ### Cores changed one after another -/

/-- Each core that the list names is changed as its entry says; other cores and all but the power counts stay. -/
def CoresBecome {β : Type} (key : β → CoreId) (upd : β → Core → Core) (l : List β) (s t : State) : Prop :=
  t = { s with cores := t.cores, pwr := t.pwr } ∧ (∀ b ∈ l, t.cores[key b] = upd b s.cores[key b]) ∧
    ∀ q, q ∉ l.map key → t.cores[q] = s.cores[q]

section
variable {β : Type} {key : β → CoreId} {upd : β → Core → Core}

/-- A fold of steps that each change the core they name. -/
theorem foldl_coresBecome {step : State → β → State} (h : ∀ s b, CoresBecome key upd [b] s (step s b)) :
    ∀ (l : List β) (s : State), (l.map key).Nodup → CoresBecome key upd l s (l.foldl step s)
  | [], s, _ => ⟨rfl, by simp, fun _ _ => rfl⟩
  | b :: r, s, distinct => by
    obtain ⟨new, rest⟩ := List.nodup_cons.1 distinct
    obtain ⟨frame, here, others⟩ := h s b
    obtain ⟨frame', later, others'⟩ := foldl_coresBecome h r (step s b) rest
    refine ⟨by rw [List.foldl_cons, frame', frame], fun x hx => ?_, fun q hq => ?_⟩
    · rcases List.mem_cons.mp hx with rfl | hx
      · rw [List.foldl_cons, others' _ new, here x (by simp)]
      · have apart : key x ≠ key b := fun e => new (e ▸ List.mem_map_of_mem hx)
        rw [List.foldl_cons, later x hx, others _ (by simpa using apart)]
    · simp only [List.map_cons, List.mem_cons, not_or] at hq
      rw [List.foldl_cons, others' q hq.2, others q (by simpa using hq.1)]

/-- A further change of the same cores. -/
theorem CoresBecome.trans {l : List β} {upd' : β → Core → Core} {s t u : State} (h : CoresBecome key upd l s t)
    (k : CoresBecome key upd' l t u) : CoresBecome key (fun b x => upd' b (upd b x)) l s u := by
  obtain ⟨frame, cores, others⟩ := h
  obtain ⟨frame', cores', others'⟩ := k
  exact ⟨by rw [frame', frame], fun b hb => by rw [cores' b hb, cores b hb], fun q hq => by rw [others' q hq, others q hq]⟩

theorem CoresBecome.one {b : β} {s t : State} (frame : t = { s with cores := t.cores, pwr := t.pwr })
    (here : t.cores[key b] = upd b s.cores[key b]) (others : ∀ q, q ≠ key b → t.cores[q] = s.cores[q]) :
    CoresBecome key upd [b] s t :=
  ⟨frame, by simpa using here, fun q hq => others q (by simpa using hq)⟩

end

/-! ### The parts of a gang's issue -/

theorem netRead_becomes (s : State) (b : CoreId × Present) :
    CoresBecome Prod.fst (fun b => latched b.2.va) [b] s (netRead s b.1 b.2.va).1 := by
  rw [netRead_eq]
  exact .one rfl (modCore_self ..) (fun q hq => modCore_other _ _ _ _ hq)

/-- The state once each core of the gang has read its register. -/
def gangRead (s : State) (ps : List (CoreId × Present)) : State := ps.foldl (fun s p => (netRead s p.1 p.2.va).1) s

/-- The gang's reads: each core's own register, and its latch (R94 to R96). -/
theorem gangReads : ∀ (ps : List (CoreId × Present)) (s : State) (acc : List (Bits × Bool)), (ps.map Prod.fst).Nodup →
    let rd := ps.foldl (fun acc p => let r := netRead acc.1 p.1 p.2.va; (r.1, acc.2 ++ [r.2])) (s, acc)
    rd.1 = gangRead s ps ∧ rd.2 = acc ++ ps.map (fun p => readV s p.1 p.2.va)
  | [], s, acc, _ => by simp [gangRead]
  | b :: r, s, acc, distinct => by
    obtain ⟨new, rest⟩ := List.nodup_cons.1 distinct
    obtain ⟨state, beats⟩ := gangReads r (netRead s b.1 b.2.va).1 (acc ++ [(netRead s b.1 b.2.va).2]) rest
    obtain ⟨-, -, others⟩ := netRead_becomes s b
    refine ⟨state, beats.trans ?_⟩
    have later : r.map (fun p => readV (netRead s b.1 b.2.va).1 p.1 p.2.va) = r.map (fun p => readV s p.1 p.2.va) := by
      refine List.map_congr_left fun p hp => readV_congr ?_ _
      rw [others p.1 (by simpa using fun e : p.1 = b.1 => new (e ▸ List.mem_map_of_mem hp))]
    have first : (netRead s b.1 b.2.va).2 = readV s b.1 b.2.va := by rw [netRead_eq]
    rw [later, first, List.append_assoc, List.map_cons, List.singleton_append]

theorem countPasses_becomes (n : Nat) (s : State) (b : CoreId × Present) :
    CoresBecome Prod.fst (fun _ k => { k with netPass := sat32 k.netPass n }) [b] s (countPasses s b.1 n) := by
  rw [countPasses, countEv_modCore]
  exact .one rfl (modCore_self ..) (fun q hq => modCore_other _ _ _ _ hq)

/-- The core that has issued its PRMG with beat `y`. -/
def gangIssued (r : Present) (y : Bits) (psn : Bool) (k : Core) : Core :=
  { wroteV k r.vd y psn with present := none, pc := min 2048 (k.pc + 1), ag := { k.ag with progressed := true, wait := none } }

/-- One core of the gang writes its beat and issues. -/
def gangWrite (psn : Bool) (s : State) (b : (CoreId × Present) × Bits) : State :=
  retire (modCore (writeV s b.1.1 b.1.2.vd b.2 psn) b.1.1 (fun x => { x with present := none })) b.1.1 1

theorem gangWrite_becomes (psn : Bool) (s : State) (b : (CoreId × Present) × Bits) :
    CoresBecome (fun b => b.1.1) (fun b => gangIssued b.1.2 b.2 psn) [b] s (gangWrite psn s b) := by
  obtain ⟨⟨frame, others, -⟩, core⟩ := progress_core (modCore (modCore (writeV s b.1.1 b.1.2.vd b.2 psn) b.1.1
    (fun x => { x with present := none })) b.1.1 (fun x => { x with pc := min 2048 (x.pc + 1) })) b.1.1
  refine .one ?_ ?_ (fun q hq => ?_) <;> unfold gangWrite retire
  · rw [frame]; rfl
  · rw [core, modCore_self, modCore_self, writeV_eq, modCore_self]; rfl
  · rw [others q hq, modCore_other _ _ _ _ hq, modCore_other _ _ _ _ hq, writeV_eq, modCore_other _ _ _ _ hq]

/-- No line of the gang fails. -/
theorem badGangLines_zero {s : State} {k : ClusterId} (h : ∀ l, HwFault.gangLine k l ∉ s.hwf) : badGangLines s k = 0 := by
  refine foldl_stays fun f hf => ?_
  split
  · rename_i d i
    exact if_neg (by rintro rfl; exact h i hf)
  · rfl

/-- Where no line fails the beats stand. -/
theorem unfaulted (ys : List Bits) : ys.zipIdx.map (fun y => y.1 ^^^ BitVec.ofNat 2048 (0 / 2 ^ (2048 * y.2))) = ys := by
  simp

/-- The first core of a cluster. -/
def firstOf (k : ClusterId) : CoreId := ⟨4 * k.val, by omega⟩

/-- The beats of a gang pass (R128, R129). -/
def gangBeats (s : State) (k : ClusterId) (src : GangSrc) (e : Nat) (xs : List Bits) : List Bits :=
  match src with
  | .route g => gangRoute s k g.val xs
  | .map d => gangMap (affineOf s.cores[firstOf k].d[d]) (2 ^ e) xs

/-- A gang pass reads route words, Whisk words and one map alone. -/
theorem gangBeats_congr {s t : State} {k : ClusterId} (routes : ∀ q : CoreId, t.cores[q].routes = s.cores[q].routes)
    (descs : ∀ q : CoreId, t.cores[q].d = s.cores[q].d) (whisk : t.cls[k].whisk = s.cls[k].whisk) (src : GangSrc) (e : Nat)
    (xs : List Bits) : gangBeats t k src e xs = gangBeats s k src e xs := by
  cases src with
  | route g =>
    have slots (c : CoreId) (n : Nat) : slotOf t c n = slotOf s c n := by unfold slotOf; rw [routes]
    simp only [gangBeats, gangRoute, slots, whisk]
  | map d => simp only [gangBeats, descs]

/-- The core of a gang whose map is general keeps its factors (R126). -/
def gangFactor (general : Bool) (src : GangSrc) (k : Core) : Core :=
  match src with
  | .map d => if general then { k with factor := some d } else k
  | .route _ => k

theorem gangFactor_eq (general : Bool) (src : GangSrc) (k : Core) :
    gangFactor general src k = { k with factor := (gangFactor general src k).factor } := by
  cases src <;> cases general <;> rfl

/-- The state once each core of the gang keeps its factors. -/
def gangFactors (ps : List (CoreId × Present)) (general : Bool) (src : GangSrc) (s : State) : State :=
  match src with
  | .map d => if general then ps.foldl (fun (s : State) (p : CoreId × Present) => modCore s p.1 (fun x => { x with factor := some d })) s else s
  | .route _ => s

theorem gangFactors_become {ps : List (CoreId × Present)} (distinct : (ps.map Prod.fst).Nodup) (general : Bool) (src : GangSrc)
    (s : State) : CoresBecome Prod.fst (fun _ => gangFactor general src) ps s (gangFactors ps general src s) := by
  cases src with
  | route g => exact ⟨rfl, fun _ _ => rfl, fun _ _ => rfl⟩
  | map d =>
    cases general with
    | false => exact ⟨rfl, fun _ _ => rfl, fun _ _ => rfl⟩
    | true =>
      exact foldl_coresBecome (key := Prod.fst)
        (fun s b => .one rfl (modCore_self ..) (fun q hq => modCore_other _ _ _ _ hq)) ps s distinct

/-- The state once the gang's cluster has counted its passes. -/
def gangCounted (s : State) (k : ClusterId) (n : Nat) : State :=
  countEv (modCl s k (fun x => { x with gangPass := sat32 x.gangPass n })) .gang n

theorem gangRead_beats {s : State} {k : ClusterId} {ps : List (CoreId × Present)} (distinct : (ps.map Prod.fst).Nodup)
    (src : GangSrc) (e : Nat) (xs : List Bits) : gangBeats (gangRead s ps) k src e xs = gangBeats s k src e xs := by
  obtain ⟨frame, cores, others⟩ := foldl_coresBecome netRead_becomes ps s distinct
  have same (q : CoreId) : (gangRead s ps).cores[q].routes = s.cores[q].routes ∧ (gangRead s ps).cores[q].d = s.cores[q].d := by
    by_cases hq : q ∈ ps.map Prod.fst
    · obtain ⟨b, hb, rfl⟩ := List.mem_map.mp hq
      unfold gangRead; rw [cores b hb]; exact ⟨rfl, rfl⟩
    · unfold gangRead; rw [others q hq]; exact ⟨rfl, rfl⟩
  refine gangBeats_congr (fun q => (same q).1) (fun q => (same q).2) ?_ src e xs
  unfold gangRead; rw [frame]

/-- An issue whose lines and sums are sound: the reads, the counts, the factors, and then each core's write. -/
theorem gangIssue_eq {s : State} {k : ClusterId} {ps : List (CoreId × Present)} {src : GangSrc} {e : Nat}
    (distinct : (ps.map Prod.fst).Nodup) (lines : ∀ l, HwFault.gangLine k l ∉ s.hwf) :
    let xs := ps.map (fun q => (readV s q.1 q.2.va).1)
    let ys := gangBeats s k src e xs
    let general := gangGeneral s (firstOf k) src
    sumsAgree e 8192 (gangValue xs) (gangValue ys) = true →
    gangIssue s k ps src e = (ps.zip ys).foldl (gangWrite (ps.any (fun q => (readV s q.1 q.2.va).2)))
      (gangFactors ps general src (gangCounted (ps.foldl (fun s p => countPasses s p.1 (if general then 4 else 2)) (gangRead s ps))
        k (if general then 2 else 1))) := by
  intro xs ys general sums
  obtain ⟨readState, readBeats⟩ := gangReads ps s [] distinct
  have sameBeats := gangRead_beats (s := s) (k := k) distinct src e xs
  have reads := (foldl_coresBecome netRead_becomes ps s distinct).1
  have bad : badGangLines (gangRead s ps) k = 0 := badGangLines_zero (by unfold gangRead; rw [reads]; exact lines)
  simp only [List.nil_append] at readState readBeats
  have psn : (ps.map (fun p => readV s p.1 p.2.va)).any (·.2) = ps.any (fun q => (readV s q.1 q.2.va).2) := List.any_map
  have beats : (ps.map (fun p => readV s p.1 p.2.va)).map (·.1) = xs := List.map_map
  cases src with
  | route g =>
    have sameRoute : gangRoute (gangRead s ps) k g.val xs = ys := sameBeats
    simp only [gangIssue, readState, readBeats, beats, psn, bad, sameRoute, unfaulted, sums]
    rfl
  | map d =>
    have sameMap : gangMap (affineOf s.cores[firstOf k].d[d]) (2 ^ e) xs = ys := rfl
    simp only [firstOf] at sameMap
    simp only [gangIssue, readState, readBeats, beats, psn, bad, sameMap, unfaulted, sums]
    rfl

/-- The core of a gang from before its issue to after it: the beat written with the gang's poison, its presentation ended, and
`n` passes counted. -/
def GangCore (r : Present) (y : Bits) (psn : Bool) (n : Nat) (x z : Core) : Prop :=
  z.v = x.v.set r.vd.val (fullReg y psn) ∧ z.present = none ∧ z.pc = min 2048 (x.pc + 1) ∧ z.netPass = sat32 x.netPass n ∧
    z.ag = { x.ag with progressed := true, wait := none } ∧ z.sq = x.sq ∧ z.s = x.s ∧ z.d = x.d ∧ z.t = x.t

/-- Changes of the gang's cores around a change of its cluster, put together. -/
theorem gang_cores {ps : List (CoreId × Present)} {ys : List Bits} {s m g f w : State} {keep : Core → Core}
    {read : CoreId × Present → Core → Core} {write : (CoreId × Present) × Bits → Core → Core}
    (reads : CoresBecome Prod.fst read ps s m) (counted : g.cores = m.cores) (keeps : CoresBecome Prod.fst (fun _ => keep) ps g f)
    (writes : CoresBecome (fun b => b.1.1) write (ps.zip ys) f w)
    (zipped : (ps.zip ys).map (fun b => b.1.1) = ps.map Prod.fst) :
    (∀ b ∈ ps.zip ys, w.cores[b.1.1] = write b (keep (read b.1 s.cores[b.1.1]))) ∧
      ∀ q, q ∉ ps.map Prod.fst → w.cores[q] = s.cores[q] := by
  refine ⟨fun b hb => ?_, fun q hq => ?_⟩
  · have named : b.1 ∈ ps := (List.of_mem_zip hb).1
    rw [writes.2.1 b hb, keeps.2.1 b.1 named, counted, reads.2.1 b.1 named]
  · rw [writes.2.2 q (by rw [zipped]; exact hq), keeps.2.2 q hq, counted, reads.2.2 q hq]

theorem gangCore_of (x : Core) (r : Present) (y : Bits) (psn general : Bool) (src : GangSrc) (n : Nat) :
    GangCore r y psn n x (gangIssued r y psn
      (gangFactor general src ((fun k => { k with netPass := sat32 k.netPass n }) (latched r.va x)))) := by
  rw [gangFactor_eq]
  exact ⟨rfl, rfl, rfl, rfl, rfl, rfl, rfl, rfl, rfl⟩

/-- What a gang's issue leaves: each of its cores with its beat, the passes counted, all else as it was (R128 to R131). -/
theorem gangIssue_becomes {s : State} {k : ClusterId} {ps : List (CoreId × Present)} {src : GangSrc} {e : Nat}
    (keys : ps.map Prod.fst = coresOf k) (lines : ∀ l, HwFault.gangLine k l ∉ s.hwf) :
    let xs := ps.map (fun q => (readV s q.1 q.2.va).1)
    let ys := gangBeats s k src e xs
    let general := gangGeneral s (firstOf k) src
    let u := gangIssue s k ps src e
    sumsAgree e 8192 (gangValue xs) (gangValue ys) = true → ys.length = 4 →
    u = { s with cores := u.cores, cls := u.cls, pwr := u.pwr } ∧
      u.cls = s.cls.set k.val { s.cls[k] with gangPass := sat32 s.cls[k].gangPass (if general then 2 else 1) } ∧
      (∀ b ∈ ps.zip ys, GangCore b.1.2 b.2 (ps.any (fun q => (readV s q.1 q.2.va).2)) (if general then 4 else 2)
        s.cores[b.1.1] u.cores[b.1.1]) ∧
      ∀ q, clOf q ≠ k → u.cores[q] = s.cores[q] := by
  intro xs ys general u sums len
  have distinct : (ps.map Prod.fst).Nodup := by rw [keys]; exact nodup_coresOf k
  have zipped : (ps.zip ys).map (fun b => b.1.1) = ps.map Prod.fst := by
    have same : ps.length = ys.length := by rw [len, ← List.length_map, keys]; rfl
    rw [show (ps.zip ys).map (fun b => b.1.1) = ((ps.zip ys).map Prod.fst).map Prod.fst by rw [List.map_map]; rfl,
      List.map_fst_zip same.le]
  have issued := gangIssue_eq distinct lines sums
  have reads := (foldl_coresBecome netRead_becomes ps s distinct).trans
    (foldl_coresBecome (countPasses_becomes (if general then 4 else 2)) ps (gangRead s ps) distinct)
  have keeps := gangFactors_become distinct general src
    (gangCounted (ps.foldl (fun s p => countPasses s p.1 (if general then 4 else 2)) (gangRead s ps)) k (if general then 2 else 1))
  have writes := foldl_coresBecome (gangWrite_becomes (ps.any (fun q => (readV s q.1 q.2.va).2)))
    (ps.zip ys) (gangFactors ps general src (gangCounted
      (ps.foldl (fun s p => countPasses s p.1 (if general then 4 else 2)) (gangRead s ps)) k (if general then 2 else 1)))
    (by rw [zipped]; exact distinct)
  rw [← issued] at writes
  obtain ⟨cores, others⟩ := gang_cores reads (g := gangCounted _ k _) rfl keeps writes zipped
  obtain ⟨cs, w, whole⟩ : ∃ cs w, gangIssue s k ps src e = { s with
      cores := cs, pwr := w
      cls := s.cls.set k.val { s.cls[k] with gangPass := sat32 s.cls[k].gangPass (if general then 2 else 1) } } :=
    ⟨_, _, by rw [writes.1, keeps.1, gangCounted, reads.1]; rfl⟩
  refine ⟨?_, ?_, fun b hb => ?_, fun q hq => others q (by rw [keys, mem_coresOf]; exact hq)⟩
  · show gangIssue s k ps src e = { s with
      cores := (gangIssue s k ps src e).cores, cls := (gangIssue s k ps src e).cls, pwr := (gangIssue s k ps src e).pwr }
    rw [whole]
  · show (gangIssue s k ps src e).cls = _
    rw [whole]
  · show GangCore _ _ _ _ _ (gangIssue s k ps src e).cores[b.1.1]
    rw [cores b hb]
    exact gangCore_of ..

/-! ### PRMG presents -/

/-- Of the cores only what they present and their corrected route errors differ, at cluster `k`; of its clusters only the
corrected Whisk errors of `k`. -/
structure GangBase (k : ClusterId) (s t : State) : Prop where
  frame : t = { s with cores := t.cores, cls := t.cls }
  core : ∀ q : CoreId, t.cores[q] = { s.cores[q] with present := t.cores[q].present, routeCe := t.cores[q].routeCe }
  others : ∀ q : CoreId, clOf q ≠ k → t.cores[q] = s.cores[q]
  cl : t.cls[k] = { s.cls[k] with whiskCe := t.cls[k].whiskCe }
  cls : ∀ j : ClusterId, j ≠ k → t.cls[j] = s.cls[j]

namespace GangBase

variable {k : ClusterId} {s t u : State}

theorem trans (h : GangBase k s t) (h' : GangBase k t u) : GangBase k s u where
  frame := by rw [h'.frame, h.frame]
  core q := by rw [h'.core, h.core]
  others q hq := by rw [h'.others q hq, h.others q hq]
  cl := by rw [h'.cl, h.cl]
  cls j hj := by rw [h'.cls j hj, h.cls j hj]

theorem ofCore {c : CoreId} (hc : clOf c = k) (f : Core → Core)
    (hf : ∀ x, f x = { x with present := (f x).present, routeCe := (f x).routeCe }) : GangBase k s (modCore s c f) where
  frame := rfl
  core q := by
    by_cases e : q = c
    · subst e; rw [modCore_self]; exact hf _
    · rw [modCore_other _ _ _ _ e]
  others q hq := modCore_other _ _ _ _ (by rintro rfl; exact hq hc)
  cl := rfl
  cls _ _ := rfl

theorem ofCes (g : Fin 32) : ∀ (l : List CoreId) (s : State), (∀ c ∈ l, clOf c = k) → GangBase k s (l.foldl (fun s c =>
    let n := b2n (s.hwf.contains (.routeCe c ⟨2 * g.val, by omega⟩)) + b2n (s.hwf.contains (.routeCe c ⟨2 * g.val + 1, by omega⟩))
    modCore s c (fun x => { x with routeCe := sat32 x.routeCe n })) s)
  | [], _, _ => ⟨rfl, fun _ => rfl, fun _ _ => rfl, rfl, fun _ _ => rfl⟩
  | c :: r, s, h => (ofCore (h c (by simp)) _ (fun _ => rfl)).trans (ofCes g r _ fun x hx => h x (by simp [hx]))

theorem ofSlotCe (g : Fin 32) : GangBase k s (gangSlotCe s k g) := by
  have ces := ofCes (k := k) g (coresOf k) s (fun c hc => mem_coresOf.mp hc)
  unfold gangSlotCe
  dsimp only
  split
  · exact ces.trans ⟨rfl, fun _ => rfl, fun _ _ => rfl, by rw [modCl_self], fun j hj => modCl_other _ _ _ _ hj⟩
  · exact ces

theorem readV (h : GangBase k s t) (q : CoreId) (v : VReg) : readV t q v = readV s q v := readV_congr (by rw [h.core]) v

theorem key (h : GangBase k s t) (q : CoreId) (p : Present) : gangKey t q p = gangKey s q p := by
  unfold gangKey; rw [h.core]

end GangBase

section Prmg

variable {s : State} {c : CoreId} {p : Present}

/-- The state in which core `c` presents `p`. -/
def presenting (s : State) (c : CoreId) (p : Present) : State := modCore s c (fun k => { k with present := some p })

theorem presenting_base : GangBase (clOf c) s (presenting s c p) := .ofCore rfl _ (fun _ => rfl)

/-- A core that is ready presents (R130). -/
theorem exec_prmg (h : Ready s c) (check : gangCheck s c p.e.val p.src = none) : exec (.prmg c p.e p.vd p.va p.src) s =
    .next (match gangReady (presenting s c p) (clOf c) with
      | some ps => gangStep (presenting s c p) (clOf c) ps
      | none => gangWaits s c p) := by
  obtain ⟨may, room, idle⟩ := h
  have quiet : s.cores[c].present = none := by
    simp only [canIssue, Bool.and_eq_true, Option.isNone_iff_eq_none] at may
    exact may.2
  have can : canPresent s c p = true := by
    unfold canPresent clear
    rw [modCore_id s c _ (by rw [← quiet]), may, idle, quiet]
    rfl
  have whole : exec (.prmg c p.e p.vd p.va p.src) s = .next (if !canPresent s c p then s
      else if 2048 ≤ s.cores[c].pc then failCore s c .pcRange 0
      else match gangCheck s c p.e.val p.src with
        | some x => failCore s c x (if x = .shapeMismatch then s.cores[c].pc else 0)
        | none =>
          match gangReady (presenting s c p) (clOf c) with
          | some ps => gangStep (presenting s c p) (clOf c) ps
          | none => gangWaits s c p) := rfl
  rw [whole, can, if_neg (by decide), if_neg (Nat.not_le.mpr room), check]

theorem prmg_waits (h : Ready s c) (check : gangCheck s c p.e.val p.src = none)
    (missing : ∃ q : CoreId, clOf q = clOf c ∧ q ≠ c ∧ s.cores[q].present = none) :
    ∃ t, exec (.prmg c p.e p.vd p.va p.src) s = .next t ∧ OnlyCore c s t ∧
      t.cores[c] = { s.cores[c] with present := some p, ag := { s.cores[c].ag with wait := some .gang } } := by
  obtain ⟨q, near, other, absent⟩ := missing
  have unready : gangReady (presenting s c p) (clOf c) = none := by
    cases e : gangReady (presenting s c p) (clOf c) with
    | none => rfl
    | some ps =>
      obtain ⟨keys, present⟩ := (gangReady_iff ..).mp e
      have named : q ∈ ps.map Prod.fst := by rw [keys, mem_coresOf]; exact near
      obtain ⟨b, hb, rfl⟩ := List.mem_map.mp named
      have shown := present b hb
      rw [presenting, modCore_other _ _ _ _ other, absent] at shown
      cases shown
  refine ⟨_, exec_prmg h check, ?_⟩
  have waits : gangWaits s c p =
      modCore (presenting s c p) c (fun x => { x with ag := { x.ag with wait := some .gang } }) := rfl
  rw [unready]
  dsimp only
  rw [waits]
  exact ⟨(OnlyCore.modCore s c _).after _, by rw [modCore_self, presenting, modCore_self]⟩

variable {ps : List (CoreId × Present)}

theorem prmg_mismatch (h : Ready s c) (check : gangCheck s c p.e.val p.src = none)
    (ready : gangReady (presenting s c p) (clOf c) = some ps) (differs : ∃ q ∈ ps, gangKey s q.1 q.2 ≠ gangKey s c p) :
    exec (.prmg c p.e p.vd p.va p.src) s = .next (failCluster (presenting s c p) (clOf c) .gangMismatch 0) := by
  obtain ⟨keys, present⟩ := (gangReady_iff ..).mp ready
  have own : (c, p) ∈ ps := by
    have named : c ∈ ps.map Prod.fst := by rw [keys, mem_coresOf]
    obtain ⟨⟨q, r⟩, hb, rfl⟩ := List.mem_map.mp named
    have shown := present _ hb
    rw [presenting, modCore_self] at shown
    cases shown
    exact hb
  rw [exec_prmg h check, ready]
  match ps with
  | [] => cases own
  | (c0, p0) :: rest =>
    have unlike : ((c0, p0) :: rest).all (fun q => decide (gangKey (presenting s c p) q.1 q.2 = gangKey (presenting s c p) c0 p0)) = false := by
      by_contra alike
      simp only [Bool.not_eq_false, List.all_eq_true, decide_eq_true_eq, presenting_base.key] at alike
      obtain ⟨q, hq, ne⟩ := differs
      exact ne ((alike q hq).trans (alike _ own).symm)
    simp only [gangStep, unlike, Bool.not_false, if_true]

/-- Route memory of the gang has no uncorrectable word. -/
def GangSound (s : State) (k : ClusterId) (src : GangSrc) : Prop :=
  ∀ g q, src = .route g → clOf q = k → HwFault.whiskUe k g ∉ s.hwf ∧ ∀ n : Fin 64, n.val / 2 = g.val → HwFault.routeUe q n ∉ s.hwf

/-- The state once the corrected errors of the gang's slots are counted. -/
def gangCorrected (s : State) (k : ClusterId) : GangSrc → State
  | .route g => gangSlotCe s k g
  | .map _ => s

theorem GangBase.ofCorrected (s : State) (k : ClusterId) (src : GangSrc) : GangBase k s (gangCorrected s k src) := by
  cases src with
  | route g => exact .ofSlotCe g
  | map d => exact ⟨rfl, fun _ => rfl, fun _ _ => rfl, rfl, fun _ _ => rfl⟩

theorem gangSlotUe_none {k : ClusterId} {g : Fin 32} (sound : GangSound s k (.route g)) : gangSlotUe s k g = none := by
  refine List.find?_eq_none.mpr fun q hq => ?_
  have ue := (sound g q rfl (mem_coresOf.mp hq)).2
  simpa using ⟨ue ⟨2 * g.val, by omega⟩ (by simp), ue ⟨2 * g.val + 1, by omega⟩ (by simp; omega)⟩

/-- Four cores that present alike, on sound route memory, issue together (R121, R130). -/
theorem gangStep_alike {k : ClusterId} (alike : ∀ q ∈ ps, gangKey s q.1 q.2 = gangKey s c p) (some : ps ≠ [])
    (sound : GangSound s k p.src) : gangStep s k ps = gangIssue (gangCorrected s k p.src) k ps p.src p.e.val := by
  match ps, some with
  | (c0, p0) :: rest, _ =>
    have head := alike _ (List.mem_cons_self)
    have same : ((c0, p0) :: rest).all (fun q => decide (gangKey s q.1 q.2 = gangKey s c0 p0)) = true := by
      simp only [List.all_eq_true, decide_eq_true_eq]
      exact fun q hq => (alike q hq).trans head.symm
    have src : p0.src = p.src := congrArg Prod.fst head
    have width : p0.e.val = p.e.val := congrArg (fun x => x.2.1) head
    simp only [gangStep, same, Bool.not_true, Bool.false_eq_true, if_false, src, width]
    cases e : p.src with
    | route g =>
      rw [e] at sound
      have whisk : s.hwf.contains (.whiskUe k g) = false := by
        simpa using (sound g (firstOf k) rfl (by simp only [clOf, firstOf, Fin.ext_iff]; omega)).1
      simp only [gangSlotUe_none sound, whisk, Bool.false_eq_true, if_false]
      rfl
    | map d => rfl

/-- The map of a gang whose cores present alike is its first core's and any other's (R130). -/
theorem firstOf_map {k : ClusterId} (keys : ps.map Prod.fst = coresOf k) (alike : ∀ q ∈ ps, gangKey s q.1 q.2 = gangKey s c p)
    {d : DReg} (src : p.src = .map d) : s.cores[firstOf k].d[d] = s.cores[c].d[d] := by
  have named : firstOf k ∈ ps.map Prod.fst := by rw [keys]; simp [coresOf, firstOf]
  obtain ⟨⟨q, r⟩, hb, rfl⟩ := List.mem_map.mp named
  have same := alike _ hb
  have src' : r.src = .map d := (congrArg Prod.fst same).trans src
  have map := congrArg (fun x => x.2.2) same
  simp only [gangKey, src, src'] at map
  exact Option.some.inj map

theorem gangBeats_length (k : ClusterId) (src : GangSrc) (e : Nat) (xs : List Bits) : (gangBeats s k src e xs).length = 4 := by
  cases src <;> simp [gangBeats, gangRoute, gangMap, coresOf, upto_eq_range]

/-- The state from which the gang issues. -/
theorem gangBase : GangBase (clOf c) s (gangCorrected (presenting s c p) (clOf c) p.src) :=
  presenting_base.trans (.ofCorrected ..)

theorem exec_prmg_alike (h : Ready s c) (check : gangCheck s c p.e.val p.src = none)
    (ready : gangReady (presenting s c p) (clOf c) = some ps) (alike : ∀ q ∈ ps, gangKey s q.1 q.2 = gangKey s c p)
    (sound : GangSound s (clOf c) p.src) : exec (.prmg c p.e p.vd p.va p.src) s =
      .next (gangIssue (gangCorrected (presenting s c p) (clOf c) p.src) (clOf c) ps p.src p.e.val) := by
  have filled : ps ≠ [] := by
    rintro rfl
    exact absurd ((gangReady_iff ..).mp ready).1 (by simp [coresOf])
  have alike' : ∀ q ∈ ps, gangKey (presenting s c p) q.1 q.2 = gangKey (presenting s c p) c p :=
    fun q hq => by rw [presenting_base.key, presenting_base.key]; exact alike q hq
  rw [exec_prmg h check, ready]
  exact congrArg _ (gangStep_alike alike' filled sound)

/-- The clauses of O13 on four PRMGs that agree. -/
theorem prmg_issues (h : Ready s c) (check : gangCheck s c p.e.val p.src = none)
    (ready : gangReady (presenting s c p) (clOf c) = some ps) (alike : ∀ q ∈ ps, gangKey s q.1 q.2 = gangKey s c p)
    (sound : GangSound s (clOf c) p.src) (lines : ∀ l, HwFault.gangLine (clOf c) l ∉ s.hwf) {ys : List Bits}
    (beats : gangBeats s (clOf c) p.src p.e.val (ps.map (fun q => (readV s q.1 q.2.va).1)) = ys)
    (sums : sumsAgree p.e.val 8192 (gangValue (ps.map (fun q => (readV s q.1 q.2.va).1))) (gangValue ys) = true) :
    let general := gangGeneral s c p.src
    ∃ t, exec (.prmg c p.e p.vd p.va p.src) s = .next t ∧
      (∀ (i : Fin 4) (q : CoreId) (r : Present), ps[i.val]? = some (q, r) →
        GangCore r (ys.getD i.val 0) (ps.any (fun q => (readV s q.1 q.2.va).2)) (if general then 4 else 2) s.cores[q] t.cores[q]) ∧
      t.cls[clOf c].gangPass = sat32 s.cls[clOf c].gangPass (if general then 2 else 1) ∧
      (∀ q : CoreId, clOf q ≠ clOf c → t.cores[q] = s.cores[q]) ∧
      (∀ k : ClusterId, k ≠ clOf c → t.cls[k] = s.cls[k]) ∧ t.mem = s.mem ∧ t.cnt = s.cnt ∧ t.rmt = s.rmt := by
  intro general
  have keys := ((gangReady_iff ..).mp ready).1
  have base : GangBase (clOf c) s (gangCorrected (presenting s c p) (clOf c) p.src) := gangBase
  have run := exec_prmg_alike h check ready alike sound
  generalize gangCorrected (presenting s c p) (clOf c) p.src = b at base run
  have whisk : b.cls[clOf c].whisk = s.cls[clOf c].whisk := by rw [base.cl]
  have descs (q : CoreId) : b.cores[q].d = s.cores[q].d := by rw [base.core]
  have beats' (xs) : gangBeats b (clOf c) p.src p.e.val xs = gangBeats s (clOf c) p.src p.e.val xs :=
    gangBeats_congr (fun q => by rw [base.core]) descs whisk p.src p.e.val xs
  have general' : gangGeneral b (firstOf (clOf c)) p.src = general := by
    cases e : p.src with
    | route g => simp only [general, e]; rfl
    | map d => simp only [general, e, gangGeneral, descs, firstOf_map keys alike e]
  have becomes := gangIssue_becomes (s := b) (src := p.src) (e := p.e.val) keys (by rw [base.frame]; exact lines)
  simp only [base.readV, beats', beats, general'] at becomes
  obtain ⟨frame, cls, cores, others⟩ := becomes sums (by rw [← beats]; exact gangBeats_length ..)
  refine ⟨_, run, fun i q r hi => ?_, ?_, fun q hq => ?_, fun j hj => ?_, ?_, ?_, ?_⟩
  · have inside : i.val < ys.length := by rw [← beats, gangBeats_length]; exact i.isLt
    have pair : (ps.zip ys)[i.val]? = some ((q, r), ys.getD i.val 0) :=
      List.getElem?_zip_eq_some.mpr ⟨hi, by rw [List.getD_eq_getElem?_getD, List.getElem?_eq_getElem inside]; rfl⟩
    have issued := cores _ (List.mem_of_getElem? pair)
    rw [base.core] at issued
    exact issued
  · rw [cls, base.cl]
    simp
  · rw [others q hq, base.others q hq]
  · rw [cls, ← base.cls j hj]
    simp [Ne.symm (Fin.val_ne_of_ne hj)]
  all_goals rw [frame, base.frame]

end Prmg

/-- Settles O13: PRM by the parts of a network use, and PRMG by the gang of four, whose cores change one after another. -/
theorem prmAndPrmg : Obligations.PrmAndPrmg := by
  refine ⟨fun s c e vd va src h check ue lines => ?_, fun s c p h check =>
    ⟨prmg_waits h check, fun ps ready => ⟨prmg_mismatch h check ready, fun alike sound lines => ?_⟩⟩⟩
  · intro k x y hit sums
    obtain ⟨t, run, issued⟩ := prm_issued (vd := vd) h check ue lines sums
    simp only [wroteV, passed, latched, Option.some.injEq] at issued
    exact ⟨t, run, issued⟩
  intro xs ys general sums
  refine prmg_issues h check ready alike (fun g q src near => sound g q src near) lines ?_ sums
  have keys := ((gangReady_iff ..).mp ready).1
  cases e : p.src with
  | route g => simp only [ys, e]; rfl
  | map d => simp only [ys, e, gangBeats, firstOf_map keys alike e, xs]

end Sys2Proof.Machine
end

section
set_option Elab.async false -- one proof after another: this bounds the memory that a check of the whole text takes
/-! PROOFS. CVT: the elements of one part converted in place (R68, R188). -/

namespace Sys2Proof.Machine

/-- A list with `ys` in place of its elements from `p` on. -/
theorem getD_splice {α : Type} {xs ys : List α} {p : Nat} (fits : p + ys.length ≤ xs.length) (j : Nat) (z : α) :
    (xs.take p ++ ys ++ xs.drop (p + ys.length)).getD j z =
      if j < p ∨ p + ys.length ≤ j then xs.getD j z else ys.getD (j - p) z := by
  have front : (xs.take p).length = p := by simp; omega
  simp only [List.getD_eq_getElem?_getD]
  by_cases low : j < p
  · rw [if_pos (.inl low), List.append_assoc, List.getElem?_append_left (by omega), List.getElem?_take_of_lt low]
  by_cases high : p + ys.length ≤ j
  · rw [if_pos (.inr high), List.getElem?_append_right (by simp; omega), List.getElem?_drop, List.length_append, front,
      show p + ys.length + (j - (p + ys.length)) = j by omega]
  · rw [if_neg (by omega), List.getElem?_append_left (by simp; omega), List.getElem?_append_right (by omega), front]

theorem toElems_length (w n x : Nat) : (toElems w n x).length = n := by simp [toElems, upto_eq_range]

theorem getD_toElems {w n j : Nat} (hj : j < n) (x : Nat) : (toElems w n x).getD j 0 = x / 2 ^ (w * j) % 2 ^ w := by
  rw [toElems, List.getD_eq_getElem?_getD, List.getElem?_map, upto_eq_range, List.getElem?_range hj]; rfl

theorem convertRun_length (sf df : Nat) (rtz sat : Bool) (x : Bits) (i0 n : Nat) :
    (convertRun sf df rtz sat x i0 n).length = n := by simp [convertRun, upto_eq_range]

theorem getD_convertRun {n i : Nat} (hi : i < n) (sf df : Nat) (rtz sat : Bool) (x : Bits) (i0 : Nat) :
    (convertRun sf df rtz sat x i0 n).getD i 0 = convertElem sf df rtz sat (elemAt (fmtWidth sf) x (i0 + i)) := by
  rw [convertRun, List.getD_eq_getElem?_getD, List.getElem?_map, upto_eq_range, List.getElem?_range hi]; rfl

/-- The elements of v_d after a CVT: the old ones, with the converted part in its place. -/
def cvtElems (sf df : Nat) (rtz sat : Bool) (ps pd n : Nat) (a old : Bits) : List Nat :=
  let wd := fmtWidth df
  let keep := toElems wd (2048 / wd) old.toNat
  keep.take (pd * n) ++ convertRun sf df rtz sat a (ps * n) n ++ keep.drop (pd * n + n)

theorem byteFormat_width {f : Nat} (h : f ≤ 8) : fmtWidth f = 8 ∨ fmtWidth f = 16 ∨ fmtWidth f = 32 := by
  unfold fmtWidth
  split
  · exact .inr (.inr rfl)
  split
  · exact .inr (.inl rfl)
  · exact .inl (if_pos (by omega))

/-- The part that a CVT writes lies in v_d. -/
theorem part_inside {ws wd pd : Nat} (hs : ws = 8 ∨ ws = 16 ∨ ws = 32) (hd : wd = 8 ∨ wd = 16 ∨ wd = 32)
    (part : pd * wd < max ws wd) : pd * (2048 / max ws wd) + 2048 / max ws wd ≤ 2048 / wd ∧ wd * (2048 / wd) = 2048 := by
  rcases hs with rfl | rfl | rfl <;> rcases hd with rfl | rfl | rfl <;> simp at part ⊢ <;> omega

theorem elemAt_cvtElems {sf df ps pd n : Nat} {a old : Bits} (rtz sat : Bool)
    (inside : pd * n + n ≤ 2048 / fmtWidth df) (fill : fmtWidth df * (2048 / fmtWidth df) = 2048) (j : Nat) :
    let x := BitVec.ofNat 2048 (ofElems (fmtWidth df) (cvtElems sf df rtz sat ps pd n a old))
    (j < n → elemAt (fmtWidth df) x (pd * n + j) =
      convertElem sf df rtz sat (elemAt (fmtWidth sf) a (ps * n + j)) % 2 ^ fmtWidth df) ∧
    (j < 2048 / fmtWidth df → j < pd * n ∨ pd * n + n ≤ j → elemAt (fmtWidth df) x j = elemAt (fmtWidth df) old j) := by
  intro x
  have len : (cvtElems sf df rtz sat ps pd n a old).length = 2048 / fmtWidth df := by
    simp [cvtElems, toElems_length, convertRun_length]; omega
  have splice (i : Nat) := getD_splice (xs := toElems (fmtWidth df) (2048 / fmtWidth df) old.toNat)
    (ys := convertRun sf df rtz sat a (ps * n) n) (p := pd * n) (by rw [toElems_length, convertRun_length]; exact inside) i 0
  simp only [convertRun_length] at splice
  have at_ (i : Nat) : elemAt (fmtWidth df) x i = (cvtElems sf df rtz sat ps pd n a old).getD i 0 % 2 ^ fmtWidth df :=
    elemAt_ofElems (by rw [len, fill]) i
  refine ⟨fun hj => ?_, fun hj out => ?_⟩
  · rw [at_, cvtElems, splice, if_neg (by omega), Nat.add_sub_cancel_left, getD_convertRun hj]
  · rw [at_, cvtElems, splice, if_pos out, getD_toElems hj, Nat.mod_mod]; rfl

theorem cvt_issued {s : State} {c : CoreId} (h : Ready s c) (vd va : VReg) (sf df : BitVec 5) (round sat : Bool)
    (ps pd : BitVec 2) (wide : 1 ≤ fmtWidth df.toNat) :
    let n := 2048 / max (fmtWidth sf.toNat) (fmtWidth df.toNat)
    ∃ t, exec (.cvt c vd va sf df round sat ps pd) s = .next t ∧ IssuedAs c s t (wroteV s.cores[c] vd
      (BitVec.ofNat 2048 (ofElems (fmtWidth df.toNat)
        (cvtElems sf.toNat df.toNat round sat ps.toNat pd.toNat n (readV s c va).1 (readV s c vd).1)))
      ((readV s c va).2 || (decide (n * fmtWidth df.toNat < 2048) && (readV s c vd).2))) := by
  intro n
  refine ⟨_, rfl, issueNext_modCore h _ (f := fun k => wroteV k vd (BitVec.ofNat 2048 (ofElems (fmtWidth df.toNat)
    (cvtElems sf.toNat df.toNat round sat ps.toNat pd.toNat n (readV s c va).1 (readV s c vd).1)))
    ((readV s c va).2 || (decide (n * fmtWidth df.toNat < 2048) && (readV s c vd).2))) ?_ rfl rfl⟩
  have outer : max 1 (max (fmtWidth sf.toNat) (fmtWidth df.toNat)) = max (fmtWidth sf.toNat) (fmtWidth df.toNat) := by omega
  simp only [outer, show max 1 (fmtWidth df.toNat) = fmtWidth df.toNat by omega, writeV_eq]
  rfl

/-- Settles O16: the elements of v_d after a CVT are the old ones with the converted part in its place. -/
theorem cvtConvertsItsElements : Obligations.CvtConvertsItsElements := by
  intro s c vd va sf df round sat ps pd h hs hd ws wd n _ part
  obtain ⟨inside, fill⟩ := part_inside (byteFormat_width hs) (byteFormat_width hd) part
  have wide : 1 ≤ fmtWidth df.toNat := by have := byteFormat_width hd; omega
  obtain ⟨t, run, issued⟩ := cvt_issued h vd va sf df round sat ps pd wide
  refine ⟨t, _, _, run, issued, fun i => (elemAt_cvtElems round sat inside fill i).1,
    fun j => (elemAt_cvtElems round sat inside fill j).2, ?_⟩
  simp only [Bool.or_eq_true, Bool.and_eq_true, decide_eq_true_eq]
  rfl

end Sys2Proof.Machine
end

section
set_option Elab.async false -- one proof after another: this bounds the memory that a check of the whole text takes
/-! PROOFS. Multi-beat instructions: what pushes and takes leave, and how a launched instruction goes on (R85, R87, R89). -/

namespace Sys2Proof.Machine

/-! ### What leaves the stores alone -/

theorem SameBytes.ofMem {s t : State} (h : t.mem = s.mem) : SameBytes s t := fun a => by rw [h]

theorem SameBytes.ofKeeps {s t : State} (h : KeepsStores s t) : SameBytes s t := fun a => h.readByte a

theorem SameBytes.trans {s t u : State} (h : SameBytes s t) (k : SameBytes t u) : SameBytes s u := fun a => (k a).trans (h a)

@[simp] theorem checkParity_mem (s : State) (c : Ctr) : (checkParity s c).mem = s.mem := by rw [checkParity_eq]

@[simp] theorem incCtrBy_mem (s : State) (p : Part) (loc : Nat) (c : Ctr) (a : Word) (b : Bool) :
    (incCtrBy s p loc c a b).mem = s.mem := by rw [incCtrBy_eq]

@[simp] theorem poisonCtrs_mem : ∀ (cs : List Ctr) (s : State), (poisonCtrs s cs).mem = s.mem
  | [], _ => rfl
  | c :: r, s => poisonCtrs_mem r (poisonCtr s c)

@[simp] theorem abortTask_mem (s : State) (p : Part) : (abortTask s p).mem = s.mem := by
  unfold abortTask
  dsimp only [modPart, absorb, dropLadle]
  rw [poisonCtrs_mem]

@[simp] theorem fenceCore_mem (s : State) (c : CoreId) : (fenceCore s c).mem = s.mem := abortTask_mem ..

@[simp] theorem failCore_mem (s : State) (c : CoreId) (e : Err) (d : Nat) : (failCore s c e d).mem = s.mem := by
  rw [failCore, fenceCore_mem, logRun_mem]

@[simp] theorem progress_mem (s : State) (c : CoreId) : (progress s (.core c)).mem = s.mem := by rw [(progress_core s c).1.1]

@[simp] theorem progress_cnt (s : State) (c : CoreId) : (progress s (.core c)).cnt = s.cnt := by rw [(progress_core s c).1.1]

/-! ### A contained error stays due -/

theorem poisonCtrs_cores : ∀ (cs : List Ctr) (s : State), (poisonCtrs s cs).cores = s.cores
  | [], _ => rfl
  | c :: r, s => poisonCtrs_cores r (poisonCtr s c)

/-- A task abort leaves each core of the unit as it was, or stopped (R381). -/
theorem abortTask_core (s : State) (p : Part) (c : CoreId) :
    (abortTask s p).cores[c] = if sameTask s p (corePart c) then stopCore s.cores[c] else s.cores[c] := by
  have cores : (abortTask s p).cores = s.cores.mapFinIdx (fun i x h => if sameTask s p (corePart ⟨i, h⟩) then stopCore x else x) := by
    unfold abortTask
    dsimp only [modPart, absorb, dropLadle]
    rw [poisonCtrs_cores]
    rfl
  rw [cores, Fin.getElem_fin, Vector.getElem_mapFinIdx]
  rfl

theorem failCore_errDue (s : State) (c : CoreId) (e : Err) (d : Nat) : (failCore s c e d).cores[c].errDue = true := by
  rw [failCore, fenceCore, abortTask_core, modCore_self]
  split <;> rfl

/-! ### Pushes -/

/-- What pushes may do: no byte changes, and unless a contained error ends them, of their core only the store queue and
the store position change (R89). -/
structure Pushed (c : CoreId) (s t : State) : Prop where
  mem : t.mem = s.mem
  core : t.cores[c].errDue = false → s.cores[c].errDue = false ∧ t.cores[c] = { s.cores[c] with
    sq := t.cores[c].sq, storePos := t.cores[c].storePos, feedPos := t.cores[c].feedPos, storeDesc := t.cores[c].storeDesc }
  others : t.cores[c].errDue = false → t = { s with
    cores := t.cores, cnt := t.cnt, cntPar := t.cntPar, err := t.err, u := t.u, mov := t.mov } ∧
    ∀ q : CoreId, q ≠ c → t.cores[q] = s.cores[q]

namespace Pushed

variable {c : CoreId} {s t u : State}

theorem refl (c : CoreId) (s : State) : Pushed c s s := ⟨rfl, fun h => ⟨h, rfl⟩, fun _ => ⟨rfl, fun _ _ => rfl⟩⟩

theorem trans (h : Pushed c s t) (k : Pushed c t u) : Pushed c s u where
  mem := by rw [k.mem, h.mem]
  core e := by
    obtain ⟨e', core⟩ := k.core e
    obtain ⟨e'', core'⟩ := h.core e'
    exact ⟨e'', by rw [core, core']⟩
  others e := by
    obtain ⟨frame, others⟩ := k.others e
    obtain ⟨frame', others'⟩ := h.others (k.core e).1
    exact ⟨by rw [frame, frame'], fun q hq => by rw [others q hq, others' q hq]⟩

/-- Nothing of the core changes. -/
theorem ofSoft (h : t = { s with cnt := t.cnt, cntPar := t.cntPar, err := t.err, u := t.u, mov := t.mov }) : Pushed c s t where
  mem := by rw [h]
  core e := by rw [h] at e ⊢; exact ⟨e, rfl⟩
  others _ := ⟨by rw [h], fun _ _ => by rw [h]⟩

theorem ofFail (e : Err) (d : Nat) : Pushed c s (failCore s c e d) where
  mem := failCore_mem ..
  core h := by rw [failCore_errDue] at h; cases h
  others h := by rw [failCore_errDue] at h; cases h

theorem ofCore (f : Core → Core) (h : ∀ x, f x = { x with
    sq := (f x).sq, storePos := (f x).storePos, feedPos := (f x).feedPos, storeDesc := (f x).storeDesc }) :
    Pushed c s (modCore s c f) where
  mem := rfl
  core e := by
    rw [modCore_self] at e ⊢
    exact ⟨by rw [h] at e; exact e, h _⟩
  others _ := ⟨rfl, fun q hq => modCore_other _ _ _ _ hq⟩

end Pushed

theorem askCredit_soft (s : State) (p : Part) (loc : Nat) (e : BitVec 256) : (askCredit s p loc e).1 = { s with
    cnt := (askCredit s p loc e).1.cnt, cntPar := (askCredit s p loc e).1.cntPar, err := (askCredit s p loc e).1.err
    u := (askCredit s p loc e).1.u, mov := (askCredit s p loc e).1.mov } := by
  unfold askCredit
  split
  · rfl
  split
  · rw [logRun, logAt_eq]
  · dsimp only; rw [checkParity_eq]

theorem storeCredit_pushed (s : State) (c : CoreId) : Pushed c s (storeCredit s c).1 := by
  unfold storeCredit
  split
  · exact .refl c s
  split
  · exact .refl c s
  · exact .ofSoft (askCredit_soft ..)

theorem readEntry_soft (s : State) (i : Nat) : (readEntry s i).1 = { s with mov := (readEntry s i).1.mov } := by
  unfold readEntry
  dsimp only
  split
  · rfl
  split <;> rfl

theorem startStore_pushed (s : State) (c : CoreId) (l : ListRef) : Pushed c s (startStore s c l).1 := by
  unfold startStore
  dsimp only
  split
  · have soft := readEntry_soft s (l.first + s.cores[c].storePos.block)
    have read : Pushed c s (readEntry s (l.first + s.cores[c].storePos.block)).1 := .ofSoft (by rw [soft])
    split
    · rename_i r eq; rw [eq] at read; exact read.trans (.ofFail _ _)
    · rename_i r e eq; rw [eq] at read
      split
      · exact read.trans (.ofFail _ _)
      · refine read.trans (.ofSoft ?_)
        unfold takeCredit; split <;> rfl
  · exact .refl c s

theorem pushList_pushed (s : State) (c : CoreId) (x : Bits) (psn : Bool) : Pushed c s (pushList s c x psn) := by
  unfold pushList
  split
  · exact .refl c s
  · rename_i l _
    have start := startStore_pushed s c l
    split <;> rename_i eq <;> rw [eq] at start
    · exact start
    · exact start.trans (.ofCore _ fun _ => rfl)

theorem pushBeat_pushed (s : State) (c : CoreId) : ∀ p : SqPush, Pushed c s (pushBeat s c p)
  | .list x psn => pushList_pushed s c x psn
  | .own e => .ofCore (s := s) (c := c) (fun k => { k with sq := k.sq ++ [e] }) fun _ => rfl

theorem pushSome_pushed (c : CoreId) : ∀ (l : List SqPush) (s : State), Pushed c s (pushSome c l s).1
  | [], s => .refl c s
  | p :: r, s => by
    unfold pushSome
    split
    · exact .refl c s
    split
    · exact .refl c s
    · cases p with
      | list x psn =>
        dsimp only
        split
        · exact ((storeCredit_pushed s c).trans (pushBeat_pushed _ c _)).trans (pushSome_pushed c r _)
        · exact storeCredit_pushed s c
      | own e => exact (pushBeat_pushed s c _).trans (pushSome_pushed c r _)

end Sys2Proof.Machine
end

section
set_option Elab.async false -- one proof after another: this bounds the memory that a check of the whole text takes
/-! PROOFS. How a launched instruction goes on: its pushes, the beats it takes, its end (R85, R87, R89). -/

namespace Sys2Proof.Machine

/-! ### Small facts -/

theorem sat32_zero (x : Word) : sat32 x 0 = x := by
  unfold sat32
  rw [if_pos (by have := x.isLt; omega)]
  simp

theorem sat32_sat32 (x : Word) (m n : Nat) : sat32 (sat32 x m) n = sat32 x (m + n) := by
  have top : (0xFFFFFFFF#32).toNat = 2 ^ 32 - 1 := rfl
  unfold sat32
  by_cases h : x.toNat + m < 2 ^ 32
  · simp only [h, if_true, BitVec.toNat_ofNat, Nat.mod_eq_of_lt h, Nat.add_assoc]
  · rw [if_neg h, if_neg (show ¬x.toNat + (m + n) < 2 ^ 32 by omega)]
    by_cases z : n = 0
    · subst z; rw [if_pos (by rw [top]; decide)]; rfl
    · rw [if_neg (by rw [top]; omega)]

theorem countEv_countEv (s : State) (e : PwrEv) (m n : Nat) : countEv (countEv s e m) e n = countEv s e (m + n) := by
  unfold countEv
  simp [Nat.add_assoc]

theorem countEv_zero (s : State) (e : PwrEv) : countEv s e 0 = s := by
  unfold countEv
  simp

/-- Registers written one after another are one change of the core. -/
theorem writeRun_eq (s : State) (c : CoreId) (a : VReg) (xs : List (Bits × Bool)) :
    writeRun s c a xs = modCore s c (fun k => wroteRun k a xs) := by
  have h : ∀ (l : List ((Bits × Bool) × Nat)) (s : State),
      l.foldl (fun s p => writeV s c (vPlus a p.2) p.1.1 p.1.2) s =
        modCore s c (fun k => l.foldl (fun k p => wroteV k (vPlus a p.2) p.1.1 p.1.2) k) := by
    intro l
    induction l with
    | nil => exact fun s => (modCore_id s c _ rfl).symm
    | cons p r ih =>
      intro s
      rw [List.foldl_cons, ih, writeV_eq, modCore_modCore]
      rfl
  exact h _ s

theorem wroteRun_keeps (k : Core) (a : VReg) (xs : List (Bits × Bool)) :
    wroteRun k a xs = { k with v := (wroteRun k a xs).v, latch := (wroteRun k a xs).latch } := by
  have h : ∀ (l : List ((Bits × Bool) × Nat)) (k : Core),
      let z := l.foldl (fun k p => wroteV k (vPlus a p.2) p.1.1 p.1.2) k
      z = { k with v := z.v, latch := z.latch } := by
    intro l
    induction l with
    | nil => exact fun k => rfl
    | cons p r ih => exact fun k => (ih (wroteV k (vPlus a p.2) p.1.1 p.1.2)).trans rfl
  exact h _ k

/-- An instruction has issued: its core, and nothing else but domains that woke. -/
theorem retire_core (s : State) (c : CoreId) (n : Nat) : OnlyCore c s (retire s c n) ∧ (retire s c n).cores[c] =
    { s.cores[c] with pc := min 2048 (s.cores[c].pc + n), ag := { s.cores[c].ag with progressed := true, wait := none } } := by
  obtain ⟨only, core⟩ := progress_core (modCore s c fun x => { x with pc := min 2048 (x.pc + n) }) c
  exact ⟨only.before, by unfold retire; rw [core, modCore_self]⟩

/-! ### A core that has made progress in this cycle -/

/-- Progress of the core changes nothing any more. -/
def Settled (s : State) (c : CoreId) : Prop := progress s (.core c) = s

theorem Settled.eq {s : State} {c : CoreId} (h : Settled s c) : progress s (.core c) = s := h

namespace Settled

variable {s : State} {c : CoreId}

theorem ofProgress (s : State) (c : CoreId) : Settled (progress s (.core c)) c := progress_progress s c

theorem ofRetire (s : State) (c : CoreId) (n : Nat) : Settled (retire s c n) c := ofProgress _ c

theorem modCore (h : Settled s c) (f : Core → Core) (keeps : ∀ (x : Core) (g : AgentSt), f { x with ag := g } = { f x with ag := g })
    (ag : ∀ x, (f x).ag = x.ag) : Settled (modCore s c f) c := by
  unfold Settled
  rw [progress_modCore s c f keeps ag, h]

theorem countEv (h : Settled s c) (e : PwrEv) (n : Nat) : Settled (countEv s e n) c := by
  have touch (s : State) (d : DomId) : touchDom (Machine.countEv s e n) d = Machine.countEv (touchDom s d) e n := by
    unfold touchDom
    have dom : (Machine.countEv s e n).pwr.dom = s.pwr.dom := rfl
    rw [dom]
    split <;> rfl
  unfold Settled at h ⊢
  rw [progress_eq] at h ⊢
  rw [← countEv_modCore]
  simp only [touchAg, touch] at h ⊢
  rw [h]

end Settled

/-! ### What is left of a launched instruction -/

/-- What a core that runs keeps of an instruction in progress. -/
def keepProg (c : CoreId) (q : State × Option Prog) : State :=
  match q.2 with
  | some p => if q.1.cores[c].st = .run then modCore q.1 c (fun x => { x with prog := x.prog ++ [p] }) else q.1
  | none => q.1

/-- An instruction of core `c` goes on from issue. -/
theorem launch_goes {s : State} {c : CoreId} {adv : State → State} (p : Prog) (n : Nat)
    (idle : (adv s).cores[c].prog = []) (runs : (adv s).cores[c].st = .run) :
    launch s c p n adv = keepProg c (runProg c (p.need + 3) p (retire (adv s) c n)) := launch_eq p n idle runs

/-! ### Pushes of entries with their own addresses -/

/-- The core with the entries pushed that its store queue has room for. -/
def pushedOwn (es : List SqEntry) (k : Core) : Core := { k with sq := k.sq ++ es.take (room k) }

/-- The beats that a TRD reads are counted when they are pushed (R149). -/
def pushCounted (c : CoreId) (i : Instr) (n : Nat) (s : State) : State := match i with | .trd .. => countBeats s c n | _ => s

theorem pushCounted_core (c : CoreId) (i : Instr) (n : Nat) (s : State) : (pushCounted c i n s).cores[c] =
    { s.cores[c] with trvBeat := (pushCounted c i n s).cores[c].trvBeat } := by
  unfold pushCounted
  split
  · rw [countBeats, countEv_modCore, modCore_self]; rfl
  · rfl

theorem progPush_eq (c : CoreId) (p : Prog) (s : State) : progPush c p s =
    (let q := pushSome c p.out s
     let n := p.out.length - q.2.length
     (pushCounted c p.cmd n (if n = 0 then q.1 else progress q.1 (.core c)), { p with out := q.2 })) := rfl

/-- Beats of an instruction that are entries with their own addresses are pushed while there is room (R89). -/
theorem progPush_own {s : State} {c : CoreId} {p : Prog} {es : List SqEntry} (sound : s.cores[c].errDue = false)
    (settled : Settled s c) (out : p.out = es.map .own) : progPush c p s =
      (pushCounted c p.cmd (es.take (room s.cores[c])).length (modCore s c (pushedOwn es)),
        { p with out := (es.drop (room s.cores[c])).map .own }) := by
  have pushes := pushSome_own c es s sound
  have state : modCore s c (fun x => { x with sq := x.sq ++ es.take (room s.cores[c]) }) = modCore s c (pushedOwn es) :=
    modCore_congr rfl
  have count : (es.map SqPush.own).length - ((es.drop (room s.cores[c])).map SqPush.own).length
      = (es.take (room s.cores[c])).length := by simp; omega
  have still : Settled (modCore s c (pushedOwn es)) c := settled.modCore _ (fun _ _ => rfl) fun _ => rfl
  rw [progPush_eq, out, pushes]
  dsimp only
  rw [count, state, still, ite_self]

/-- A launched instruction whose beats are entries with their own addresses: they are pushed while there is room, and it
completes when none is left (R87, R89). -/
theorem launch_own {s : State} {c : CoreId} {adv : State → State} {p : Prog} {es : List SqEntry} (n : Nat)
    (idle : (adv s).cores[c].prog = []) (runs : (adv s).cores[c].st = .run) (sound : (adv s).cores[c].errDue = false)
    (out : p.out = es.map .own) (free : p.ladle = false) (fed : p.need = 0) :
    let m := (es.take (room (adv s).cores[c])).length
    let u := pushCounted c p.cmd m (modCore (retire (adv s) c n) c (pushedOwn es))
    launch s c p n adv =
      if es.length ≤ room (adv s).cores[c] then progFinish c { p with out := [] } u
      else modCore u c (fun x => { x with prog := x.prog ++ [{ p with out := (es.drop (room (adv s).cores[c])).map .own }] }) := by
  intro m u
  have core := (retire_core (adv s) c n).2
  have sound' : (retire (adv s) c n).cores[c].errDue = false := by rw [core]; exact sound
  have room' : room (retire (adv s) c n).cores[c] = room (adv s).cores[c] := by rw [core]; rfl
  have push : progPush c p (retire (adv s) c n) = (u, { p with out := (es.drop (room (adv s).cores[c])).map .own }) := by
    have h := progPush_own (p := p) sound' (.ofRetire (adv s) c n) out
    rw [room'] at h; exact h
  have sound'' : u.cores[c].errDue = false := by rw [pushCounted_core, modCore_self, core]; exact sound
  have runs'' : u.cores[c].st = .run := by rw [pushCounted_core, modCore_self, core]; exact runs
  clear_value u
  rw [launch_goes p n idle runs, show p.need + 3 = 2 + 1 by rw [fed], runProg, push]
  simp only [sound'', Bool.false_eq_true, if_false]
  by_cases fits : es.length ≤ room (adv s).cores[c]
  · have none_left : es.drop (room (adv s).cores[c]) = [] := List.drop_eq_nil_of_le fits
    simp only [none_left, List.map_nil, List.isEmpty_nil, Bool.not_true, Bool.false_eq_true, if_false, free, fed, if_true, fits,
      keepProg]
  · have some_left : (es.drop (room (adv s).cores[c])).map SqPush.own ≠ [] := by
      simp only [ne_eq, List.map_eq_nil_iff, List.drop_eq_nil_iff]; exact fits
    have left : (!((es.drop (room (adv s).cores[c])).map SqPush.own).isEmpty) = true := by
      simpa using some_left
    simp only [left, if_true, fits, if_false, keepProg, runs'']

/-! ### Beats taken from the load queue -/

/-- An instruction that keeps the beats it takes for its end. -/
def Collects : Instr → Prop
  | .twr .. | .unpk .. | .sct .. => True
  | _ => False

/-- The rows that a TWR takes are counted (R149). -/
def rowsTaken (c : CoreId) (i : Instr) (n : Nat) (s : State) : State := match i with | .twr .. => countRows s c n | _ => s

theorem countRows_eq (s : State) (c : CoreId) (n : Nat) :
    countRows s c n = modCore (countEv s .trvRow n) c (fun k => { k with trvRow := sat32 k.trvRow n }) := rfl

theorem rowsTaken_cases (c : CoreId) (i : Instr) :
    (∀ n s, rowsTaken c i n s = countRows s c n) ∨ ∀ n s, rowsTaken c i n s = s := by
  unfold rowsTaken
  split
  · exact .inl fun _ _ => rfl
  · exact .inr fun _ _ => rfl

theorem rowsTaken_zero (c : CoreId) (i : Instr) (s : State) : rowsTaken c i 0 s = s := by
  rcases rowsTaken_cases c i with h | h <;> rw [h]
  rw [countRows_eq, countEv_zero, modCore_id _ _ _ (by rw [sat32_zero])]

/-- Rows counted before and after a change of the load queue. -/
theorem rowsTaken_add (c : CoreId) (i : Instr) (m n : Nat) (xs ys : List LqBeat) (s : State) :
    rowsTaken c i n (modCore (rowsTaken c i m (modCore s c (fun k => { k with lq := xs }))) c (fun k => { k with lq := ys })) =
      rowsTaken c i (m + n) (modCore s c (fun k => { k with lq := ys })) := by
  rcases rowsTaken_cases c i with h | h <;> simp only [h, modCore_modCore]
  simp only [countRows_eq, countEv_modCore, modCore_modCore, countEv_countEv, sat32_sat32]

theorem progFeed_collects {p : Prog} (h : Collects p.cmd) (c : CoreId) (s : State) (b : Bits × Bool) :
    progFeed c p s b = (rowsTaken c p.cmd 1 s, some { p with need := p.need - 1, got := p.got ++ [b] }) := by
  unfold progFeed
  split
  · rename_i e; rw [e] at h; exact h.elim
  · rename_i e; rw [e]; rfl
  · rename_i other
    have uncounted : rowsTaken c p.cmd 1 s = s := by
      unfold rowsTaken
      split
      · rename_i e; exact (other _ _ _ _ _ _ e).elim
      · rfl
    rw [uncounted]

theorem pushCounted_collects {i : Instr} (h : Collects i) (c : CoreId) (n : Nat) (s : State) : pushCounted c i n s = s := by
  unfold pushCounted
  split
  · exact h.elim
  · rfl

theorem rowsTaken_core (c : CoreId) (i : Instr) (n : Nat) (s : State) : (rowsTaken c i n s).cores[c] =
    { s.cores[c] with trvRow := (rowsTaken c i n s).cores[c].trvRow } := by
  rcases rowsTaken_cases c i with h | h <;> rw [h]
  rw [countRows_eq, modCore_self]
  rfl

theorem Settled.rowsTaken {s : State} {c : CoreId} (h : Settled s c) (i : Instr) (n : Nat) : Settled (rowsTaken c i n s) c := by
  rcases rowsTaken_cases c i with e | e <;> rw [e]
  · rw [countRows_eq]
    exact (h.countEv _ _).modCore _ (fun _ _ => rfl) fun _ => rfl
  · exact h

theorem progPush_none {p : Prog} (kind : Collects p.cmd) (out : p.out = []) (c : CoreId) (s : State) : progPush c p s = (s, p) := by
  have nothing : pushSome c p.out s = (s, []) := by rw [out, pushSome]
  have count : p.out.length - ([] : List SqPush).length = 0 := by rw [out]; rfl
  rw [progPush_eq, nothing]
  dsimp only
  rw [count, if_pos rfl, pushCounted_collects kind, ← out]

/-- With nothing to push and no Ladle to wait for, an instruction that collects takes the next beat (R85, R87). -/
theorem runProg_takes_one {c : CoreId} {p : Prog} {s : State} {b : LqBeat} {r : List LqBeat} (kind : Collects p.cmd)
    (takes : p.needs.takes = true) (out : p.out = []) (free : p.ladle = false) (more : p.need ≠ 0)
    (sound : s.cores[c].errDue = false) (settled : Settled s c) (queue : s.cores[c].lq = b :: r) (plain : b.inc = none) (n : Nat) :
    runProg c (n + 1) p s = runProg c n { p with need := p.need - 1, got := p.got ++ [(b.data, b.psn)] }
      (rowsTaken c p.cmd 1 (modCore s c (fun k => { k with lq := r }))) := by
  have push := progPush_none kind out c s
  have take : progTake c p s = (modCore s c (fun k => { k with lq := r }), b.data, b.psn) := by
    rw [progTake, if_pos takes, popLq_cons queue, plain, releaseInc]
  have done : (!p.out.isEmpty) = false := by rw [out]; rfl
  have filled : (p.needs.takes && s.cores[c].lq.isEmpty) = false := by rw [queue]; simp
  rw [runProg, push]
  dsimp only
  rw [sound, if_neg Bool.false_ne_true, done, if_neg Bool.false_ne_true, free, if_neg Bool.false_ne_true, if_neg more, filled,
    if_neg Bool.false_ne_true, settled.eq, take, progFeed_collects kind]
  dsimp only
  rw [free]

/-- The instruction, with the beats `xs` taken. -/
def fedWith (p : Prog) (xs : List LqBeat) : Prog :=
  { p with need := p.need - xs.length, got := p.got ++ xs.map (fun b => (b.data, b.psn)) }

theorem fedWith_cons (p : Prog) (b : LqBeat) (r : List LqBeat) : fedWith (fedWith p [b]) r = fedWith p (b :: r) := by
  simp only [fedWith, List.length_cons, List.length_nil, List.map_cons, List.map_nil, List.append_assoc, List.singleton_append,
    Nat.sub_sub, Nat.add_comm]

/-- The instruction takes the beats `xs` one after another. -/
theorem runProg_takes {c : CoreId} {xs ys : List LqBeat} {p : Prog} {s : State} (kind : Collects p.cmd)
    (takes : p.needs.takes = true) (out : p.out = []) (free : p.ladle = false) (room : xs.length ≤ p.need)
    (sound : s.cores[c].errDue = false) (settled : Settled s c) (queue : s.cores[c].lq = xs ++ ys)
    (plain : ∀ b ∈ xs, b.inc = none) (n : Nat) : runProg c (xs.length + n) p s = runProg c n (fedWith p xs)
      (rowsTaken c p.cmd xs.length (modCore s c (fun k => { k with lq := ys }))) := by
  induction xs generalizing p s with
  | nil =>
    have same : modCore s c (fun k => { k with lq := ys }) = s := modCore_id s c _ (by rw [← List.nil_append ys, ← queue])
    have none : fedWith p [] = p := by rw [fedWith, List.map_nil, List.append_nil]; rfl
    rw [List.length_nil, Nat.zero_add, rowsTaken_zero, same, none]
  | cons b r ih =>
    let u := rowsTaken c p.cmd 1 (modCore s c (fun k => { k with lq := r ++ ys }))
    have more : p.need ≠ 0 := by have := List.length_cons (a := b) (as := r); omega
    have core : u.cores[c].errDue = false ∧ u.cores[c].lq = r ++ ys := by
      rw [rowsTaken_core, modCore_self]; exact ⟨sound, rfl⟩
    have settled' : Settled u c := 
      (settled.modCore (fun k => { k with lq := r ++ ys }) (fun _ _ => rfl) fun _ => rfl).rowsTaken p.cmd 1
    have room' : r.length ≤ (fedWith p [b]).need := by
      simp only [List.length_cons] at room
      show r.length ≤ p.need - 1
      omega
    have one := runProg_takes_one kind takes out free more sound settled queue (plain b (by simp)) (r.length + n)
    have rest := ih (p := fedWith p [b]) (s := u) kind takes out free room' core.1 settled' core.2
      (fun x hx => plain x (by simp [hx]))
    rw [show (b :: r).length + n = r.length + n + 1 by simp only [List.length_cons]; omega, one]
    refine rest.trans ?_
    rw [fedWith_cons]
    show runProg c n _ (rowsTaken c p.cmd r.length (modCore u c _)) = _
    rw [rowsTaken_add, List.length_cons, Nat.add_comm 1]

section Takes

variable {c : CoreId} {s : State} {adv : State → State} {p : Prog} {xs ys : List LqBeat} (n : Nat)

/-- A launched instruction that collects takes the beats `xs` that wait for it (R85, R87). -/
theorem launch_takes (idle : (adv s).cores[c].prog = []) (runs : (adv s).cores[c].st = .run)
    (sound : (adv s).cores[c].errDue = false) (kind : Collects p.cmd) (takes : p.needs.takes = true) (out : p.out = [])
    (free : p.ladle = false) (queue : (adv s).cores[c].lq = xs ++ ys) (plain : ∀ b ∈ xs, b.inc = none) (room : xs.length ≤ p.need) :
    launch s c p n adv = keepProg c (runProg c (p.need - xs.length + 3) (fedWith p xs)
      (rowsTaken c p.cmd xs.length (modCore (retire (adv s) c n) c (fun k => { k with lq := ys })))) := by
  have core := (retire_core (adv s) c n).2
  have sound' : (retire (adv s) c n).cores[c].errDue = false := by rw [core]; exact sound
  have queue' : (retire (adv s) c n).cores[c].lq = xs ++ ys := by rw [core]; exact queue
  rw [launch_goes p n idle runs, show p.need + 3 = xs.length + (p.need - xs.length + 3) by omega,
    runProg_takes kind takes out free room sound' (.ofRetire ..) queue' plain]

/-- With all its beats it ends (R87). -/
theorem launch_takes_all (idle : (adv s).cores[c].prog = []) (runs : (adv s).cores[c].st = .run)
    (sound : (adv s).cores[c].errDue = false) (kind : Collects p.cmd) (takes : p.needs.takes = true) (out : p.out = [])
    (free : p.ladle = false) (queue : (adv s).cores[c].lq = xs ++ ys) (plain : ∀ b ∈ xs, b.inc = none) (all : xs.length = p.need) :
    launch s c p n adv = progFinish c (fedWith p xs)
      (rowsTaken c p.cmd xs.length (modCore (retire (adv s) c n) c (fun k => { k with lq := ys }))) := by
  let u := rowsTaken c p.cmd xs.length (modCore (retire (adv s) c n) c (fun k => { k with lq := ys }))
  have sound' : u.cores[c].errDue = false := by rw [rowsTaken_core, modCore_self, (retire_core (adv s) c n).2]; exact sound
  have push := progPush_none (p := fedWith p xs) kind out c u
  rw [launch_takes n idle runs sound kind takes out free queue plain all.le, runProg, push]
  dsimp only
  rw [sound', if_neg Bool.false_ne_true, show (!(fedWith p xs).out.isEmpty) = false by rw [fedWith, out]; rfl,
    if_neg Bool.false_ne_true, show (fedWith p xs).ladle = false from free, if_neg Bool.false_ne_true,
    if_pos (show (fedWith p xs).need = 0 by rw [fedWith, all]; exact Nat.sub_self _)]
  rfl

/-- With fewer it takes those that have come, and waits in progress for the others (R85, R87). -/
theorem launch_takes_some (idle : (adv s).cores[c].prog = []) (runs : (adv s).cores[c].st = .run)
    (sound : (adv s).cores[c].errDue = false) (kind : Collects p.cmd) (takes : p.needs.takes = true) (out : p.out = [])
    (free : p.ladle = false) (queue : (adv s).cores[c].lq = xs) (plain : ∀ b ∈ xs, b.inc = none) (few : xs.length < p.need) :
    launch s c p n adv =
      modCore (rowsTaken c p.cmd xs.length (modCore (retire (adv s) c n) c (fun k => { k with lq := [] }))) c
        (fun k => { k with prog := k.prog ++ [fedWith p xs] }) := by
  let u := rowsTaken c p.cmd xs.length (modCore (retire (adv s) c n) c (fun k => { k with lq := [] }))
  have core : u.cores[c].errDue = false ∧ u.cores[c].st = .run ∧ u.cores[c].lq = [] := by
    rw [rowsTaken_core, modCore_self, (retire_core (adv s) c n).2]; exact ⟨sound, runs, rfl⟩
  obtain ⟨sound', runs', empty⟩ := core
  have push := progPush_none (p := fedWith p xs) kind out c u
  have queue' : (adv s).cores[c].lq = xs ++ [] := by rw [queue, List.append_nil]
  rw [launch_takes n idle runs sound kind takes out free queue' plain few.le, runProg, push]
  dsimp only
  rw [sound', if_neg Bool.false_ne_true, show (!(fedWith p xs).out.isEmpty) = false by rw [fedWith, out]; rfl,
    if_neg Bool.false_ne_true, show (fedWith p xs).ladle = false from free, if_neg Bool.false_ne_true,
    if_neg (show (fedWith p xs).need ≠ 0 from Nat.sub_ne_zero_of_lt few),
    if_pos (show ((fedWith p xs).needs.takes && u.cores[c].lq.isEmpty) = true by rw [empty, List.isEmpty_nil, Bool.and_true]; exact takes)]
  exact if_pos runs'

end Takes

end Sys2Proof.Machine
end

section
set_option Elab.async false -- one proof after another: this bounds the memory that a check of the whole text takes
/-! PROOFS. Trivets: TREL, and the register, memory and queue forms of TWR and TRD (R98, R99, R140 to R146, R187). -/

namespace Sys2Proof.Machine

/-! ### Changes of cores and of the power counts alone -/

/-- Nothing but cores and the power block changed. -/
def Inside (s t : State) : Prop := t = { s with cores := t.cores, pwr := t.pwr }

namespace Inside

variable {s t u : State}

theorem refl (s : State) : Inside s s := rfl

theorem trans (h : Inside s t) (k : Inside t u) : Inside s u := by
  unfold Inside at *
  rw [k, h]

theorem mem (h : Inside s t) : t.mem = s.mem := by rw [h]
theorem cnt (h : Inside s t) : t.cnt = s.cnt := by rw [h]
theorem xb (h : Inside s t) : t.xb = s.xb := by rw [h]
theorem cls (h : Inside s t) : t.cls = s.cls := by rw [h]

theorem ofModCore (s : State) (c : CoreId) (f : Core → Core) : Inside s (modCore s c f) := rfl
theorem ofCountEv (s : State) (e : PwrEv) (n : Nat) : Inside s (countEv s e n) := rfl
theorem ofRetire (s : State) (c : CoreId) (n : Nat) : Inside s (retire s c n) := (retire_core s c n).1.1

theorem ofPushCounted (c : CoreId) (i : Instr) (n : Nat) (s : State) : Inside s (pushCounted c i n s) := by
  unfold pushCounted
  split <;> rfl

theorem ofRowsTaken (c : CoreId) (i : Instr) (n : Nat) (s : State) : Inside s (rowsTaken c i n s) := by
  rcases rowsTaken_cases c i with h | h <;> rw [h]
  · rfl
  · exact .refl s

end Inside

theorem IssuedAs.inside {c : CoreId} {s t : State} {x : Core} (h : IssuedAs c s t x) : Inside s t := h.1.1

/-! ### What the instructions check, and registers of a run -/

theorem advanced_keeps (k : Core) (adv : Bool) (d : DReg) :
    advanced k adv d = { k with d := (advanced k adv d).d, factor := (advanced k adv d).factor } := by
  unfold advanced; split <;> rfl

theorem wroteRun_trvBeat (k : Core) (a : VReg) (xs : List (Bits × Bool)) : (wroteRun k a xs).trvBeat = k.trvBeat := by
  rw [wroteRun_keeps]
theorem wroteRun_t (k : Core) (a : VReg) (xs : List (Bits × Bool)) : (wroteRun k a xs).t = k.t := by rw [wroteRun_keeps]
theorem wroteRun_pc (k : Core) (a : VReg) (xs : List (Bits × Bool)) : (wroteRun k a xs).pc = k.pc := by rw [wroteRun_keeps]
theorem wroteRun_ag (k : Core) (a : VReg) (xs : List (Bits × Bool)) : (wroteRun k a xs).ag = k.ag := by rw [wroteRun_keeps]

theorem span_map {α : Type} (f : Nat → α) (a n : Nat) : (span a n).map f = (List.range n).map (fun i => f (a + i)) := by
  rw [span_eq_range', List.range'_eq_map_range, List.map_map]; rfl

/-- The elements of a class fill a beat. -/
theorem clsWidth_fill (k : TClass) : clsWidth k * (2048 / clsWidth k) = 2048 := by cases k <;> rfl

/-! ### TREL, and the register forms -/

theorem trel_issued {s : State} {c : CoreId} (h : Ready s c) (t : TrivetId) (cls : Option TClass) :
    ∃ u, exec (.trel c t cls) s = .next u ∧
      IssuedAs c s u { s.cores[c] with t := s.cores[c].t.set t.val { cls := cls.getD s.cores[c].t[t].cls } } := by
  refine ⟨_, rfl, issueNext_modCore h _ (f := fun k => { k with t := k.t.set t.val { cls := cls.getD k.t[t].cls } }) ?_ rfl rfl⟩
  cases cls <;> exact modCore_congr rfl

/-- The Trivet that holds `rows`. -/
def filled (k : TClass) (cols : Nat) (rows : List (Bits × Bool)) : Trivet :=
  { cls := k, full := true, rows := rows.length, cols := cols, data := rows.map (·.1), psn := rows.any (·.2) }

theorem putTrivet_eq (s : State) (c : CoreId) (t : TrivetId) (cols : Nat) (rows : List (Bits × Bool)) :
    putTrivet s c t cols rows = modCore s c (fun k => { k with t := k.t.set t.val (filled k.t[t].cls cols rows) }) := rfl

theorem fillTrivet_eq (s : State) (c : CoreId) (t : TrivetId) (cols : Nat) (rows : List (Bits × Bool)) :
    fillTrivet s c t cols rows = modCore (countEv s .trvRow rows.length) c (fun k => { k with
      t := k.t.set t.val (filled k.t[t].cls cols rows), trvRow := sat32 k.trvRow rows.length }) := by
  rw [fillTrivet, countRows_eq, putTrivet_eq, countEv_modCore, modCore_modCore]

section Forms

variable {s : State} {c : CoreId} {t : TrivetId}

theorem twr_regs (h : Ready s c) (adv : Bool) {n : BitVec 7} {a : VReg} (empty : s.cores[c].t[t].full = false)
    (fits : a.val + n.toNat + 1 ≤ 32) :
    let rows := (List.range (n.toNat + 1)).map (fun i => readV s c (vPlus a i))
    ∃ u, exec (.twr c adv s.cores[c].t[t].cls n t (.regs a)) s = .next u ∧
      IssuedAs c (countEv s .trvRow (n.toNat + 1)) u { s.cores[c] with
        trvRow := sat32 s.cores[c].trvRow (n.toNat + 1)
        t := s.cores[c].t.set t.val (filled s.cores[c].t[t].cls (2048 / clsWidth s.cores[c].t[t].cls) rows) } := by
  intro rows
  have shape : twrShape s c s.cores[c].t[t].cls (n.toNat + 1) t (.regs a) = true := by
    have fits' : a.val + (n.toNat + 1) ≤ 32 := by omega
    simp only [twrShape, empty, fits', decide_true, Bool.not_false, Bool.and_self]
  have count : rows.length = n.toNat + 1 := by simp [rows]
  refine ⟨_, rfl, issue_retire h _ (f := fun k => { k with
    t := k.t.set t.val (filled k.t[t].cls (2048 / clsWidth s.cores[c].t[t].cls) rows)
    trvRow := sat32 k.trvRow (n.toNat + 1) }) ?_ rfl rfl rfl rfl⟩
  simp only [withChecks, shape, Bool.not_true, Bool.false_eq_true, if_false, upto_eq_range]
  rw [fillTrivet_eq, count]

/-- A beat of a Trivet's column-major image, element by element (R140, R144). -/
theorem elemAt_trivetBeat (x : Trivet) (j : Nat) {i : Nat} (hi : i < 2048 / clsWidth x.cls) :
    elemAt (clsWidth x.cls) (trivetBeat x j) i =
      let e := j * (2048 / clsWidth x.cls) + i
      trivetElem x (e % 128) (e / 128) := by
  have elem (r k : Nat) : trivetElem x r k % 2 ^ clsWidth x.cls = trivetElem x r k := by
    unfold trivetElem
    split
    · exact elemAt_mod ..
    · exact Nat.zero_mod _
  unfold trivetBeat
  dsimp only
  rw [elemAt_ofElems (by rw [List.length_map, upto_eq_range, List.length_range, clsWidth_fill]), List.getD_eq_getElem?_getD,
    List.getElem?_map, upto_eq_range, List.getElem?_range hi]
  exact elem _ _

theorem releaseTrivet_eq (s : State) (c : CoreId) (t : TrivetId) (rel : Bool) : releaseTrivet s c t rel =
    modCore s c (fun k => { k with t := if rel then k.t.set t.val { cls := k.t[t].cls } else k.t }) := by
  cases rel
  · exact (modCore_id s c _ rfl).symm
  · rfl

theorem trd_regs (h : Ready s c) (adv rel : Bool) {st m : BitVec 11} {a : VReg} (full : s.cores[c].t[t].full = true)
    (fits : a.val + m.toNat + 1 ≤ 32) (held : st.toNat + m.toNat + 1 ≤ beatsHeld s.cores[c].t[t]) :
    let beats := (List.range (m.toNat + 1)).map (fun i => (trivetBeat s.cores[c].t[t] (st.toNat + i), s.cores[c].t[t].psn))
    ∃ u, exec (.trd c adv s.cores[c].t[t].cls rel t st m (.regs a)) s = .next u ∧
      IssuedAs c (countEv s .trvBeat (m.toNat + 1)) u { wroteRun s.cores[c] a beats with
        trvBeat := sat32 s.cores[c].trvBeat (m.toNat + 1)
        t := if rel then s.cores[c].t.set t.val { cls := s.cores[c].t[t].cls } else s.cores[c].t } := by
  intro beats
  have shape : trdShape s c s.cores[c].t[t].cls t st.toNat (m.toNat + 1) (.regs a) = true := by
    have fits' : a.val + (m.toNat + 1) ≤ 32 := by omega
    have held' : st.toNat + (m.toNat + 1) ≤ beatsHeld s.cores[c].t[t] := by omega
    simp only [trdShape, full, fits', held', decide_true, Bool.and_self]
  refine ⟨_, rfl, issue_retire h _ (f := fun k => { wroteRun k a beats with
    trvBeat := sat32 k.trvBeat (m.toNat + 1)
    t := if rel then k.t.set t.val { cls := k.t[t].cls } else k.t }) ?_ rfl rfl ?_ ?_⟩
  · simp only [withChecks, shape, Bool.not_true, Bool.false_eq_true, if_false, span_map]
    rw [releaseTrivet_eq, countBeats, writeRun_eq, countEv_modCore, modCore_modCore, countEv_modCore, modCore_modCore]
    refine congrArg (retire · c 1) (modCore_congr ?_)
    show { wroteRun s.cores[c] a beats with
      trvBeat := sat32 (wroteRun s.cores[c] a beats).trvBeat (m.toNat + 1)
      t := if rel then (wroteRun s.cores[c] a beats).t.set t.val { cls := (wroteRun s.cores[c] a beats).t[t].cls }
        else (wroteRun s.cores[c] a beats).t } = _
    rw [wroteRun_trvBeat, wroteRun_t]
    rfl
  · exact wroteRun_pc ..
  · exact wroteRun_ag ..

/-! ### The memory forms -/

theorem twrRows_looks (who : Who) (d : Desc) (o0 : Int) (cols : Nat) :
    ∀ (n : Nat) (o1 : Int) (s : State), Looks s (twrRows who d o0 cols n o1 s).1
  | 0, _, s => .refl s
  | n + 1, o1, _ => (readRowAt_looks ..).trans (twrRows_looks who d o0 cols n (o1 + 1) _)

theorem twrRows_length (who : Who) (d : Desc) (o0 : Int) (cols : Nat) :
    ∀ (n : Nat) (o1 : Int) (s : State), (twrRows who d o0 cols n o1 s).2.length = n
  | 0, _, _ => rfl
  | n + 1, o1, s => congrArg (· + 1) (twrRows_length who d o0 cols n (o1 + 1) (readRowAt s who d o1 o0 cols).1)

theorem twr_mem (h : Ready s c) (adv : Bool) {d : DReg} {p : PairId} {n : BitVec 7} {cols : BitVec 11}
    (good : checkTd s.cores[c].d[d] false isLocal = none) (cls : tdClass s.cores[c].d[d] = s.cores[c].t[t].cls)
    (empty : s.cores[c].t[t].full = false) (open_ : anyWindow s = false) :
    let r := twrRows (whoFetch c) s.cores[c].d[d] (sInt s c ⟨p.val, by omega⟩) (cols.toNat + 1) (n.toNat + 1)
      (sInt s c ⟨p.val + 1, by omega⟩) s
    ∃ u, exec (.twr c adv s.cores[c].t[t].cls n t (.mem d p cols)) s = .next u ∧
      IssuedAs c (countEv r.1 .trvRow (n.toNat + 1)) u (advanced { s.cores[c] with
        trvRow := sat32 s.cores[c].trvRow (n.toNat + 1)
        t := s.cores[c].t.set t.val (filled s.cores[c].t[t].cls (cols.toNat + 1) r.2) } adv d) := by
  intro r
  have shape : twrShape s c s.cores[c].t[t].cls (n.toNat + 1) t (.mem d p cols) = true := by
    simp only [twrShape, empty, cls, decide_true, Bool.not_false, Bool.and_self]
  have looks : Looks s r.1 := twrRows_looks ..
  have count : r.2.length = n.toNat + 1 := twrRows_length ..
  refine ⟨_, rfl, issue_open_retire h open_ _ (f := fun k => advanced { k with
    trvRow := sat32 k.trvRow (n.toNat + 1)
    t := k.t.set t.val (filled k.t[t].cls (cols.toNat + 1) r.2) } adv d) ?_ looks.1.cores (advanced_pc ..) (advanced_ag ..)⟩
  simp only [withChecks, good, shape, Bool.not_true, Bool.false_eq_true, if_false]
  change retire (advance (fillTrivet r.1 c t (cols.toNat + 1) r.2) c adv d) c 1 = _
  rw [advance_eq, fillTrivet_eq, count, modCore_modCore]

theorem Ready.runs (h : Ready s c) : s.cores[c].st = .run := by
  obtain ⟨may, -, -⟩ := h
  simp only [canIssue, Bool.and_eq_true, decide_eq_true_eq] at may
  exact may.1.1.2

theorem Ready.idle (h : Ready s c) : s.cores[c].prog = [] := h.2.2

theorem Ready.pc_next (h : Ready s c) : min 2048 (s.cores[c].pc + 1) = s.cores[c].pc + 1 := by
  have := h.2.1
  omega

/-- A core that may issue runs an effect that changes cores and power counts alone. -/
theorem issue_inside (h : Ready s c) (n : Needs) {F : State → State} {v : State} (hF : F s = v) (inside : Inside s v) :
    issue s c n F = v := by
  rw [issue_ready h n (by rw [hF]; exact inside.xb), hF]

/-- The core once an instruction with `ADV` has issued and pushed what it can (R87, R89, R176). -/
def ownPushed (s : State) (c : CoreId) (adv : Bool) (d : DReg) (es : List SqEntry) : Core :=
  issued s c (advanced { s.cores[c] with sq := s.cores[c].sq ++ es.take (room s.cores[c]) } adv d)

/-- A launched instruction with `ADV` of its descriptor, whose beats are entries with their own addresses (R87, R89, R176). -/
theorem launch_own_advance (h : Ready s c) (adv : Bool) (d : DReg) {p : Prog} {es : List SqEntry} (out : p.out = es.map .own)
    (free : p.ladle = false) (fed : p.need = 0) :
    ∃ u, Inside s u ∧ u.cores[c] = ownPushed s c adv d es ∧ (∀ q : CoreId, q ≠ c → u.cores[q] = s.cores[q]) ∧ OnlyWoken s u ∧
      let v := pushCounted c p.cmd (es.take (room s.cores[c])).length u
      launch s c p 1 (fun s => advance s c adv d) =
        if es.length ≤ room s.cores[c] then progFinish c { p with out := [] } v
        else modCore v c (fun x => { x with prog := x.prog ++ [{ p with out := (es.drop (room s.cores[c])).map .own }] }) := by
  have core : (advance s c adv d).cores[c] = advanced s.cores[c] adv d := by rw [advance_eq, modCore_self]
  have keeps := advanced_keeps s.cores[c] adv d
  have room' : room (advance s c adv d).cores[c] = room s.cores[c] := by rw [core, room, keeps]; rfl
  obtain ⟨only, retired⟩ := retire_core (advance s c adv d) c 1
  have whole := launch_own (s := s) (c := c) (adv := fun s => advance s c adv d) (es := es) 1 (by rw [core, keeps]; exact h.idle)
    (by rw [core, keeps]; exact h.runs) (by rw [core, keeps]; exact h.errDue_false) out free fed
  rw [room'] at whole
  have only' : OnlyCore c s (modCore (retire (advance s c adv d) c 1) c (pushedOwn es)) := by
    rw [advance_eq] at only ⊢; exact only.before.after _
  refine ⟨modCore (retire (advance s c adv d) c 1) c (pushedOwn es), only'.1, ?_, only'.2.1, only'.2.2, whole⟩
  rw [modCore_self, retired, core, advanced_pc, h.pc_next]
  cases adv <;> rfl

/-- What a TRD to memory pushes (R141, R145). -/
def trdEntries (s : State) (c : CoreId) (t : TrivetId) (d : DReg) (p : PairId) (st m : BitVec 11) : List SqEntry :=
  (List.range (m.toNat + 1)).flatMap (fun (i : Nat) => columnEntries s.cores[c].t[t] s.cores[c].d[d] (sInt s c ⟨p.val, by omega⟩)
    (sInt s c ⟨p.val + 1, by omega⟩ + (i : Int)) (st.toNat + i))

theorem trd_mem (h : Ready s c) (adv rel : Bool) {d : DReg} {p : PairId} {st m : BitVec 11}
    (good : checkTd s.cores[c].d[d] false isLocal = none) (cls : tdClass s.cores[c].d[d] = s.cores[c].t[t].cls)
    (full : s.cores[c].t[t].full = true) (held : st.toNat + m.toNat + 1 ≤ s.cores[c].t[t].cols) :
    let es := trdEntries s c t d p st m
    let i := Instr.trd c adv s.cores[c].t[t].cls rel t st m (.mem d p)
    ∃ u x, exec i s = .next u ∧ Inside s u ∧ x = ownPushed s c adv d es ∧
      (es.length ≤ room s.cores[c] → u.cores[c] = { x with
        trvBeat := sat32 x.trvBeat (es.take (room s.cores[c])).length
        t := if rel then x.t.set t.val { cls := x.t[t].cls } else x.t }) ∧
      (room s.cores[c] < es.length → ∃ q : Prog, q.cmd = i ∧ q.mark = markOf s.cores[c] ∧
        q.out = (es.drop (room s.cores[c])).map .own ∧ u.cores[c] = { x with
          trvBeat := sat32 x.trvBeat (es.take (room s.cores[c])).length, prog := [q] }) := by
  intro es i
  have shape : trdShape s c s.cores[c].t[t].cls t st.toNat (m.toNat + 1) (.mem d p) = true := by
    have held' : st.toNat + (m.toNat + 1) ≤ s.cores[c].t[t].cols := by omega
    simp only [trdShape, full, cls, held', decide_true, Bool.and_self]
  let q : Prog := { cmd := i, needs := { units := [.trvRead], trivets := [t], pushes := true }, mark := markOf s.cores[c]
                    out := es.map .own }
  obtain ⟨u, inside, core, others, woken, whole⟩ := launch_own_advance h adv d (p := q) (es := es) rfl rfl rfl
  have effect : ∃ F : State → State, exec i s = .next (issue s c q.needs F) ∧ F s = launch s c q 1 (fun s => advance s c adv d) := by
    refine ⟨_, rfl, ?_⟩
    simp only [withChecks, good, shape, Bool.not_true, Bool.false_eq_true, if_false, upto_eq_range]
    rfl
  obtain ⟨F, run, goes⟩ := effect
  have counted : (countBeats u c (es.take (room s.cores[c])).length).cores[c] =
      { ownPushed s c adv d es with trvBeat := sat32 (ownPushed s c adv d es).trvBeat (es.take (room s.cores[c])).length } := by
    rw [countBeats, countEv_modCore, modCore_self, ← core]; rfl
  have inside' : Inside s (countBeats u c (es.take (room s.cores[c])).length) := inside.trans rfl
  change launch s c q 1 _ = if _ then releaseTrivet (countBeats u c _) c t rel else modCore (countBeats u c _) c _ at whole
  rw [releaseTrivet_eq] at whole
  by_cases fits : es.length ≤ room s.cores[c]
  · rw [if_pos fits] at whole
    refine ⟨_, _, run.trans (congrArg _ (issue_inside h _ (goes.trans whole) (inside'.trans rfl))), inside'.trans rfl, rfl,
      fun _ => ?_, fun more => absurd fits (Nat.not_le.mpr more)⟩
    rw [modCore_self, counted]
  · rw [if_neg fits] at whole
    refine ⟨_, _, run.trans (congrArg _ (issue_inside h _ (goes.trans whole) (inside'.trans rfl))), inside'.trans rfl, rfl,
      fun all => absurd all fits, fun _ => ⟨{ q with out := (es.drop (room s.cores[c])).map .own }, rfl, rfl, rfl, ?_⟩⟩
    have idle : (ownPushed s c adv d es).prog = [] := by
      rw [ownPushed, issued, advanced_keeps]; exact h.idle
    rw [modCore_self, counted, idle]
    rfl

/-! ### The queue forms -/

theorem lqAvail_of_taken {xs ys : List LqBeat} (queue : s.cores[c].lq = xs ++ ys) : xs.length ≤ lqAvail s c := by
  rw [lqAvail, queue, List.length_append]; omega

/-- A TWR of the load queue, as it launches. -/
def twrQueue (s : State) (c : CoreId) (adv : Bool) (t : TrivetId) (n : BitVec 7) : Prog :=
  { cmd := .twr c adv s.cores[c].t[t].cls n t .queue, needs := { units := [.trvWrite], trivets := [t], takes := true }
    mark := markOf s.cores[c], need := n.toNat + 1 }

/-- A TWR whose rows are those of the load queue launches (R85, R142). -/
theorem twr_queue_launches (h : Ready s c) (adv : Bool) {n : BitVec 7} (empty : s.cores[c].t[t].full = false)
    (avail : n.toNat + 1 ≤ lqAvail s c) {v : State} (goes : launch s c (twrQueue s c adv t n) 1 id = v) (inside : Inside s v) :
    exec (twrQueue s c adv t n).cmd s = .next v := by
  have shape : twrShape s c s.cores[c].t[t].cls (n.toNat + 1) t .queue = true := by
    simp only [twrShape, empty, decide_true, Bool.not_false, Bool.and_self]
  have effect : ∃ F : State → State, exec (twrQueue s c adv t n).cmd s = .next (issue s c (twrQueue s c adv t n).needs F) ∧
      F s = launch s c (twrQueue s c adv t n) 1 id := by
    refine ⟨_, rfl, ?_⟩
    simp only [withChecks, shape, Bool.not_true, Bool.false_eq_true, if_false, if_neg (Nat.not_lt.mpr avail)]
    rfl
  obtain ⟨F, run, eq⟩ := effect
  exact run.trans (congrArg _ (issue_inside h _ (eq.trans goes) inside))

/-- The core once its instruction has issued and taken its beats. -/
theorem taken_core (h : Ready s c) (i : Instr) (n : Nat) (ys : List LqBeat) :
    (rowsTaken c i n (modCore (retire s c 1) c (fun k => { k with lq := ys }))).cores[c] =
      { issued s c s.cores[c] with
        lq := ys, trvRow := (rowsTaken c i n (modCore (retire s c 1) c (fun k => { k with lq := ys }))).cores[c].trvRow } := by
  rw [rowsTaken_core, modCore_self, (retire_core s c 1).2, h.pc_next]
  rfl

theorem countRows_trvRow (s : State) (c : CoreId) (n : Nat) :
    (countRows s c n).cores[c].trvRow = sat32 s.cores[c].trvRow n := by
  rw [countRows_eq, modCore_self]
  rfl

theorem taken_inside (i : Instr) (n : Nat) (ys : List LqBeat) :
    Inside s (rowsTaken c i n (modCore (retire s c 1) c (fun k => { k with lq := ys }))) :=
  ((Inside.ofRetire s c 1).trans (.ofModCore ..)).trans (.ofRowsTaken ..)

theorem twr_queue_all (h : Ready s c) (adv : Bool) {n : BitVec 7} {xs ys : List LqBeat} (empty : s.cores[c].t[t].full = false)
    (queue : s.cores[c].lq = xs ++ ys) (all : xs.length = n.toNat + 1) (plain : ∀ b ∈ xs, b.inc = none) :
    ∃ u, exec (twrQueue s c adv t n).cmd s = .next u ∧ Inside s u ∧ u.cores[c] = issued s c { s.cores[c] with
      lq := ys, trvRow := sat32 s.cores[c].trvRow (n.toNat + 1)
      t := s.cores[c].t.set t.val
        (filled s.cores[c].t[t].cls (2048 / clsWidth s.cores[c].t[t].cls) (xs.map (fun b => (b.data, b.psn)))) } := by
  have goes := launch_takes_all (s := s) (adv := id) (p := twrQueue s c adv t n) (xs := xs) (ys := ys) 1 h.idle h.runs
    h.errDue_false trivial rfl rfl rfl queue plain all
  rw [id_eq] at goes
  have core := taken_core h (twrQueue s c adv t n).cmd xs.length ys
  have inside := taken_inside (s := s) (c := c) (twrQueue s c adv t n).cmd xs.length ys
  have rows : (rowsTaken c (twrQueue s c adv t n).cmd xs.length
      (modCore (retire s c 1) c (fun k => { k with lq := ys }))).cores[c].trvRow = sat32 s.cores[c].trvRow (n.toNat + 1) := by
    show (countRows _ c xs.length).cores[c].trvRow = _
    rw [countRows_trvRow, modCore_self, (retire_core s c 1).2, all]
  rw [rows] at core
  generalize rowsTaken c (twrQueue s c adv t n).cmd xs.length (modCore (retire s c 1) c (fun k => { k with lq := ys })) = r
    at goes core inside
  change launch s c _ 1 id = putTrivet r c t (2048 / clsWidth s.cores[c].t[t].cls) _ at goes
  rw [putTrivet_eq] at goes
  refine ⟨_, twr_queue_launches h adv empty (by rw [← all]; exact lqAvail_of_taken queue) goes (inside.trans rfl),
    inside.trans rfl, ?_⟩
  rw [modCore_self, core]
  rfl

theorem twr_queue_some (h : Ready s c) (adv : Bool) {n : BitVec 7} (empty : s.cores[c].t[t].full = false)
    (few : s.cores[c].lq.length < n.toNat + 1) (avail : n.toNat + 1 ≤ lqAvail s c) (plain : ∀ b ∈ s.cores[c].lq, b.inc = none) :
    ∃ u, exec (twrQueue s c adv t n).cmd s = .next u ∧ u.cores[c].pc = s.cores[c].pc + 1 ∧ u.cores[c].lq = [] ∧
      u.cores[c].t = s.cores[c].t ∧ u.cores[c].prog = [fedWith (twrQueue s c adv t n) s.cores[c].lq] := by
  have goes := launch_takes_some (s := s) (adv := id) (p := twrQueue s c adv t n) (xs := s.cores[c].lq) 1 h.idle h.runs
    h.errDue_false trivial rfl rfl rfl rfl plain few
  rw [id_eq] at goes
  have core := taken_core h (twrQueue s c adv t n).cmd s.cores[c].lq.length []
  have inside := taken_inside (s := s) (c := c) (twrQueue s c adv t n).cmd s.cores[c].lq.length []
  generalize rowsTaken c (twrQueue s c adv t n).cmd s.cores[c].lq.length (modCore (retire s c 1) c (fun k => { k with lq := [] })) = r
    at goes core inside
  refine ⟨_, twr_queue_launches h adv empty avail goes (inside.trans rfl), ?_⟩
  rw [modCore_self, core]
  exact ⟨rfl, rfl, rfl, by show s.cores[c].prog ++ _ = _; rw [h.idle]; rfl⟩

/-- The state once a launched instruction has pushed what it can. -/
def pushedState (c : CoreId) (p : Prog) (r : State) : State :=
  let q := pushSome c p.out r
  let n := p.out.length - q.2.length
  pushCounted c p.cmd n (if n = 0 then q.1 else progress q.1 (.core c))

/-- A launched instruction that only pushes: it completes when nothing is left (R87, R89). -/
theorem launch_pushes {adv : State → State} {p : Prog} (n : Nat) (idle : (adv s).cores[c].prog = [])
    (runs : (adv s).cores[c].st = .run) (free : p.ladle = false) (fed : p.need = 0) {q : State × List SqPush}
    (hq : pushSome c p.out (retire (adv s) c n) = q) {v : State} (hv : pushedState c p (retire (adv s) c n) = v)
    (sound : v.cores[c].errDue = false) (runs' : v.cores[c].st = .run) :
    (q.2 = [] → launch s c p n adv = progFinish c { p with out := [] } v) ∧
      (q.2 ≠ [] → launch s c p n adv = modCore v c (fun x => { x with prog := x.prog ++ [{ p with out := q.2 }] })) := by
  have push : progPush c p (retire (adv s) c n) = (v, { p with out := q.2 }) := by rw [← hq, ← hv]; exact progPush_eq ..
  rw [launch_goes p n idle runs, show p.need + 3 = 2 + 1 by rw [fed], runProg, push]
  simp only [sound, Bool.false_eq_true, if_false]
  refine ⟨fun all => ?_, fun some => ?_⟩
  · simp only [all, List.isEmpty_nil, Bool.not_true, Bool.false_eq_true, if_false, free, fed, if_true, keepProg]
  · have left : (!q.2.isEmpty) = true := by simpa using some
    simp only [left, if_true, keepProg, runs']

/-- Pushing leaves of its core all but the store queue, the store position, the count of beats and its progress. -/
theorem pushedState_core {p : Prog} {r : State} (sound : (pushSome c p.out r).1.cores[c].errDue = false) :
    let q := (pushSome c p.out r).1
    let v := pushedState c p r
    Inside q v ∧ v.cores[c] = { r.cores[c] with
      sq := q.cores[c].sq, storePos := q.cores[c].storePos, feedPos := q.cores[c].feedPos, storeDesc := q.cores[c].storeDesc
      trvBeat := v.cores[c].trvBeat, ag := v.cores[c].ag } := by
  intro q v
  have pushed : q.cores[c] = _ := ((pushSome_pushed c p.out r).core sound).2
  let m := p.out.length - (pushSome c p.out r).2.length
  let w := if m = 0 then q else progress q (.core c)
  have step : Inside q w ∧ w.cores[c] = { q.cores[c] with ag := w.cores[c].ag } := by
    simp only [w]
    split
    · exact ⟨.refl q, rfl⟩
    · obtain ⟨only, core⟩ := progress_core q c
      exact ⟨only.1, by rw [core]⟩
  obtain ⟨inside, core⟩ := step
  have counted : v.cores[c] = { w.cores[c] with trvBeat := v.cores[c].trvBeat } := pushCounted_core c p.cmd m w
  refine ⟨inside.trans (.ofPushCounted ..), ?_⟩
  clear_value v w q
  rw [counted, core, pushed]

end Forms

end Sys2Proof.Machine
end

section
set_option Elab.async false -- one proof after another: this bounds the memory that a check of the whole text takes
/-! PROOFS. The store-queue form of TRD, and the forms of the Trivet instructions put together (R89, R98, R99, R141 to R146). -/

namespace Sys2Proof.Machine

section TrdQueue

variable {s : State} {c : CoreId} {t : TrivetId}

/-- A TRD to the store queue, as it launches. -/
def trdQueue (s : State) (c : CoreId) (adv rel : Bool) (t : TrivetId) (st m : BitVec 11) : Prog :=
  { cmd := .trd c adv s.cores[c].t[t].cls rel t st m .queue
    needs := { units := [.trvRead], trivets := [t], pushes := true }, mark := markOf s.cores[c]
    out := (span st.toNat (m.toNat + 1)).map (fun j => .list (trivetBeat s.cores[c].t[t] j) s.cores[c].t[t].psn) }

theorem trd_queue_launches (h : Ready s c) (adv rel : Bool) {st m : BitVec 11} (full : s.cores[c].t[t].full = true)
    (held : st.toNat + m.toNat + 1 ≤ beatsHeld s.cores[c].t[t]) (left : m.toNat + 1 ≤ storeLeft s c) {v : State}
    (goes : launch s c (trdQueue s c adv rel t st m) 1 id = v) (xb : v.xb = s.xb) :
    exec (trdQueue s c adv rel t st m).cmd s = .next v := by
  have shape : trdShape s c s.cores[c].t[t].cls t st.toNat (m.toNat + 1) .queue = true := by
    have held' : st.toNat + (m.toNat + 1) ≤ beatsHeld s.cores[c].t[t] := by omega
    simp only [trdShape, full, held', decide_true, Bool.and_self]
  have effect : ∃ F : State → State, exec (trdQueue s c adv rel t st m).cmd s =
      .next (issue s c (trdQueue s c adv rel t st m).needs F) ∧ F s = launch s c (trdQueue s c adv rel t st m) 1 id := by
    refine ⟨_, rfl, ?_⟩
    simp only [withChecks, shape, Bool.not_true, Bool.false_eq_true, if_false, if_neg (Nat.not_lt.mpr left), List.map_map]
    rfl
  obtain ⟨F, run, eq⟩ := effect
  refine run.trans (congrArg _ ?_)
  rw [issue_ready h _ (by rw [eq, goes, xb]), eq, goes]

theorem trd_queue (h : Ready s c) (adv rel : Bool) {st m : BitVec 11} (full : s.cores[c].t[t].full = true)
    (held : st.toNat + m.toNat + 1 ≤ beatsHeld s.cores[c].t[t]) (left : m.toNat + 1 ≤ storeLeft s c) {p : Prog}
    (hp : trdQueue s c adv rel t st m = p) {q : State × List SqPush} (hq : pushSome c p.out (retire s c 1) = q)
    (sound : q.1.cores[c].errDue = false) :
    ∃ (u : State) (x : Core), exec p.cmd s = .next u ∧ u.mem = s.mem ∧ u.cnt = q.1.cnt ∧
      x = { issued s c s.cores[c] with
        sq := q.1.cores[c].sq, storePos := q.1.cores[c].storePos, feedPos := q.1.cores[c].feedPos
        storeDesc := q.1.cores[c].storeDesc, trvBeat := x.trvBeat, ag := x.ag } ∧
      (q.2 = [] → u.cores[c] = { x with t := if rel then x.t.set t.val { cls := x.t[t].cls } else x.t }) ∧
      (q.2 ≠ [] → u.cores[c] = { x with prog := [{ p with out := q.2 }] }) := by
  have finish (v : State) : progFinish c { p with out := [] } v = releaseTrivet v c t rel := by rw [← hp]; rfl
  have free : p.ladle = false := by rw [← hp]; rfl
  have fed : p.need = 0 := by rw [← hp]; rfl
  have run {v : State} (goes : launch s c p 1 id = v) (xb : v.xb = s.xb) : exec p.cmd s = .next v := by
    rw [← hp] at goes ⊢; exact trd_queue_launches h adv rel full held left goes xb
  have pushed := pushSome_pushed c p.out (retire s c 1)
  obtain ⟨v, hv⟩ : ∃ v, pushedState c p (retire s c 1) = v := ⟨_, rfl⟩
  obtain ⟨inside, core⟩ := pushedState_core (c := c) (p := p) (r := retire s c 1) (by rw [hq]; exact sound)
  rw [hq] at pushed
  rw [hq, hv] at inside core
  rw [(retire_core s c 1).2, h.pc_next] at core
  have mem : q.1.mem = s.mem := pushed.mem.trans (Inside.ofRetire s c 1).mem
  have xb : q.1.xb = s.xb := by rw [(pushed.others sound).1]; exact (Inside.ofRetire s c 1).xb
  obtain ⟨all, some⟩ := launch_pushes (s := s) (c := c) (adv := id) (p := p) 1 h.idle h.runs free fed hq hv
    (by rw [core]; exact h.errDue_false) (by rw [core]; exact h.runs)
  rw [finish, releaseTrivet_eq] at all
  by_cases none : q.2 = []
  · refine ⟨_, v.cores[c], run (all none) (inside.xb.trans xb), inside.mem.trans mem, inside.cnt, core, fun _ => ?_,
      fun left => absurd none left⟩
    rw [modCore_self]
  · refine ⟨_, v.cores[c], run (some none) (inside.xb.trans xb), inside.mem.trans mem, inside.cnt, core,
      fun left => absurd left none, fun _ => ?_⟩
    have idle : v.cores[c].prog = [] := by rw [core]; exact h.idle
    rw [modCore_self, idle]
    rfl

end TrdQueue

section Assembly

variable {s : State} {c : CoreId} {t : TrivetId} (h : Ready s c) (adv : Bool)
include h

theorem twr_mem_fills {d : DReg} {p : PairId} {n : BitVec 7} {cols : BitVec 11}
    (good : checkTd s.cores[c].d[d] false isLocal = none) (cls : tdClass s.cores[c].d[d] = s.cores[c].t[t].cls)
    (empty : s.cores[c].t[t].full = false) (open_ : anyWindow s = false) :
    let k := s.cores[c]
    let r := twrRows (whoFetch c) k.d[d] (sInt s c ⟨p.val, by omega⟩) (cols.toNat + 1) (n.toNat + 1)
      (sInt s c ⟨p.val + 1, by omega⟩) s
    ∃ u, exec (.twr c adv k.t[t].cls n t (.mem d p cols)) s = .next u ∧ u.cores[c].pc = k.pc + 1 ∧
      u.cores[c].t = k.t.set t.val { cls := k.t[t].cls, full := true, rows := n.toNat + 1, cols := cols.toNat + 1
                                     data := r.2.map (·.1), psn := r.2.any (·.2) } ∧
      u.cores[c].v = k.v ∧ u.cores[c].s = k.s ∧ SameBytes s u ∧ u.cnt = s.cnt := by
  intro k r
  obtain ⟨u, run, iss⟩ := twr_mem h adv (p := p) (n := n) (cols := cols) good cls empty open_
  have inside := iss.inside
  obtain ⟨moves, keeps⟩ : Looks s r.1 := twrRows_looks ..
  obtain ⟨only, core⟩ := iss
  have cores : (countEv r.1 .trvRow (n.toNat + 1)).cores[c] = s.cores[c] := by
    show r.1.cores[c] = _; rw [moves.cores]
  rw [issued, advanced_keeps, cores, filled, twrRows_length] at core
  refine ⟨u, run, by rw [core], ?_, by rw [core], by rw [core],
    (SameBytes.ofKeeps keeps).trans (.ofMem inside.mem), inside.cnt.trans moves.cnt⟩
  rw [core]

theorem trd_mem_pushes (rel : Bool) {d : DReg} {p : PairId} {st m : BitVec 11}
    (good : checkTd s.cores[c].d[d] false isLocal = none) (cls : tdClass s.cores[c].d[d] = s.cores[c].t[t].cls)
    (full : s.cores[c].t[t].full = true) (held : st.toNat + m.toNat + 1 ≤ s.cores[c].t[t].cols) :
    let k := s.cores[c]
    let es := trdEntries s c t d p st m
    let i := Instr.trd c adv k.t[t].cls rel t st m (.mem d p)
    ∃ u, exec i s = .next u ∧ u.cores[c].pc = k.pc + 1 ∧ u.cores[c].sq = k.sq ++ es.take (room k) ∧
      u.cores[c].trvBeat = sat32 k.trvBeat (es.take (room k)).length ∧
      (es.length ≤ room k → u.cores[c].prog = [] ∧
        u.cores[c].t = (if rel then k.t.set t.val { cls := k.t[t].cls } else k.t)) ∧
      (room k < es.length → u.cores[c].t = k.t ∧ InProgress u.cores[c] (markOf k) i (fun p => p.out = (es.drop (room k)).map .own)) ∧
      u.cores[c].v = k.v ∧ u.cores[c].s = k.s ∧ SameBytes s u ∧ u.cnt = s.cnt := by
  intro k es i
  obtain ⟨u, x, run, inside, hx, all, some⟩ := trd_mem h adv rel (p := p) good cls full held
  have own : x = { issued s c k with
      d := x.d, factor := x.factor, sq := k.sq ++ es.take (room k) } := by
    rw [hx, ownPushed, issued, issued, advanced_keeps]
  have bytes : SameBytes s u := .ofMem inside.mem
  by_cases fits : es.length ≤ room k
  · have core := all fits
    rw [own] at core
    exact ⟨u, run, by rw [core]; rfl, by rw [core], by rw [core]; rfl, fun _ => ⟨by rw [core]; exact h.idle, by rw [core]; rfl⟩,
      fun more => absurd fits (Nat.not_le.mpr more), by rw [core]; rfl, by rw [core]; rfl, bytes, inside.cnt⟩
  · obtain ⟨q, cmd, mark, out, core⟩ := some (Nat.lt_of_not_le fits)
    rw [own] at core
    exact ⟨u, run, by rw [core]; rfl, by rw [core], by rw [core]; rfl, fun all => absurd all fits,
      fun _ => ⟨by rw [core]; rfl, q, by rw [core], cmd, mark, out⟩, by rw [core]; rfl, by rw [core]; rfl, bytes, inside.cnt⟩

theorem trd_queue_pushes (rel : Bool) {st m : BitVec 11} (full : s.cores[c].t[t].full = true)
    (held : st.toNat + m.toNat + 1 ≤ beatsHeld s.cores[c].t[t]) (left : m.toNat + 1 ≤ storeLeft s c) :
    let k := s.cores[c]
    let i := Instr.trd c adv k.t[t].cls rel t st m .queue
    let q := pushSome c (trdQueue s c adv rel t st m).out (retire s c 1)
    q.1.cores[c].errDue = false →
    ∃ u, exec i s = .next u ∧ u.cores[c].pc = k.pc + 1 ∧ u.cores[c].sq = q.1.cores[c].sq ∧
      u.cores[c].storePos = q.1.cores[c].storePos ∧
      (q.2 = [] → u.cores[c].prog = [] ∧ u.cores[c].t = (if rel then k.t.set t.val { cls := k.t[t].cls } else k.t)) ∧
      (q.2 ≠ [] → u.cores[c].t = k.t ∧ InProgress u.cores[c] (markOf k) i (fun p => p.out = q.2)) ∧
      u.cores[c].v = k.v ∧ SameBytes s u ∧ u.cnt = q.1.cnt := by
  intro k i q sound
  obtain ⟨u, x, run, mem, cnt, hx, all, some⟩ := trd_queue h adv rel full held left rfl (q := q) rfl sound
  have bytes : SameBytes s u := .ofMem mem
  clear_value q
  by_cases none : q.2 = []
  · have core := all none
    rw [hx] at core
    exact ⟨u, run, by rw [core]; rfl, by rw [core], by rw [core], fun _ => ⟨by rw [core]; exact h.idle, by rw [core]; rfl⟩,
      fun left => absurd none left, by rw [core]; rfl, bytes, cnt⟩
  · have core := some none
    rw [hx] at core
    exact ⟨u, run, by rw [core]; rfl, by rw [core], by rw [core], fun left => absurd left none,
      fun _ => ⟨by rw [core]; rfl, _, by rw [core], rfl, rfl, rfl⟩, by rw [core]; rfl, bytes, cnt⟩

theorem twr_queue_fills {n : BitVec 7} {xs ys : List LqBeat} (empty : s.cores[c].t[t].full = false)
    (queue : s.cores[c].lq = xs ++ ys) (all : xs.length = n.toNat + 1) (plain : ∀ b ∈ xs, b.inc = none) :
    let k := s.cores[c]
    ∃ u, exec (.twr c adv k.t[t].cls n t .queue) s = .next u ∧ u.cores[c].pc = k.pc + 1 ∧ u.cores[c].lq = ys ∧
      u.cores[c].t = k.t.set t.val { cls := k.t[t].cls, full := true, rows := n.toNat + 1
                                     cols := 2048 / clsWidth k.t[t].cls
                                     data := xs.map (·.data), psn := xs.any (·.psn) } ∧ u.cores[c].prog = [] ∧
      u.cores[c].trvRow = sat32 k.trvRow (n.toNat + 1) ∧ u.cores[c].v = k.v ∧ SameBytes s u ∧ u.cnt = s.cnt := by
  intro k
  obtain ⟨u, run, inside, core⟩ := twr_queue_all h adv empty queue all plain
  have rows : filled k.t[t].cls (2048 / clsWidth k.t[t].cls) (xs.map (fun b => (b.data, b.psn))) =
      { cls := k.t[t].cls, full := true, rows := n.toNat + 1, cols := 2048 / clsWidth k.t[t].cls
        data := xs.map (·.data), psn := xs.any (·.psn) } := by
    rw [filled, List.length_map, all, List.map_map, List.any_map]; rfl
  rw [rows] at core
  exact ⟨u, run, by rw [core]; rfl, by rw [core]; rfl, by rw [core]; rfl, by rw [core]; exact h.idle, by rw [core]; rfl,
    by rw [core]; rfl, .ofMem inside.mem, inside.cnt⟩

end Assembly

/-- Settles O12: the forms of TREL, TWR and TRD, each by its lemma. -/
theorem trivetForms : Obligations.TrivetForms := by
  refine ⟨fun s c t h => ⟨fun cls => trel_issued h t cls, fun adv n a empty fits => ?_, fun adv rel st m a full fits held => ?_⟩,
    fun s c t adv d p h => ⟨fun n cols good cls empty open_ => twr_mem_fills h adv good cls empty open_,
      fun rel st m good cls full held => trd_mem_pushes h adv rel good cls full held,
      fun n xs ys empty queue all plain => twr_queue_fills h adv empty queue all plain,
      fun n empty few avail plain => ?_,
      fun rel st m full held left => trd_queue_pushes h adv rel full held left⟩⟩
  · obtain ⟨u, run, iss⟩ := twr_regs h adv empty fits
    refine ⟨u, run, ?_⟩
    rw [filled, List.length_map, List.length_range, List.map_map, List.any_map] at iss
    exact iss
  · obtain ⟨u, run, iss⟩ := trd_regs h adv rel full fits held
    refine ⟨u, (List.range (m.toNat + 1)).map (fun i => trivetBeat s.cores[c].t[t] (st.toNat + i)), run, by simp,
      by rw [List.map_map]; exact iss, fun j i hj hi => ?_⟩
    rw [List.getD_eq_getElem?_getD, List.getElem?_map, List.getElem?_range (by omega)]
    exact elemAt_trivetBeat _ _ hi
  · obtain ⟨u, run, pc, lq, same, prog⟩ := twr_queue_some h adv empty few avail plain
    exact ⟨u, run, pc, lq, same, _, prog, rfl, rfl, rfl, rfl⟩

end Sys2Proof.Machine
end

section
set_option Elab.async false -- one proof after another: this bounds the memory that a check of the whole text takes
/-! PROOFS. PACK and UNPK (R85, R89, R100, R189, R190, R376). -/

namespace Sys2Proof.Machine

theorem readItems_looks (s : State) (who : Who) (row : Option Nat) (w size : Nat) (c0 : Int) (count blank : Nat) :
    Looks s (readItems s who row w size c0 count blank).1 := by
  unfold readItems; dsimp only
  split
  · exact .refl s
  split
  · exact .refl s
  · exact readWords_looks ..

theorem readPacked_looks (s : State) (who : Who) (d : Desc) (p : PForm) (o0 o1 : Int) (q : Nat) :
    Looks s (readPacked s who d p o0 o1 q).1 := by
  unfold readPacked
  split
  · exact readItems_looks ..
  split
  · exact readItems_looks ..
  · exact readItems_looks ..

theorem readGroup_looks (who : Who) (d : Desc) (p : PForm) (o0 o1 : Int) :
    ∀ (n q : Nat) (s : State), Looks s (readGroup who d p o0 o1 n q s).1
  | 0, _, s => .refl s
  | n + 1, q, _ => (readPacked_looks ..).trans (readGroup_looks who d p o0 o1 n (q + 1) _)

section Pack

variable {s : State} {c : CoreId} {adv : Bool} {v : VReg} {f : BitVec 5} {d : DReg} {p : PairId}

/-- The entries that PACK pushes. -/
def packPushes (s : State) (c : CoreId) (v : VReg) (d : DReg) (p : PairId) (q : PForm) : List SqEntry :=
  packEntries s.cores[c].d[d] q (sInt s c ⟨p.val, by omega⟩) (sInt s c ⟨p.val + 1, by omega⟩)
    ((List.range (pfRegs q)).map (fun i => readV s c (vPlus v i)))

/-- Every entry pushed is poisoned when one of the registers is (R376). -/
theorem packPushes_psn {q : PForm} {e : SqEntry} (he : e ∈ packPushes s c v d p q) :
    e.psn = (List.range (pfRegs q)).any (fun i => (readV s c (vPlus v i)).2) := by
  unfold packPushes packEntries at he
  obtain ⟨b, -, rfl⟩ := List.mem_map.mp he
  exact List.any_map

theorem pack_fails (h : Ready s c) {x : Err} (bad : packCheck s.cores[c].d[d] v (sInt s c ⟨p.val, by omega⟩) = some x) :
    exec (.pack c adv d v p f) s = .next (failCore s c x (if x = .shapeMismatch then s.cores[c].pc else 0)) := by
  have effect : ∃ n F, exec (.pack c adv d v p f) s = .next (issue s c n F) ∧
      F s = failCore s c x (if x = .shapeMismatch then s.cores[c].pc else 0) := by
    refine ⟨_, _, rfl, ?_⟩
    dsimp only
    rw [bad]
    rfl
  obtain ⟨n, F, run, eq⟩ := effect
  exact run.trans (congrArg _ (issue_checkFails h n eq))

theorem unpk_fails (h : Ready s c) {x : Err} (bad : packCheck s.cores[c].d[d] v (sInt s c ⟨p.val, by omega⟩) = some x) :
    exec (.unpk c adv v (.mem d p) f) s = .next (failCore s c x (if x = .shapeMismatch then s.cores[c].pc else 0)) := by
  have effect : ∃ n F, exec (.unpk c adv v (.mem d p) f) s = .next (issue s c n F) ∧
      F s = failCore s c x (if x = .shapeMismatch then s.cores[c].pc else 0) := by
    refine ⟨_, _, rfl, ?_⟩
    dsimp only
    rw [bad]
    rfl
  obtain ⟨n, F, run, eq⟩ := effect
  exact run.trans (congrArg _ (issue_checkFails h n eq))

/-- A PACK that passes its checks launches with its entries to push (R189). -/
theorem pack_launches {q : PForm} (form : packedForm s.cores[c].d[d] = some q)
    (good : packCheck s.cores[c].d[d] v (sInt s c ⟨p.val, by omega⟩) = none) :
    ∃ (x : Prog) (F : State → State), exec (.pack c adv d v p f) s = .next (issue s c x.needs F) ∧
      F s = launch s c x 1 (fun s => advance s c adv d) ∧ x.cmd = .pack c adv d v p f ∧ x.mark = markOf s.cores[c] ∧
      x.out = (packPushes s c v d p q).map .own ∧ x.ladle = false ∧ x.need = 0 := by
  let n := match packedForm s.cores[c].d[d] with | some p => pfRegs p | none => 0
  let x : Prog := {
    cmd := .pack c adv d v p f
    needs := { units := [.convert], reads := (upto n).map (vPlus v), pushes := true }
    mark := markOf s.cores[c]
    out := (packPushes s c v d p q).map .own }
  refine ⟨x, _, rfl, ?_, rfl, rfl, rfl, rfl, rfl⟩
  simp only [good, withChecks, form, x, n, upto_eq_range]
  rfl

theorem pack_pushes (h : Ready s c) {q : PForm} (form : packedForm s.cores[c].d[d] = some q)
    (good : packCheck s.cores[c].d[d] v (sInt s c ⟨p.val, by omega⟩) = none) :
    let k := s.cores[c]
    let es := packPushes s c v d p q
    ∃ t, exec (.pack c adv d v p f) s = .next t ∧
      IssuedAs c s t (advanced { k with sq := k.sq ++ es.take (room k), prog := t.cores[c].prog } adv d) ∧
      (es.length ≤ room k → t.cores[c].prog = []) ∧
      (room k < es.length → InProgress t.cores[c] (markOf k) (.pack c adv d v p f) (fun p => p.out = (es.drop (room k)).map .own)) := by
  intro k es
  obtain ⟨x, F, run, goes, cmd, mark, out, free, fed⟩ := pack_launches (adv := adv) (f := f) form good
  obtain ⟨u, inside, core, others, woken, whole⟩ := launch_own_advance h adv d (es := es) out free fed
  have uncounted : pushCounted c x.cmd (es.take (room s.cores[c])).length u = u := by rw [cmd]; rfl
  have finish : progFinish c { x with out := [] } u = u := by unfold progFinish; rw [cmd]
  rw [← goes] at whole
  simp only [uncounted, finish] at whole
  have only : OnlyCore c s u := ⟨inside, others, woken⟩
  have idle : (ownPushed s c adv d es).prog = [] := by rw [ownPushed, issued, advanced_keeps]; exact h.idle
  have withProg (xs : List Prog) : { ownPushed s c adv d es with prog := xs } =
      issued s c (advanced { k with sq := k.sq ++ es.take (room k), prog := xs } adv d) := by
    unfold ownPushed issued; cases adv <;> rfl
  by_cases fits : es.length ≤ room k
  · rw [if_pos fits] at whole
    have prog : u.cores[c].prog = [] := by rw [core]; exact idle
    refine ⟨u, run.trans (congrArg _ (issue_inside h _ whole inside)), ⟨only, ?_⟩, fun _ => prog,
      fun more => absurd fits (Nat.not_le.mpr more)⟩
    rw [← withProg, prog, core, ← idle]
  · rw [if_neg fits] at whole
    have prog : (modCore u c (fun y => { y with prog := y.prog ++ [{ x with out := (es.drop (room s.cores[c])).map .own }] })).cores[c] =
        { ownPushed s c adv d es with prog := [{ x with out := (es.drop (room s.cores[c])).map .own }] } := by
      rw [modCore_self, core, idle]
      rfl
    refine ⟨_, run.trans (congrArg _ (issue_inside h _ whole (inside.trans rfl))), ⟨only.after _, ?_⟩,
      fun all => absurd all fits, fun _ => ?_⟩
    · rw [← withProg, prog]
    · rw [prog]
      exact ⟨_, rfl, cmd, mark, rfl⟩

/-! ### UNPK of a descriptor -/

theorem unpackInto_eq (s : State) (c : CoreId) (v : VReg) (q : PForm) (beats : List (Nat × Bool)) :
    unpackInto s c v q beats = modCore s c (fun k => wroteRun k v
      ((containerBeats q (unpackGroup q (beats.map (·.1)))).map (fun b => (b, beats.any (·.2))))) := writeRun_eq ..

theorem unpk_mem (h : Ready s c) {q : PForm} (form : packedForm s.cores[c].d[d] = some q)
    (good : packCheck s.cores[c].d[d] v (sInt s c ⟨p.val, by omega⟩) = none) (open_ : anyWindow s = false) :
    let k := s.cores[c]
    let r := readGroup (whoFetch c) k.d[d] q (sInt s c ⟨p.val, by omega⟩) (sInt s c ⟨p.val + 1, by omega⟩) (pfBeats q) 0 s
    ∃ t, exec (.unpk c adv v (.mem d p) f) s = .next t ∧
      IssuedAs c r.1 t (advanced (wroteRun k v ((containerBeats q (unpackGroup q (r.2.map (·.1)))).map
        (fun b => (b, r.2.any (·.2))))) adv d) ∧ SameBytes s t ∧ t.cnt = s.cnt := by
  intro k r
  obtain ⟨moves, keeps⟩ : Looks s r.1 := readGroup_looks ..
  have effect : ∃ (n : Needs) (F : State → State), exec (.unpk c adv v (.mem d p) f) s = .next (issue s c n F) ∧
      F s = retire (modCore r.1 c (fun k => advanced (wroteRun k v ((containerBeats q (unpackGroup q (r.2.map (·.1)))).map
        (fun b => (b, r.2.any (·.2))))) adv d)) c 1 := by
    refine ⟨_, _, rfl, ?_⟩
    simp only [good, withChecks, form]
    change retire (advance (unpackInto r.1 c v q r.2) c adv d) c 1 = _
    rw [advance_eq, unpackInto_eq, modCore_modCore]
  obtain ⟨n, F, run, eq⟩ := effect
  have iss := issue_open_retire h open_ n eq moves.cores (by rw [advanced_pc, wroteRun_pc]) (by rw [advanced_ag, wroteRun_ag])
  exact ⟨_, run, iss, (SameBytes.ofKeeps keeps).trans (.ofMem iss.inside.mem), iss.inside.cnt.trans moves.cnt⟩

end Pack

/-! ### UNPK of the load queue -/

section UnpkQueue

variable {s : State} {c : CoreId} {v : VReg} {f : BitVec 5}

/-- The packed form of the beats of the load queue. -/
def queueForm (f : BitVec 5) (km1 : BitVec 4) : PForm := { fmt := f.toNat, planes := km1.toNat + 1 }

/-- An UNPK of the load queue, as it launches. -/
def unpkQueue (s : State) (c : CoreId) (adv : Bool) (v : VReg) (f : BitVec 5) (km1 : BitVec 4) : Prog :=
  { cmd := .unpk c adv v (.queue f km1) f
    needs := { units := [.convert], writes := unpkWrites s c v (.queue f km1), takes := true }
    mark := markOf s.cores[c], need := pfBeats (queueForm f km1) }

theorem unpk_queue_launches (h : Ready s c) (adv : Bool) {km1 : BitVec 4} (fits : v.val + pfRegs (queueForm f km1) ≤ 32)
    (avail : pfBeats (queueForm f km1) ≤ lqAvail s c) {u : State} (goes : launch s c (unpkQueue s c adv v f km1) 1 id = u)
    (inside : Inside s u) : exec (.unpk c adv v (.queue f km1) f) s = .next u := by
  have effect : ∃ F : State → State, exec (.unpk c adv v (.queue f km1) f) s =
      .next (issue s c (unpkQueue s c adv v f km1).needs F) ∧ F s = launch s c (unpkQueue s c adv v f km1) 1 id := by
    refine ⟨_, rfl, ?_⟩
    exact (if_neg (Nat.not_lt.mpr fits)).trans (if_neg (Nat.not_lt.mpr avail))
  obtain ⟨F, run, eq⟩ := effect
  exact run.trans (congrArg _ (issue_inside h _ (eq.trans goes) inside))

theorem unpk_queue_underruns (h : Ready s c) (adv : Bool) {km1 : BitVec 4} (fits : v.val + pfRegs (queueForm f km1) ≤ 32)
    (short : lqAvail s c < pfBeats (queueForm f km1)) :
    exec (.unpk c adv v (.queue f km1) f) s = .next (failCore s c .lqUnderrun 0) := by
  have effect : ∃ (n : Needs) (F : State → State), exec (.unpk c adv v (.queue f km1) f) s = .next (issue s c n F) ∧
      F s = failCore s c .lqUnderrun 0 := by
    refine ⟨_, _, rfl, ?_⟩
    exact (if_neg (Nat.not_lt.mpr fits)).trans (if_pos short)
  obtain ⟨n, F, run, eq⟩ := effect
  exact run.trans (congrArg _ (issue_checkFails h n eq))

/-- An instruction in progress is all that the core keeps of it. -/
theorem rowsTaken_unpk (adv : Bool) (km1 : BitVec 4) (n : Nat) (u : State) : rowsTaken c (unpkQueue s c adv v f km1).cmd n u = u := rfl

theorem taken_only (ys : List LqBeat) : OnlyCore c s (modCore (retire s c 1) c (fun k => { k with lq := ys })) :=
  (retire_core s c 1).1.after _

theorem taken_core' (h : Ready s c) (ys : List LqBeat) :
    (modCore (retire s c 1) c (fun k => { k with lq := ys })).cores[c] = { issued s c s.cores[c] with lq := ys } := by
  rw [modCore_self, (retire_core s c 1).2, h.pc_next]
  rfl

/-- Writes of registers and a change of control and load queue do not meet. -/
theorem wroteRun_with (k : Core) (a : VReg) (xs : List (Bits × Bool)) (pc : Nat) (ag : AgentSt) (lq : List LqBeat) :
    wroteRun { k with pc := pc, ag := ag, lq := lq } a xs = { wroteRun k a xs with pc := pc, ag := ag, lq := lq } := by
  have h : ∀ (l : List ((Bits × Bool) × Nat)) (k : Core),
      l.foldl (fun k p => wroteV k (vPlus a p.2) p.1.1 p.1.2) { k with pc := pc, ag := ag, lq := lq } =
        { l.foldl (fun k p => wroteV k (vPlus a p.2) p.1.1 p.1.2) k with pc := pc, ag := ag, lq := lq } := by
    intro l
    induction l with
    | nil => exact fun _ => rfl
    | cons p r ih => exact fun k => ih (wroteV k (vPlus a p.2) p.1.1 p.1.2)
  exact h _ k

theorem unpk_queue_all (h : Ready s c) (adv : Bool) {km1 : BitVec 4} (fits : v.val + pfRegs (queueForm f km1) ≤ 32)
    {xs ys : List LqBeat} (queue : s.cores[c].lq = xs ++ ys) (all : xs.length = pfBeats (queueForm f km1))
    (plain : ∀ b ∈ xs, b.inc = none) :
    ∃ t, exec (.unpk c adv v (.queue f km1) f) s = .next t ∧
      IssuedAs c s t { wroteRun s.cores[c] v ((containerBeats (queueForm f km1) (unpackGroup (queueForm f km1)
        (xs.map (fun b => b.data.toNat)))).map (fun b => (b, xs.any (·.psn)))) with lq := ys } := by
  have goes := launch_takes_all (s := s) (adv := id) (p := unpkQueue s c adv v f km1) (xs := xs) (ys := ys) 1 h.idle h.runs
    h.errDue_false trivial rfl rfl rfl queue plain all
  rw [id_eq, rowsTaken_unpk] at goes
  have only := taken_only (s := s) (c := c) ys
  have core := taken_core' h ys
  generalize modCore (retire s c 1) c (fun k => { k with lq := ys }) = r at goes core only
  let got := xs.map (fun b => (b.data.toNat, b.psn))
  have finish : progFinish c (fedWith (unpkQueue s c adv v f km1) xs) r = unpackInto r c v (queueForm f km1) got := by
    show unpackInto r c v (queueForm f km1) 
      (([] ++ xs.map (fun b : LqBeat => (b.data, b.psn))).map (fun b : Bits × Bool => (b.1.toNat, b.2))) = _
    rw [List.nil_append, List.map_map]
    rfl
  rw [finish, unpackInto_eq, List.map_map, List.any_map] at goes
  have inside : Inside s r := only.1
  refine ⟨_, unpk_queue_launches h adv fits (by rw [← all]; exact lqAvail_of_taken queue) goes (inside.trans rfl),
    only.after _, ?_⟩
  rw [modCore_self, core]
  exact wroteRun_with s.cores[c] v _ (s.cores[c].pc + 1) _ ys

theorem unpk_queue_some (h : Ready s c) (adv : Bool) {km1 : BitVec 4} (fits : v.val + pfRegs (queueForm f km1) ≤ 32)
    (few : s.cores[c].lq.length < pfBeats (queueForm f km1)) (avail : pfBeats (queueForm f km1) ≤ lqAvail s c)
    (plain : ∀ b ∈ s.cores[c].lq, b.inc = none) :
    ∃ t, exec (.unpk c adv v (.queue f km1) f) s = .next t ∧
      IssuedAs c s t { s.cores[c] with lq := [], prog := t.cores[c].prog } ∧
      t.cores[c].prog = [fedWith (unpkQueue s c adv v f km1) s.cores[c].lq] := by
  have goes := launch_takes_some (s := s) (adv := id) (p := unpkQueue s c adv v f km1) (xs := s.cores[c].lq) 1 h.idle h.runs
    h.errDue_false trivial rfl rfl rfl rfl plain few
  rw [id_eq, rowsTaken_unpk] at goes
  have only := taken_only (s := s) (c := c) []
  have core := taken_core' h []
  generalize modCore (retire s c 1) c (fun k => { k with lq := [] }) = r at goes core only
  have inside : Inside s r := only.1
  have prog : r.cores[c].prog = [] := by rw [core]; exact h.idle
  refine ⟨_, unpk_queue_launches h adv fits avail goes (inside.trans rfl), ⟨only.after _, ?_⟩, ?_⟩
  · rw [modCore_self, core]
    rfl
  · rw [modCore_self]
    show r.cores[c].prog ++ _ = _
    rw [prog]
    rfl

end UnpkQueue

/-- Settles O17: PACK and UNPK, each form by its lemma. -/
theorem packAndUnpk : Obligations.PackAndUnpk := by
  intro s c adv v f h k
  refine ⟨fun d p => ⟨fun q form good => ⟨?_, fun open_ => unpk_mem h form good open_⟩,
    fun x bad => ⟨pack_fails h bad, unpk_fails h bad⟩⟩, fun km1 fits => ⟨fun xs ys queue all plain => unpk_queue_all h adv fits queue all plain,
      fun few avail plain => ?_, fun short => unpk_queue_underruns h adv fits short⟩⟩
  · obtain ⟨t, run, iss, all, some⟩ := pack_pushes (adv := adv) (f := f) h form good
    exact ⟨t, run, iss, all, some, fun e he => packPushes_psn he⟩
  · obtain ⟨t, run, iss, prog⟩ := unpk_queue_some h adv fits few avail plain
    exact ⟨t, run, iss, _, prog, rfl, rfl, rfl, rfl⟩

end Sys2Proof.Machine
end

section
set_option Elab.async false -- one proof after another: this bounds the memory that a check of the whole text takes
/-! PROOFS. The Ladle's next command: a contained error of its core takes the other waiting commands of the task with it (R150,
R381). -/

namespace Sys2Proof.Machine

/-- Two gathers of one task wait for a free Ladle. The first, of core 0, pushes through the store list, whose entry has an
uncorrectable list error (R203). -/
def ladleQueue : State :=
  { State.reset with
    u := { state := .running, step := 7, blendOk := true, lcores := 16, gangOk := 0xF, ladleOk := 0xF, eaOk := 3 }
    fr := { State.reset.fr with scrubOff := 1000 }
    cores := (Vector.replicate 16 ({} : Core)).set 0 {
      st := .run
      storeList := some ⟨0, 1⟩
      prog := [{ cmd := .gth 0 false .queue 0 1 0 false, needs := {}, mark := markOf {}, ladle := true }] }
    cls := (Vector.replicate 4 ({} : Cluster)).set 0 { waiting := [.core 0, .core 1] }
    hwf := [.listUe 0] }

/-- LADLE_START on it: core 0's gather runs and fails, its task is aborted, and core 1's gather waits no more. -/
theorem ladleQueue_emptied : (match exec (.ladleStart 0) ladleQueue with
    | .next t => t.cls[(0 : ClusterId)].waiting
    | _ => [.core 1]) = [] := by
  decide +kernel

/-- Refutes O15: where the gather that the Ladle takes ends in a contained error, the abort of its task drops the other
commands that wait (R381), so that the queue is not the old one without the command taken. -/
theorem not_ladleCommandsWaitAndRun : ¬ Obligations.LadleCommandsWaitAndRun := by
  intro h
  obtain ⟨-, starts⟩ := h
  obtain ⟨-, next⟩ := starts ladleQueue 0
  obtain ⟨-, t, run, -, waiting, -⟩ := next (.core 0) rfl (by decide +kernel) (by decide +kernel)
  have left : ladleQueue.cls[(0 : ClusterId)].waiting.erase (.core 0) = [.core 1] := by decide +kernel
  have emptied := ladleQueue_emptied
  rw [run] at emptied
  rw [left] at waiting
  exact absurd (waiting.symm.trans emptied) (by decide)

end Sys2Proof.Machine
end

section
set_option Elab.async false -- one proof after another: this bounds the memory that a check of the whole text takes
/-! PROOFS. FUSE: beats through the stages touch their own core and no byte of the stores (R197 to R201). -/

namespace Sys2Proof.Machine

/-- If no contained error has come over core `c`: no byte of the stores and no other core has changed, and of core `c` neither
its control nor what it has in progress. -/
structure Onward (c : CoreId) (s t : State) : Prop where
  sound : t.cores[c].errDue = false → s.cores[c].errDue = false
  bytes : t.cores[c].errDue = false → SameBytes s t
  others : t.cores[c].errDue = false → ∀ q : CoreId, q ≠ c → t.cores[q] = s.cores[q]
  core : t.cores[c].errDue = false →
    t.cores[c].pc = s.cores[c].pc ∧ t.cores[c].st = s.cores[c].st ∧ t.cores[c].prog = s.cores[c].prog

namespace Onward

variable {c : CoreId} {s t u : State}

theorem refl (c : CoreId) (s : State) : Onward c s s := ⟨id, fun _ _ => rfl, fun _ _ _ => rfl, fun _ => ⟨rfl, rfl, rfl⟩⟩

theorem trans (h : Onward c s t) (k : Onward c t u) : Onward c s u where
  sound e := h.sound (k.sound e)
  bytes e := (h.bytes (k.sound e)).trans (k.bytes e)
  others e q hq := (k.others e q hq).trans (h.others (k.sound e) q hq)
  core e := by
    obtain ⟨pc, st, prog⟩ := k.core e
    obtain ⟨pc', st', prog'⟩ := h.core (k.sound e)
    exact ⟨pc.trans pc', st.trans st', prog.trans prog'⟩

/-- The cores and the stores stay. -/
theorem same (cores : t.cores = s.cores) (mem : t.mem = s.mem) : Onward c s t where
  sound e := by rw [← cores]; exact e
  bytes _ := .ofMem mem
  others _ q _ := by rw [cores]
  core _ := by rw [cores]; exact ⟨rfl, rfl, rfl⟩

theorem ofCountEv (s : State) (e : PwrEv) (n : Nat) : Onward c s (countEv s e n) := .same rfl rfl

theorem ofLooks (h : Looks s t) : Onward c s t where
  sound e := by rw [← h.1.cores]; exact e
  bytes _ := .ofKeeps h.2
  others _ q _ := by rw [h.1.cores]
  core _ := by rw [h.1.cores]; exact ⟨rfl, rfl, rfl⟩

theorem ofPushed (h : Pushed c s t) : Onward c s t where
  sound e := (h.core e).1
  bytes _ := .ofMem h.mem
  others e := (h.others e).2
  core e := by rw [(h.core e).2]; exact ⟨rfl, rfl, rfl⟩

theorem ofModCore (f : Core → Core) (h : ∀ x, (f x).errDue = x.errDue ∧ (f x).pc = x.pc ∧ (f x).st = x.st ∧ (f x).prog = x.prog) :
    Onward c s (modCore s c f) where
  sound e := by rw [modCore_self, (h _).1] at e; exact e
  bytes _ := .ofMem rfl
  others _ q hq := modCore_other _ _ _ _ hq
  core _ := by rw [modCore_self]; exact (h _).2

theorem andModCore (h : Onward c s t) (f : Core → Core)
    (hf : ∀ x, (f x).errDue = x.errDue ∧ (f x).pc = x.pc ∧ (f x).st = x.st ∧ (f x).prog = x.prog) : Onward c s (modCore t c f) :=
  h.trans (.ofModCore f hf)

theorem ofProgress (s : State) : Onward c s (progress s (.core c)) := by
  obtain ⟨⟨frame, others, -⟩, core⟩ := progress_core s c
  exact ⟨fun e => by rw [core] at e; exact e, fun _ => .ofMem (progress_mem s c), fun _ => others,
    fun _ => by rw [core]; exact ⟨rfl, rfl, rfl⟩⟩

/-- A contained error has come. -/
theorem ofError (h : t.cores[c].errDue = true) : Onward c s t where
  sound e := by rw [h] at e; cases e
  bytes e := by rw [h] at e; cases e
  others e := by rw [h] at e; cases e
  core e := by rw [h] at e; cases e

end Onward

/-! ### The parts of a fused command -/

theorem incCtrBy_cores (s : State) (p : Part) (loc : Nat) (c : Ctr) (a : Word) (b : Bool) :
    (incCtrBy s p loc c a b).cores = s.cores := by rw [incCtrBy_eq]

theorem popLq_onward (s : State) (c : CoreId) : Onward c s (popLq s c).1 := by
  unfold popLq
  split
  · exact .refl c s
  · rename_i b r _
    refine Onward.trans (t := modCore s c (fun k => { k with lq := r })) (.ofModCore _ fun _ => ⟨rfl, rfl, rfl, rfl⟩) ?_
    dsimp only
    split
    · exact .same (incCtrBy_cores ..) (incCtrBy_mem ..)
    · exact .refl c _

theorem failCoreHw_errDue (s : State) (c : CoreId) (e : Err) (d : Nat) : (failCoreHw s c e d).cores[c].errDue = true := by
  have due := failCore_errDue s c e d
  unfold failCoreHw proposeRow raiseEvt
  generalize failCore s c e d = t at due
  dsimp only
  rw [if_pos rfl, modCore_self]
  exact due

theorem netUse_onward (s : State) (c : CoreId) (pc e : Nat) (ds : Vector Desc 16) (src : RouteSrc) (x : Bits) :
    Onward c s (netUse s c pc e ds src x).1 := by
  have counted (s : State) (n : Nat) : Onward c s (countPasses s c n) := by
    rw [countPasses, countEv_modCore]
    refine (Onward.ofCountEv s .netPass n).andModCore _ ?_
    exact fun _ => ⟨rfl, rfl, rfl, rfl⟩
  by_cases ue : ∀ n, src = .slot n → HwFault.routeUe c n ∉ s.hwf
  · rw [netUse_eq ue]
    dsimp only
    generalize hr : (if slotCorrected s c src then modCore s c (fun k => { k with routeCe := sat32 k.routeCe 1 }) else s) = r
    have corrected : Onward c s r := by
      rw [← hr]
      split
      · exact .ofModCore _ fun _ => ⟨rfl, rfl, rfl, rfl⟩
      · exact .refl c s
    have used : Onward c s (modCore (countPasses r c (routePasses ds src)) c (fun k => { k with factor := factorAfter r c ds src })) := by
      refine (corrected.trans (counted r (routePasses ds src))).andModCore _ ?_
      exact fun _ => ⟨rfl, rfl, rfl, rfl⟩
    split
    · exact used
    · exact .ofError (failCoreHw_errDue ..)
  · simp only [not_forall, not_not] at ue
    obtain ⟨n, rfl, ue⟩ := ue
    have whole : netUse s c pc e ds (.slot n) x = (failCoreHw s c .routeUe 0, none) := by
      unfold netUse
      exact if_pos (by simpa using ue)
    rw [whole]
    exact .ofError (failCoreHw_errDue ..)

theorem stageRun_onward (s : State) (c : CoreId) (m : Mark) (w : BitVec 64) (g : Nat) (xs : List (Bits × Bool)) :
    Onward c s (stageRun s c m w g xs).1 := by
  have rows (s : State) (n : Nat) : Onward c s (countRows s c n) := by
    rw [countRows_eq]
    refine (Onward.ofCountEv s .trvRow n).andModCore _ ?_
    exact fun _ => ⟨rfl, rfl, rfl, rfl⟩
  have beats (s : State) (n : Nat) : Onward c s (countBeats s c n) := by
    rw [countBeats, countEv_modCore]
    refine (Onward.ofCountEv s .trvBeat n).andModCore _ ?_
    exact fun _ => ⟨rfl, rfl, rfl, rfl⟩
  unfold stageRun
  dsimp only
  split
  · exact .refl c s
  · exact .refl c s
  · exact .refl c s
  · exact (rows s _).trans (beats _ _)
  · split
    · exact .refl c s
    · rename_i b _
      have use := netUse_onward s c m.pc (wFlg w % 8) m.d (stageRoute w) b.1
      split <;> rename_i eq <;> rw [eq] at use <;> exact use
  · exact .refl c s

/-- A beat fed to the stages (R198, R200). -/
theorem feedStages_onward (c : CoreId) (m : Mark) (last : BitVec 64) :
    ∀ (n : Nat) (st : List FStage) (b : Bits × Bool) (r : FRun), Onward c r.s (feedStages c m last n st b r).2.s
  | 0, _, _, r => .refl c r.s
  | _ + 1, [], _, r => .refl c r.s
  | n + 1, x :: rest, b, r => by
    have run := stageRun_onward r.s c m x.w x.groups (x.buf ++ [b])
    have feed : ∀ (outs : List (Bits × Bool)) (acc : List FStage × FRun),
        Onward c acc.2.s (outs.foldl (fun (acc : List FStage × FRun) o => feedStages c m last n acc.1 o acc.2) acc).2.s := by
      intro outs
      induction outs with
      | nil => exact fun acc => .refl c acc.2.s
      | cons o t ih => exact fun acc => (feedStages_onward c m last n acc.1 o acc.2).trans (ih _)
    unfold feedStages
    dsimp only
    split
    · exact .refl c r.s
    split
    · exact .refl c r.s
    split <;> rename_i eq <;> rw [eq] at run
    · exact run
    · rename_i s' outs
      exact run.trans (feed outs.1 (rest, { r with s := s', out := r.out ++ outs.2 }))

/-- An instruction in progress that is a FUSE, with no Ladle to wait for. -/
def Fused (p : Prog) : Prop := (∃ c b ws, p.cmd = .fuse c b ws) ∧ p.ladle = false

theorem progPush_onward (c : CoreId) {p : Prog} (h : Fused p) (s : State) :
    Onward c s (progPush c p s).1 ∧ Fused (progPush c p s).2 := by
  obtain ⟨⟨c', b, ws, cmd⟩, free⟩ := h
  refine ⟨?_, ⟨c', b, ws, cmd⟩, free⟩
  have pushed := Onward.ofPushed (pushSome_pushed c p.out s)
  rw [progPush_eq, cmd]
  dsimp only [pushCounted]
  split
  · exact pushed
  · exact pushed.trans (.ofProgress _)

theorem progTake_onward (c : CoreId) (p : Prog) (s : State) : Onward c s (progTake c p s).1 := by
  unfold progTake
  split
  · exact popLq_onward s c
  split
  · unfold fuseRead
    dsimp only
    split
    · exact .ofLooks (readPacked_looks ..)
    · exact .ofLooks (readBeat_looks ..)
  · exact .refl c s

theorem progFeed_onward (c : CoreId) {p : Prog} (h : Fused p) (s : State) (b : Bits × Bool) :
    Onward c s (progFeed c p s b).1 ∧ ∀ p', (progFeed c p s b).2 = some p' → Fused p' := by
  obtain ⟨⟨c', b', ws, cmd⟩, free⟩ := h
  have fed := feedStages_onward c p.mark (ws.getLast?.getD 0) (ws.length + 1) p.stages b { s := s, sunk := p.sunk }
  unfold progFeed
  rw [cmd]
  dsimp only
  generalize feedStages c p.mark (ws.getLast?.getD 0) (ws.length + 1) p.stages b { s := s, sunk := p.sunk } = q at fed ⊢
  split
  · exact ⟨fed, fun p' hp => absurd hp (by simp)⟩
  · exact ⟨fed, fun p' hp => by cases hp; exact ⟨⟨c', b', ws, rfl⟩, free⟩⟩

theorem progFinish_fused (c : CoreId) {p : Prog} (h : Fused p) (s : State) : progFinish c p s = s := by
  obtain ⟨⟨c', b, ws, cmd⟩, -⟩ := h
  unfold progFinish
  rw [cmd]

/-- A fused command that goes on, as far as beats, queue room and pushes allow (R198, R200). -/
theorem runProg_onward (c : CoreId) : ∀ (n : Nat) (p : Prog) (s : State), Fused p → Onward c s (runProg c n p s).1
  | 0, _, s, _ => .refl c s
  | n + 1, p, s, h => by
    obtain ⟨push, fused⟩ := progPush_onward c h s
    unfold runProg
    dsimp only
    generalize progPush c p s = q at push fused
    split
    · exact push
    split
    · exact push
    rw [fused.2, if_neg Bool.false_ne_true]
    split
    · rw [progFinish_fused c fused]; exact push
    split
    · exact push
    · have take := (push.trans (.ofProgress q.1)).trans (progTake_onward c q.2 (progress q.1 (.core c)))
      obtain ⟨feed, fused'⟩ := progFeed_onward c fused (progTake c q.2 (progress q.1 (.core c))).1
        (progTake c q.2 (progress q.1 (.core c))).2
      split <;> rename_i eq <;> rw [eq] at feed fused'
      · exact take.trans feed
      · exact (take.trans feed).trans (runProg_onward c n _ _ (fused' _ rfl))

/-! ### The command -/

theorem stageAdvance_onward (c : CoreId) (w : BitVec 64) (s : State) : Onward c s (stageAdvance c w s) := by
  have advances (d : DReg) : Onward c s (advance s c true d) := by
    rw [advance_eq]
    exact .ofModCore _ fun x => by rw [advanced_keeps]; exact ⟨rfl, rfl, rfl, rfl⟩
  unfold stageAdvance
  split
  · split
    · exact advances _
    split
    · exact advances _
    · exact .refl c s
  · exact .refl c s

/-- The descriptors after `ADV` of the stage words (R176, R198). -/
def stagesAdvanced (c : CoreId) (ws : List (BitVec 64)) (s : State) : State := ws.foldl (fun s w => stageAdvance c w s) s

theorem stagesAdvanced_onward (c : CoreId) : ∀ (ws : List (BitVec 64)) (s : State), Onward c s (stagesAdvanced c ws s)
  | [], s => .refl c s
  | w :: r, s => (stageAdvance_onward c w s).trans (stagesAdvanced_onward c r _)

theorem stagesAdvanced_errDue (c : CoreId) : ∀ (ws : List (BitVec 64)) (s : State),
    (stagesAdvanced c ws s).cores[c].errDue = s.cores[c].errDue
  | [], _ => rfl
  | w :: r, s => by
    have one : (stageAdvance c w s).cores[c].errDue = s.cores[c].errDue := by
      have advances (d : DReg) : (advance s c true d).cores[c].errDue = s.cores[c].errDue := by
        rw [advance_eq, modCore_self, advanced_keeps]
      unfold stageAdvance
      split
      · split
        · exact advances _
        split
        · exact advances _
        · rfl
      · rfl
    exact (stagesAdvanced_errDue c r _).trans one

/-- A FUSE, as it launches. -/
def fuseProg (s : State) (c : CoreId) (b : BitVec 24) (stages : List (BitVec 64)) : Prog :=
  { cmd := .fuse c b stages, needs := fuseNeeds stages, mark := markOf s.cores[c], need := b.toNat + 1
    stages := stages.map (fun w => { w := w }) }

theorem fuse_launches {s : State} {c : CoreId} {b : BitVec 24} {first last : BitVec 64} {stages : List (BitVec 64)}
    (head : stages.head? = some first) (tail : stages.getLast? = some last) (good : stagesCheck s c stages = none)
    (fed : ¬ (opKind (wSrcA first) = 5 ∧ lqAvail s c < b.toNat + 1))
    (room : ¬ (opKind (wDst last) = 6 ∧ storeLeft s c < fuseOut (markOf s.cores[c]) (b.toNat + 1) stages)) :
    ∃ F, exec (.fuse c b stages) s = .next (issue s c (fuseNeeds stages) F) ∧
      F s = launch s c (fuseProg s c b stages) (1 + stages.length) (stagesAdvanced c stages) := by
  refine ⟨_, rfl, ?_⟩
  match stages, head with
  | w :: r, head =>
    cases head
    simp only [tail, withChecks, good, if_neg fed, if_neg room]
    rfl

/-- A core that runs keeps what is left of its instruction, and all else stays. -/
theorem keepProg_kept {c : CoreId} {q : State × Option Prog} (idle : q.1.cores[c].prog = []) (runs : q.1.cores[c].st = .run) :
    (keepProg c q).cores[c] = { q.1.cores[c] with prog := q.2.toList } ∧ (keepProg c q).cnt = q.1.cnt ∧
      (keepProg c q).mem = q.1.mem ∧ ∀ k : CoreId, k ≠ c → (keepProg c q).cores[k] = q.1.cores[k] := by
  obtain ⟨s, p⟩ := q
  cases p with
  | none =>
    refine ⟨?_, rfl, rfl, fun _ _ => rfl⟩
    show s.cores[c] = { s.cores[c] with prog := [] }
    rw [← idle]
  | some p =>
    have kept : keepProg c (s, some p) = modCore s c (fun x => { x with prog := x.prog ++ [p] }) := if_pos runs
    rw [kept]
    refine ⟨?_, rfl, rfl, fun k hk => modCore_other _ _ _ _ hk⟩
    rw [modCore_self, idle]
    rfl

/-- Settles O18: the run of a fused command keeps to its core, and what is left of it stays in progress. -/
theorem fuseRunsItsStages : Obligations.FuseRunsItsStages := by
  intro s c b first last stages h head tail good open_ fed room p r sound
  obtain ⟨F, run, goes⟩ := fuse_launches head tail good fed room
  have retired := retire_core (stagesAdvanced c stages s) c (1 + stages.length)
  have adv := stagesAdvanced_onward c stages s
  have advSound : (stagesAdvanced c stages s).cores[c].errDue = false := by rw [stagesAdvanced_errDue]; exact h.errDue_false
  obtain ⟨pc, st, prog⟩ := adv.core advSound
  have onward : Onward c (retire (stagesAdvanced c stages s) c (1 + stages.length)) r.1 :=
    runProg_onward c _ _ _ ⟨⟨c, b, stages, rfl⟩, rfl⟩
  obtain ⟨pc', st', prog'⟩ := onward.core sound
  rw [(retire_core (stagesAdvanced c stages s) c (1 + stages.length)).2] at pc' st' prog'
  have whole : launch s c p (1 + stages.length) (stagesAdvanced c stages) = keepProg c r :=
    launch_goes p _ (prog.trans h.idle) (st.trans h.runs)
  obtain ⟨core, cnt, mem, others⟩ := keepProg_kept (c := c) (q := r) (prog'.trans (prog.trans h.idle)) (st'.trans (st.trans h.runs))
  refine ⟨keepProg c r, run.trans (congrArg _ ?_), ?_, core, cnt, ?_, fun q hq => ?_⟩
  · rw [issue_open h _ _ open_, goes]
    exact whole
  · rw [core, Nat.add_assoc, ← pc]
    exact pc'
  · exact ((adv.bytes advSound).trans (.ofMem (Inside.ofRetire ..).mem)).trans ((onward.bytes sound).trans (.ofMem mem))
  · obtain ⟨⟨-, same, -⟩, -⟩ := retired
    rw [others q hq, onward.others sound q hq, same q hq, adv.others advSound q hq]

end Sys2Proof.Machine
end

section
set_option Elab.async false -- one proof after another: this bounds the memory that a check of the whole text takes
/-! PROOFS. Fields of words, and the checks of a flit (R314, R316, R317). -/

namespace Sys2Proof.Machine

/-! ### Fields -/

theorem getLsbD_setFld {n : Nat} (x : BitVec n) (lo w v i : Nat) : (setFld x lo w v).getLsbD i =
    if lo ≤ i ∧ i < lo + w then decide (i < n) && v.testBit (i - lo) else x.getLsbD i := by
  simp only [setFld, BitVec.getLsbD_or, BitVec.getLsbD_and, BitVec.getLsbD_not, BitVec.getLsbD_shiftLeft, BitVec.getLsbD_ofNat,
    Nat.testBit_two_pow_sub_one, Nat.testBit_mod_two_pow]
  by_cases inside : i < n
  · by_cases low : i < lo
    · simp [inside, low, show ¬(lo ≤ i ∧ i < lo + w) by omega]
    · by_cases high : i < lo + w
      · simp [inside, low, high, show lo ≤ i by omega, show i - lo < w by omega, show i - lo < n by omega]
      · simp [inside, low, high, show ¬i - lo < w by omega]
  · simp [inside, BitVec.getLsbD_of_ge x i (by omega)]

theorem testBit_fldN {n : Nat} (x : BitVec n) (lo w i : Nat) : (fldN x lo w).testBit i = (decide (i < w) && x.getLsbD (lo + i)) := by
  rw [fldN, BitVec.testBit_toNat, BitVec.getLsbD_extractLsb']

/-- A field reads what was set in it. -/
theorem fldN_setFld_same {n : Nat} (x : BitVec n) {lo w : Nat} (v : Nat) (_within : lo + w ≤ n) :
    fldN (setFld x lo w v) lo w = v % 2 ^ w := by
  refine Nat.eq_of_testBit_eq fun i => ?_
  rw [testBit_fldN, getLsbD_setFld, Nat.testBit_mod_two_pow]
  by_cases h : i < w
  · simp [h, show lo + i < n by omega]
  · simp [h]

/-- A field apart from the one set stays. -/
theorem fldN_setFld_other {n : Nat} (x : BitVec n) {lo w lo' w' : Nat} (v : Nat) (apart : lo' + w' ≤ lo ∨ lo + w ≤ lo') :
    fldN (setFld x lo w v) lo' w' = fldN x lo' w' := by
  refine Nat.eq_of_testBit_eq fun i => ?_
  rw [testBit_fldN, testBit_fldN, getLsbD_setFld]
  by_cases h : i < w'
  · rw [if_neg (by omega)]
  · simp [h]

/-- Bytes below a field stay. -/
theorem bytesOf_setFld {n : Nat} (x : BitVec n) {k lo : Nat} (w v : Nat) (below : 8 * k ≤ lo) :
    bytesOf (setFld x lo w v) k = bytesOf x k := by
  refine List.map_congr_left fun i hi => ?_
  rw [upto_eq_range, List.mem_range] at hi
  refine BitVec.eq_of_getLsbD_eq fun j hj => ?_
  simp only [byteAt, BitVec.getLsbD_extractLsb', getLsbD_setFld]
  rw [if_neg (by omega)]

/-! ### The checks of a flit -/

section Checks

variable (h : BitVec 128) (v : Nat)

theorem crcHdr_setFld_low : crcHdr (setFld h 4 12 v) = crcHdr h := by
  refine BitVec.eq_of_getLsbD_eq fun i hi => ?_
  simp only [crcHdr, getLsbD_setFld]
  by_cases label : 4 ≤ i ∧ i < 4 + 12
  · simp [label]
  · simp [label]

theorem crcHdr_setFld_high {lo w : Nat} (high : 88 ≤ lo) (_within : lo + w ≤ 128) : crcHdr (setFld h lo w v) = crcHdr h := by
  refine BitVec.eq_of_getLsbD_eq fun i hi => ?_
  simp only [crcHdr, getLsbD_setFld]
  by_cases field : lo ≤ i ∧ i < lo + w
  · have link : 88 ≤ i ∧ i < 88 + 40 := by omega
    simp only [link, and_self, if_true]
  · simp only [field, if_false]

end Checks

/-- The header with the checks of another field stays good: the type, `INC`, the reserved bits and the label are apart from
the checks. -/
theorem flitCrc_relabelled (f : Flit) (v : Nat) : flitCrc { f with hdr := setFld f.hdr 4 12 v } = flitCrc f := by
  simp only [flitCrc, crcHdr_setFld_low]

theorem flitCrc_resealHdr (f : Flit) : flitCrc (resealHdr f) = flitCrc f := by
  simp only [flitCrc, resealHdr, crcHdr_setFld_high _ _ (Nat.le_refl 88) (by decide : 88 + 8 ≤ 128)]

theorem flitHcrc_resealHdr (f : Flit) : flitHcrc (resealHdr f) = flitHcrc f := by
  simp only [flitHcrc, resealHdr, bytesOf_setFld _ _ _ (Nat.le_refl (8 * 11))]

/-- A flit whose type, `INC` and reserved bits are in order and whose payload check holds is good once its header is sealed. -/
theorem flitGood_resealHdr {f : Flit} (typ : fType f ≤ 9) (inc : fInc f ≠ 3) (reserved : fReserved f = 0)
    (payload : fType f = tIdle ∨ fldN f.hdr 96 32 = (flitCrc f).toNat) : flitGood (resealHdr f) = true := by
  have other {lo w : Nat} (apart : lo + w ≤ 88 ∨ 96 ≤ lo) : fldN (resealHdr f).hdr lo w = fldN f.hdr lo w :=
    fldN_setFld_other _ _ apart
  have typ' : fType (resealHdr f) = fType f := other (.inl (by decide))
  have inc' : fInc (resealHdr f) = fInc f := other (.inl (by decide))
  have reserved' : fReserved (resealHdr f) = fReserved f := other (.inl (by decide))
  have header : fldN (resealHdr f).hdr 88 8 = (flitHcrc (resealHdr f)).toNat := by
    rw [flitHcrc_resealHdr]
    exact (fldN_setFld_same _ _ (by decide)).trans (Nat.mod_eq_of_lt (flitHcrc f).isLt)
  have payload' : fType f = tIdle ∨ fldN (resealHdr f).hdr 96 32 = (flitCrc (resealHdr f)).toNat := by
    rw [flitCrc_resealHdr, other (.inr (by decide))]; exact payload
  simp only [flitGood, header, typ', inc', reserved', reserved, typ, inc, ne_eq, not_false_eq_true, decide_true, Bool.true_and,
    Bool.and_true, Bool.or_eq_true, decide_eq_true_eq]
  exact payload'

/-- Settles O20: both checks are set over fields apart from each other, and a new label leaves the payload check alone. -/
theorem sealedFlitsPassTheirChecks : Obligations.SealedFlitsPassTheirChecks := by
  intro f label typ inc reserved small
  let c : Nat := if fType f = tIdle then 0 else (flitCrc f).toNat
  let g : Flit := { f with hdr := setFld f.hdr 96 32 c }
  have other {lo w : Nat} (apart : lo + w ≤ 96) : fldN g.hdr lo w = fldN f.hdr lo w := fldN_setFld_other _ _ (.inl apart)
  have typ' : fType g = fType f := other (by decide)
  have inc' : fInc g = fInc f := other (by decide)
  have reserved' : fReserved g = fReserved f := other (by decide)
  have crc : flitCrc g = flitCrc f := by
    simp only [flitCrc, g, crcHdr_setFld_high _ _ (by decide : 88 ≤ 96) (by decide : 96 + 32 ≤ 128)]
  have payload : fType g = tIdle ∨ fldN g.hdr 96 32 = (flitCrc g).toNat := by
    by_cases idle : fType f = tIdle
    · exact .inl (typ'.trans idle)
    · refine .inr ((fldN_setFld_same _ _ (by decide)).trans ?_)
      rw [crc, show c = (flitCrc f).toNat from if_neg idle]
      exact Nat.mod_eq_of_lt (flitCrc f).isLt
  have sealed : sealFlit f = resealHdr g := rfl
  let r : Flit := { resealHdr g with hdr := setFld (resealHdr g).hdr 4 12 label }
  have label' : fLabel (relabel (sealFlit f) label) = label := by
    rw [sealed]
    refine (fldN_setFld_other _ _ (.inl (by decide))).trans ((fldN_setFld_same _ _ (by decide)).trans (Nat.mod_eq_of_lt small))
  have apart {lo w : Nat} (far : 16 ≤ lo) (off : lo + w ≤ 88 ∨ 96 ≤ lo) : fldN r.hdr lo w = fldN g.hdr lo w :=
    (fldN_setFld_other _ _ (.inr far)).trans (fldN_setFld_other _ _ off)
  have typR : fType r = fType g := (fldN_setFld_other _ _ (.inl (by decide))).trans (fldN_setFld_other _ _ (.inl (by decide)))
  refine ⟨?_, ?_, label', rfl⟩
  · rw [sealed]
    exact flitGood_resealHdr (typ'.le.trans typ) (by rw [inc']; exact inc) (reserved'.trans reserved) payload
  · rw [sealed]
    refine flitGood_resealHdr (f := r) ((typR.trans typ').le.trans typ) ?_ ?_ ?_
    · rw [show fInc r = fInc g from apart (by decide) (.inl (by decide)), inc']; exact inc
    · exact (apart (by decide) (.inl (by decide))).trans (reserved'.trans reserved)
    · rw [typR, apart (by decide) (.inr (by decide)), flitCrc_relabelled, flitCrc_resealHdr]
      exact payload

end Sys2Proof.Machine
end

section
set_option Elab.async false -- one proof after another: this bounds the memory that a check of the whole text takes
/-! PROOFS. Header fields of the flits that an agent makes, and RWT, RRD and RINC (R193 to R195, R312, Table 13-3). -/

namespace Sys2Proof.Machine

/-! ### The header an agent makes -/

/-- The widths of the fields of such a header, from bit 0 upward (Table 13-3). -/
def hdrWidths : List Nat := [4, 12, 21, 1, 2, 10, 8, 25, 2, 1]

/-- Its fields with their widths; link fields and deadline are 0 (Table 13-3). -/
def hdrFields (typ label inc ctr addr nw : Nat) (last psn : Bool) : List (Nat × Nat) :=
  [(4, typ % 16), (12, label % 4096), (21, 0), (1, b2n last), (2, inc % 4), (10, ctr % 1024), (8, 0), (25, addr / 64 % 2 ^ 25),
    (2, nw % 4), (1, b2n psn)]

section Header

variable {typ label inc ctr addr nw : Nat} {last psn : Bool}

theorem hdrFields_fit : ∀ f ∈ hdrFields typ label inc ctr addr nw last psn, f.2 < 2 ^ f.1 := by
  have last_lt := b2n_lt_two last
  have psn_lt := b2n_lt_two psn
  simp only [hdrFields, List.forall_mem_cons, List.not_mem_nil, false_imp_iff, implies_true, and_true]
  omega

theorem mkHdr_eq_packFields : mkHdr typ label inc ctr addr nw last psn =
    BitVec.ofNat 128 (packFields (hdrFields typ label inc ctr addr nw last psn)) := by
  refine congrArg (BitVec.ofNat 128) ?_
  simp only [hdrFields, packFields]
  omega

/-- Field `k` of a header is read where it starts. -/
theorem fldN_mkHdr {k lo w v : Nat} (at_k : (hdrFields typ label inc ctr addr nw last psn)[k]? = some (w, v))
    (start : fieldStart hdrWidths k = lo) : fldN (mkHdr typ label inc ctr addr nw last psn) lo w = v := by
  have widths : (hdrFields typ label inc ctr addr nw last psn).map Prod.fst = hdrWidths := rfl
  have width_k : hdrWidths[k]? = some w := by rw [← widths, List.getElem?_map, at_k]; rfl
  have within : fieldStart hdrWidths k + w ≤ 128 := (fieldStart_add_le width_k).trans (by decide)
  rw [mkHdr_eq_packFields, ← start, fldN_ofNat _ within, ← widths]
  exact packFields_field hdrFields_fit at_k

end Header

section OutFlit

variable (x : Stream) (typ inc ctr addr nw : Nat) (last psn : Bool) (data : Bits)

theorem outFlit_type : fType (outFlit x typ inc ctr addr nw last psn data).f = typ % 16 := fldN_mkHdr (k := 0) rfl rfl

theorem outFlit_label : fLabel (outFlit x typ inc ctr addr nw last psn data).f = stLabel x :=
  (fldN_mkHdr (k := 1) rfl rfl).trans (Nat.mod_eq_of_lt (x.entry.extractLsb' 9 12).isLt)

theorem outFlit_last : fLast (outFlit x typ inc ctr addr nw last psn data).f = last :=
  bitOf_of_fldN (fldN_mkHdr (k := 3) rfl rfl)

theorem outFlit_inc : fInc (outFlit x typ inc ctr addr nw last psn data).f = inc % 4 := fldN_mkHdr (k := 4) rfl rfl

theorem outFlit_ctr (c : Ctr) : fCtr (outFlit x typ inc c.val addr nw last psn data).f = c :=
  Fin.ext ((fldN_mkHdr (k := 5) rfl rfl).trans (Nat.mod_eq_of_lt c.isLt))

theorem outFlit_addr : fAddr (outFlit x typ inc ctr addr nw last psn data).f = 64 * (addr / 64 % 2 ^ 25) :=
  congrArg (64 * ·) (fldN_mkHdr (k := 7) rfl rfl)

theorem outFlit_psn : fPsn (outFlit x typ inc ctr addr nw last psn data).f = psn :=
  bitOf_of_fldN (fldN_mkHdr (k := 9) rfl rfl)

end OutFlit

/-! ### Two descriptors in one payload -/

theorem fld_pair_low (u t : Desc) : fld (u.setWidth 2048 ||| (t.setWidth 2048 <<< 512)) 0 512 = u := by
  refine BitVec.eq_of_getLsbD_eq fun i hi => ?_
  simp [fld, hi, show i < 2048 by omega]

theorem fld_pair_high (u t : Desc) : fld (u.setWidth 2048 ||| (t.setWidth 2048 <<< 512)) 512 512 = t := by
  refine BitVec.eq_of_getLsbD_eq fun i hi => ?_
  simp [fld, hi, show 512 + i < 2048 by omega]

/-- The low 32 bits of a payload made of a word and more above it. -/
theorem fld_word (x : Word) (above : Nat) : fld (BitVec.ofNat 2048 (x.toNat + above * 2 ^ 32)) 0 32 = x := by
  refine BitVec.eq_of_toNat_eq ?_
  refine (fldN_ofNat _ (by decide)).trans ?_
  rw [Nat.pow_zero, Nat.div_one, Nat.add_mul_mod_self_right, Nat.mod_eq_of_lt x.isLt]

/-! ### The instructions -/

section Remote

variable {s : State} {c : CoreId} {st : StreamId}

theorem withStream_passes (free : syncBusy s c = false) (own : coreStream s.rmt.streams[st] c = true)
    (unfenced : s.rmt.streams[st].fenced = false) (f : State → State) : withStream s c st f = f s := by
  simp only [withStream, free, own, unfenced, Bool.not_true, Bool.or_false, Bool.false_eq_true, if_false]

/-- An instruction that offers flits and advances a descriptor. -/
theorem issue_offers (h : Ready s c) (n : Needs) (adv : Bool) (d : DReg) (fs : List OutFlit) {F : State → State}
    (hF : F s = retire (advance (offer s st fs) c adv d) c 1) :
    IssuedAs c (offer s st fs) (issue s c n F) (advanced s.cores[c] adv d) :=
  issue_retire h n (f := fun k => advanced k adv d) (hF.trans (congrArg (retire · c 1) (advance_eq ..))) rfl rfl (advanced_pc ..)
    (advanced_ag ..)

end Remote

/-- Settles O19: each of the three passes its checks, offers its flits on the stream and issues. -/
theorem remoteInstructionsOfferTheirFlits : Obligations.RemoteInstructionsOfferTheirFlits := by
  intro s c adv st ctr h free own unfenced k x
  have passes := withStream_passes free own unfenced
  refine ⟨fun inc d va n check => ?_, fun inc dd sd check => ?_, fun cnt d sa => ⟨fun check => ?_, fun check => ?_⟩⟩
  · refine ⟨_, rfl, issue_offers h _ adv d _ ?_⟩
    simp only [withChecks, show checkTd s.cores[c].d[d] false isGlobal = none from check, passes, upto_eq_range]
    rfl
  · refine ⟨_, outFlit x tRdReq inc.toNat ctr.val 0 1 false false ((k.d[sd].setWidth 2048) ||| (k.d[dd].setWidth 2048 <<< 512)), rfl,
      issue_offers h _ adv dd _ ?_, outFlit_type .., (outFlit_inc ..).trans (Nat.mod_eq_of_lt inc.isLt), outFlit_ctr ..,
      outFlit_label .., fld_pair_low .., fld_pair_high ..⟩
    simp only [withChecks, show checkTds [(s.cores[c].d[dd], rrdDst), (s.cores[c].d[sd], rrdSrc)] = none from check, passes]
    rfl
  · have word : fld (BitVec.ofNat 2048 k.s[sa].toNat) 0 32 = k.s[sa] := by simpa using fld_word k.s[sa] 0
    refine ⟨_, outFlit x tInc 0 ctr.val 0 0 false false (BitVec.ofNat 2048 k.s[sa].toNat), rfl,
      issue_offers h _ adv d _ ?_, outFlit_type .., outFlit_ctr .., outFlit_label .., word⟩
    simp only [withChecks, show rincCheck s.cores[c].d[d] false = none from check, passes]
    rfl
  · refine ⟨_, outFlit x tAdd 0 ctr.val (tdBase k.d[d]) 0 cnt false
      (BitVec.ofNat 2048 (k.s[sa].toNat + tdBase k.d[d] / 4 % 16 * 2 ^ 32)), rfl,
      issue_offers h _ adv d _ ?_, outFlit_type .., outFlit_ctr .., outFlit_last .., outFlit_label .., fld_word ..⟩
    simp only [withChecks, show rincCheck s.cores[c].d[d] true = none from check, passes]
    rfl

end Sys2Proof.Machine
end

section
set_option Elab.async false -- one proof after another: this bounds the memory that a check of the whole text takes
/-! PROOFS. TAPC while the synchronisation unit of its core is busy (R196, Table 8-4). -/

namespace Sys2Proof.Machine

/-- Core 0 may issue, and a flit of its stream 0 still waits for admission. -/
def flitWaits : State :=
  { State.reset with
    u := { state := .running, step := 7, blendOk := true, lcores := 16, gangOk := 0xF, ladleOk := 0xF, eaOk := 3 }
    cores := Vector.replicate 16 { st := .run, ag := { run := some 0 } }
    rmt := { State.reset.rmt with
      streams := State.reset.rmt.streams.set 0 { entry := 1, wait := [outFlit {} tInc 0 0 0 0 false false 0] } } }

theorem flitWaits_ready : Ready flitWaits 0 ∧ crosses flitWaits (corePart 0) (tapPart flitWaits 0) = false := by
  unfold Ready; decide +kernel

/-- ARM waits there: the tap stays unarmed. -/
theorem flitWaits_arm : ∃ t, exec (.arm 0 0) flitWaits = .next t ∧ t.taps[(0 : TapId)].armed = false := ⟨_, rfl, by decide +kernel⟩

/-- Refutes O21: a TAPC also waits for the synchronisation unit, which `Ready` does not require to be free. -/
theorem not_tapcActsOnItsTap : ¬ Obligations.TapcActsOnItsTap := by
  intro h
  obtain ⟨_, ⟨t, run, _, taps⟩, _⟩ := h flitWaits 0 0 flitWaits_ready.1 flitWaits_ready.2
  obtain ⟨u, run', unarmed⟩ := flitWaits_arm
  obtain rfl : t = u := Host.Outcome.next.inj (run.symm.trans run')
  rw [taps] at unarmed
  exact absurd unarmed (by simp)

end Sys2Proof.Machine
end

section
set_option Elab.async false -- one proof after another: this bounds the memory that a check of the whole text takes
/-! PROOFS. Entries of one cycle stand in the log in the order of R371. An entry made after another of its cycle that follows it
there is put ahead of that one, so that it is not what the log's next slot holds. -/

namespace Sys2Proof.Machine

/-- A log with one entry of the present cycle, whose code, place and stream are the last in the order of R371. -/
def crowdedLog : ErrLog := { ent := Vector.replicate 64 (BitVec.allOnes 128), count := 1, next := 1, now := 1 }

/-- With such a log before, an entry that moved the one there is not logged in the next slot. -/
theorem not_logged_of_moved {s t : State} {e : Err} {cls loc detail : Nat} (log : s.err = crowdedLog)
    (moved : t.err.ent[0] ≠ BitVec.allOnes 128) : ¬ Logged s t e cls loc detail := by
  rintro ⟨-, entry⟩
  refine moved ?_
  have first : s.err.ent[0] = BitVec.allOnes 128 := by rw [log]; rfl
  have later : s.err.next.toNat ≠ 0 := by rw [log]; decide
  rw [entry (by rw [log]; rfl), Vector.getElem_set, if_neg later, first]

/-- A step ends with the entry moved. -/
def Moved (i : Instr) (s : State) : Prop := ∃ t, exec i s = .next t ∧ t.err.ent[0] ≠ BitVec.allOnes 128

/-- Where it is moved, no step of this instruction is one that logs it in the next slot. -/
theorem Moved.not_logged {i : Instr} {s t : State} {e : Err} {cls loc detail : Nat} (h : Moved i s) (log : s.err = crowdedLog)
    (run : exec i s = .next t) : ¬ Logged s t e cls loc detail := by
  obtain ⟨u, run', moved⟩ := h
  obtain rfl : t = u := Host.Outcome.next.inj (run.symm.trans run')
  exact not_logged_of_moved log moved

/-- A unit with AON power that has such a log. -/
def crowded : State := { State.reset with err := crowdedLog }

/-! ### A command while another runs -/

def crowdedBusy : State := { crowded with cmd := { crowded.cmd with busy := true } }

theorem crowdedBusy_moved : Moved .detach crowdedBusy := ⟨_, rfl, by decide +kernel⟩

/-- Refutes O52: ERR_CMD_BUSY, logged after a later one of its cycle, goes ahead of it. -/
theorem not_commandsAreRefusedWhileOneRuns : ¬ Obligations.CommandsAreRefusedWhileOneRuns := by
  intro h
  obtain ⟨t, run, -, logged⟩ := h .detach crowdedBusy rfl (by decide +kernel) (by decide +kernel) rfl
  exact crowdedBusy_moved.not_logged rfl run logged

/-! ### TICK_LOST -/

def crowdedTickless : State := { crowded with fr := { crowded.fr with absent := 4 } }

theorem crowdedTickless_moved : Moved .tickLost crowdedTickless := ⟨_, rfl, by decide +kernel⟩

/-- Refutes O41: TICK_LOST, logged after a later event of its cycle, goes ahead of it. -/
theorem not_markersLockAndTheGenerator : ¬ Obligations.MarkersLockAndTheGenerator := by
  rintro ⟨-, h⟩
  obtain ⟨-, -, lost, -⟩ := h crowdedTickless
  obtain ⟨t, run, -, -, logged, -⟩ := lost (by decide +kernel) rfl
  exact crowdedTickless_moved.not_logged rfl run logged

/-! ### DROOP -/

def crowdedDroop : State := { crowded with pwr := { crowded.pwr with divider := true } }

theorem crowdedDroop_moved : Moved .droop crowdedDroop := ⟨_, rfl, by decide +kernel⟩

/-- Refutes O46: DROOP, logged after a later event of its cycle, goes ahead of it. -/
theorem not_supplyAndAgeingEvents : ¬ Obligations.SupplyAndAgeingEvents := by
  intro h
  obtain ⟨-, droop, -⟩ := h crowdedDroop
  obtain ⟨t, run, -, -, -, -, -, -, logged, -⟩ := droop rfl
  exact crowdedDroop_moved.not_logged rfl run logged

/-! ### An ADDRESS that the unit cannot take -/

/-- ADDRESS 0 for the unit at this position. -/
def addressPacket : ChainPkt := mkPkt (pktHdr 2 0 0 1 false false) [0]

def crowdedAddressed : State := { crowded with u := { crowded.u with state := .addressed } }

theorem crowdedAddressed_moved : Moved (.address addressPacket) crowdedAddressed := ⟨_, rfl, by decide +kernel⟩

/-- Refutes O51: ERR_ENUM_ADDR, logged after a later error of its cycle, goes ahead of it. -/
theorem not_chainPacketsAndTheTap : ¬ Obligations.ChainPacketsAndTheTap := by
  rintro ⟨h, -⟩
  obtain ⟨-, -, -, address, -⟩ := h crowdedAddressed addressPacket (.address addressPacket) (.inr (.inl rfl))
  obtain ⟨-, -, refused⟩ := address (by unfold TakesPacket MeetsPacket; decide +kernel) (by decide +kernel)
  obtain ⟨t, run, -, logged⟩ := refused (.inl rfl) (.inl (by decide +kernel))
  exact crowdedAddressed_moved.not_logged rfl run logged

/-! ### Loads that end incomplete -/

def crowdedLoading : State :=
  { crowded with u := { crowded.u with state := .configWait }, ld := { crowded.ld with active := true } }

theorem crowdedLoading_moved : Moved .loadIncomplete crowdedLoading := ⟨_, rfl, by decide +kernel⟩

/-- Refutes O57: LOAD_INCOMPLETE, logged after a later event of its cycle, goes ahead of it. -/
theorem not_loadsReceiveTheirBlocks : ¬ Obligations.LoadsReceiveTheirBlocks := by
  intro h
  obtain ⟨-, -, incomplete, -⟩ := h crowdedLoading
  obtain ⟨t, run, -, -, -, logged, -⟩ := incomplete (by decide +kernel)
  exact crowdedLoading_moved.not_logged rfl run logged

def crowdedVid : State := { crowded with ld := { crowded.ld with waitVid := true } }

theorem crowdedVid_moved : Moved .vidAckTimeout crowdedVid := ⟨_, rfl, by decide +kernel⟩

/-- Refutes O58: LOAD_INCOMPLETE for a VID without acknowledgement, logged after a later event of its cycle, goes ahead of it. -/
theorem not_theGateAndTheRegulatorEndALoad : ¬ Obligations.TheGateAndTheRegulatorEndALoad := by
  rintro ⟨-, h⟩
  obtain ⟨-, timeout⟩ := h crowdedVid rfl
  obtain ⟨t, run, -, -, -, -, -, -, logged, -⟩ := timeout (by decide +kernel)
  exact crowdedVid_moved.not_logged rfl run logged

/-! ### SEQ_NEXT while a change is pending -/

def crowdedPending : State := { crowded with parts := crowded.parts.set 0 { crowded.parts[0] with nextPending := true } }

theorem crowdedPending_moved : Moved (.seqNext 0 0) crowdedPending := ⟨_, rfl, by decide +kernel⟩

/-- Refutes O59: ERR_SEQ_BUSY, logged after a later error of its cycle, goes ahead of it. -/
theorem not_registerWritesByTheirType : ¬ Obligations.RegisterWritesByTheirType := by
  intro h
  obtain ⟨next, -⟩ := h crowdedPending
  obtain ⟨-, pending, -⟩ := next 0 0 (by decide)
  obtain ⟨t, run, -, logged⟩ := pending (by decide +kernel)
  exact crowdedPending_moved.not_logged rfl run logged

end Sys2Proof.Machine
end

section
set_option Elab.async false -- one proof after another: this bounds the memory that a check of the whole text takes
/-! PROOFS. The link port: slots, lanes, retraining and training (R330 to R336, R341). -/

namespace Sys2Proof.Machine

/-! ### The error log and the link -/

@[simp] theorem logRun_lnk (s : State) (e : Err) (loc d : Nat) : (logRun s e loc d).lnk = s.lnk := by rw [logRun, logAt_eq]

@[simp] theorem logRun_rmt (s : State) (e : Err) (loc d : Nat) : (logRun s e loc d).rmt = s.rmt := by rw [logRun, logAt_eq]

@[simp] theorem modLink_mem (s : State) (f : Link → Link) : (modLink s f).mem = s.mem := rfl

@[simp] theorem modLink_cnt (s : State) (f : Link → Link) : (modLink s f).cnt = s.cnt := rfl

@[simp] theorem modLink_cores (s : State) (f : Link → Link) : (modLink s f).cores = s.cores := rfl

@[simp] theorem modLink_rmt (s : State) (f : Link → Link) : (modLink s f).rmt = s.rmt := rfl

@[simp] theorem countReplay_mem (s : State) : (countReplay s).mem = s.mem := by
  unfold countReplay; dsimp only; split
  · exact logRun_mem ..
  · rfl

@[simp] theorem countReplay_cnt (s : State) : (countReplay s).cnt = s.cnt := by
  unfold countReplay; dsimp only; split
  · exact logRun_cnt ..
  · rfl

/-- A replay is counted among the link's registers; nothing else of them changes. -/
theorem countReplay_lnk (s : State) : (countReplay s).lnk =
    { s.lnk with
      rpl := sat32 s.lnk.rpl 1, rplFrame := s.lnk.rplFrame + 1
      rplOver := (countReplay s).lnk.rplOver } := by
  unfold countReplay; dsimp only; split
  · rw [logRun_lnk]; rfl
  · rfl

/-- A flit that leaves or arrives is counted by the power block, whose domains it wakes. -/
theorem countFlit_eq (s : State) : countFlit s = { s with pwr := (countFlit s).pwr } := by
  have wakes : touchDom (touchDom (countEv s .flit 1) 22) 1 = { s with pwr := (touchDom (touchDom (countEv s .flit 1) 22) 1).pwr } := by
    rw [touchDom_eq, touchDom_eq]; rfl
  unfold countFlit
  rw [wakes]

/-! ### Slots -/

/-- What a slot puts on the line keeps the type of the flit and its payload: only link fields and the header check change. -/
theorem onLine_type (s : State) (q : BitVec 10) (f : Flit) : fType (onLine s q f) = fType f := by
  have apart {h : BitVec 128} {lo w v : Nat} (high : 4 ≤ lo) : fldN (setFld h lo w v) 0 4 = fldN h 0 4 :=
    fldN_setFld_other _ _ (.inl high)
  exact (apart (by decide)).trans ((apart (by decide)).trans ((apart (by decide)).trans (apart (by decide))))

theorem sealFlit_type (f : Flit) : fType (sealFlit f) = fType f :=
  (fldN_setFld_other _ _ (.inl (by decide))).trans (fldN_setFld_other _ _ (.inl (by decide)))

/-- The line carries of the unit's state only the number expected and whether a replay is asked for. -/
theorem onLine_congr {u s : State} (seq : u.lnk.expSeq = s.lnk.expSeq) (nak : u.lnk.nakDue = s.lnk.nakDue) (q : BitVec 10) (f : Flit) :
    onLine u q f = onLine s q f := by
  unfold onLine; rw [seq, nak]

/-- The tick marker of the frame that `s` is in, as link state `u` puts it on the line. -/
def markerLine (u s : State) : Flit :=
  onLine u 0 (sealFlit { hdr := mkHdr tTick 0 0 0 0 0 false false, data := markerBits s s.fr.ctr s.fr.cyc })

theorem markerLine_type (u s : State) : fType (markerLine u s) = tTick :=
  (onLine_type ..).trans ((sealFlit_type _).trans (fldN_mkHdr (k := 0) rfl rfl))

/-- In a slot of an UP link that is not yet used, a word leaves. -/
def slotTaken (s : State) (k : Nat) : State := modLink s (fun l => { l with slotUsed := some (s.fr.ctr, k) })

theorem nextNew_tx {s : State} {f : Flit} {rest : List Flit} (h : s.lnk.tx = f :: rest) :
    nextNew s = some (modLink s (fun l => { l with tx := rest }), f) := by
  unfold nextNew; rw [h]

/-- No credit goes out by the link while none may and no return waits there. -/
theorem withCred_same {s : State} (ret : ∀ r ∈ s.rmt.ret, r.viaNoc = true) (none : credLabel s false = none) : withCred s = s := by
  have waits : s.rmt.ret.any (fun x => !x.viaNoc && retRoom s x.label) = false :=
    List.any_eq_false.mpr fun r hr => by simp [ret r hr]
  unfold withCred
  simp only [waits, Bool.false_eq_true, if_false, none]

section Slots

variable {s : State} {k : Nat} (up : s.lnk.st = .up) (slot : slotNow s = some k) (unused : s.lnk.slotUsed ≠ some (s.fr.ctr, k))
include up slot unused

theorem linkSlot_marker (tree : s.fr.own.treeOut = true) (ticked : s.fr.ticked = true) (early : s.fr.cyc < 9)
    (due : s.lnk.markerFrame ≠ some s.fr.ctr) : exec .linkSlot s = .next (countFlit (modLink
      (putLine (slotTaken s k) (markerLine (slotTaken s k) s)) (fun l => { l with markerFrame := some s.fr.ctr }))) := by
  show execLinkSlot s = _
  unfold execLinkSlot
  simp only [slot, up, unused, ne_eq, not_true_eq_false, or_self, if_false]
  refine congrArg Host.Outcome.next (if_pos ?_)
  simp [modLink, tree, ticked, early, due]

/-- Without a marker due, the slot's word is a replay, a new flit or an IDLE word. -/
theorem linkSlot_word (quiet : s.fr.own.treeOut = false ∨ s.fr.ticked = false ∨ 9 ≤ s.fr.cyc ∨ s.lnk.markerFrame = some s.fr.ctr) :
    exec .linkSlot s = .next (
      let s := slotTaken s k
      match s.lnk.resend with
      | r :: rest => countReplay (modLink (putLine s (onLine s r.seq r.f)) (fun l => { l with resend := rest }))
      | [] =>
        if 128 ≤ s.lnk.replay.length then putLine s (onLine s 0 idleWord)
        else
          match nextNew (withCred s) with
          | some (s, f) =>
            let q := s.lnk.nextSeq
            modLink (putLine s (onLine s q f)) (fun l => { l with nextSeq := q + 1, replay := l.replay ++ [{ seq := q, f := f }] })
          | none => putLine s (onLine s 0 idleWord)) := by
  show execLinkSlot s = _
  unfold execLinkSlot
  simp only [slot, up, unused, ne_eq, not_true_eq_false, or_self, if_false]
  refine congrArg Host.Outcome.next ((if_neg ?_).trans rfl)
  rcases quiet with h | h | h | h
  · simp [modLink, h]
  · simp [modLink, h]
  · simp [modLink, Nat.not_lt.mpr h]
  · simp [modLink, h]

/-- A word that puts flit `f` on the line. -/
theorem linkSlot_replay (quiet : s.fr.own.treeOut = false ∨ s.fr.ticked = false ∨ 9 ≤ s.fr.cyc ∨ s.lnk.markerFrame = some s.fr.ctr)
    {r : Replay} {rest : List Replay} (resend : s.lnk.resend = r :: rest) : exec .linkSlot s = .next
      (countReplay (modLink (putLine (slotTaken s k) (onLine s r.seq r.f)) (fun l => { l with resend := rest }))) := by
  rw [linkSlot_word up slot unused quiet]
  dsimp only
  rw [show (slotTaken s k).lnk.resend = r :: rest from resend]
  dsimp only
  rw [onLine_congr (u := slotTaken s k) (s := s) rfl rfl]

theorem linkSlot_new (quiet : s.fr.own.treeOut = false ∨ s.fr.ticked = false ∨ 9 ≤ s.fr.cyc ∨ s.lnk.markerFrame = some s.fr.ctr)
    {f : Flit} {rest : List Flit} (resend : s.lnk.resend = []) (short : s.lnk.replay.length < 128) (tx : s.lnk.tx = f :: rest)
    (ret : ∀ r ∈ s.rmt.ret, r.viaNoc = true) (none : credLabel s false = none) : exec .linkSlot s = .next
      (modLink (putLine (modLink (slotTaken s k) (fun l => { l with tx := rest })) (onLine s s.lnk.nextSeq f))
        (fun l => { l with nextSeq := s.lnk.nextSeq + 1, replay := l.replay ++ [{ seq := s.lnk.nextSeq, f := f }] })) := by
  have same : withCred (slotTaken s k) = slotTaken s k := withCred_same ret none
  have next : nextNew (slotTaken s k) = some (modLink (slotTaken s k) (fun l => { l with tx := rest }), f) := nextNew_tx tx
  have room : ¬128 ≤ (slotTaken s k).lnk.replay.length := Nat.not_le.mpr short
  rw [linkSlot_word up slot unused quiet]
  dsimp only
  rw [show (slotTaken s k).lnk.resend = [] from resend]
  dsimp only
  rw [if_neg room, same, next]
  dsimp only
  rw [onLine_congr (u := modLink (slotTaken s k) _) (s := s) rfl rfl]
  rfl

theorem linkSlot_idle (quiet : s.fr.own.treeOut = false ∨ s.fr.ticked = false ∨ 9 ≤ s.fr.cyc ∨ s.lnk.markerFrame = some s.fr.ctr)
    (resend : s.lnk.resend = []) (full : 128 ≤ s.lnk.replay.length) :
    exec .linkSlot s = .next (putLine (slotTaken s k) (onLine s 0 idleWord)) := by
  have noRoom : 128 ≤ (slotTaken s k).lnk.replay.length := full
  rw [linkSlot_word up slot unused quiet]
  dsimp only
  rw [show (slotTaken s k).lnk.resend = [] from resend]
  dsimp only
  rw [if_pos noRoom, onLine_congr (u := slotTaken s k) (s := s) rfl rfl]

end Slots

theorem linkSlot_nothing {s : State}
    (closed : slotNow s = none ∨ s.lnk.st ≠ .up ∨ ∃ k, slotNow s = some k ∧ s.lnk.slotUsed = some (s.fr.ctr, k)) :
    exec .linkSlot s = .next s := by
  show execLinkSlot s = _
  unfold execLinkSlot
  rcases closed with none | down | ⟨k, slot, used⟩
  · simp only [none]
  · cases slotNow s with
    | none => rfl
    | some k => simp only [down, ne_eq, not_false_eq_true, true_or, if_true]
  · simp only [slot, used, or_true, if_true]

/-- Settles O39: the marker, then the words of a slot without one. -/
theorem linkSlotsSendInOrder : Obligations.LinkSlotsSendInOrder := by
  refine ⟨fun s k up slot unused => ⟨fun tree ticked early due => ?_, fun quiet => ⟨fun r rest resend => ?_,
    fun f rest resend short tx ret none => ?_, fun resend full => ?_⟩⟩, fun s closed => linkSlot_nothing closed⟩
  · rw [linkSlot_marker up slot unused tree ticked early due]
    have type := markerLine_type (slotTaken s k) s
    have data : (markerLine (slotTaken s k) s).data = markerBits s s.fr.ctr s.fr.cyc := rfl
    generalize markerLine (slotTaken s k) s = g at type data ⊢
    rw [countFlit_eq]
    exact ⟨_, g, rfl, rfl, type, data, rfl, rfl, rfl, .ofMem rfl, rfl⟩
  · rw [linkSlot_replay up slot unused quiet resend]
    refine ⟨_, rfl, ?_, ?_, ?_, ?_, ?_, ?_, ?_, .ofMem (countReplay_mem _), countReplay_cnt _⟩
    all_goals rw [countReplay_lnk]; rfl
  · rw [linkSlot_new up slot unused quiet resend short tx ret none]
    exact ⟨_, rfl, rfl, rfl, rfl, rfl, rfl, by simp [putLine, slotTaken], by simp [putLine, slotTaken]⟩
  · rw [linkSlot_idle up slot unused quiet resend full]
    exact ⟨_, rfl, rfl, rfl, rfl, rfl⟩

end Sys2Proof.Machine
end

section
set_option Elab.async false -- one proof after another: this bounds the memory that a check of the whole text takes
/-! PROOFS. Lanes, replay requests, retraining and training of the link (R331 to R334, R341). -/

namespace Sys2Proof.Machine

/-- An event of the run on a changed link: the stores stay. -/
theorem logLink_keeps (s : State) (f : Link → Link) (e : Err) (loc d : Nat) : KeepsStores s (logRun (modLink s f) e loc d) :=
  .same (by simp) (by simp)

/-! ### Lanes -/

theorem swapLane_swaps {s : State} {l : LaneId} (ready : s.lnk.spareReady = true) (active : s.lnk.spare.toNat ≠ l.val)
    (sound : s.lnk.laneFail.getLsbD l.val = false) : swapLane l s = logRun (modLink s (fun k => { k with
      spareReady := false, spare := BitVec.ofNat 3 l.val, candidate := some l })) .lnkLaneSpare locLink 0 := by
  have may : (s.lnk.spareReady && decide (s.lnk.spare.toNat ≠ l.val) && !bitOf s.lnk.laneFail l.val) = true := by
    simp only [bitOf, ready, active, sound, ne_eq, not_false_eq_true, decide_true, Bool.and_self, Bool.not_false]
  exact if_pos may

/-- Lane `l` marked failed. -/
theorem getLsbD_markLane (x : BitVec 5) (l : LaneId) : (x ||| (1#5 <<< l.val)).getLsbD l.val = true := by
  simp [l.isLt]

/-! ### Training -/

/-- New equaliser settings change the link's settings and the count of free values alone. -/
theorem newTxP_eq (n : Nat) (s : State) : newTxP n s =
    { s with lnk := { s.lnk with txP := (newTxP n s).lnk.txP }, fresh := (newTxP n s).fresh } := by
  induction n generalizing s with
  | zero => rfl
  | succ n ih =>
    unfold newTxP
    dsimp only
    rw [ih]
    rfl

section Training

variable {s : State} (waits : s.lnk.st = .down ∨ s.lnk.st = .training) (step : 5 ≤ s.u.step) (here : s.u.state ≠ .detached)
include waits step here

theorem linkTrain_ends (ok : Bool) (lat : BitVec 16) : exec (.linkTrain ok lat) s = .next (trainLink s ok lat) :=
  congrArg Host.Outcome.next (if_pos ⟨waits, step, here⟩)

end Training

theorem trainLink_up (s : State) {lat : BitVec 16} (short : lat.toNat ≤ 512) : trainLink s true lat =
    modLink (newTxP 5 s) (fun l => { l with
      st := .up, lat := lat, winCyc := 0, laneWin := Vector.replicate 5 0, spareReady := !bitOf l.laneFail l.spare.toNat, nextSeq := 0
      expSeq := 0, replay := [], resend := [], nakDue := false, nakOut := false, nakTimes := 0, fails := 0 }) := by
  unfold trainLink
  rw [if_neg (by decide), if_neg (Nat.not_lt.mpr short)]

theorem trainLink_long (s : State) {lat : BitVec 16} (long : 512 < lat.toNat) :
    trainLink s true lat = logRun (modLink s (fun l => { l with st := .down, lat := lat })) .lnkRtt locLink 0 := by
  unfold trainLink
  rw [if_neg (by decide), if_pos long]

/-! ### Retraining -/

theorem linkRetrain_eq (s : State) (lost : Option LaneId) (P : Prop) [Decidable P]
    (gone : P ↔ ∃ l, lost = some l ∧ s.lnk.spare.toNat ≠ l.val ∧ s.lnk.laneFail.getLsbD l.val = false ∧ s.lnk.spareReady = false) :
    exec (.linkRetrain lost) s = .next (if s.lnk.st = .up ∧ (P ∨ 8 ≤ s.lnk.nakTimes) then
      logRetrain (modLink s (fun l => { l with st := .retraining, fails := 0, retrain := sat32 l.retrain 1 })) else s) := by
  have same : (lost.any (fun l => decide (s.lnk.spare.toNat ≠ l.val) && !bitOf s.lnk.laneFail l.val) = true ∧ s.lnk.spareReady = false) ↔ P := by
    rw [gone]
    cases lost with
    | none => simp
    | some l => simp [bitOf, and_assoc]
  show execLinkRetrain lost s = _
  unfold execLinkRetrain
  simp only [same]

/-- Settles O40: each command of the lanes and of training by its branches. -/
theorem lanesReplaysAndTraining : Obligations.LanesReplaysAndTraining := by
  refine ⟨fun s l => ⟨fun ready active sound => ?_, fun candidate => ⟨?_, ?_⟩, fun up out => ?_⟩, fun s => ⟨fun lost => ?_, fun retraining => ?_,
    fun lat waits step here => ⟨fun short => ?_, fun long => ?_, ?_⟩⟩⟩
  · have swap := swapLane_swaps ready active sound
    exact ⟨_, congrArg Host.Outcome.next swap, .ofKeeps (logLink_keeps ..), logRun_cnt .., logRun_lnk ..⟩
  · exact congrArg Host.Outcome.next (if_pos candidate)
  · exact ⟨_, congrArg Host.Outcome.next (if_pos candidate), rfl, rfl, getLsbD_markLane .., rfl⟩
  · exact congrArg Host.Outcome.next (if_pos ⟨up, out⟩)
  · classical
    intro gone
    rw [linkRetrain_eq s lost gone Iff.rfl]
    refine ⟨fun up why => ?_, fun why => ?_⟩
    · rw [if_pos ⟨up, why⟩]
      exact ⟨_, rfl, logRun_lnk .., .ofKeeps (logLink_keeps ..)⟩
    · rw [if_neg]
      rintro ⟨up, gone' | many⟩
      · rcases why with down | ⟨kept, -⟩
        · exact down up
        · exact kept gone'
      · rcases why with down | ⟨-, few⟩
        · exact down up
        · omega
  · have runs (ok : Bool) : ¬s.lnk.st ≠ .retraining := not_not.mpr retraining
    refine ⟨?_, fun last => ?_, fun early => ?_⟩
    · exact congrArg Host.Outcome.next ((if_neg (runs true)).trans (if_pos rfl))
    · refine ⟨_, congrArg Host.Outcome.next ((if_neg (runs false)).trans ((if_neg (by decide)).trans (if_pos last))), ?_,
        .ofKeeps (logLink_keeps ..)⟩
      rw [logRun_lnk]; rfl
    · refine ⟨_, congrArg Host.Outcome.next ((if_neg (runs false)).trans ((if_neg (by decide)).trans (if_neg (by omega)))), ?_⟩
      exact logRun_lnk ..
  · rw [linkTrain_ends waits step here, trainLink_up s short, newTxP_eq]
    exact ⟨_, rfl, rfl, rfl, rfl, rfl, rfl⟩
  · rw [linkTrain_ends waits step here, trainLink_long s long]
    exact ⟨_, rfl, logRun_lnk ..⟩
  · rw [linkTrain_ends waits step here]
    exact ⟨_, rfl, logRun_lnk ..⟩

end Sys2Proof.Machine
end

section
set_option Elab.async false -- one proof after another: this bounds the memory that a check of the whole text takes
/-! PROOFS. Runs of words written by one master: which take effect, and what each byte reads as after them (R61, R269, R293, R384). -/

namespace Sys2Proof.Machine

/-! ### Ports and ownership under accesses -/

/-- The ports that are open stay so, and no other opens. -/
def KeepsPorts (s t : State) : Prop := ∀ st : StoreId, (portOf t st).isOpen = (portOf s st).isOpen

theorem KeepsPorts.refl (s : State) : KeepsPorts s s := fun _ => rfl

theorem KeepsPorts.trans {s t u : State} (h : KeepsPorts s t) (k : KeepsPorts t u) : KeepsPorts s u := fun st => (k st).trans (h st)

theorem portOf_ofMem {s t : State} (h : t.mem = s.mem) (st : StoreId) : portOf t st = portOf s st := by
  cases st <;> simp only [portOf, h]

theorem KeepsPorts.ofMem {s t : State} (h : t.mem = s.mem) : KeepsPorts s t := fun st => by rw [portOf_ofMem h]

theorem portOf_modPort_self (s : State) (st : StoreId) (f : Port → Port) : portOf (modPort s st f) st = f (portOf s st) := by
  cases st with
  | ns g => simp [portOf, modPort]
  | ds => rfl

theorem portOf_modPort_other (s : State) {st q : StoreId} (f : Port → Port) (h : q ≠ st) : portOf (modPort s st f) q = portOf s q := by
  cases st with
  | ds => cases q with
    | ds => exact absurd rfl h
    | ns j => rfl
  | ns g => cases q with
    | ds => rfl
    | ns j =>
      have other : g.val ≠ j.val := fun e => h (congrArg StoreId.ns (Fin.ext e.symm))
      simp [portOf, modPort, other]

/-- A change of a port that leaves it open or closed. -/
theorem modPort_ports (s : State) (st : StoreId) {f : Port → Port} (h : ∀ p, (f p).isOpen = p.isOpen) : KeepsPorts s (modPort s st f) := by
  intro q
  by_cases same : q = st
  · subst same; rw [portOf_modPort_self, h]
  · rw [portOf_modPort_other _ _ same]

theorem wakePort_ports (s : State) (st : StoreId) : KeepsPorts s (wakePort s st) := by
  have wakes := modPort_ports s st (f := fun p => { p with
    ps := if (decide ((portOf s st).ps = .gated) && decide (s.pwr.dom[arrayDom st].forced = none)) then .active else p.ps, wake := 4 })
    (fun _ => rfl)
  unfold wakePort; dsimp only
  split
  · split
    · exact wakes.trans (.ofMem (touchDom_mem ..))
    · exact wakes
  · exact .refl s

theorem eccRead_ports (s : State) (w : Nat) : KeepsPorts s (eccRead s w) := by
  have logged (m : Stores) (e : Err) (l a : Nat) (h : KeepsPorts s { s with mem := m }) : KeepsPorts s (logRun { s with mem := m } e l a) :=
    h.trans (.ofMem (logRun_mem ..))
  have same {m : Stores} (g : m.groups = s.mem.groups) (d : m.ds = s.mem.ds) : KeepsPorts s { s with mem := m } := fun st => by
    cases st <;> simp only [portOf, g, d]
  unfold eccRead; dsimp only
  repeat' split
  · exact .refl s
  · exact .refl s
  · exact same rfl rfl
  · exact same rfl rfl
  · exact logged _ _ _ _ (same rfl rfl)
  · exact logged _ _ _ _ (same rfl rfl)

theorem groupOff_ports (s : State) (who : Who) (a : Nat) (b : Bool) : KeepsPorts s (groupOff s who a b) := by
  have same {m : Stores} (g : m.groups = s.mem.groups) (d : m.ds = s.mem.ds) : KeepsPorts s { s with mem := m } := fun st => by
    cases st <;> simp only [portOf, g, d]
  have counted : KeepsPorts s (if isNs a then { s with mem := { s.mem with nsOff := sat32 s.mem.nsOff 1 } }
      else { s with mem := { s.mem with dsOff := sat32 s.mem.dsOff 1 } }) := by
    split
    · exact same rfl rfl
    · exact same rfl rfl
  unfold groupOff; dsimp only
  split
  · exact counted.trans (.ofMem (logRun_mem ..))
  · exact counted.trans (.ofMem (logRun_mem ..))

theorem setBytes_ds (m : Stores) (a : Nat) (x mask : BitVec 512) : (setBytes m a x mask).ds = m.ds := by
  rw [setBytes_fold]
  generalize upto 64 = l
  induction l generalizing m with
  | nil => rfl
  | cons i r ih =>
    rw [List.foldl_cons, ih]
    split
    · rfl
    · rfl

theorem beforeWrite_places (m : Stores) (w : Nat) : (beforeWrite m w).groups = m.groups ∧ (beforeWrite m w).ds = m.ds := by
  unfold beforeWrite
  split
  · exact ⟨rfl, rfl⟩
  · exact ⟨rfl, rfl⟩

theorem storeWord_places (m : Stores) (w : Nat) (x mask : BitVec 512) (psn : Bool) :
    (storeWord m w x mask psn).groups = m.groups ∧ (storeWord m w x mask psn).ds = m.ds := by
  obtain ⟨groups, ds⟩ := beforeWrite_places m w
  have set : (setBytes (beforeWrite m w) (64 * w) x mask).groups = m.groups ∧ (setBytes (beforeWrite m w) (64 * w) x mask).ds = m.ds :=
    ⟨(setBytes_groups ..).trans groups, (setBytes_ds ..).trans ds⟩
  unfold storeWord; dsimp only
  split
  · exact set
  · exact set

theorem writeWord_ports (s : State) (who : Who) (w : Nat) (x mask : BitVec 512) (psn : Bool) :
    KeepsPorts s (writeWord s who w x mask psn).1 := by
  have p := wakePort_ports s (storeOf (64 * w))
  unfold writeWord; dsimp only
  split
  · exact .ofMem (logRun_mem ..)
  split
  · exact groupOff_ports s who (64 * w) true
  · generalize wakePort s (storeOf (64 * w)) = g at p ⊢
    have q : KeepsPorts g (if mask = BitVec.allOnes 512 ∨ holds g.mem w = false then g else eccRead g w) := by
      split
      · exact .refl _
      · exact eccRead_ports g w
    generalize (if mask = BitVec.allOnes 512 ∨ holds g.mem w = false then g else eccRead g w) = e at q ⊢
    have r : KeepsPorts e (if isNs (64 * w) then countEv { e with pwr := { e.pwr with nsWr := sat32 e.pwr.nsWr 1 } } .nsWr 1 else e) := by
      split
      · exact .ofMem rfl
      · exact .refl _
    generalize (if isNs (64 * w) then countEv { e with pwr := { e.pwr with nsWr := sat32 e.pwr.nsWr 1 } } .nsWr 1 else e) = u at r ⊢
    obtain ⟨groups, ds⟩ := storeWord_places u.mem w x mask psn
    exact p.trans (q.trans (r.trans fun st => by cases st <;> simp only [portOf, groups, ds]))

/-! ### Who owns what -/

/-- What accesses change leaves the task mode and the owners. -/
theorem Moves.crosses {s t : State} (h : Moves s t) (p q : Part) : crosses t p q = Machine.crosses s p q := by
  have mode : t.u.taskMode = s.u.taskMode := (congrArg UnitRegs.taskMode h.2.1).trans rfl
  simp only [Machine.crosses, twoTask, mode]

theorem Moves.addrPart {s t : State} (h : Moves s t) (a : Nat) : addrPart t a = Machine.addrPart s a := by
  have owner : t.u.nsOwner = s.u.nsOwner := (congrArg UnitRegs.nsOwner h.2.1).trans rfl
  have bound : t.u.dsBound = s.u.dsBound := (congrArg UnitRegs.dsBound h.2.1).trans rfl
  simp only [Machine.addrPart, groupPart, dsPart, owner, bound]

theorem Moves.ctrPart {s t : State} (h : Moves s t) (c : Ctr) : ctrPart t c = Machine.ctrPart s c := by
  have split : t.u.cntSplit = s.u.cntSplit := (congrArg UnitRegs.cntSplit h.2.1).trans rfl
  simp only [Machine.ctrPart, split]

/-! ### Words of a run -/

/-- A write of word `w` by `who` takes effect: the word is its own partition's, and its port is open (R24, R293). -/
def Writable (s : State) (who : Who) (w : Nat) : Prop :=
  crosses s who.part (addrPart s (64 * w)) = false ∧ (portOf s (storeOf (64 * w))).isOpen = true

theorem Writable.after {s t : State} {who : Who} {w : Nat} (h : Writable s who w) (moves : Moves s t) (ports : KeepsPorts s t) :
    Writable t who w := by
  obtain ⟨own, up⟩ := h
  exact ⟨by rw [moves.crosses, moves.addrPart, own], by rw [ports, up]⟩

theorem Writable.writeWord {s : State} {who : Who} {w : Nat} (h : Writable s who w) (v : Nat) (x mask : BitVec 512) (psn : Bool) :
    Writable (writeWord s who v x mask psn).1 who w := h.after (writeWord_moves ..) (writeWord_ports s who v x mask psn)

theorem Writable.openWrite {s : State} {who : Who} {w : Nat} (h : Writable s who w) (ws : List WordWr) :
    Writable (openWrite s who ws) who w := h.after (openWrite_looks ..).1 (.ofMem (openWrite_mem ..))

/-- A run whose first word is written goes on behind it. -/
theorem putWords_cons {s u : State} {who : Who} {x : WordWr} (h : Writable s who x.word) (r : List WordWr) {psn : Bool}
    (hu : (writeWord s who x.word x.data x.mask psn).1 = u) : putWords s who (x :: r) psn = ((putWords u who r psn).1,
      { (putWords u who r psn).2 with bytes := (putWords u who r psn).2.bytes + maskCount x.mask }) := by
  obtain ⟨own, up⟩ := h
  have done := writeWord_done own up x.data x.mask psn
  conv_lhs => unfold putWords
  generalize writeWord s who x.word x.data x.mask psn = q at done hu ⊢
  obtain ⟨v, res⟩ := q
  obtain rfl : res = .done := done
  obtain rfl : v = u := hu
  rfl

/-- A run of words that may all be written is written whole. -/
theorem putWords_whole (who : Who) (psn : Bool) : ∀ (l : List WordWr) (s : State), (∀ x ∈ l, Writable s who x.word) →
    (putWords s who l psn).2 = { bytes := (l.map (fun x => maskCount x.mask)).sum }
  | [], _, _ => rfl
  | x :: r, s, h => by
    obtain ⟨first, others⟩ := List.forall_mem_cons.mp h
    rw [putWords_cons first r rfl, putWords_whole who psn r _ fun y hy => (others y hy).writeWord ..]
    rw [List.map_cons, List.sum_cons, Nat.add_comm]

theorem putWords_ports (who : Who) (psn : Bool) : ∀ (l : List WordWr) (s : State), KeepsPorts s (putWords s who l psn).1
  | [], s => .refl s
  | x :: r, s => by
    have first := writeWord_ports s who x.word x.data x.mask psn
    unfold putWords
    split <;> rename_i e <;> rw [e] at first
    · exact first.trans (putWords_ports who psn r _)
    · exact first.trans (putWords_ports who psn r _)
    · exact first

/-- A run leaves every byte outside its words as it was. -/
theorem readByte_putWords_other (who : Who) (psn : Bool) {a : Nat} : ∀ (l : List WordWr) (s : State), (∀ x ∈ l, a / 64 ≠ x.word) →
    readByte (putWords s who l psn).1.mem a = readByte s.mem a
  | [], _, _ => rfl
  | x :: r, s, h => by
    obtain ⟨apart, others⟩ := List.forall_mem_cons.mp h
    have first : readByte (writeWord s who x.word x.data x.mask psn).1.mem a = readByte s.mem a :=
      readByte_writeWord_other s who x.data x.mask psn (by omega)
    unfold putWords
    split <;> rename_i e <;> rw [e] at first
    · exact (readByte_putWords_other who psn r _ others).trans first
    · exact (readByte_putWords_other who psn r _ others).trans first
    · exact first

theorem byteAt_allOnes {i : Nat} (hi : i < 64) : byteAt (BitVec.allOnes 512) i = BitVec.allOnes 8 := by
  refine BitVec.eq_of_getLsbD_eq fun j hj => ?_
  rw [byteAt, BitVec.getLsbD_extractLsb', BitVec.getLsbD_allOnes, BitVec.getLsbD_allOnes]
  simp only [hj, show 8 * i + j < 512 by omega, decide_true, Bool.and_self]

/-- Whole words that may all be written, each once, read back as they were given. -/
theorem readByte_putWords_self (who : Who) (psn : Bool) {i : Nat} (hi : i < 64) : ∀ (l : List WordWr) (s : State),
    (∀ x ∈ l, Writable s who x.word) → (∀ x ∈ l, x.mask = BitVec.allOnes 512) → (l.map (·.word)).Nodup → ∀ x ∈ l,
      readByte (putWords s who l psn).1.mem (64 * x.word + i) = byteAt x.data i
  | [], _, _, _, _, _, hx => absurd hx List.not_mem_nil
  | y :: r, s, h, whole, nodup, x, hx => by
    obtain ⟨first, others⟩ := List.forall_mem_cons.mp h
    obtain ⟨ones, wholes⟩ := List.forall_mem_cons.mp whole
    obtain ⟨apart, nodup⟩ := List.nodup_cons.mp nodup
    rw [putWords_cons first r rfl]
    rcases List.mem_cons.mp hx with rfl | hx
    · have elsewhere : ∀ z ∈ r, (64 * x.word + i) / 64 ≠ z.word := fun z hz e =>
        apart (List.mem_map.mpr ⟨z, hz, by show z.word = x.word; omega⟩)
      rw [readByte_putWords_other who psn r _ elsewhere, readByte_writeWord_self first.1 first.2 _ _ _ hi, ones]
      rw [byteAt_allOnes hi, BitVec.not_allOnes, BitVec.and_zero, BitVec.zero_or, BitVec.and_allOnes]
    · exact readByte_putWords_self who psn hi r _ (fun z hz => (others z hz).writeWord ..) wholes nodup x hx

/-! ### Runs with their accesses presented -/

section Runs

variable {s : State} {who : Who} {l : List WordWr}

theorem writeWords_whole (h : ∀ x ∈ l, Writable s who x.word) (psn : Bool) :
    (writeWords s who l psn).2 = { bytes := (l.map (fun x => maskCount x.mask)).sum } :=
  putWords_whole who psn l _ fun x hx => (h x hx).openWrite l

theorem readByte_writeWords_other (s : State) (who : Who) (psn : Bool) {a : Nat} (h : ∀ x ∈ l, a / 64 ≠ x.word) :
    readByte (writeWords s who l psn).1.mem a = readByte s.mem a := by
  unfold writeWords
  rw [readByte_putWords_other who psn l _ h, openWrite_mem]

theorem readByte_writeWords_self (h : ∀ x ∈ l, Writable s who x.word) (whole : ∀ x ∈ l, x.mask = BitVec.allOnes 512)
    (nodup : (l.map (·.word)).Nodup) (psn : Bool) {x : WordWr} (hx : x ∈ l) {i : Nat} (hi : i < 64) :
    readByte (writeWords s who l psn).1.mem (64 * x.word + i) = byteAt x.data i :=
  readByte_putWords_self who psn hi l _ (fun y hy => (h y hy).openWrite l) whole nodup x hx

end Runs

end Sys2Proof.Machine
end

section
set_option Elab.async false -- one proof after another: this bounds the memory that a check of the whole text takes
/-! PROOFS. The receiving side of the link and the NoC: the FEC's findings, acknowledgements, and a flit that arrives in order
(R314 to R317, R329, R332, R333, R335). -/

namespace Sys2Proof.Machine

/-! ### Lane errors -/

/-- What the FEC's findings on lanes may change: the lanes' counts and places, and the log of a swap. -/
def FindsLanes (s t : State) : Prop :=
  t = { s with lnk := t.lnk, err := t.err, u := t.u } ∧ t.u = { s.u with evtStat := t.u.evtStat } ∧
    t.lnk = { s.lnk with
      laneErr := t.lnk.laneErr, laneWin := t.lnk.laneWin, spareReady := t.lnk.spareReady, spare := t.lnk.spare
      candidate := t.lnk.candidate }

theorem FindsLanes.refl (s : State) : FindsLanes s s := ⟨rfl, rfl, rfl⟩

theorem FindsLanes.trans {s t u : State} (h : FindsLanes s t) (k : FindsLanes t u) : FindsLanes s u := by
  obtain ⟨h1, h2, h3⟩ := h
  obtain ⟨k1, k2, k3⟩ := k
  exact ⟨by rw [k1, h1], by rw [k2, h2], by rw [k3, h3]⟩

theorem FindsLanes.logRun {s t : State} (h : FindsLanes s t) (e : Err) (loc d : Nat) : FindsLanes s (logRun t e loc d) := by
  refine h.trans ⟨?_, logAt_evt .., ?_⟩
  · rw [Machine.logRun, logAt_eq]
  · rw [logRun_lnk]

theorem swapLane_finds (l : LaneId) (s : State) : FindsLanes s (swapLane l s) := by
  unfold swapLane
  split
  · exact FindsLanes.logRun ⟨rfl, rfl, rfl⟩ ..
  · exact .refl s

theorem laneError_finds (s : State) (l : LaneId) : FindsLanes s (laneError s l) := by
  have counted : FindsLanes s (modLink s (fun k => { k with
    laneErr := k.laneErr.set l.val (sat32 k.laneErr[l] 1), laneWin := k.laneWin.set l.val (k.laneWin[l] + 1) })) := ⟨rfl, rfl, rfl⟩
  unfold laneError; dsimp only
  split
  · exact counted
  split
  · exact counted.trans ⟨rfl, rfl, rfl⟩
  · exact counted.trans (swapLane_finds ..)

theorem laneErrors_find : ∀ (ls : List LaneId) (s : State), FindsLanes s (ls.foldl laneError s)
  | [], s => .refl s
  | l :: r, s => (laneError_finds s l).trans (laneErrors_find r _)

/-! ### What the FEC finds -/

/-- Lanes on which the FEC finds an error. -/
def badLanes (s : State) : List LaneId := (List.finRange 5).filter (fun l => s.hwf.contains (.fecCe l))

/-- The FEC's findings count codewords and lanes; latent faults of the FEC are used up. -/
theorem fecFinds_lnk (s : State) :
    let t := fecFinds s
    t = { s with lnk := t.lnk, err := t.err, u := t.u, hwf := s.hwf.filter (fun x => match x with | .fecCe _ | .fecUe => false | _ => true) } ∧
      t.u = { s.u with evtStat := t.u.evtStat } ∧
      t.lnk = { s.lnk with
        laneErr := t.lnk.laneErr, laneWin := t.lnk.laneWin, spareReady := t.lnk.spareReady, spare := t.lnk.spare
        candidate := t.lnk.candidate
        fecCe := if (badLanes s).isEmpty then s.lnk.fecCe else sat32 s.lnk.fecCe 1
        fecUe := if s.hwf.contains .fecUe then sat32 s.lnk.fecUe 1 else s.lnk.fecUe } := by
  intro t
  obtain ⟨f1, f2, f3⟩ := laneErrors_find (badLanes s) (modLink s (fun k => { k with fecCe := sat32 k.fecCe 1 }))
  have run : t = let u := if (badLanes s).isEmpty then s else (badLanes s).foldl laneError (modLink s (fun k => { k with fecCe := sat32 k.fecCe 1 }))
      let u := if u.hwf.contains .fecUe then modLink u (fun k => { k with fecUe := sat32 k.fecUe 1 }) else u
      { u with hwf := u.hwf.filter (fun x => match x with | .fecCe _ | .fecUe => false | _ => true) } := rfl
  clear_value t
  subst run
  dsimp only
  generalize (badLanes s).foldl laneError (modLink s (fun k => { k with fecCe := sat32 k.fecCe 1 })) = q at f1 f2 f3 ⊢
  have hwf : q.hwf = s.hwf := by rw [f1]; rfl
  by_cases clean : (badLanes s).isEmpty = true
  · simp only [clean, if_true]
    by_cases ue : s.hwf.contains .fecUe = true
    · simp only [ue, if_true]; exact ⟨rfl, rfl, rfl⟩
    · simp only [ue, if_false, Bool.false_eq_true, and_self]
  · simp only [clean, if_false, Bool.false_eq_true, hwf]
    by_cases ue : s.hwf.contains .fecUe = true
    · simp only [ue, if_true]
      refine ⟨?_, f2, ?_⟩
      · rw [f1]; rfl
      · rw [modLink, f3]; rfl
    · simp only [ue, if_false, Bool.false_eq_true]
      refine ⟨?_, f2, ?_⟩
      · rw [f1]; rfl
      · rw [f3]; rfl

theorem linkIn_cases (s : State) (link : Bool) : linkIn s link = s ∨ linkIn s link = fecFinds s := by
  unfold linkIn
  split
  · exact .inr rfl
  · exact .inl rfl

/-! ### A flit that arrives in order -/

/-- What a flit's arrival changes before its own effect: the link's sequence and lanes, what it found of the FEC, the log, and the
power counts. -/
def Received (s u : State) : Prop :=
  u = { s with err := u.err, u := u.u, pwr := u.pwr, lnk := u.lnk, hwf := u.hwf } ∧ u.u = { s.u with evtStat := u.u.evtStat } ∧
    (∀ x, x ∈ u.hwf → x ∈ s.hwf) ∧
    u.lnk.st = s.lnk.st ∧ u.lnk.nackCnt = s.lnk.nackCnt ∧ u.lnk.addCnt = s.lnk.addCnt ∧ u.lnk.labelCnt = s.lnk.labelCnt ∧
      u.lnk.fwd = s.lnk.fwd ∧ u.lnk.fwdBuf = s.lnk.fwdBuf ∧ u.lnk.tx = s.lnk.tx

theorem Received.refl (s : State) : Received s s := ⟨rfl, rfl, fun _ h => h, rfl, rfl, rfl, rfl, rfl, rfl, rfl⟩

theorem Received.trans {s t u : State} (h : Received s t) (k : Received t u) : Received s u := by
  obtain ⟨h1, h2, h3, h4, h5, h6, h7, h8, h9, h10⟩ := h
  obtain ⟨k1, k2, k3, k4, k5, k6, k7, k8, k9, k10⟩ := k
  exact ⟨by rw [k1, h1], by rw [k2, h2], fun x hx => h3 x (k3 x hx), k4.trans h4, k5.trans h5, k6.trans h6, k7.trans h7, k8.trans h8,
    k9.trans h9, k10.trans h10⟩

theorem Received.linkIn (s : State) (link : Bool) : Received s (linkIn s link) := by
  rcases linkIn_cases s link with h | h
  · rw [h]; exact .refl s
  · rw [h]
    obtain ⟨f1, f2, f3⟩ := fecFinds_lnk s
    generalize fecFinds s = q at f1 f2 f3 ⊢
    have hwf : q.hwf = s.hwf.filter _ := congrArg State.hwf f1
    refine ⟨by rw [f1], f2, fun x hx => ?_, ?_, ?_, ?_, ?_, ?_, ?_, ?_⟩
    · rw [hwf] at hx; exact List.mem_of_mem_filter hx
    all_goals rw [f3]

theorem Received.countFlit (s : State) : Received s (countFlit s) := by
  rw [countFlit_eq]; exact ⟨rfl, rfl, fun _ h => h, rfl, rfl, rfl, rfl, rfl, rfl, rfl⟩

theorem Received.takeAck (s : State) (f : Flit) : Received s (takeAck s f) := ⟨rfl, rfl, fun _ h => h, rfl, rfl, rfl, rfl, rfl, rfl, rfl⟩

section Arrival

variable {s : State} {link : Bool} {f : Flit} {typ : Nat}

/-- A flit that arrives is handled by the entry of its label, in a state in which no more than its arrival has been noted. -/
theorem inbound_arrives (h : Arrives s link f typ) : ∃ u, inbound typ link f s = .next (byLabel u f) ∧ Received s u ∧
    (link = true → u.lnk.expSeq = s.lnk.expSeq + 1) := by
  obtain ⟨type, free, good, room, order⟩ := h
  have seen := Received.linkIn s link
  have seq : (linkIn s link).lnk.expSeq = s.lnk.expSeq := by
    rcases linkIn_cases s link with e | e
    · rw [e]
    · rw [e, (fecFinds_lnk s).2.2]
  have room' : fwdFull (linkIn s link) f = false := by
    have rmt : (linkIn s link).rmt = s.rmt := by rw [seen.1]
    rw [← room]
    simp only [fwdFull, labelOf, rmt, seen.2.2.2.2.2.2.2.2.1]
  have entered : inbound typ link f s = .next (arrive (linkIn s link) link f (fun s => byLabel s f)) := by
    unfold inbound
    rw [if_neg (by simp [type, free])]
    simp only [room', Bool.and_false, Bool.false_and, Bool.false_eq_true, if_false]
  rw [entered]
  cases link with
  | false =>
    refine ⟨countFlit (linkIn s false), ?_, seen.trans (.countFlit _), fun h => absurd h Bool.false_ne_true⟩
    unfold arrive
    simp only [good, Bool.not_true, Bool.false_eq_true, if_false]
  | true =>
    obtain ⟨up, next⟩ := order rfl
    have up' : (linkIn s true).lnk.st = .up := seen.2.2.2.1.trans up
    have next' : fSeq f = (takeAck (linkIn s true) f).lnk.expSeq := next.trans seq.symm
    refine ⟨countFlit (modLink (takeAck (linkIn s true) f) (fun l => { l with
      expSeq := l.expSeq + 1, nakOut := false, nakDue := false, nakTimes := 0 })), ?_, ?_, fun _ => ?_⟩
    · unfold arrive
      simp only [up', good, next', ne_eq, not_true_eq_false, Bool.not_true, Bool.false_eq_true, if_false, if_true]
    · exact seen.trans ((Received.takeAck _ f).trans (.trans ⟨rfl, rfl, fun _ h => h, rfl, rfl, rfl, rfl, rfl, rfl, rfl⟩ (.countFlit _)))
    · rw [countFlit_eq]
      exact congrArg (· + 1) seq

end Arrival

end Sys2Proof.Machine
end

section
set_option Elab.async false -- one proof after another: this bounds the memory that a check of the whole text takes
/-! PROOFS. Return routes, credits and refusals: what they leave as it is, and an operation outside its window (R293, R319 to R325,
R385). -/

namespace Sys2Proof.Machine

/-! ### What is kept for a label -/

theorem labSt_modLab_self (s : State) (l : Nat) (f : LabelSt → LabelSt) : labSt (modLab s l f) l = f (labSt s l) := by
  simp [labSt, modLab]

theorem labSt_modLab_other (s : State) {l j : Nat} (f : LabelSt → LabelSt) (h : j ≠ l) : labSt (modLab s l f) j = labSt s j := by
  simp only [labSt, modLab]
  exact look_put_other _ _ _ _ h

/-- A change that leaves a label open or shut as it was. -/
theorem nacked_modLab (s : State) (l : Nat) {f : LabelSt → LabelSt} (h : ∀ x, (f x).nacked = x.nacked) (j : Nat) :
    (labSt (modLab s l f) j).nacked = (labSt s j).nacked := by
  by_cases e : j = l
  · subst e; rw [labSt_modLab_self, h]
  · rw [labSt_modLab_other _ _ e]

/-! ### What the service of a label leaves -/

/-- The bytes, counters, ports, cores, link registers, streams and label entries stand; labels stay open or shut, and what waits on
routes of the link goes on waiting. -/
structure Serves (s t : State) : Prop where
  stores : KeepsStores s t
  ports : KeepsPorts s t
  cores : t.cores = s.cores
  lnk : t.lnk = s.lnk
  hwf : t.hwf = s.hwf
  owners : t.u = { s.u with evtStat := t.u.evtStat }
  streams : t.rmt.streams = s.rmt.streams
  labels : t.rmt.labels = s.rmt.labels
  shut : ∀ l, (labSt t l).nacked = (labSt s l).nacked
  waits : ∀ r ∈ s.rmt.ret, r.viaNoc = false → r ∈ t.rmt.ret

theorem Serves.refl (s : State) : Serves s s := ⟨.refl s, .refl s, rfl, rfl, rfl, rfl, rfl, rfl, fun _ => rfl, fun _ h _ => h⟩

theorem Serves.trans {s t u : State} (h : Serves s t) (k : Serves t u) : Serves s u where
  stores := h.stores.trans k.stores
  ports := h.ports.trans k.ports
  cores := k.cores.trans h.cores
  lnk := k.lnk.trans h.lnk
  hwf := k.hwf.trans h.hwf
  owners := by rw [k.owners, h.owners]
  streams := k.streams.trans h.streams
  labels := k.labels.trans h.labels
  shut l := (k.shut l).trans (h.shut l)
  waits r hr link := k.waits r (h.waits r hr link) link

/-- Changes of the log, the events, the frame's counts and the power block alone. -/
theorem Serves.aside {s : State} {e : ErrLog} {u : UnitRegs} (f : FrameCtl) (p : Power) (owners : u = { s.u with evtStat := u.evtStat }) :
    Serves s { s with err := e, u := u, fr := f, pwr := p } :=
  ⟨.same rfl rfl, .ofMem rfl, rfl, rfl, rfl, owners, rfl, rfl, fun _ => rfl, fun _ hr _ => hr⟩

theorem Serves.logAt (s : State) (e : Err) (cls loc : Nat) (t : Option (Fin 64)) (d : Nat) : Serves s (logAt s e cls loc t d) := by
  have evt := logAt_evt s e cls loc t d
  rw [logAt_eq]
  exact .aside _ _ evt

theorem Serves.logRun (s : State) (e : Err) (loc d : Nat) : Serves s (logRun s e loc d) := .logAt ..

theorem Serves.countFlit (s : State) : Serves s (countFlit s) := by
  rw [countFlit_eq]; exact .aside _ _ rfl

theorem Serves.modLab (s : State) (l : Nat) (f : LabelSt → LabelSt) (h : ∀ x, (f x).nacked = x.nacked) :
    Serves s (Machine.modLab s l f) :=
  ⟨.same rfl rfl, .ofMem rfl, rfl, rfl, rfl, rfl, rfl, rfl, nacked_modLab s l h, fun _ hr _ => hr⟩

theorem modPort_eq (s : State) (st : StoreId) (f : Port → Port) : modPort s st f = { s with mem := (modPort s st f).mem } := by
  cases st <;> rfl

theorem Serves.modPort (s : State) (st : StoreId) (f : Port → Port) (h : ∀ p, (f p).isOpen = p.isOpen) :
    Serves s (Machine.modPort s st f) := by
  have stores := modPort_keeps s st f
  have ports := modPort_ports s st h
  rw [modPort_eq] at stores ports ⊢
  exact ⟨stores, ports, rfl, rfl, rfl, rfl, rfl, rfl, fun _ => rfl, fun _ hr _ => hr⟩

/-- A change of the labels' state and of what waits on return routes. -/
theorem Serves.ofRmt {s : State} {r : Remote} (streams : r.streams = s.rmt.streams) (labels : r.labels = s.rmt.labels)
    (kept : r.labSt = s.rmt.labSt) (waits : ∀ x ∈ s.rmt.ret, x.viaNoc = false → x ∈ r.ret) : Serves s { s with rmt := r } :=
  ⟨.same rfl rfl, .ofMem rfl, rfl, rfl, rfl, rfl, streams, labels, fun l => by simp only [labSt, kept], waits⟩

theorem Serves.sendRet (s : State) (l typ inc ctr addr nw dl : Nat) (last psn : Bool) (data : Bits) :
    Serves s (Machine.sendRet s l typ inc ctr addr nw dl last psn data) :=
  .ofRmt rfl rfl rfl fun _ hr _ => List.mem_append_left _ hr

/-- A flit out over the NoC. -/
theorem Serves.sendNoc (s : State) (unit : BitVec 6) (f : Flit) : Serves s (sendOut s true unit f) := by
  have sent : Serves (Machine.countFlit s) (sendOut s true unit f) := .ofRmt rfl rfl rfl fun _ hr _ => hr
  exact (Serves.countFlit s).trans sent

/-- Routes of the NoC are served; what waits for the link stays in the list of those that wait. -/
theorem flushNocGo_serves : ∀ (rs : List RetFlit) (s : State), Serves s (flushNocGo rs s).1 ∧
    ∀ r ∈ rs, r.viaNoc = false → r ∈ (flushNocGo rs s).2
  | [], s => ⟨.refl s, fun _ h _ => absurd h List.not_mem_nil⟩
  | x :: rs, s => by
    unfold flushNocGo
    by_cases goes : (x.viaNoc && retRoom s x.label) = true
    · rw [if_pos goes]
      have used := Serves.modLab s x.label (fun y => { y with used := y.used + 1 }) fun _ => rfl
      generalize Machine.modLab s x.label (fun y => { y with used := y.used + 1 }) = u at used ⊢
      obtain ⟨serves, waits⟩ := flushNocGo_serves rs (sendOut u true x.viaUnit x.f)
      refine ⟨(used.trans (.sendNoc ..)).trans serves, fun r hr link => ?_⟩
      rcases List.mem_cons.mp hr with rfl | hr
      · rw [link] at goes; simp at goes
      · exact waits r hr link
    · rw [if_neg goes]
      obtain ⟨serves, waits⟩ := flushNocGo_serves rs s
      refine ⟨serves, fun r hr link => ?_⟩
      rcases List.mem_cons.mp hr with rfl | hr
      · exact List.mem_cons_self
      · exact List.mem_cons_of_mem _ (waits r hr link)

theorem Serves.flushNoc (s : State) : Serves s (Machine.flushNoc s) := by
  obtain ⟨serves, waits⟩ := flushNocGo_serves s.rmt.ret s
  unfold Machine.flushNoc
  obtain ⟨stores, ports, cores, lnk, hwf, owners, streams, labels, shut, -⟩ := serves
  exact ⟨stores.trans (.same rfl rfl), ports.trans (.ofMem rfl), cores, lnk, hwf, owners, streams, labels, shut, waits⟩

theorem Serves.sendCred (s : State) (l : Nat) : Serves s (Machine.sendCred s l) := by
  unfold Machine.sendCred; dsimp only
  exact .trans (.trans (.modLab _ _ _ fun _ => by rfl) (.modPort _ _ _ fun _ => by rfl)) (.sendRet ..)

theorem Serves.credNoc : ∀ (n : Nat) (s : State), Serves s (Machine.credNoc n s)
  | 0, s => .refl s
  | n + 1, s => by
    unfold Machine.credNoc
    split
    · exact ((Serves.sendCred ..).trans (.flushNoc _)).trans (Serves.credNoc n _)
    · exact .refl s

theorem Serves.giveBack (s : State) (l : Nat) : Serves s (Machine.giveBack s l) := by
  unfold Machine.giveBack; dsimp only
  split
  · exact .refl s
  · exact .trans (.trans (.modPort _ _ _ fun _ => by rfl) (.modLab _ _ _ fun _ => by rfl)) (.credNoc 1 _)

theorem Serves.lateness (s : State) (l : Nat) (f : Flit) : Serves s (Machine.lateness s l f) := by
  have framed (u : State) (g : FrameCtl) : Serves u { u with fr := g } := .aside g u.pwr rfl
  unfold Machine.lateness; dsimp only
  split
  · exact .refl s
  split
  · exact framed s _
  split
  · exact framed s _
  · exact ((framed s _).trans (.logAt ..)).trans (.aside _ _ rfl)

end Sys2Proof.Machine
end

section
set_option Elab.async false -- one proof after another: this bounds the memory that a check of the whole text takes
/-! PROOFS. Flits that their label delivers, and an operation outside its window (R314, R325, R385). -/

namespace Sys2Proof.Machine

/-! ### What a flit's arrival leaves of its label, words and counter -/

section Arrived

variable {s u : State} {f : Flit}

theorem Received.parts (h : Received s u) : u.parts = s.parts := by rw [h.1]
theorem Received.rmt (h : Received s u) : u.rmt = s.rmt := by rw [h.1]
theorem Received.mem (h : Received s u) : u.mem = s.mem := by rw [h.1]
theorem Received.cnt (h : Received s u) : u.cnt = s.cnt := by rw [h.1]
theorem Received.cores (h : Received s u) : u.cores = s.cores := by rw [h.1]
theorem Received.fr (h : Received s u) : u.fr = s.fr := by rw [h.1]

theorem Received.mode (h : Received s u) : u.u.taskMode = s.u.taskMode := (congrArg UnitRegs.taskMode h.2.1).trans rfl

theorem Received.labelOf (h : Received s u) (l : Nat) : labelOf u l = Machine.labelOf s l := by simp only [Machine.labelOf, h.rmt]

theorem Received.taskPart (h : Received s u) (p : Part) : taskPart u p = Machine.taskPart s p := by
  have two : twoTask u = twoTask s := h.mode
  simp only [Machine.taskPart, two]

theorem Received.delivers (h : Received s u) (d : Delivers s f) : Delivers u f := by
  obtain ⟨valid, here, opn, alive, noReset⟩ := d
  have lab : labSt u (fLabel f) = labSt s (fLabel f) := by simp only [labSt, h.rmt]
  have state : u.u.state = s.u.state := (congrArg UnitRegs.state h.2.1).trans rfl
  refine ⟨by rw [h.labelOf, valid], by rw [h.labelOf, here], by rw [lab, opn], by rw [state]; exact alive, ?_⟩
  simp only [h.labelOf, h.taskPart, h.parts, noReset]

theorem Received.crosses (h : Received s u) (p q : Part) : crosses u p q = Machine.crosses s p q := by
  simp only [Machine.crosses, twoTask, h.mode]

theorem Received.takesCtr (h : Received s u) (k : TakesCtr s f) : TakesCtr u f := by
  obtain ⟨sound, own⟩ := k
  have split : u.u.cntSplit = s.u.cntSplit := (congrArg UnitRegs.cntSplit h.2.1).trans rfl
  refine ⟨fun bad => sound (h.2.2.1 _ bad), ?_⟩
  rw [h.labelOf, h.crosses]
  simpa only [ctrPart, split] using own

theorem Received.takesWord (h : Received s u) {w : Nat} (k : TakesWord s f w) : TakesWord u f w := by
  obtain ⟨own, up⟩ := k
  have owner : u.u.nsOwner = s.u.nsOwner := (congrArg UnitRegs.nsOwner h.2.1).trans rfl
  have bound : u.u.dsBound = s.u.dsBound := (congrArg UnitRegs.dsBound h.2.1).trans rfl
  refine ⟨?_, by rw [portOf_ofMem h.mem, up]⟩
  rw [h.labelOf, h.crosses]
  simpa only [addrPart, groupPart, dsPart, owner, bound] using own

end Arrived

/-! ### What a delivered flit does -/

section Delivered

variable {s : State} {f : Flit}

theorem byLabel_delivers (d : Delivers s f) : byLabel s f = deliver s (fLabel f) f := by
  obtain ⟨valid, here, -⟩ := d
  simp only [byLabel, valid, here, Bool.not_true, Bool.false_eq_true, if_false, if_true]

theorem byLabel_wr (d : Delivers s f) (h : fType f = tWr) : byLabel s f = applyWr s (fLabel f) f (fun s => giveBack s (fLabel f)) := by
  obtain ⟨-, -, opn, alive, noReset⟩ := id d
  simp only [byLabel_delivers d, deliver, opn, alive, noReset, h, tWr, Nat.lt_irrefl, decide_false, Bool.and_false, Bool.false_eq_true, if_false]

theorem byLabel_rdReq (d : Delivers s f) (h : fType f = tRdReq) : byLabel s f = applyRdReq s (fLabel f) f := by
  obtain ⟨-, -, opn, alive, noReset⟩ := id d
  simp only [byLabel_delivers d, deliver, opn, alive, noReset, h, tRdReq, Nat.lt_irrefl, decide_false, Bool.and_false, Bool.false_eq_true, if_false]

theorem byLabel_rdRsp (d : Delivers s f) (h : fType f = tRdRsp) : byLabel s f = applyRsp s (fLabel f) f := by
  obtain ⟨-, -, opn, alive, noReset⟩ := id d
  simp only [byLabel_delivers d, deliver, opn, alive, noReset, h, tRdRsp, Nat.lt_irrefl, decide_false, Bool.and_false, Bool.false_eq_true, if_false]

theorem byLabel_inc (d : Delivers s f) (h : fType f = tInc) : byLabel s f = applyInc s (fLabel f) f := by
  obtain ⟨-, -, opn, alive, noReset⟩ := id d
  simp only [byLabel_delivers d, deliver, opn, alive, noReset, h, tInc, Nat.lt_irrefl, decide_false, Bool.and_false, Bool.false_eq_true, if_false]

theorem byLabel_add (d : Delivers s f) (h : fType f = tAdd) : byLabel s f = applyAdd s (fLabel f) f := by
  obtain ⟨-, -, opn, alive, noReset⟩ := id d
  simp only [byLabel_delivers d, deliver, opn, alive, noReset, h, tAdd, Nat.lt_irrefl, decide_false, Bool.and_false, Bool.false_eq_true, if_false]

theorem byLabel_cred (d : Delivers s f) (h : fType f = tCred) : byLabel s f = applyCred s f := by
  obtain ⟨-, -, opn, alive, noReset⟩ := id d
  simp only [byLabel_delivers d, deliver, opn, alive, noReset, h, tCred, Nat.lt_irrefl, decide_false, Bool.and_false, Bool.false_eq_true, if_false]

theorem byLabel_cret (d : Delivers s f) (h : fType f = tCret) : byLabel s f = applyCret s (fLabel f) f := by
  obtain ⟨-, -, opn, alive, noReset⟩ := id d
  simp only [byLabel_delivers d, deliver, opn, alive, noReset, h, tCret, Nat.lt_irrefl, decide_false, Bool.and_false, Bool.false_eq_true, if_false]

theorem byLabel_nack (d : Delivers s f) (h : fType f = tNack) : byLabel s f = applyNack s f := by
  obtain ⟨-, -, opn, alive, noReset⟩ := id d
  simp only [byLabel_delivers d, deliver, opn, alive, noReset, h, tNack, Nat.lt_irrefl, decide_false, Bool.and_false, Bool.false_eq_true, if_false]

end Delivered

/-! ### Refusals -/

theorem Serves.labelOf {s t : State} (h : Serves s t) (l : Nat) : labelOf t l = Machine.labelOf s l := by
  simp only [Machine.labelOf, h.labels]

theorem Serves.crosses {s t : State} (h : Serves s t) (p q : Part) : crosses t p q = Machine.crosses s p q := by
  have mode : t.u.taskMode = s.u.taskMode := (congrArg UnitRegs.taskMode h.owners).trans rfl
  simp only [Machine.crosses, twoTask, mode]

theorem Serves.ctrPart {s t : State} (h : Serves s t) (c : Ctr) : ctrPart t c = Machine.ctrPart s c := by
  have split : t.u.cntSplit = s.u.cntSplit := (congrArg UnitRegs.cntSplit h.owners).trans rfl
  simp only [Machine.ctrPart, split]

section Refusal

variable {s : State} {l : Nat} {f : Flit}

/-- The refusal of an operation whose counter is this partition's own: counted, its counter poisoned, its label shut. -/
theorem refuse_own (own : crosses s (lbOwner (labelOf s l)) (ctrPart s (fCtr f)) = false) (e : Err) (log : Bool) :
    let t := refuse s l f e log
    SameBytes s t ∧ t.lnk.nackCnt = sat32 s.lnk.nackCnt 1 ∧ (ctrOf t (fCtr f)).psn = true ∧
      (ctrOf t (fCtr f)).val = (ctrOf s (fCtr f)).val ∧ (labSt t l).nacked = true ∧ t.cores = s.cores := by
  intro t
  obtain ⟨q, hq⟩ : ∃ q, q = if log then logAt s e 0 locUnit (some (lbSrcStream (labelOf s l))) 0 else s := ⟨_, rfl⟩
  have logged : Serves s q := by
    rw [hq]
    split
    · exact .logAt ..
    · exact .refl s
  have own' : crosses q (lbOwner (labelOf q l)) (ctrPart q (fCtr f)) = false := by
    rw [logged.labelOf, logged.crosses, logged.ctrPart, own]
  obtain ⟨n, hn⟩ : ∃ n, n = modLab (poisonCtr (modLink q (fun k => { k with nackCnt := sat32 k.nackCnt 1 })) (fCtr f)) l
    (fun x => { x with nacked := true }) := ⟨_, rfl⟩
  have run : t = flushNoc (sendRet n l tNack 0 0 0 0 0 false false
      (BitVec.ofNat 2048 (e.value + (lbSrcStream (labelOf s l)).val * 2 ^ 16 + fldN f.hdr 0 32 * 2 ^ 32))) := by
    have named : poisonNamed (modLink q (fun k => { k with nackCnt := sat32 k.nackCnt 1 })) l (fCtr f) =
        poisonCtr (modLink q (fun k => { k with nackCnt := sat32 k.nackCnt 1 })) (fCtr f) :=
      if_neg fun crossed => Bool.false_ne_true (own'.symm.trans crossed)
    rw [hn, ← named, hq]
    rfl
  have sent : Serves n t := by rw [run]; exact (Serves.sendRet ..).trans (.flushNoc _)
  have ctr (c : Ctr) : ctrOf t c = ctrOf n c := by rw [ctrOf, sent.stores.2.2.2.2]; rfl
  have here : ctrOf n (fCtr f) = { ctrOf s (fCtr f) with psn := true } := by
    have same : ctrOf q (fCtr f) = ctrOf s (fCtr f) := by rw [ctrOf, logged.stores.2.2.2.2]; rfl
    rw [← same, hn]
    exact ctrOf_setCtr ..
  have mem : n.mem = q.mem := by rw [hn]; rfl
  refine ⟨?_, ?_, ?_, ?_, ?_, ?_⟩
  · exact .trans (.ofKeeps logged.stores) (.trans (.ofMem mem) (.ofKeeps sent.stores))
  · rw [sent.lnk, hn, ← logged.lnk]; rfl
  · rw [ctr, here]
  · rw [ctr, here]
  · rw [sent.shut, hn, labSt_modLab_self]
  · rw [sent.cores, hn, ← logged.cores]; rfl

end Refusal

/-! ### An operation outside its window -/

/-- An operation that its label delivers and its window refuses: the flit's arrival, then the refusal. -/
theorem refused_of_arrives {s : State} {link : Bool} {f : Flit} {typ : Nat} (h : Arrives s link f typ) (d : Delivers s f)
    (k : TakesCtr s f) {e : Err} {log : Bool}
    (refused : ∀ u, Delivers u f → fType f = typ → u.rmt = s.rmt → byLabel u f = refuse u (fLabel f) f e log) :
    ∃ t, inbound typ link f s = .next t ∧ SameBytes s t ∧ t.lnk.nackCnt = sat32 s.lnk.nackCnt 1 ∧ (ctrOf t (fCtr f)).psn = true ∧
      (ctrOf t (fCtr f)).val = (ctrOf s (fCtr f)).val ∧ (labSt t (fLabel f)).nacked = true ∧ t.cores = s.cores := by
  obtain ⟨u, run, seen, -⟩ := inbound_arrives h
  obtain ⟨bytes, count, psn, val, shut, cores⟩ := refuse_own (seen.takesCtr k).2 e log
  have nacks : u.lnk.nackCnt = s.lnk.nackCnt := seen.2.2.2.2.1
  have ctr : ctrOf u (fCtr f) = ctrOf s (fCtr f) := by rw [ctrOf, seen.cnt]; rfl
  refine ⟨_, run.trans (congrArg Host.Outcome.next (refused u (seen.delivers d) h.1 seen.rmt)), ?_, ?_, psn, ?_, shut, ?_⟩
  · exact .trans (.ofMem seen.mem) bytes
  · rw [count, nacks]
  · rw [val, ctr]
  · rw [cores, seen.cores]

/-- Settles O36: one refusal for each operation that its window turns away. -/
theorem operationsOutsideTheWindowAreRefused : Obligations.OperationsOutsideTheWindowAreRefused := by
  unfold Obligations.OperationsOutsideTheWindowAreRefused
  intro s link f i d k op
  have same {u : State} (h : u.rmt = s.rmt) (l : Nat) : labelOf u l = labelOf s l := by simp only [labelOf, h]
  rcases op with ⟨rfl, arrives, outside⟩ | ⟨rfl, arrives, outside⟩ | ⟨rfl, arrives, unread⟩
  · refine refused_of_arrives (e := .rmtRange) (log := true) arrives d k fun u du typ rmt => ?_
    rw [byLabel_wr du typ, applyWr]
    exact if_pos (by rw [same rmt, outside]; rfl)
  · refine refused_of_arrives (e := .rmtRange) (log := true) arrives d k fun u du typ rmt => ?_
    rw [byLabel_add du typ, applyAdd]
    exact if_pos (by rw [same rmt, outside]; rfl)
  · refine refused_of_arrives (e := .rmtRange) (log := true) arrives d k fun u du typ rmt => ?_
    rw [byLabel_rdReq du typ, applyRdReq]
    exact if_pos (by rw [same rmt, unread]; rfl)

end Sys2Proof.Machine
end

section
set_option Elab.async false -- one proof after another: this bounds the memory that a check of the whole text takes
/-! PROOFS. A write inside its window (R318 to R320). -/

namespace Sys2Proof.Machine

/-! ### What an agent's progress leaves -/

@[simp] theorem modAg_mem (s : State) (ag : Agent) (f : AgentSt → AgentSt) : (modAg s ag f).mem = s.mem := by cases ag <;> rfl

@[simp] theorem modAg_cnt (s : State) (ag : Agent) (f : AgentSt → AgentSt) : (modAg s ag f).cnt = s.cnt := by cases ag <;> rfl

@[simp] theorem modAg_lnk (s : State) (ag : Agent) (f : AgentSt → AgentSt) : (modAg s ag f).lnk = s.lnk := by cases ag <;> rfl

/-! ### The words of a flit -/

/-- The bytes of the flit's words are the bytes of its payload. -/
theorem byteAt_payload {n : Nat} (x : BitVec n) (k : Nat) {i : Nat} (hi : i < 64) :
    byteAt (BitVec.ofNat 512 (fldN x (512 * k) 512)) i = byteAt x (64 * k + i) := by
  refine BitVec.eq_of_getLsbD_eq fun j hj => ?_
  rw [fldN, BitVec.ofNat_toNat, BitVec.setWidth_eq]
  simp only [byteAt, BitVec.getLsbD_extractLsb', hj, decide_true, Bool.true_and, show 8 * i + j < 512 by omega]
  rw [show 512 * k + (8 * i + j) = 8 * (64 * k + i) + j by ring]

theorem mem_flitWords {f : Flit} {x : WordWr} (h : x ∈ flitWords f) : ∃ i < fWords f, x.word = fAddr f / 64 + i := by
  obtain ⟨i, hi, rfl⟩ := List.mem_map.mp h
  rw [upto_eq_range, List.mem_range] at hi
  exact ⟨i, hi, rfl⟩

theorem flitWords_whole {f : Flit} {x : WordWr} (h : x ∈ flitWords f) : x.mask = BitVec.allOnes 512 := by
  obtain ⟨i, hi, rfl⟩ := List.mem_map.mp h
  rfl

theorem flitWords_nodup (f : Flit) : ((flitWords f).map (·.word)).Nodup := by
  rw [flitWords, List.map_map, upto_eq_range]
  exact List.nodup_range.map_on fun a _ b _ e => Nat.add_left_cancel e

theorem fAddr_word (f : Flit) : fAddr f = 64 * (fAddr f / 64) := by rw [fAddr]; omega

/-! ### The run's bookkeeping -/

section Step

variable {s : State} {l : Nat} {f : Flit}

/-- What the bookkeeping of a run leaves. -/
theorem runStep_leaves (s : State) (l : Nat) (f : Flit) (n : Nat) :
    (runStep s l f n).mem = s.mem ∧ (runStep s l f n).cores = s.cores ∧ (runStep s l f n).lnk = s.lnk := by
  unfold runStep; dsimp only
  split
  · split
    · exact ⟨rfl, rfl, rfl⟩
    · rw [incCtrBy_eq]; exact ⟨rfl, rfl, rfl⟩
  · exact ⟨rfl, rfl, rfl⟩

theorem runStep_counts (h : TakesCtr s f) (own : l = fLabel f) (n : Nat) (last : fLast f = true) (inc : fInc f = 1) :
    (ctrOf (runStep s l f n) (fCtr f)).val = (ctrOf s (fCtr f)).val + 1 := by
  subst own
  obtain ⟨sound, same⟩ := h
  have same' : crosses (modLab s (fLabel f) (fun x => { x with pending := 0, runPsn := false })) (lbOwner (labelOf s (fLabel f)))
      (ctrPart s (fCtr f)) = false := same
  unfold runStep; dsimp only
  rw [if_pos last, if_neg (by omega), if_pos inc]
  rw [incCtrBy_own (by exact same'), incCtr_ok (by exact sound), ctrOf_setCtr]
  rfl

theorem runStep_still (n : Nat) (h : fLast f = false ∨ fInc f = 0) : (runStep s l f n).cnt = s.cnt := by
  unfold runStep; dsimp only
  rcases h with last | inc
  · rw [if_neg (by simp [last])]; rfl
  · rw [if_pos inc]
    split
    · rfl
    · rfl

end Step

/-! ### A write that takes effect -/

/-- What follows the effect of a write: credits and answers, which touch neither bytes nor counters, cores or the link. -/
def Trails (s t : State) : Prop := SameBytes s t ∧ t.cnt = s.cnt ∧ t.cores = s.cores ∧ t.lnk = s.lnk

theorem Serves.trails {s t : State} (h : Serves s t) : Trails s t := ⟨.ofKeeps h.stores, h.stores.2.2.2.2, h.cores, h.lnk⟩

theorem answered_trails (s : State) (t : StreamId) (f : Flit) (psn : Bool) : Trails s (answered s t f psn) := by
  unfold answered; dsimp only
  split
  · unfold progress
    rw [touchAg_eq]
    refine ⟨.ofMem ?_, rfl, rfl, rfl⟩
    simp only [modAg_mem, modChan_mem, modStream_mem]
  · exact ⟨.ofMem rfl, rfl, rfl, rfl⟩

section Write

variable {s : State} {f : Flit}

theorem applyWr_takes (inside : inWin (labelOf s (fLabel f)) (fAddr f) (64 * fWords f) = true)
    (words : ∀ i, i < fWords f → TakesWord s f (fAddr f / 64 + i)) (ctr : TakesCtr s f) {done : State → State}
    (trails : ∀ u, Trails u (done u)) :
    let t := applyWr s (fLabel f) f done
    (∀ a, a < 64 * fWords f → readByte t.mem (fAddr f + a) = byteAt f.data a) ∧
      (∀ a, a < fAddr f ∨ fAddr f + 64 * fWords f ≤ a → readByte t.mem a = readByte s.mem a) ∧
      (fLast f = true → fInc f = 1 → (ctrOf t (fCtr f)).val = (ctrOf s (fCtr f)).val + 1) ∧
      (fLast f = false ∨ fInc f = 0 → t.cnt = s.cnt) ∧ t.cores = s.cores ∧ t.lnk = s.lnk := by
  intro t
  have may : ∀ x ∈ flitWords f, Writable s (whoInbound (lbOwner (labelOf s (fLabel f)))) x.word := fun x hx => by
    obtain ⟨i, hi, word⟩ := mem_flitWords hx
    rw [word]; exact words i hi
  have moves := writeWords_moves s (whoInbound (lbOwner (labelOf s (fLabel f)))) (flitWords f) (fPsn f)
  have whole := writeWords_whole may (fPsn f)
  have written {x : WordWr} (hx : x ∈ flitWords f) {i : Nat} (hi : i < 64) :=
    readByte_writeWords_self may (fun y hy => flitWords_whole hy) (flitWords_nodup f) (fPsn f) hx hi
  have others {a : Nat} (h : ∀ x ∈ flitWords f, a / 64 ≠ x.word) :=
    readByte_writeWords_other s (whoInbound (lbOwner (labelOf s (fLabel f)))) (fPsn f) h
  have run : t = done (runStep (lateness (writeWords s (whoInbound (lbOwner (labelOf s (fLabel f)))) (flitWords f) (fPsn f)).1 (fLabel f) f)
      (fLabel f) f (writeWords s (whoInbound (lbOwner (labelOf s (fLabel f)))) (flitWords f) (fPsn f)).2.bytes) :=
    (if_neg (by rw [inside]; exact Bool.false_ne_true)).trans (if_neg (by rw [whole]; exact Bool.false_ne_true))
  generalize (writeWords s (whoInbound (lbOwner (labelOf s (fLabel f)))) (flitWords f) (fPsn f)).2.bytes = n at run
  generalize (writeWords s (whoInbound (lbOwner (labelOf s (fLabel f)))) (flitWords f) (fPsn f)).1 = w at *
  have cnt : w.cnt = s.cnt := by rw [moves.1]
  have cores : w.cores = s.cores := by rw [moves.1]
  have lnk : w.lnk = s.lnk := by rw [moves.1]
  have hwf : w.hwf = s.hwf := by rw [moves.1]
  have rmt : w.rmt = s.rmt := by rw [moves.1]
  have late := Serves.lateness w (fLabel f) f
  generalize lateness w (fLabel f) f = v at *
  obtain ⟨mem', cores', lnk'⟩ := runStep_leaves v (fLabel f) f n
  have takes : TakesCtr v f := by
    obtain ⟨sound, own⟩ := ctr
    refine ⟨by rw [late.hwf, hwf]; exact sound, ?_⟩
    have same : labelOf w (fLabel f) = labelOf s (fLabel f) := by simp only [labelOf, rmt]
    rw [late.labelOf, late.crosses, late.ctrPart, same, moves.crosses, moves.ctrPart, own]
  have counts := runStep_counts takes rfl n
  have still := runStep_still (s := v) (l := fLabel f) (f := f) n
  obtain ⟨bytes, same, core, link⟩ := trails (runStep v (fLabel f) f n)
  rw [← run] at bytes same core link
  have ctrV : ctrOf v (fCtr f) = ctrOf s (fCtr f) := by rw [ctrOf, late.stores.2.2.2.2, cnt]; rfl
  have ctrT : ctrOf t (fCtr f) = ctrOf (runStep v (fLabel f) f n) (fCtr f) := by rw [ctrOf, same]; rfl
  have read (a : Nat) : readByte t.mem a = readByte w.mem a := by rw [bytes a, mem', late.stores.readByte a]
  have whereabouts := fAddr_word f
  refine ⟨fun a ha => ?_, fun a ha => ?_, fun last inc => ?_, fun h => ?_, ?_, ?_⟩
  · have mem : ({ word := fAddr f / 64 + a / 64, data := BitVec.ofNat 512 (fldN f.data (512 * (a / 64)) 512)
                  mask := BitVec.allOnes 512 } : WordWr) ∈ flitWords f :=
      List.mem_map.mpr ⟨a / 64, by rw [upto_eq_range, List.mem_range]; omega, rfl⟩
    have byte := written mem (Nat.mod_lt a (by omega))
    rw [byteAt_payload _ _ (Nat.mod_lt a (by omega)), Nat.div_add_mod] at byte
    rw [read, ← byte]
    congr 1
    dsimp only
    omega
  · rw [read]
    refine others fun x hx => ?_
    obtain ⟨i, hi, word⟩ := mem_flitWords hx
    omega
  · rw [ctrT, counts last inc, ctrV]
  · rw [same, still h, late.stores.2.2.2.2, cnt]
  · rw [core, cores', late.cores, cores]
  · rw [link, lnk', late.lnk, lnk]

/-- With no answer from before a reset to come, a response is written as a write is. -/
theorem applyRsp_writes (h : ∀ st : StreamId, s.rmt.streams[st].tomb = 0) : ∃ done : State → State, (∀ u, Trails u (done u)) ∧
    applyRsp s (fLabel f) f = applyWr s (fLabel f) f done := by
  unfold applyRsp
  split
  · rename_i t asked
    refine ⟨_, fun u => ?_, if_neg (by rw [h t]; exact Nat.lt_irrefl 0)⟩
    split
    · exact answered_trails ..
    · exact (Serves.refl u).trails
  · exact ⟨_, fun u => (Serves.refl u).trails, rfl⟩

end Write

section Landing

variable {s : State} {link : Bool} {f : Flit} {typ : Nat}

/-- A write that arrives in order, and its run of words. -/
theorem lands_of_arrives (h : Arrives s link f typ) (inside : inWin (labelOf s (fLabel f)) (fAddr f) (64 * fWords f) = true)
    (words : ∀ i, i < fWords f → TakesWord s f (fAddr f / 64 + i)) (ctr : TakesCtr s f)
    (writes : ∀ u, Received s u → ∃ done : State → State, (∀ v, Trails v (done v)) ∧ byLabel u f = applyWr u (fLabel f) f done) :
    ∃ t, inbound typ link f s = .next t ∧
      (∀ a, a < 64 * fWords f → readByte t.mem (fAddr f + a) = byteAt f.data a) ∧
      (∀ a, a < fAddr f ∨ fAddr f + 64 * fWords f ≤ a → readByte t.mem a = readByte s.mem a) ∧
      (fLast f = true → fInc f = 1 → (ctrOf t (fCtr f)).val = (ctrOf s (fCtr f)).val + 1) ∧
      (fLast f = false ∨ fInc f = 0 → t.cnt = s.cnt) ∧ t.cores = s.cores ∧
      (link = true → t.lnk.expSeq = s.lnk.expSeq + 1) := by
  obtain ⟨u, run, seen, seq⟩ := inbound_arrives h
  obtain ⟨done, trails, wr⟩ := writes u seen
  obtain ⟨bytes, others, counts, still, cores, lnk⟩ := applyWr_takes (s := u) (f := f) (by rw [seen.labelOf]; exact inside)
    (fun i hi => seen.takesWord (words i hi)) (seen.takesCtr ctr) trails
  have before : ctrOf u (fCtr f) = ctrOf s (fCtr f) := by rw [ctrOf, seen.cnt]; rfl
  refine ⟨_, run.trans (congrArg Host.Outcome.next wr), bytes, fun a ha => ?_, fun last inc => ?_, fun h => ?_, ?_, fun up => ?_⟩
  · rw [others a ha, seen.mem]
  · rw [counts last inc, before]
  · rw [still h, seen.cnt]
  · rw [cores, seen.cores]
  · rw [lnk, seq up]

end Landing

/-- Settles O34: a WR and a read's answer are written alike; what differs follows the write. -/
theorem inboundWritesLandInTheirWindow : Obligations.InboundWritesLandInTheirWindow := by
  unfold Obligations.InboundWritesLandInTheirWindow
  intro s link f d inside words ctr noTomb i kind
  rcases kind with ⟨rfl, arrives⟩ | ⟨rfl, arrives⟩
  · refine lands_of_arrives arrives inside words ctr fun u seen => ?_
    exact ⟨_, fun v => (Serves.giveBack v (fLabel f)).trails, byLabel_wr (seen.delivers d) arrives.1⟩
  · refine lands_of_arrives arrives inside words ctr fun u seen => ?_
    rw [byLabel_rdRsp (seen.delivers d) arrives.1]
    exact applyRsp_writes fun st => by rw [seen.rmt]; exact noTomb st

end Sys2Proof.Machine
end

section
set_option Elab.async false -- one proof after another: this bounds the memory that a check of the whole text takes
/-! PROOFS. Increments, additions and read requests that arrive (R194, R282, R320, R321). -/

namespace Sys2Proof.Machine

/-! ### Increments -/

section Inc

variable {s : State} {f : Flit}

/-- An increment of the counter that a flit names: its value and poison, and no other counter. -/
theorem incCtrBy_takes (h : TakesCtr s f) (a : Word) (p : Bool) :
    let t := incCtrBy s (lbOwner (labelOf s (fLabel f))) locUnit (fCtr f) a p
    (ctrOf t (fCtr f)).val = (ctrOf s (fCtr f)).val + a ∧ (ctrOf t (fCtr f)).psn = ((ctrOf s (fCtr f)).psn || p) ∧
      (∀ c : Ctr, c ≠ fCtr f → ctrOf t c = ctrOf s c) ∧ t.cores = s.cores ∧ t.mem = s.mem ∧ t.lnk = s.lnk := by
  obtain ⟨sound, own⟩ := h
  intro t
  have run : t = setCtr s (fCtr f) { ctrOf s (fCtr f) with val := (ctrOf s (fCtr f)).val + a, psn := (ctrOf s (fCtr f)).psn || p } :=
    (incCtrBy_own own ..).trans (incCtr_ok sound a p)
  rw [run, ctrOf_setCtr]
  exact ⟨rfl, rfl, fun c hc => ctrOf_setCtr_other _ _ hc, rfl, rfl, rfl⟩

theorem ctrOf_ofCnt {s t : State} (h : t.cnt = s.cnt) (c : Ctr) : ctrOf t c = ctrOf s c := by simp only [ctrOf, h]

theorem Serves.takesCtr {s t : State} (h : Serves s t) (k : TakesCtr s f) : TakesCtr t f := by
  obtain ⟨sound, own⟩ := k
  exact ⟨by rw [h.hwf]; exact sound, by rw [h.labelOf, h.crosses, h.ctrPart, own]⟩

theorem applyInc_takes (h : TakesCtr s f) :
    let t := applyInc s (fLabel f) f
    SameBytes s t ∧ t.cores = s.cores ∧ (ctrOf t (fCtr f)).val = (ctrOf s (fCtr f)).val + fld f.data 0 32 ∧
      (ctrOf t (fCtr f)).psn = ((ctrOf s (fCtr f)).psn || fPsn f) ∧ ∀ c : Ctr, c ≠ fCtr f → ctrOf t c = ctrOf s c := by
  have late := Serves.lateness s (fLabel f) f
  intro t
  have run : t = applyInc s (fLabel f) f := rfl
  clear_value t
  subst run
  unfold applyInc; dsimp only
  generalize lateness s (fLabel f) f = v at late ⊢
  obtain ⟨val, psn, others, cores, mem, -⟩ := incCtrBy_takes (late.takesCtr h) (fld f.data 0 32) (fPsn f)
  generalize incCtrBy v (lbOwner (labelOf v (fLabel f))) locUnit (fCtr f) (fld f.data 0 32) (fPsn f) = w at *
  have back := Serves.giveBack w (fLabel f)
  have last := ctrOf_ofCnt back.stores.2.2.2.2
  have first := ctrOf_ofCnt late.stores.2.2.2.2
  refine ⟨?_, ?_, ?_, ?_, fun c hc => ?_⟩
  · exact .trans (.ofKeeps late.stores) (.trans (.ofMem mem) (.ofKeeps back.stores))
  · rw [back.cores, cores, late.cores]
  · rw [last, val, first]
  · rw [last, psn, first]
  · rw [last, others c hc, first]

end Inc

/-! ### Additions -/

/-- Values of whole bytes are equal when their bytes are. -/
theorem eq_of_byteAt {n : Nat} {x y : BitVec (8 * n)} (h : ∀ i < n, byteAt x i = byteAt y i) : x = y := by
  refine BitVec.eq_of_getLsbD_eq fun j hj => ?_
  have byte := congrArg (fun b : Byte => b.getLsbD (j % 8)) (h (j / 8) (by omega))
  simpa [byteAt, BitVec.getLsbD_extractLsb', Nat.mod_lt j (by omega : 0 < 8), Nat.div_add_mod] using byte

/-- A byte reads as it is stored, or as zero in a word that nothing holds (R282). -/
theorem readByte_of_holds (m : Stores) {w i : Nat} (hi : i < 64) :
    readByte m (64 * w + i) = if holds m w then memByte m (64 * w + i) else 0 := by
  have ds : isDs (64 * w + i) = isDs (64 * w) := by simp only [isDs, decide_eq_decide]; omega
  have gran : granuleOf (64 * w + i) = granuleOf (64 * w) := by unfold granuleOf; omega
  unfold readByte holds
  rw [ds, gran]
  cases isDs (64 * w) <;> cases isWritten m (granuleOf (64 * w)) <;> rfl

/-- A word written is held. -/
theorem holds_writeWord {s : State} {who : Who} {w : Nat} (h : Writable s who w) (x mask : BitVec 512) (psn : Bool) :
    holds (writeWord s who w x mask psn).1.mem w = true := by
  obtain ⟨own, up⟩ := h
  rcases writeWord_cases s who w x mask psn with ⟨refused, -⟩ | ⟨-, t, -, run⟩
  · exact absurd (writeWord_done own up x mask psn) refused
  · rw [run]
    show holds (storeWord t.mem w x mask psn) w = true
    rw [holds, isWritten_storeWord]
    cases isDs (64 * w) <;> simp

/-- Bytes of a 32-bit value placed in a word, and of the mask that names them. -/
theorem byteAt_placed (v : BitVec 32) {k i : Nat} (hi : i < 64) :
    byteAt (v.setWidth 512 <<< (32 * k)) i = if 4 * k ≤ i ∧ i < 4 * k + 4 then byteAt v (i - 4 * k) else 0 := by
  refine BitVec.eq_of_getLsbD_eq fun j hj => ?_
  simp only [byteAt, BitVec.getLsbD_extractLsb', BitVec.getLsbD_shiftLeft, BitVec.getLsbD_setWidth]
  by_cases inside : 4 * k ≤ i ∧ i < 4 * k + 4
  · have place : 8 * i + j - 32 * k = 8 * (i - 4 * k) + j := by omega
    rw [if_pos inside, place, BitVec.getLsbD_extractLsb']
    simp only [hj, show 8 * i + j < 512 by omega, show ¬ 8 * i + j < 32 * k by omega, show 8 * (i - 4 * k) + j < 512 by omega,
      decide_true, decide_false, Bool.not_false, Bool.true_and]
  · rw [if_neg inside]
    by_cases below : i < 4 * k
    · simp [show 8 * i + j < 32 * k by omega]
    · simp [show 32 ≤ 8 * i + j - 32 * k by omega]

theorem byteAt_ones32 {i : Nat} (hi : i < 4) : byteAt (0xFFFFFFFF#32) i = BitVec.allOnes 8 := by
  interval_cases i <;> rfl

theorem widened_ones : (0xFFFFFFFF#32).setWidth 512 = 0xFFFFFFFF#512 :=
  BitVec.setWidth_ofNat_of_le_of_lt (by omega) (by omega)

section Add

variable {s : State} {who : Who} {w k : Nat}

/-- A write of one 32-bit value of a word: it is what the word then holds there, and no other byte changes. -/
theorem writeWord_places (h : Writable s who w) (hk : k < 16) (v : Word) (psn : Bool) :
    let t := (writeWord s who w (v.setWidth 512 <<< (32 * k)) ((0xFFFFFFFF#512) <<< (32 * k)) psn).1
    memBits t.mem (64 * w + 4 * k) 4 = v ∧
      ∀ b, b < 64 * w + 4 * k ∨ 64 * w + 4 * k + 4 ≤ b → readByte t.mem b = readByte s.mem b := by
  intro t
  have held : holds t.mem w = true := holds_writeWord h _ _ _
  have byte {i : Nat} (hi : i < 64) := readByte_writeWord_self h.1 h.2 (v.setWidth 512 <<< (32 * k)) ((0xFFFFFFFF#512) <<< (32 * k)) psn hi
  have mask {i : Nat} (hi : i < 64) : byteAt ((0xFFFFFFFF#512) <<< (32 * k)) i =
      if 4 * k ≤ i ∧ i < 4 * k + 4 then byteAt (0xFFFFFFFF#32) (i - 4 * k) else 0 := by
    rw [← byteAt_placed (0xFFFFFFFF#32) hi, widened_ones]
  refine ⟨eq_of_byteAt fun i hi => ?_, fun b hb => ?_⟩
  · have stored : memByte t.mem (64 * w + (4 * k + i)) = readByte t.mem (64 * w + (4 * k + i)) := by
      rw [readByte_of_holds _ (by omega), held, if_pos rfl]
    rw [byteAt_memBits _ _ hi, Nat.add_assoc, stored, byte (by omega), byteAt_placed v (by omega)]
    rw [mask (by omega), if_pos (by omega), if_pos (by omega), Nat.add_sub_cancel_left, byteAt_ones32 hi]
    rw [BitVec.not_allOnes, BitVec.and_zero, BitVec.zero_or, BitVec.and_allOnes]
  · by_cases word : b / 64 = w
    · obtain ⟨i, hi, rfl⟩ : ∃ i < 64, b = 64 * w + i := ⟨b % 64, Nat.mod_lt _ (by omega), by omega⟩
      rw [byte hi, mask hi, if_neg (by omega)]
      show _ &&& ~~~(0#8) ||| _ &&& (0#8) = _
      rw [BitVec.not_zero, BitVec.and_allOnes, BitVec.and_zero, BitVec.or_zero]
    · exact readByte_writeWord_other s who _ _ psn (by omega)

/-- A 32-bit field of a stored word is the four bytes at its place. -/
theorem fld_memWord (m : Stores) (hk : k < 16) : fld (memWord m w) (32 * k) 32 = memBits m (64 * w + 4 * k) 4 := by
  refine eq_of_byteAt (n := 4) fun i hi => ?_
  rw [byteAt_memBits m _ hi, Nat.add_assoc, ← byteAt_memWord m w (by omega)]
  refine BitVec.eq_of_getLsbD_eq fun j hj => ?_
  simp only [fld, byteAt, BitVec.getLsbD_extractLsb', hj, show 8 * i + j < 32 by omega, decide_true, Bool.true_and]
  rw [show 32 * k + (8 * i + j) = 8 * (4 * k + i) + j by omega]

end Add

section Adds

variable {s : State} {f : Flit}

theorem memBits_ofBytes {m k : Stores} (h : ∀ a, memByte k a = memByte m a) (a n : Nat) : memBits k a n = memBits m a n := by
  rw [memBits, memBits]
  exact congrArg (fun g => leBits (8 * n) ((span a n).map g)) (funext h)

theorem memBits_ofKeeps {s t : State} (h : KeepsStores s t) (a n : Nat) : memBits t.mem a n = memBits s.mem a n :=
  memBits_ofBytes h.memByte a n

theorem holds_ofKeeps {s t : State} (h : KeepsStores s t) (w : Nat) : holds t.mem w = holds s.mem w := by
  rw [holds, holds, h.isWritten]

/-- The state in which an addition's word is read: only presentations and counts are new. -/
def addOpens (s : State) (f : Flit) : State :=
  countGranules (presentWords (lateness s (fLabel f) f) (whoInbound (lbOwner (labelOf s (fLabel f)))) false [fAddr f / 64] [fAddr f / 64])
    [fAddr f / 64]

/-- What the addition writes: the sum, and the poison of the word and of the flit. -/
def addSum (o : State) (f : Flit) : Word :=
  fld (if holds o.mem (fAddr f / 64) then memWord o.mem (fAddr f / 64) else 0) (32 * fldN f.data 32 4) 32 + fld f.data 0 32

def addPsn (o : State) (f : Flit) : Bool :=
  fPsn f || (holds o.mem (fAddr f / 64) && (setHas o.mem.psn (fAddr f / 64) || uncorrectable o.mem (fAddr f / 64)))

/-- The addition written by `who`, and counted. -/
def addWrites (who : Who) (o : State) (f : Flit) : State :=
  modLink (writeWord o who (fAddr f / 64) ((addSum o f).setWidth 512 <<< (32 * fldN f.data 32 4))
    ((0xFFFFFFFF#512) <<< (32 * fldN f.data 32 4)) (addPsn o f)).1 (fun n => { n with addCnt := sat32 n.addCnt 1 })

theorem applyAdd_eq (inside : inWin (labelOf s (fLabel f)) (fAddr f) 64 = true) (word : TakesWord s f (fAddr f / 64)) :
    applyAdd s (fLabel f) f =
      let w := addWrites (whoInbound (lbOwner (labelOf s (fLabel f)))) (addOpens s f) f
      giveBack (if fLast f then incCtrBy w (lbOwner (labelOf s (fLabel f))) locUnit (fCtr f) 1 (addPsn (addOpens s f) f) else w) (fLabel f) := by
  obtain ⟨own, up⟩ := word
  refine (if_neg (by rw [inside]; exact Bool.false_ne_true)).trans ((if_neg ?_).trans (if_neg ?_))
  · exact fun h => Bool.false_ne_true (own.symm.trans h)
  · exact fun h => Bool.false_ne_true (h.symm.trans up)

/-- Presenting an addition's access leaves what decides it. -/
theorem addOpens_opens (s : State) (f : Flit) : let o := addOpens s f
    KeepsStores s o ∧ o.cores = s.cores ∧ o.lnk = s.lnk ∧ (∀ w, TakesWord s f w → Writable o (whoInbound (lbOwner (labelOf s (fLabel f)))) w) ∧
      (TakesCtr s f → TakesCtr o f) ∧ labelOf o (fLabel f) = labelOf s (fLabel f) := by
  intro o
  have late := Serves.lateness s (fLabel f) f
  have looks : Looks (lateness s (fLabel f) f) o := (presentWords_looks ..).trans (countGranules_looks ..)
  have mem : o.mem = (lateness s (fLabel f) f).mem := (congrArg State.mem (countGranules_eq ..)).trans (presentWords_mem ..)
  have hwf : o.hwf = s.hwf := ((congrArg State.hwf looks.1.1).trans rfl).trans late.hwf
  have labels : o.rmt = (lateness s (fLabel f) f).rmt :=
    (congrArg State.rmt looks.1.1).trans rfl
  have label : labelOf o (fLabel f) = labelOf s (fLabel f) := by rw [← late.labelOf]; simp only [labelOf, labels]
  have owner (a : Nat) : addrPart (lateness s (fLabel f) f) a = addrPart s a := by
    have owner : (lateness s (fLabel f) f).u.nsOwner = s.u.nsOwner := (congrArg UnitRegs.nsOwner late.owners).trans rfl
    have bound : (lateness s (fLabel f) f).u.dsBound = s.u.dsBound := (congrArg UnitRegs.dsBound late.owners).trans rfl
    simp only [addrPart, groupPart, dsPart, owner, bound]
  refine ⟨late.stores.trans looks.2, looks.1.cores.trans late.cores, ((congrArg State.lnk looks.1.1).trans rfl).trans late.lnk, fun w h => ?_,
    fun h => ?_, label⟩
  · obtain ⟨own, up⟩ := h
    refine ⟨?_, by rw [portOf_ofMem mem, late.ports, up]⟩
    rw [looks.1.crosses, looks.1.addrPart, late.crosses, owner]
    exact own
  · obtain ⟨sound, own⟩ := h
    refine ⟨by rw [hwf]; exact sound, ?_⟩
    rw [label, looks.1.crosses, looks.1.ctrPart, late.crosses, late.ctrPart, own]

theorem Moves.rmt {s t : State} (h : Moves s t) : t.rmt = s.rmt := by rw [h.1]

theorem Moves.lnk {s t : State} (h : Moves s t) : t.lnk = s.lnk := by rw [h.1]

theorem Moves.hwf {s t : State} (h : Moves s t) : t.hwf = s.hwf := by rw [h.1]

theorem Moves.takesCtr {s t : State} (h : Moves s t) (k : TakesCtr s f) : TakesCtr t f := by
  obtain ⟨sound, own⟩ := k
  have label : labelOf t (fLabel f) = labelOf s (fLabel f) := by simp only [labelOf, h.rmt]
  exact ⟨by rw [h.hwf]; exact sound, by rw [label, h.crosses, h.ctrPart, own]⟩

/-- The word written by an addition. -/
theorem addWrites_takes {o : State} {who : Who} (h : Writable o who (fAddr f / 64)) :
    let a := 64 * (fAddr f / 64) + 4 * fldN f.data 32 4
    let w := addWrites who o f
    memBits w.mem a 4 = addSum o f ∧ (∀ b, b < a ∨ a + 4 ≤ b → readByte w.mem b = readByte o.mem b) ∧ w.cnt = o.cnt ∧ w.cores = o.cores ∧
      w.lnk.addCnt = sat32 o.lnk.addCnt 1 ∧ (TakesCtr o f → TakesCtr w f) ∧ labelOf w (fLabel f) = labelOf o (fLabel f) := by
  intro a w
  have slot : fldN f.data 32 4 < 16 := (f.data.extractLsb' 32 4).isLt
  obtain ⟨sum, rest⟩ := writeWord_places h slot (addSum o f) (addPsn o f)
  have moves := writeWord_moves o who (fAddr f / 64) ((addSum o f).setWidth 512 <<< (32 * fldN f.data 32 4))
    ((0xFFFFFFFF#512) <<< (32 * fldN f.data 32 4)) (addPsn o f)
  have run : w = addWrites who o f := rfl
  clear_value w
  rw [addWrites] at run
  generalize (writeWord o who (fAddr f / 64) ((addSum o f).setWidth 512 <<< (32 * fldN f.data 32 4))
    ((0xFFFFFFFF#512) <<< (32 * fldN f.data 32 4)) (addPsn o f)).1 = v at run sum rest moves
  have label : labelOf v (fLabel f) = labelOf o (fLabel f) := by simp only [labelOf, moves.rmt]
  rw [run]
  refine ⟨sum, rest, moves.cnt, moves.cores, ?_, fun k => moves.takesCtr k, label⟩
  rw [← moves.lnk]
  rfl

/-- The counter of an addition's last flit. -/
theorem addCounts_takes {w : State} (h : TakesCtr w f) {q : Part} (hq : lbOwner (labelOf w (fLabel f)) = q) (p : Bool) :
    let t := giveBack (if fLast f then incCtrBy w q locUnit (fCtr f) 1 p else w) (fLabel f)
    SameBytes w t ∧ (∀ a, memByte t.mem a = memByte w.mem a) ∧ t.cores = w.cores ∧ t.lnk = w.lnk ∧
      (fLast f = true → (ctrOf t (fCtr f)).val = (ctrOf w (fCtr f)).val + 1) ∧ (fLast f = false → t.cnt = w.cnt) := by
  subst hq
  intro t
  obtain ⟨val, -, -, cores, mem, lnk⟩ := incCtrBy_takes h 1 p
  by_cases last : fLast f = true
  · have run : t = giveBack (incCtrBy w (lbOwner (labelOf w (fLabel f))) locUnit (fCtr f) 1 p) (fLabel f) :=
      congrArg (giveBack · (fLabel f)) (if_pos last)
    generalize incCtrBy w (lbOwner (labelOf w (fLabel f))) locUnit (fCtr f) 1 p = v at *
    have back := Serves.giveBack v (fLabel f)
    rw [← run] at back
    refine ⟨.trans (.ofMem mem) (.ofKeeps back.stores), fun a => ?_, ?_, ?_, fun _ => ?_, fun no => ?_⟩
    · rw [back.stores.memByte, mem]
    · rw [back.cores, cores]
    · rw [back.lnk, lnk]
    · rw [ctrOf_ofCnt back.stores.2.2.2.2, val]
    · rw [last] at no; contradiction
  · have run : t = giveBack w (fLabel f) := congrArg (giveBack · (fLabel f)) (if_neg last)
    have back := Serves.giveBack w (fLabel f)
    rw [← run] at back
    exact ⟨.ofKeeps back.stores, back.stores.memByte, back.cores, back.lnk, fun yes => absurd yes last, fun _ => back.stores.2.2.2.2⟩

theorem addSum_eq {o : State} (keeps : KeepsStores s o) :
    addSum o f = (if holds s.mem (fAddr f / 64) then memBits s.mem (64 * (fAddr f / 64) + 4 * fldN f.data 32 4) 4 else 0) + fld f.data 0 32 := by
  rw [addSum, holds_ofKeeps keeps]
  congr 1
  split
  · have slot : fldN f.data 32 4 < 16 := (f.data.extractLsb' 32 4).isLt
    rw [fld_memWord _ slot, memBits_ofKeeps keeps]
  · exact BitVec.extractLsb'_zero ..

theorem applyAdd_takes (inside : inWin (labelOf s (fLabel f)) (fAddr f) 64 = true) (word : TakesWord s f (fAddr f / 64))
    (ctr : TakesCtr s f) :
    let a := fAddr f + 4 * fldN f.data 32 4
    let t := applyAdd s (fLabel f) f
    t.cores = s.cores ∧
      memBits t.mem a 4 = (if holds s.mem (fAddr f / 64) then memBits s.mem a 4 else 0) + fld f.data 0 32 ∧
      (∀ b, b < a ∨ a + 4 ≤ b → readByte t.mem b = readByte s.mem b) ∧ t.lnk.addCnt = sat32 s.lnk.addCnt 1 ∧
      (fLast f = true → (ctrOf t (fCtr f)).val = (ctrOf s (fCtr f)).val + 1) ∧ (fLast f = false → t.cnt = s.cnt) := by
  intro a t
  have run : t = _ := applyAdd_eq inside word
  obtain ⟨keeps, cores, lnk, writable, takes, label⟩ := addOpens_opens s f
  have whereabouts := fAddr_word f
  have place : a = 64 * (fAddr f / 64) + 4 * fldN f.data 32 4 := by omega
  clear_value t a
  subst place
  generalize addOpens s f = o at *
  obtain ⟨sum, rest, wCnt, wCores, wAdds, wTakes, wLabel⟩ := addWrites_takes (writable _ word)
  dsimp only at run
  generalize addWrites (whoInbound (lbOwner (labelOf s (fLabel f)))) o f = w at *
  obtain ⟨bytes, stored, tCores, tLnk, counts, still⟩ := addCounts_takes (wTakes (takes ctr)) (congrArg lbOwner (wLabel.trans label)) (addPsn o f)
  rw [← run] at bytes stored tCores tLnk counts still
  refine ⟨?_, ?_, fun b hb => ?_, ?_, fun last => ?_, fun no => ?_⟩
  · rw [tCores, wCores, cores]
  · rw [memBits_ofBytes stored, sum, addSum_eq keeps]
  · rw [bytes, rest b hb, keeps.readByte]
  · rw [tLnk, wAdds, lnk]
  · rw [counts last, ctrOf_ofCnt wCnt, ctrOf_ofCnt keeps.2.2.2.2]
  · rw [still no, wCnt, keeps.2.2.2.2]

end Adds

end Sys2Proof.Machine
end

section
set_option Elab.async false -- one proof after another: this bounds the memory that a check of the whole text takes
/-! PROOFS. Read requests that arrive, and their answers (R194, R320). -/

namespace Sys2Proof.Machine

/-! ### The header of a response -/

/-- Sealing a flit writes its two checks only. -/
theorem fldN_sealFlit (f : Flit) {lo w : Nat} (h : lo + w ≤ 88) : fldN (sealFlit f).hdr lo w = fldN f.hdr lo w := by
  have checks (c v : Nat) : fldN (setFld (setFld f.hdr 96 32 c) 88 8 v) lo w = fldN f.hdr lo w := by
    rw [fldN_setFld_other _ _ (.inl h), fldN_setFld_other _ _ (.inl (by omega))]
  exact checks ..

/-- A return flit as it waits on the route of label `l`. -/
def retFlit (s : State) (l typ inc ctr addr nw dl : Nat) (last psn : Bool) (data : Bits) : RetFlit :=
  { label := l, f := sealFlit { hdr := setFld (mkHdr typ (lbNext (labelOf s l)) inc ctr addr nw last psn) 50 8 dl, data := data }
    viaNoc := lbViaNoc (labelOf s l), viaUnit := lbViaUnit (labelOf s l) }

theorem sendRet_ret (s : State) (l typ inc ctr addr nw dl : Nat) (last psn : Bool) (data : Bits) :
    (sendRet s l typ inc ctr addr nw dl last psn data).rmt.ret =
      s.rmt.ret ++ [retFlit s l typ inc ctr addr nw dl last psn data] := rfl

section RetFlit

variable (s : State) (l typ inc ctr addr nw dl : Nat) (last psn : Bool) (data : Bits)

/-- A field of the header outside the deadline. -/
theorem fldN_retFlit {lo w : Nat} (h : lo + w ≤ 50 ∨ 58 ≤ lo ∧ lo + w ≤ 88) :
    fldN (retFlit s l typ inc ctr addr nw dl last psn data).f.hdr lo w =
      fldN (mkHdr typ (lbNext (labelOf s l)) inc ctr addr nw last psn) lo w :=
  (fldN_sealFlit _ (by omega)).trans (fldN_setFld_other _ _ (by omega))

theorem retFlit_type : fType (retFlit s l typ inc ctr addr nw dl last psn data).f = typ % 16 :=
  (fldN_retFlit s l typ inc ctr addr nw dl last psn data (by omega)).trans (fldN_mkHdr (k := 0) rfl rfl)

theorem retFlit_inc : fInc (retFlit s l typ inc ctr addr nw dl last psn data).f = inc % 4 :=
  (fldN_retFlit s l typ inc ctr addr nw dl last psn data (by omega)).trans (fldN_mkHdr (k := 4) rfl rfl)

theorem retFlit_ctr (c : Ctr) : fCtr (retFlit s l typ inc c.val addr nw dl last psn data).f = c :=
  Fin.ext (((fldN_retFlit s l typ inc c.val addr nw dl last psn data (lo := 40) (w := 10) (by omega)).trans (fldN_mkHdr (k := 5) rfl rfl)).trans
    (Nat.mod_eq_of_lt c.isLt))

theorem retFlit_addr : fAddr (retFlit s l typ inc ctr addr nw dl last psn data).f = 64 * (addr / 64 % 2 ^ 25) :=
  congrArg (64 * ·) ((fldN_retFlit s l typ inc ctr addr nw dl last psn data (by omega)).trans (fldN_mkHdr (k := 7) rfl rfl))

end RetFlit

/-! ### The rows read for an answer -/

theorem drawBits_looks : ∀ (n : Nat) (s : State), Looks s (drawBits n s).1
  | 0, s => .refl s
  | n + 1, s => by
    have drawn : Looks s (drawFree s).1 := ⟨⟨rfl, rfl, fun _ => ⟨rfl, rfl⟩⟩, .same rfl rfl⟩
    unfold drawBits
    exact drawn.trans (drawBits_looks n _)

theorem rowFlits'_looks (s : State) (who : Who) (sd dd : Desc) (r a : Nat) : Looks s (rowFlits' s who sd dd r a).1 := by
  unfold rowFlits'; dsimp only
  split
  · exact readElems_looks ..
  · exact (readElems_looks ..).trans (drawBits_looks ..)

/-- A row of at least one byte is answered, from its own address on. -/
theorem rowFlits'_first (s : State) (who : Who) (sd dd : Desc) (r a : Nat) (h : 0 < rowLen dd) :
    ∃ nw data psn rest, (rowFlits' s who sd dd r a).2 = (a, nw, data, psn) :: rest := by
  have some : ceilDiv (rowLen dd) 256 = ceilDiv (rowLen dd) 256 - 1 + 1 := by unfold ceilDiv; omega
  have first : upto (ceilDiv (rowLen dd) 256) = 0 :: (List.range (ceilDiv (rowLen dd) 256 - 1)).map Nat.succ := by
    rw [upto_eq_range, some, List.range_succ_eq_map]; rfl
  unfold rowFlits'; dsimp only
  rw [first, List.map_cons]
  exact ⟨_, _, _, _, rfl⟩

theorem respFlits_looks (who : Who) (sd dd : Desc) : ∀ (n r : Nat) (s : State), Looks s (respFlits who sd dd n r s).1
  | 0, _, s => .refl s
  | n + 1, r, s => by
    unfold respFlits
    split
    · exact respFlits_looks who sd dd n (r + 1) s
    · exact (rowFlits'_looks ..).trans (respFlits_looks who sd dd n (r + 1) _)

/-- The answer to a request begins at the address of the destination's first row. -/
theorem respFlits_first (who : Who) {sd dd : Desc} {n a : Nat} (s : State) (pos : 0 < n) (row : rowOf dd 0 = some a) (len : 0 < rowLen dd) :
    ∃ nw data psn rest, (respFlits who sd dd n 0 s).2 = (a, nw, data, psn) :: rest := by
  obtain ⟨m, rfl⟩ : ∃ m, n = m + 1 := ⟨n - 1, by omega⟩
  obtain ⟨nw, data, psn, rest, first⟩ := rowFlits'_first s who sd dd 0 a len
  rw [respFlits, row]
  exact ⟨nw, data, psn, _, congrArg (· ++ _) first⟩

theorem rowCount_pos (d : Desc) : 0 < rowCount d := by
  have size (k : Nat) : 0 < tdSize d k := Nat.succ_pos _
  exact Nat.mul_pos (Nat.mul_pos (Nat.mul_pos (Nat.mul_pos (size 1) (size 2)) (size 3)) (size 4)) (size 5)

/-! ### The answer sent -/

/-- Flit `x.2` of an answer of `count` flits placed on the request's return route. -/
def sendRow (f : Flit) (count : Nat) (s : State) (x : (Nat × Nat × Bits × Bool) × Nat) : State :=
  sendRet s (fLabel f) tRdRsp (fInc f) (fCtr f).val x.1.1 (x.1.2.1 - 1) (fDl f) (decide (x.2 + 1 = count)) x.1.2.2.2 x.1.2.2.1

theorem foldl_sendRow_serves (f : Flit) (count : Nat) : ∀ (xs : List ((Nat × Nat × Bits × Bool) × Nat)) (s : State),
    Serves s (xs.foldl (sendRow f count) s)
  | [], s => .refl s
  | _ :: xs, _ => (Serves.sendRet ..).trans (foldl_sendRow_serves f count xs _)

section Request

variable {s : State} {f : Flit} {a : Nat}

/-- A request that its label allows is answered, row by row, and its credit goes back. -/
theorem applyRdReq_eq (may : lbRdOk (labelOf s (fLabel f)) = true) (ok : reqOk (labelOf s (fLabel f)) (reqDescs f).1 = true) :
    applyRdReq s (fLabel f) f =
      let r := respFlits (whoInbound (lbOwner (labelOf s (fLabel f)))) (reqDescs f).1 (reqDescs f).2 (rowCount (reqDescs f).1) 0
        (lateness s (fLabel f) f)
      giveBack (flushNoc (r.2.zipIdx.foldl (sendRow f r.2.length) r.1)) (fLabel f) :=
  if_neg (by rw [may, ok]; exact Bool.false_ne_true)

theorem applyRdReq_answers (may : lbRdOk (labelOf s (fLabel f)) = true) (ok : reqOk (labelOf s (fLabel f)) (reqDescs f).1 = true)
    (link : lbViaNoc (labelOf s (fLabel f)) = false) (row : rowOf (reqDescs f).2 0 = some a) (len : 0 < rowLen (reqDescs f).2) :
    let t := applyRdReq s (fLabel f) f
    SameBytes s t ∧ t.cnt = s.cnt ∧ t.cores = s.cores ∧
      ∃ r ∈ t.rmt.ret, r.label = fLabel f ∧ fType r.f = tRdRsp ∧ fAddr r.f = 64 * (a / 64 % 2 ^ 25) ∧ fInc r.f = fInc f ∧
        fCtr r.f = fCtr f := by
  intro t
  have late := Serves.lateness s (fLabel f) f
  have looks := respFlits_looks (whoInbound (lbOwner (labelOf s (fLabel f)))) (reqDescs f).1 (reqDescs f).2 (rowCount (reqDescs f).1) 0
    (lateness s (fLabel f) f)
  obtain ⟨nw, data, psn, rest, first⟩ := respFlits_first (whoInbound (lbOwner (labelOf s (fLabel f)))) (sd := (reqDescs f).1)
    (lateness s (fLabel f) f) (rowCount_pos (reqDescs f).1) row len
  have run : t = _ := applyRdReq_eq may ok
  dsimp only at run
  generalize respFlits (whoInbound (lbOwner (labelOf s (fLabel f)))) (reqDescs f).1 (reqDescs f).2 (rowCount (reqDescs f).1) 0
    (lateness s (fLabel f) f) = r at looks first run
  obtain ⟨u, fs⟩ := r
  obtain rfl : fs = (a, nw, data, psn) :: rest := first
  dsimp only at run looks
  rw [List.zipIdx_cons, List.foldl_cons] at run
  have sent : (sendRow f ((a, nw, data, psn) :: rest).length u ((a, nw, data, psn), 0)).rmt.ret = u.rmt.ret ++ [_] := sendRet_ret ..
  have serves : Serves u (sendRow f ((a, nw, data, psn) :: rest).length u ((a, nw, data, psn), 0)) := .sendRet ..
  generalize sendRow f ((a, nw, data, psn) :: rest).length u ((a, nw, data, psn), 0) = v at run sent serves
  have onward := ((foldl_sendRow_serves f ((a, nw, data, psn) :: rest).length (rest.zipIdx (0 + 1)) v).trans (.flushNoc _)).trans
    (.giveBack _ (fLabel f))
  rw [← run] at onward
  have label : labelOf u (fLabel f) = labelOf s (fLabel f) := by
    rw [← late.labelOf]; simp only [labelOf, looks.1.rmt]
  refine ⟨?_, ?_, ?_, _, onward.waits _ (by rw [sent]; exact List.mem_append_right _ (List.mem_singleton.mpr rfl)) ?_, rfl, ?_, ?_, ?_, ?_⟩
  · exact .trans (.ofKeeps (late.stores.trans looks.2)) (.ofKeeps (serves.trans onward).stores)
  · rw [(serves.trans onward).stores.2.2.2.2, looks.2.2.2.2.2, late.stores.2.2.2.2]
  · rw [(serves.trans onward).cores, looks.1.cores, late.cores]
  · exact (congrArg lbViaNoc label).trans link
  · exact retFlit_type ..
  · exact retFlit_addr ..
  · exact (retFlit_inc ..).trans (Nat.mod_eq_of_lt (f.hdr.extractLsb' 38 2).isLt)
  · exact retFlit_ctr ..

end Request

/-- Settles O35: increments, additions and read requests as their label delivers them. -/
theorem inboundIncAddAndReads : Obligations.InboundIncAddAndReads := by
  unfold Obligations.InboundIncAddAndReads
  refine ⟨fun s link f d k => ⟨fun arrives => ?_, fun arrives inside word => ?_⟩, fun s link f a arrives d may ok route row len => ?_⟩
  · obtain ⟨u, run, seen, -⟩ := inbound_arrives arrives
    obtain ⟨bytes, cores, val, psn, others⟩ := applyInc_takes (seen.takesCtr k)
    have ctr := ctrOf_ofCnt seen.cnt
    refine ⟨_, run.trans (congrArg Host.Outcome.next (byLabel_inc (seen.delivers d) arrives.1)), .trans (.ofMem seen.mem) bytes, ?_, ?_, ?_,
      fun c hc => ?_⟩
    · rw [cores, seen.cores]
    · rw [val, ctr]
    · rw [psn, ctr]
    · rw [others c hc, ctr]
  · obtain ⟨u, run, seen, -⟩ := inbound_arrives arrives
    obtain ⟨cores, sum, bytes, adds, counts, still⟩ := applyAdd_takes (s := u) (f := f) (by rw [seen.labelOf]; exact inside)
      (seen.takesWord word) (seen.takesCtr k)
    have ctr := ctrOf_ofCnt seen.cnt
    refine ⟨_, run.trans (congrArg Host.Outcome.next (byLabel_add (seen.delivers d) arrives.1)), ?_, ?_, fun b hb => ?_, ?_, fun last => ?_,
      fun no => ?_⟩
    · rw [cores, seen.cores]
    · rw [sum, seen.mem]
    · rw [bytes b hb, seen.mem]
    · rw [adds, seen.2.2.2.2.2.1]
    · rw [counts last, ctr]
    · rw [still no, seen.cnt]
  · obtain ⟨u, run, seen, -⟩ := inbound_arrives arrives
    obtain ⟨bytes, cnt, cores, answer⟩ := applyRdReq_answers (s := u) (f := f) (by rw [seen.labelOf]; exact may)
      (by rw [seen.labelOf]; exact ok) (by rw [seen.labelOf]; exact route) row len
    refine ⟨_, run.trans (congrArg Host.Outcome.next (byLabel_rdReq (seen.delivers d) arrives.1)), .trans (.ofMem seen.mem) bytes, ?_, ?_,
      answer⟩
    · rw [cnt, seen.cnt]
    · rw [cores, seen.cores]

end Sys2Proof.Machine
end

section
set_option Elab.async false -- one proof after another: this bounds the memory that a check of the whole text takes
/-! PROOFS. Credits, NACKs and recalls (R291, R323, R324, R326). -/

namespace Sys2Proof.Machine

/-! ### Grants -/

/-- The one grant of such a payload stands first; the others are empty. -/
theorem grantBits_grant {st n : Nat} (back : Bool) (hst : st < 64) (hn : n < 2 ^ 16) (j : Nat) :
    fldN (grantBits st n back) (64 * j) 64 = if j = 0 then st + b2n back * 2 ^ 14 + 2 ^ 15 + n * 2 ^ 16 else 0 := by
  have bit := b2n_lt_two back
  have small : st + b2n back * 2 ^ 14 + 2 ^ 15 + n % 2 ^ 16 * 2 ^ 16 < 2 ^ 32 := by omega
  have fits : (st + b2n back * 2 ^ 14 + 2 ^ 15 + n % 2 ^ 16 * 2 ^ 16) % 2 ^ 2048 = st + b2n back * 2 ^ 14 + 2 ^ 15 + n % 2 ^ 16 * 2 ^ 16 :=
    Nat.mod_eq_of_lt (small.trans (Nat.pow_lt_pow_right (by omega) (by omega)))
  rw [fldN, grantBits, BitVec.extractLsb'_toNat, BitVec.toNat_ofNat, fits, Nat.shiftRight_eq_div_pow, Nat.mod_eq_of_lt hn] 
  rw [Nat.mod_eq_of_lt hn] at small
  split
  · subst j
    rw [Nat.mul_zero, Nat.pow_zero, Nat.div_one, Nat.mod_eq_of_lt (by omega)]
  · rw [Nat.div_eq_of_lt (small.trans (Nat.pow_lt_pow_right (by omega) (by omega))), Nat.zero_mod]

/-- An empty grant changes nothing. -/
theorem takeGrant_zero (s : State) : takeGrant s 0 = s := by
  unfold takeGrant; dsimp only
  rw [if_neg (by decide), if_neg (by decide)]

/-- A CRED flit with one grant takes it. -/
theorem applyCred_one {f : Flit} {st : StreamId} {n : Nat} (back : Bool) (hn : n < 2 ^ 16) (h : f.data = grantBits st.val n back) (s : State) :
    applyCred s f = takeGrant s (st.val + b2n back * 2 ^ 14 + 2 ^ 15 + n * 2 ^ 16) := by
  have others : ∀ (l : List Nat) (u : State), (∀ j ∈ l, j ≠ 0) → l.foldl (fun s j => takeGrant s (fldN f.data (64 * j) 64)) u = u := by
    intro l
    induction l with
    | nil => exact fun _ _ => rfl
    | cons j r ih =>
      intro u nonzero
      obtain ⟨first, rest⟩ := List.forall_mem_cons.mp nonzero
      rw [List.foldl_cons, ih _ rest, h, grantBits_grant back st.isLt hn, if_neg first, takeGrant_zero]
  have first : upto 32 = 0 :: (List.range 31).map Nat.succ := by rw [upto_eq_range]; exact List.range_succ_eq_map
  rw [applyCred, first, List.foldl_cons, others _ _ (fun j hj => by obtain ⟨i, -, rfl⟩ := List.mem_map.mp hj; exact Nat.succ_ne_zero i), h,
    grantBits_grant back st.isLt hn, if_pos rfl]

section Grant

variable {s : State} {st : StreamId}

/-- What a recalled stream sends back: all that it holds. -/
def givenBack (x : Stream) : OutFlit :=
  { outFlit x tCret 0 0 0 0 false false (BitVec.ofNat 2048 x.cred.toNat) with cret := true }

theorem takeGrant_grants {g n : Nat} (names : g % 64 = st.val) (give : g / 2 ^ 14 % 2 = 0) (grant : g / 2 ^ 15 % 2 = 1)
    (count : g / 2 ^ 16 % 2 ^ 16 = n) : takeGrant s g =
      modStream s st (fun x => { x with cred := BitVec.ofNat 16 (min 65535 (x.cred.toNat + n)), recalled := x.recalled && decide (n = 0) }) := by
  obtain rfl : st = ⟨g % 64, Nat.mod_lt g (by decide)⟩ := Fin.ext names.symm
  unfold takeGrant; dsimp only
  rw [if_neg (by omega), if_pos grant, count]

theorem takeGrant_recalls {g : Nat} (names : g % 64 = st.val) (give : g / 2 ^ 14 % 2 = 1) : takeGrant s g =
    modStream s st (fun x => { x with cred := 0, recalled := true, wait := givenBack s.rmt.streams[st] :: x.wait }) := by
  obtain rfl : st = ⟨g % 64, Nat.mod_lt g (by decide)⟩ := Fin.ext names.symm
  exact if_pos give

end Grant

/-! ### Recalls -/

/-- What a table gives is a value of its, or the default. -/
theorem look_cases {α : Type} (d : α) (k : Nat) : ∀ m : List (Nat × α), look d m k = d ∨ ∃ e ∈ m, look d m k = e.2
  | [] => .inl rfl
  | (j, v) :: r => by
    rw [look]
    split
    · exact .inr ⟨(j, v), List.mem_cons_self, rfl⟩
    · rcases look_cases d k r with h | ⟨e, he, h⟩
      · exact .inl h
      · exact .inr ⟨e, List.mem_cons_of_mem _ he, h⟩

/-- With no route over the NoC nothing of what waits goes out. -/
theorem flushNocGo_link : ∀ (rs : List RetFlit) (s : State), (∀ r ∈ rs, r.viaNoc = false) → flushNocGo rs s = (s, rs)
  | [], _, _ => rfl
  | x :: rs, s, h => by
    obtain ⟨first, rest⟩ := List.forall_mem_cons.mp h
    rw [flushNocGo, if_neg (by rw [first]; exact Bool.false_ne_true), flushNocGo_link rs s rest]

/-- What a recall sends to the source of label `l`. -/
def recallFlit (s : State) (l : Nat) : RetFlit :=
  retFlit s l tCred 0 0 0 0 0 false false (grantBits (lbSrcStream (labelOf s l)).val 0 true)

/-- A recall sent to the sources of `ls`. -/
def sendRecalls (s : State) (ls : List Nat) : State :=
  ls.foldl (fun s l => sendRet s l tCred 0 0 0 0 0 false false (grantBits (lbSrcStream (labelOf s l)).val 0 true)) s

theorem sendRecalls_sends : ∀ (ls : List Nat) (s : State), Serves s (sendRecalls s ls) ∧
    (sendRecalls s ls).rmt.ret = s.rmt.ret ++ ls.map (recallFlit s) ∧ (sendRecalls s ls).mem = s.mem
  | [], s => ⟨.refl s, (List.append_nil _).symm, rfl⟩
  | l :: ls, s => by
    have sent : Serves s (sendRet s l tCred 0 0 0 0 0 false false (grantBits (lbSrcStream (labelOf s l)).val 0 true)) := .sendRet ..
    obtain ⟨serves, ret, mem⟩ := sendRecalls_sends ls
      (sendRet s l tCred 0 0 0 0 0 false false (grantBits (lbSrcStream (labelOf s l)).val 0 true))
    refine ⟨sent.trans serves, ret.trans ?_, mem⟩
    rw [sendRet_ret, List.append_assoc]
    rfl

section Recall

variable {s : State} {st : StoreId}

/-- The labels whose windows lie in a store. -/
def windowsIn (s : State) (st : StoreId) : List Nat :=
  (s.rmt.labels.filter (fun x => lbValid x.2 && lbDeliver x.2 && decide (winStore x.2 = st))).map (·.1)

theorem labelOf_link (h : ∀ e ∈ s.rmt.labels, lbViaNoc e.2 = false) (l : Nat) : lbViaNoc (labelOf s l) = false := by
  rcases look_cases 0 l s.rmt.labels with e | ⟨e, he, entry⟩
  · exact (congrArg lbViaNoc e).trans (by decide)
  · exact (congrArg lbViaNoc entry).trans (h e he)

theorem recall_still (h : (portOf s st).recalled = true ∨ closesIn s st 2 0 = false) : exec (.recall st) s = .next s := by
  refine congrArg Host.Outcome.next (if_pos ?_)
  rcases h with h | h
  · rw [h]; rfl
  · rw [h, Bool.not_false, Bool.or_true]

theorem recall_asks (routes : ∀ e ∈ s.rmt.labels, lbViaNoc e.2 = false) (waits : ∀ r ∈ s.rmt.ret, r.viaNoc = false)
    (fresh : (portOf s st).recalled = false) (closes : closesIn s st 2 0 = true) :
    ∃ t, exec (.recall st) s = .next t ∧ SameBytes s t ∧ t.cnt = s.cnt ∧ (portOf t st).recalled = true ∧
      (portOf t st).isOpen = (portOf s st).isOpen ∧ t.rmt.ret = s.rmt.ret ++ (windowsIn s st).map (recallFlit s) := by
  obtain ⟨u, hu⟩ : ∃ u, u = modPort s st (fun p => { p with recalled := true }) := ⟨_, rfl⟩
  have marked : Serves s u := by rw [hu]; exact .modPort _ _ _ fun _ => rfl
  obtain ⟨serves, ret, mem⟩ := sendRecalls_sends (windowsIn s st) u
  have run : exec (.recall st) s = .next (flushNoc (sendRecalls u (windowsIn s st))) := by
    rw [hu]
    exact congrArg Host.Outcome.next (if_neg (by rw [fresh, closes]; exact Bool.false_ne_true))
  have asked : (windowsIn s st).map (recallFlit u) = (windowsIn s st).map (recallFlit s) :=
    List.map_congr_left fun l _ => by simp only [recallFlit, retFlit, marked.labelOf]
  have before : u.rmt = s.rmt := by rw [hu, modPort_eq]
  rw [asked, before] at ret
  generalize sendRecalls u (windowsIn s st) = v at run serves ret mem
  have link : ∀ r ∈ v.rmt.ret, r.viaNoc = false := fun r hr => by
    rw [ret] at hr
    rcases List.mem_append.mp hr with hr | hr
    · exact waits r hr
    · obtain ⟨l, -, rfl⟩ := List.mem_map.mp hr
      exact labelOf_link routes l
  have kept : flushNoc v = v := by rw [flushNoc, flushNocGo_link _ _ link]
  rw [kept] at run
  refine ⟨v, run, .ofKeeps (marked.trans serves).stores, (marked.trans serves).stores.2.2.2.2, ?_, (marked.trans serves).ports st, ret⟩
  rw [portOf_ofMem mem, hu, portOf_modPort_self]

end Recall

/-- Settles O37: one grant, one recall, credits given back, a NACK, and RECALL with its labels. -/
theorem creditsNacksAndRecalls : Obligations.CreditsNacksAndRecalls := by
  unfold Obligations.CreditsNacksAndRecalls
  refine ⟨fun s link f d => ⟨fun st n arrives hn payload => ?_, fun st arrives payload => ?_, fun arrives => ?_, fun st arrives named => ?_⟩,
    fun s st routes waits => ⟨recall_still, fun fresh closes => ?_⟩⟩
  · have small := st.isLt
    obtain ⟨u, run, seen, -⟩ := inbound_arrives arrives
    rw [byLabel_cred (seen.delivers d) arrives.1, applyCred_one false hn payload,
      takeGrant_grants (st := st) (n := n) (by rw [b2n_false]; omega) (by rw [b2n_false]; omega) (by rw [b2n_false]; omega)
        (by rw [b2n_false]; omega)] at run
    refine ⟨_, run, .trans (.ofMem seen.mem) (.ofMem (modStream_mem ..)), ?_, ?_, ?_, fun k hk => ?_⟩
    · rw [modStream_cnt, seen.cnt]
    · rw [modStream_self, seen.rmt]
      exact Nat.mod_eq_of_lt (by omega)
    · rw [modStream_self, seen.rmt]
    · rw [modStream_other _ _ _ _ hk, seen.rmt]
  · have small := st.isLt
    obtain ⟨u, run, seen, -⟩ := inbound_arrives arrives
    rw [byLabel_cred (seen.delivers d) arrives.1, applyCred_one true (by omega) payload,
      takeGrant_recalls (st := st) (by rw [b2n_true]; omega) (by rw [b2n_true]; omega)] at run
    refine ⟨_, givenBack u.rmt.streams[st], run, .trans (.ofMem seen.mem) (.ofMem (modStream_mem ..)), ?_, ?_, ?_, ?_, ?_⟩
    · rw [modStream_self]
    · rw [modStream_self]
    · rw [modStream_self, seen.rmt]
    · exact outFlit_type ..
    · have word := fld_word (u.rmt.streams[st].cred.setWidth 32) 0
      rw [BitVec.toNat_setWidth, Nat.mod_eq_of_lt (by omega), Nat.zero_mul, Nat.add_zero] at word
      rw [← seen.rmt]
      exact word
  · obtain ⟨u, run, seen, -⟩ := inbound_arrives arrives
    rw [byLabel_cret (seen.delivers d) arrives.1] at run
    refine ⟨_, run, .trans (.ofMem seen.mem) (.ofKeeps (modPort_keeps ..)), ?_, ?_⟩
    · rw [applyCret, ← seen.labelOf, portOf_modPort_self, portOf_ofMem seen.mem]
    · rw [applyCret, modPort_eq, ← seen.rmt]
  · obtain ⟨u, run, seen, -⟩ := inbound_arrives arrives
    rw [byLabel_nack (seen.delivers d) arrives.1] at run
    have stream : (⟨fldN f.data 16 6, (f.data.extractLsb' 16 6).isLt⟩ : StreamId) = st := Fin.ext named.symm
    rw [applyNack, stream] at run
    refine ⟨_, run, .trans (.ofMem seen.mem) (.ofMem (modStream_mem ..)), ?_, ?_, fun k hk => ?_⟩
    · rw [modStream_self]
    · rw [modStream_self]
    · rw [modStream_other _ _ _ _ hk, seen.rmt]
  · obtain ⟨t, run, bytes, cnt, recalled, ports, ret⟩ := recall_asks routes waits fresh closes
    refine ⟨t, _, run, bytes, cnt, recalled, ports, ret, fun r hr => ?_, ?_⟩
    · obtain ⟨l, -, rfl⟩ := List.mem_map.mp hr
      exact retFlit_type ..
    · rw [List.map_map]
      exact List.map_id _

end Sys2Proof.Machine
end

section
set_option Elab.async false -- one proof after another: this bounds the memory that a check of the whole text takes
/-! PROOFS. Flits that go on, and flits that are dropped (R314, R315, R317, R329, R332, R335). -/

namespace Sys2Proof.Machine

/-! ### Forwards -/

/-- The flit that goes on from a forward label. -/
def forwarded (s : State) (f : Flit) : Flit := relabel { f with hdr := setFld f.hdr 16 21 0 } (lbNext (labelOf s (fLabel f)))

theorem relabel_label (f : Flit) {label : Nat} (h : label < 4096) : fLabel (relabel f label) = label := by
  refine (fldN_setFld_other _ _ (.inl (by decide))).trans ((fldN_setFld_same _ _ (by decide)).trans (Nat.mod_eq_of_lt h))

theorem relabel_type (f : Flit) (label : Nat) : fType (relabel f label) = fType f :=
  (fldN_setFld_other _ _ (.inl (by decide))).trans (fldN_setFld_other _ _ (.inl (by decide)))

section Forward

variable {s : State} {f : Flit}

theorem forwarded_label : fLabel (forwarded s f) = lbNext (labelOf s (fLabel f)) :=
  relabel_label _ ((labelOf s (fLabel f)).extractLsb' 2 12).isLt

theorem forwarded_type : fType (forwarded s f) = fType f :=
  (relabel_type ..).trans (fldN_setFld_other _ _ (.inl (by decide)))

/-- A flit on a forward label: counted, and out over the NoC or into the forward buffer. -/
theorem byLabel_forwards (valid : lbValid (labelOf s (fLabel f)) = true) (onward : lbDeliver (labelOf s (fLabel f)) = false) :
    let t := byLabel s f
    SameBytes s t ∧ t.cnt = s.cnt ∧ t.cores = s.cores ∧ t.lnk.fwd = sat32 s.lnk.fwd 1 ∧
      (lbViaNoc (labelOf s (fLabel f)) = true → t.rmt.noc = s.rmt.noc ++ [(lbViaUnit (labelOf s (fLabel f)), forwarded s f)]) ∧
      (lbViaNoc (labelOf s (fLabel f)) = false → t.lnk.fwdBuf = s.lnk.fwdBuf ++ [(fLabel f, forwarded s f)]) := by
  intro t
  have run : t = forward s (fLabel f) f :=
    (if_neg (by rw [valid]; exact Bool.false_ne_true)).trans (if_neg (by rw [onward]; exact Bool.false_ne_true))
  by_cases noc : lbViaNoc (labelOf s (fLabel f)) = true
  · have out : t = _ := run.trans (if_pos noc)
    rw [out]
    exact ⟨.ofMem rfl, rfl, rfl, rfl, fun _ => rfl, fun no => absurd (noc.symm.trans no) Bool.true_eq_false.mp⟩
  · have out : t = _ := run.trans (if_neg noc)
    rw [out]
    exact ⟨.ofMem rfl, rfl, rfl, rfl, fun yes => absurd yes noc, fun _ => rfl⟩

/-- A flit on a label without a valid entry. -/
theorem byLabel_drops (invalid : lbValid (labelOf s (fLabel f)) = false) :
    let t := byLabel s f
    SameBytes s t ∧ t.cnt = s.cnt ∧ t.lnk.labelCnt = sat32 s.lnk.labelCnt 1 := by
  intro t
  have run : t = badLabel s (fLabel f) := if_pos (by rw [invalid]; rfl)
  rw [run, badLabel]
  refine ⟨.ofMem ?_, ?_, ?_⟩
  · rw [logRun_mem, modLink_mem]
  · rw [logRun_cnt, modLink_cnt]
  · rw [logRun_lnk]; rfl

end Forward

/-! ### What the FEC finds when nothing is wrong -/

theorem badLanes_isEmpty (s : State) : (badLanes s).isEmpty = !(List.finRange 5).any (fun l => s.hwf.contains (.fecCe l)) := by
  rw [Bool.eq_iff_iff, badLanes, List.isEmpty_iff, List.filter_eq_nil_iff]
  simp only [Bool.not_eq_true', List.any_eq_false]

theorem badLanes_none {s : State} (h : ∀ l, HwFault.fecCe l ∉ s.hwf) : badLanes s = [] := by
  refine List.filter_eq_nil_iff.mpr fun l _ => ?_
  simpa using h l

theorem fecFinds_none {s : State} (ce : ∀ l, HwFault.fecCe l ∉ s.hwf) (ue : HwFault.fecUe ∉ s.hwf) : fecFinds s = s := by
  have lanes := badLanes_none ce
  have kept : s.hwf.filter (fun x => match x with | .fecCe _ | .fecUe => false | _ => true) = s.hwf := by
    refine List.filter_eq_self.mpr fun x hx => ?_
    split
    · exact absurd hx (ce _)
    · exact absurd hx ue
    · rfl
  have clean : (badLanes s).isEmpty = true := by rw [lanes]; rfl
  have still : s.hwf.contains .fecUe = false := by simpa using ue
  have run : fecFinds s =
      let u := if (badLanes s).isEmpty then s else (badLanes s).foldl laneError (modLink s (fun k => { k with fecCe := sat32 k.fecCe 1 }))
      let u := if u.hwf.contains .fecUe then modLink u (fun k => { k with fecUe := sat32 k.fecUe 1 }) else u
      { u with hwf := u.hwf.filter (fun x => match x with | .fecCe _ | .fecUe => false | _ => true) } := rfl
  rw [run]
  simp only [clean, if_true, still, Bool.false_eq_true, if_false]
  exact congrArg (fun h => { s with hwf := h }) kept

/-! ### Flits that fail their checks, and IDLE words -/

section Dropped

variable {s : State} {link : Bool} {f : Flit}

theorem linkIn_none (h : link = true → s.lnk.st = .up ∧ (∀ l, HwFault.fecCe l ∉ s.hwf) ∧ HwFault.fecUe ∉ s.hwf) : linkIn s link = s := by
  cases link with
  | false => rfl
  | true =>
    obtain ⟨-, ce, ue⟩ := h rfl
    rcases linkIn_cases s true with e | e
    · exact e
    · exact e.trans (fecFinds_none ce ue)

theorem flitCrcFail_eq (free : heldInReset s = false) (up : link = true → s.lnk.st = .up) :
    exec (.flitCrcFail link f) s = .next (crcFail (linkIn s link) link) := by
  refine congrArg Host.Outcome.next (if_neg ?_)
  cases link with
  | false => rw [free]; exact Bool.false_ne_true
  | true => rw [free, up rfl]; exact Bool.false_ne_true

theorem flitCrcFail_finds (free : heldInReset s = false) (up : s.lnk.st = .up) :
    ∃ t, exec (.flitCrcFail true f) s = .next t ∧ SameBytes s t ∧ t.cnt = s.cnt ∧
      t.lnk.crc = sat32 s.lnk.crc 1 ∧ t.lnk.nakDue = (s.lnk.nakDue || !s.lnk.nakOut) ∧
      t.lnk.fecUe = (if HwFault.fecUe ∈ s.hwf then sat32 s.lnk.fecUe 1 else s.lnk.fecUe) ∧
      t.lnk.fecCe = (if (List.finRange 5).any (fun l => s.hwf.contains (.fecCe l)) then sat32 s.lnk.fecCe 1 else s.lnk.fecCe) := by
  obtain ⟨state, -, lnk⟩ := fecFinds_lnk s
  have found : linkIn s true = fecFinds s := if_pos (by rw [up]; rfl)
  have run := flitCrcFail_eq (link := true) (f := f) free fun _ => up
  rw [found] at run
  generalize fecFinds s = q at run state lnk
  refine ⟨_, run, .ofMem ?_, ?_, ?_, ?_, ?_, ?_⟩
  · rw [crcFail, modLink_mem, state]
  · rw [crcFail, modLink_cnt, state]
  · rw [crcFail, modLink, lnk]
  · rw [crcFail, modLink, lnk, Bool.true_and]
  · rw [crcFail, modLink, lnk]
    simp only [List.contains_iff_mem]
  · rw [crcFail, modLink, lnk]
    dsimp only
    rw [badLanes_isEmpty]
    cases (List.finRange 5).any (fun l => s.hwf.contains (.fecCe l)) <;> rfl

theorem idle_takes (up : s.lnk.st = .up) (ce : ∀ l, HwFault.fecCe l ∉ s.hwf) (ue : HwFault.fecUe ∉ s.hwf) (type : fType f = tIdle)
    (good : flitGood f = true) : exec (.idle f) s = .next (takeAck s f) := by
  have still : linkIn s true = s := linkIn_none fun _ => ⟨up, ce, ue⟩
  refine congrArg Host.Outcome.next ((if_neg (by simp [up, type])).trans ((if_neg (by rw [good]; exact Bool.false_ne_true)).trans ?_))
  rw [still]

end Dropped

/-- Settles O38: a forward, a flit that fails its checks with and without findings of the FEC, an IDLE word, and a label
without an entry. -/
theorem forwardedAndBadFlits : Obligations.ForwardedAndBadFlits := by
  unfold Obligations.ForwardedAndBadFlits
  refine ⟨?_, fun s link f => ⟨fun free up => ?_, flitCrcFail_finds,
    fun up ce ue type good => ?_, fun arrives invalid => ?_⟩⟩
  · intro s link f arrives idle tick e valid onward
    obtain ⟨u, run, seen, -⟩ := inbound_arrives arrives
    obtain ⟨bytes, cnt, cores, fwd, noc, out⟩ := byLabel_forwards (s := u) (f := f) (by rw [seen.labelOf]; exact valid)
      (by rw [seen.labelOf]; exact onward)
    rw [seen.labelOf] at noc out
    refine ⟨_, forwarded u f, (if_neg (not_or.mpr ⟨idle, tick⟩)).trans run, .trans (.ofMem seen.mem) bytes, ?_, ?_, ?_, ?_, forwarded_type, rfl,
      fun h => ?_, fun h => ?_⟩
    · rw [cnt, seen.cnt]
    · rw [cores, seen.cores]
    · rw [fwd, seen.2.2.2.2.2.2.2.1]
    · rw [forwarded_label, seen.labelOf]
    · rw [noc h, seen.rmt]
    · rw [out h, seen.2.2.2.2.2.2.2.2.1]
  · rw [flitCrcFail_eq free fun h => (up h).1, linkIn_none up]
    rfl
  · refine ⟨_, idle_takes up ce ue type good, rfl, rfl, fun r => ?_⟩
    show r ∈ s.lnk.replay.filter _ ↔ _
    rw [List.mem_filter, Bool.not_eq_true', decide_eq_false_iff_not]
  · obtain ⟨u, run, seen, -⟩ := inbound_arrives arrives
    obtain ⟨bytes, cnt, label⟩ := byLabel_drops (s := u) (f := f) (by rw [seen.labelOf]; exact invalid)
    refine ⟨_, run, .trans (.ofMem seen.mem) bytes, ?_, ?_⟩
    · rw [cnt, seen.cnt]
    · rw [label, seen.2.2.2.2.2.2.1]

end Sys2Proof.Machine
end

section
set_option Elab.async false -- one proof after another: this bounds the memory that a check of the whole text takes
/-! PROOFS. What an attachment does when a flit of its own has been accepted: the admission state of every stream, what is on
its way and the count of flits stand (R253, R255, R261). -/

namespace Sys2Proof.Machine

/-- Every stream keeps its credits, quota and counts, and nothing more leaves; what waits on streams may change. -/
structure Steady (s t : State) : Prop where
  flits : t.pwr.flits = s.pwr.flits
  noc : t.rmt.noc = s.rmt.noc
  lnk : t.lnk = s.lnk
  kept : ∀ st : StreamId, t.rmt.streams[st] = { s.rmt.streams[st] with wait := t.rmt.streams[st].wait }

theorem Steady.same {s t : State} (flits : t.pwr.flits = s.pwr.flits) (rmt : t.rmt = s.rmt) (lnk : t.lnk = s.lnk) : Steady s t :=
  ⟨flits, by rw [rmt], lnk, fun _ => by rw [rmt]⟩

theorem Steady.refl (s : State) : Steady s s := .same rfl rfl rfl

theorem Steady.trans {s t u : State} (h : Steady s t) (k : Steady t u) : Steady s u :=
  ⟨k.flits.trans h.flits, k.noc.trans h.noc, k.lnk.trans h.lnk, fun st => by rw [k.kept st, h.kept st]⟩

/-- After changes of other parts. -/
theorem Steady.after {s u t : State} (h : Steady u t) (flits : u.pwr.flits = s.pwr.flits) (rmt : u.rmt = s.rmt) (lnk : u.lnk = s.lnk) :
    Steady s t := (Steady.same flits rmt lnk).trans h

/-! ### Stores, counters, the log -/

theorem logAt_steady (s : State) (e : Err) (cls loc : Nat) (st : Option (Fin 64)) (d : Nat) : Steady s (logAt s e cls loc st d) := by
  rw [logAt_eq]; exact .same rfl rfl rfl

theorem touchDom_steady (s : State) (d : DomId) : Steady s (touchDom s d) := by
  unfold touchDom
  split
  · exact .same rfl rfl rfl
  · exact .refl s

theorem presents_steady (s : State) (rs : List XbReq) (n : Nat) : Steady s (presents s rs n) :=
  (touchDom_steady s 1).trans (.same rfl rfl rfl)

theorem presentWords_steady (s : State) (who : Who) (b : Bool) (part ws : List Nat) : Steady s (presentWords s who b part ws) := by
  unfold presentWords
  split
  · exact .refl s
  · exact presents_steady ..

theorem countGranules_steady (s : State) (ws : List Nat) : Steady s (countGranules s ws) := by
  unfold countGranules
  generalize ((ws.filter (fun w => isDs (64 * w))).map (fun w => granuleOf (64 * w))).dedup = l
  induction l generalizing s with
  | nil => exact .refl s
  | cons x r ih => exact (ih (countGranule s)).after rfl rfl rfl

theorem modPort_steady (s : State) (st : StoreId) (f : Port → Port) : Steady s (modPort s st f) := by
  rw [modPort_eq]; exact .same rfl rfl rfl

theorem wakePort_steady (s : State) (st : StoreId) : Steady s (wakePort s st) := by
  unfold wakePort; dsimp only
  split
  · split
    · exact (modPort_steady ..).trans (touchDom_steady ..)
    · exact modPort_steady ..
  · exact .refl s

theorem eccRead_steady (s : State) (w : Nat) : Steady s (eccRead s w) := by
  have logged (m : Stores) (e : Err) (l a : Nat) : Steady s (logRun { s with mem := m } e l a) :=
    Steady.after (u := { s with mem := m }) (logAt_steady ..) rfl rfl rfl
  unfold eccRead; dsimp only
  repeat' split
  · exact .refl s
  · exact .refl s
  · exact .same rfl rfl rfl
  · exact .same rfl rfl rfl
  · exact logged ..
  · exact logged ..

theorem groupOff_steady (s : State) (who : Who) (a : Nat) (b : Bool) : Steady s (groupOff s who a b) := by
  have counted : Steady s (if isNs a then { s with mem := { s.mem with nsOff := sat32 s.mem.nsOff 1 } }
      else { s with mem := { s.mem with dsOff := sat32 s.mem.dsOff 1 } }) := by
    split
    · exact .same rfl rfl rfl
    · exact .same rfl rfl rfl
  unfold groupOff; dsimp only
  split
  · exact (counted.trans (logAt_steady ..)).trans (.same rfl rfl rfl)
  · exact counted.trans (logAt_steady ..)

theorem writeWord_steady (s : State) (who : Who) (w : Nat) (x mask : BitVec 512) (psn : Bool) : Steady s (writeWord s who w x mask psn).1 := by
  unfold writeWord; dsimp only
  split
  · exact logAt_steady ..
  split
  · exact groupOff_steady s who (64 * w) true
  · have woken := wakePort_steady s (storeOf (64 * w))
    generalize wakePort s (storeOf (64 * w)) = g at woken ⊢
    have read : Steady g (if mask = BitVec.allOnes 512 ∨ holds g.mem w = false then g else eccRead g w) := by
      split
      · exact .refl _
      · exact eccRead_steady g w
    generalize (if mask = BitVec.allOnes 512 ∨ holds g.mem w = false then g else eccRead g w) = e at read ⊢
    have counted : Steady e (if isNs (64 * w) then countEv { e with pwr := { e.pwr with nsWr := sat32 e.pwr.nsWr 1 } } .nsWr 1 else e) := by
      split
      · exact .same rfl rfl rfl
      · exact .refl _
    generalize (if isNs (64 * w) then countEv { e with pwr := { e.pwr with nsWr := sat32 e.pwr.nsWr 1 } } .nsWr 1 else e) = u at counted ⊢
    exact ((woken.trans read).trans counted).trans (.same rfl rfl rfl)

theorem putWords_steady (who : Who) (psn : Bool) : ∀ (l : List WordWr) (s : State), Steady s (putWords s who l psn).1
  | [], s => .refl s
  | x :: r, s => by
    have first := writeWord_steady s who x.word x.data x.mask psn
    unfold putWords
    split <;> rename_i e <;> rw [e] at first
    · exact first.trans (putWords_steady who psn r _)
    · exact first.trans (putWords_steady who psn r _)
    · exact first

theorem writeWords_steady (s : State) (who : Who) (l : List WordWr) (psn : Bool) : Steady s (writeWords s who l psn).1 :=
  ((presentWords_steady ..).trans (countGranules_steady ..)).trans (putWords_steady ..)

theorem checkParity_steady (s : State) (c : Ctr) : Steady s (checkParity s c) := by
  unfold checkParity
  split
  · refine Steady.after (u := { setCtr s c { ctrOf s c with psn := true } with cntPar := sat32 s.cntPar 1 }) ?_ rfl rfl rfl
    exact logAt_steady ..
  · exact .refl s

theorem incCtrBy_steady (s : State) (p : Part) (loc : Nat) (c : Ctr) (a : Word) (b : Bool) : Steady s (incCtrBy s p loc c a b) := by
  unfold incCtrBy incCtr; dsimp only
  split
  · exact logAt_steady ..
  split
  · exact checkParity_steady ..
  · exact (checkParity_steady ..).trans (.same rfl rfl rfl)

theorem poisonCtrBy_steady (s : State) (p : Part) (loc : Nat) (c : Ctr) : Steady s (poisonCtrBy s p loc c) := by
  unfold poisonCtrBy
  split
  · exact logAt_steady ..
  · exact .same rfl rfl rfl

/-! ### Agents and their tasks -/

theorem modEa_steady (s : State) (a : EaId) (f : Attach → Attach) : Steady s (modEa s a f) := .same rfl rfl rfl

theorem progress_ea_steady (s : State) (a : EaId) : Steady s (progress s (.ea a)) :=
  (modEa_steady ..).trans (touchDom_steady ..)

theorem offer_steady (s : State) (t : StreamId) (fs : List OutFlit) : Steady s (offer s t fs) := by
  refine ⟨rfl, rfl, rfl, fun st => ?_⟩
  by_cases h : st = t
  · subst h; rw [offer, modStream_self]
  · rw [offer, modStream_other _ _ _ _ h]

theorem poisonCtrs_steady : ∀ (cs : List Ctr) (s : State), Steady s (poisonCtrs s cs)
  | [], s => .refl s
  | c :: cs, s => Steady.trans (t := poisonCtr s c) (.same rfl rfl rfl) (poisonCtrs_steady cs _)

theorem absorb_steady (s : State) (f : Fin 45 → Part → Bool) : Steady s (absorb s f) := .same rfl rfl rfl

theorem modPart_steady (s : State) (p : Part) (f : PartSt → PartSt) : Steady s (modPart s p f) := .same rfl rfl rfl

theorem abortTask_steady (s : State) (p : Part) : Steady s (abortTask s p) := by
  unfold abortTask; dsimp only
  refine .trans (.trans (.trans ?_ (poisonCtrs_steady _ _)) (absorb_steady _ _)) (modPart_steady _ _ _)
  refine ⟨rfl, rfl, rfl, fun st => ?_⟩
  simp only [Fin.getElem_fin, Vector.getElem_mapFinIdx]
  split
  · rfl
  · rfl

theorem fenceEa_steady (s : State) (a : EaId) : Steady s (fenceEa s a) := (modEa_steady ..).trans (abortTask_steady ..)

theorem fenceDrain_steady (s : State) (a : EaId) : Steady s (fenceDrain s a) := by
  unfold fenceDrain poisonDrain; dsimp only
  refine Steady.trans ?_ (modEa_steady ..)
  split
  · split
    · exact .refl s
    · exact poisonCtrBy_steady ..
  · exact .refl s

theorem outside_steady {s t : State} (h : Steady s t) : Steady s (outside s t) := by
  unfold outside
  split
  · exact .refl s
  · exact h

/-! ### Drains -/

theorem drainEnds_steady (s : State) (a : EaId) : Steady s (drainEnds s a) := by
  unfold drainEnds
  split
  · split
    · exact modEa_steady ..
    · exact .refl s
  · exact .refl s

/-- The end of a tile or of a DRAIN marks nothing, offers the flit of an empty run, or increments its counter. -/
theorem drainMark_cases (s : State) (a : EaId) (r : DrainRun) (tile : Bool) : (drainMark s a r tile).1 = s ∨
    (∃ fs, (drainMark s a r tile).1 = offer s (eaStream s.eif[a]) fs) ∨
      ∃ n, (drainMark s a r tile).1 = incCtrBy s (eaPart a) (locEa a) r.ctr n r.psn := by
  unfold drainMark; dsimp only
  generalize (if tile then decide (r.inc = 1) else decide (r.inc = 2)) = due
  generalize (if tile then r.sent - 128 else 0) = start
  split
  · exact .inl rfl
  split
  · generalize (span start (r.sent - start)).any (rowSends s.eif[a].desc[r.ddesc] r) = sends
    cases sends
    · exact .inr (.inl ⟨_, rfl⟩)
    · exact .inl rfl
  · exact .inr (.inr ⟨_, rfl⟩)

theorem drainMark_steady (s : State) (a : EaId) (r : DrainRun) (tile : Bool) : Steady s (drainMark s a r tile).1 := by
  rcases drainMark_cases s a r tile with h | ⟨fs, h⟩ | ⟨n, h⟩
  · rw [h]; exact .refl s
  · rw [h]; exact offer_steady ..
  · rw [h]; exact incCtrBy_steady ..

theorem rowLeaves_steady (s : State) (a : EaId) (r : DrainRun) : Steady s (rowLeaves s a r) := by
  unfold rowLeaves; dsimp only
  have left : Steady s (modEa s a (fun x => { x with fifo := x.fifo.drop 1 })) := modEa_steady ..
  generalize modEa s a (fun x => { x with fifo := x.fifo.drop 1 }) = u at left ⊢
  have tile : Steady u (if (r.sent + 1) % 128 = 0 then drainMark u a { r with sent := r.sent + 1 } true else (u, { r with sent := r.sent + 1 })).1 := by
    split
    · exact drainMark_steady ..
    · exact .refl u
  generalize (if (r.sent + 1) % 128 = 0 then drainMark u a { r with sent := r.sent + 1 } true else (u, { r with sent := r.sent + 1 })) = q at tile ⊢
  have whole : Steady q.1 (if 128 * r.tiles ≤ r.sent + 1 then drainMark q.1 a q.2 false else q).1 := by
    split
    · exact drainMark_steady ..
    · exact .refl _
  generalize (if 128 * r.tiles ≤ r.sent + 1 then drainMark q.1 a q.2 false else q) = v at whole ⊢
  refine Steady.trans ((left.trans tile).trans whole) (Steady.trans ?_ (drainEnds_steady ..))
  split
  · exact .refl _
  · exact modEa_steady ..

theorem drainAccepted_steady (s : State) (a : EaId) : Steady s (drainAccepted s a) := by
  unfold drainAccepted
  split
  · split
    · exact rowLeaves_steady ..
    · exact .refl s
  · exact drainEnds_steady ..
  · exact .refl s

/-! ### CLIP stages -/

theorem nextWord_steady (s : State) (a : EaId) (st : EState) : Steady s (nextWord s a st) :=
  (modEa_steady ..).trans (progress_ea_steady ..)

theorem stageDone_steady (s : State) (a : EaId) : Steady s (stageDone s a) := (modEa_steady ..).trans (nextWord_steady ..)

theorem clipWrite_steady (s : State) (a : EaId) (addr : Nat) (x : BitVec 512) (psn : Bool) (ctr : Option Ctr) :
    Steady s (clipWrite s a addr x psn ctr) := by
  unfold clipWrite; dsimp only
  split
  · exact (writeWords_steady ..).trans (fenceEa_steady ..)
  split
  · exact (writeWords_steady ..).trans (incCtrBy_steady ..)
  · exact writeWords_steady ..

theorem unlessFenced_steady {s u : State} {a : EaId} {f : State → State} (h : Steady s u) (k : Steady u (f u)) :
    Steady s (unlessFenced u a f) := by
  unfold unlessFenced
  split
  · exact h
  · exact h.trans k

theorem bcastGo_steady (a : EaId) : ∀ (es : List (Word × Bool)) (s : State), Steady s (bcastGo a es s)
  | [], s => (modEa_steady ..).trans (stageDone_steady ..)
  | e :: rest, s => by
    unfold bcastGo; dsimp only
    split
    · exact unlessFenced_steady (clipWrite_steady ..) (bcastGo_steady a rest _)
    split
    · exact ((logAt_steady ..).trans (fenceDrain_steady ..)).trans (bcastGo_steady a rest _)
    · exact ((offer_steady ..).trans (modEa_steady ..)).trans (progress_ea_steady ..)

theorem clipAccepted_steady (s : State) (a : EaId) : Steady s (clipAccepted s a) := by
  unfold clipAccepted; dsimp only
  split
  · exact outside_steady ((modEa_steady ..).trans (bcastGo_steady ..))
  · exact .refl s

/-! ### Acceptance -/

theorem agOf_modAg_self (s : State) (ag : Agent) (f : AgentSt → AgentSt) : agOf (modAg s ag f) ag = f (agOf s ag) := by
  cases ag with
  | core c => simp [agOf, modAg, modCore]
  | chan h => simp [agOf, modAg, modChan]
  | ea a => simp [agOf, modAg, modEa]

@[simp] theorem modAg_rmt (s : State) (ag : Agent) (f : AgentSt → AgentSt) : (modAg s ag f).rmt = s.rmt := by cases ag <;> rfl

@[simp] theorem modAg_pwr (s : State) (ag : Agent) (f : AgentSt → AgentSt) : (modAg s ag f).pwr = s.pwr := by cases ag <;> rfl

theorem touchAg_steady (s : State) (ag : Agent) : Steady s (touchAg s ag) := by
  cases ag with
  | core c => exact (touchDom_steady ..).trans (touchDom_steady ..)
  | chan h => exact touchDom_steady ..
  | ea a => exact touchDom_steady ..

theorem progress_steady (s : State) (ag : Agent) : Steady s (progress s ag) :=
  (touchAg_steady (modAg s ag _) ag).after (by rw [modAg_pwr]) (modAg_rmt ..) (modAg_lnk ..)

/-- An agent's progress leaves the streams, the stores and the counters. -/
theorem progress_leaves (s : State) (ag : Agent) :
    (progress s ag).rmt = s.rmt ∧ (progress s ag).mem = s.mem ∧ (progress s ag).cnt = s.cnt := by
  rw [progress, touchAg_eq]
  exact ⟨modAg_rmt .., modAg_mem .., modAg_cnt ..⟩

theorem accepted_steady (s : State) (st : StreamId) : Steady s (accepted s st) := by
  unfold accepted
  split
  · exact (progress_steady (modChan _ _ _) _).after rfl rfl rfl
  · exact ((progress_steady ..).trans (drainAccepted_steady ..)).trans (clipAccepted_steady ..)
  · exact progress_steady ..
  · exact .refl s

/-- Unless a drain or a stage goes on, an acceptance is progress of the stream's agent. -/
theorem accepted_quiet {s : State} {st : StreamId}
    (quiet : ∀ a, streamAgent s.rmt.streams[st] = some (.ea a) → s.eif[a].clipSent = false ∧ s.eif[a].drainRun = none) :
    (accepted s st).rmt = s.rmt ∧ (accepted s st).mem = s.mem ∧ (accepted s st).cnt = s.cnt := by
  unfold accepted
  split
  · obtain ⟨rmt, mem, cnt⟩ := progress_leaves (modChan s _ (fun c => { c with blks := markAccepted c.blks })) (.chan _)
    exact ⟨rmt, mem, cnt⟩
  · rename_i a agent
    obtain ⟨unsent, idle⟩ := quiet a agent
    have ea : (progress s (.ea a)).eif[a] = { s.eif[a] with ag := { s.eif[a].ag with progressed := true, wait := none } } := by
      rw [progress, touchAg_eq]; simp [modAg, modEa]
    have drained : drainAccepted (progress s (.ea a)) a = progress s (.ea a) := by
      unfold drainAccepted; rw [ea]; dsimp only; rw [idle]
    have clipped : clipAccepted (progress s (.ea a)) a = progress s (.ea a) := by
      unfold clipAccepted; dsimp only
      rw [ea]; dsimp only
      rw [unsent]; rfl
    rw [drained, clipped]
    exact progress_leaves ..
  · exact progress_leaves ..
  · exact ⟨rfl, rfl, rfl⟩

/-- The flit out on its way: counted, and in the NoC's or the link's queue. -/
theorem sendOut_sends (s : State) (viaNoc : Bool) (unit : BitVec 6) (f : Flit) :
    let t := sendOut s viaNoc unit f
    t.pwr.flits = sat32 s.pwr.flits 1 ∧ t.rmt.streams = s.rmt.streams ∧ t.mem = s.mem ∧ t.cnt = s.cnt ∧ t.eif = s.eif ∧
      (viaNoc = true → t.rmt.noc = s.rmt.noc ++ [(unit, f)] ∧ t.lnk.tx = s.lnk.tx) ∧
      (viaNoc = false → t.lnk.tx = s.lnk.tx ++ [f] ∧ t.rmt.noc = s.rmt.noc) := by
  have flits : (countFlit s).pwr.flits = sat32 s.pwr.flits 1 := by
    have woken := (touchDom_steady (countEv s .flit 1) 22).trans (touchDom_steady _ 1)
    exact congrArg (sat32 · 1) woken.flits
  obtain ⟨p, counted⟩ : ∃ p, countFlit s = { s with pwr := p } := ⟨_, countFlit_eq s⟩
  rw [counted] at flits
  unfold sendOut
  rw [counted]
  cases viaNoc with
  | true => exact ⟨flits, rfl, rfl, rfl, rfl, fun _ => ⟨rfl, rfl⟩, fun h => absurd h.symm Bool.false_ne_true⟩
  | false => exact ⟨flits, rfl, rfl, rfl, rfl, fun h => absurd h Bool.false_ne_true, fun _ => ⟨rfl, rfl⟩⟩

section Accept

variable {s : State} {st : StreamId} {o : OutFlit} {rest : List OutFlit}

/-- The state in which the flit at the head has left and its agent has not yet gone on. -/
def departed (s : State) (st : StreamId) (o : OutFlit) (rest : List OutFlit) : State :=
  modStream (sendOut (presentFlit s st s.rmt.streams[st] o) o.viaNoc o.viaUnit (stamped s s.rmt.streams[st] o.f)) st (fun x => { x with
    wait := rest
    cred := if spends x o then x.cred - 1 else x.cred
    qleft := if stBcast x && o.viaNoc then x.qleft else x.qleft - 1
    qleftNoc := if stBcast x && o.viaNoc then x.qleftNoc - 1 else x.qleftNoc
    acc := sat32 x.acc 1
    asked := if fType o.f = tRdReq then x.asked + 1 else x.asked })

theorem flitAccept_accepts (head : s.rmt.streams[st].wait = o :: rest) (unfenced : s.rmt.streams[st].fenced = false) (own : o.cret = false)
    (may : mayAccept s s.rmt.streams[st] o = true) : exec (.flitAccept st) s = .next (accepted (departed s st o rest) st) := by
  refine congrArg Host.Outcome.next ?_
  unfold flitAccept; dsimp only
  rw [head]; dsimp only
  rw [unfenced, if_neg Bool.false_ne_true, if_pos may, own, if_neg Bool.false_ne_true]
  rfl

/-- A flit that may not be accepted keeps its stream's agent waiting. -/
theorem flitAccept_waits (head : s.rmt.streams[st].wait = o :: rest) (unfenced : s.rmt.streams[st].fenced = false)
    (may : mayAccept s s.rmt.streams[st] o = false) {ag : Agent} (agent : streamAgent s.rmt.streams[st] = some ag) :
    exec (.flitAccept st) s = .next (waitFor s ag .admission) := by
  refine congrArg Host.Outcome.next ?_
  unfold flitAccept; dsimp only
  rw [head]; dsimp only
  rw [unfenced, if_neg Bool.false_ne_true, may, if_neg Bool.false_ne_true, agent]

theorem flitAccept_stays (head : s.rmt.streams[st].wait = o :: rest) (unfenced : s.rmt.streams[st].fenced = false)
    (may : mayAccept s s.rmt.streams[st] o = false) (agent : streamAgent s.rmt.streams[st] = none) :
    exec (.flitAccept st) s = .next s := by
  refine congrArg Host.Outcome.next ?_
  unfold flitAccept; dsimp only
  rw [head]; dsimp only
  rw [unfenced, if_neg Bool.false_ne_true, may, if_neg Bool.false_ne_true, agent]

theorem presentFlit_leaves (s : State) (st : StreamId) (x : Stream) (o : OutFlit) : let t := presentFlit s st x o
    Steady s t ∧ t.rmt = s.rmt ∧ t.mem = s.mem ∧ t.cnt = s.cnt ∧ t.eif = s.eif := by
  intro t
  have run : t = presentFlit s st x o := rfl
  clear_value t
  subst run
  unfold presentFlit
  split
  · exact ⟨.refl s, rfl, rfl, rfl, rfl⟩
  · refine ⟨presents_steady .., ?_, ?_, ?_, ?_⟩
    all_goals rw [presentAt, presents_eq]

theorem departed_leaves (plain : stBcast s.rmt.streams[st] = false) : let t := departed s st o rest
    t.mem = s.mem ∧ t.cnt = s.cnt ∧ t.eif = s.eif ∧ t.pwr.flits = sat32 s.pwr.flits 1 ∧
      t.rmt.streams[st] = { s.rmt.streams[st] with
        wait := rest, qleft := s.rmt.streams[st].qleft - 1, acc := sat32 s.rmt.streams[st].acc 1
        cred := if needsCredit (fType o.f) then s.rmt.streams[st].cred - 1 else s.rmt.streams[st].cred
        asked := t.rmt.streams[st].asked } ∧
      (o.viaNoc = true → t.rmt.noc = s.rmt.noc ++ [(o.viaUnit, stamped s s.rmt.streams[st] o.f)] ∧ t.lnk.tx = s.lnk.tx) ∧
      (o.viaNoc = false → t.lnk.tx = s.lnk.tx ++ [stamped s s.rmt.streams[st] o.f] ∧ t.rmt.noc = s.rmt.noc) := by
  intro t
  have run : t = departed s st o rest := rfl
  clear_value t
  subst run
  obtain ⟨steady, rmt, mem, cnt, eif⟩ := presentFlit_leaves s st s.rmt.streams[st] o
  obtain ⟨flits, streams, mem', cnt', eif', noc, link⟩ := sendOut_sends (presentFlit s st s.rmt.streams[st] o) o.viaNoc o.viaUnit
    (stamped s s.rmt.streams[st] o.f)
  rw [steady.noc, steady.lnk] at noc link
  unfold departed
  generalize stamped s s.rmt.streams[st] o.f = g at *
  generalize sendOut (presentFlit s st s.rmt.streams[st] o) o.viaNoc o.viaUnit g = u at *
  have same : u.rmt.streams[st] = s.rmt.streams[st] := by rw [streams, rmt]
  refine ⟨?_, ?_, ?_, ?_, ?_, fun h => noc h, fun h => link h⟩
  · rw [modStream_mem, mem', mem]
  · rw [modStream_cnt, cnt', cnt]
  · rw [modStream_eif, eif', eif]
  · rw [modStream_pwr, flits, steady.flits]
  · rw [modStream_self, same]
    simp only [plain, spends, Bool.not_false, Bool.and_true, Bool.false_and, Bool.false_eq_true, if_false]

end Accept

/-- Settles O33: the flit departs, and its stream's agent goes on or, where nothing may be accepted, waits. -/
theorem acceptanceSpendsCreditAndQuota : Obligations.AcceptanceSpendsCreditAndQuota := by
  intro s st o rest x head unfenced plain own
  refine ⟨fun may => ?_, fun may => ?_⟩
  · have run := flitAccept_accepts head unfenced own may
    obtain ⟨mem, cnt, eif, flits, stream, noc, link⟩ := departed_leaves (o := o) (rest := rest) plain
    generalize departed s st o rest = u at *
    have steady := accepted_steady u st
    have kept := steady.kept st
    refine ⟨_, run, fun quiet => ?_, ?_, ?_, ?_, ?_, fun h => ?_, fun h => ?_⟩
    · have agent : streamAgent u.rmt.streams[st] = streamAgent x := by rw [stream]; rfl
      obtain ⟨rmt', mem', cnt'⟩ := accepted_quiet (s := u) (st := st) fun a ha => by
        rw [eif]; exact quiet a (agent.symm.trans ha)
      refine ⟨by rw [rmt', stream], by rw [mem', mem], by rw [cnt', cnt], .ofMem (by rw [mem', mem])⟩
    · rw [kept, stream]
    · rw [kept, stream]
    · rw [kept, stream]
    · rw [steady.flits, flits]
    · rw [steady.noc, steady.lnk]; exact noc h
    · rw [steady.noc, steady.lnk]; exact link h
  · cases agent : streamAgent x with
    | none => exact ⟨s, flitAccept_stays head unfenced may agent, rfl, rfl, rfl, rfl, fun ag h => nomatch h⟩
    | some ag =>
      refine ⟨_, flitAccept_waits head unfenced may agent, modAg_rmt .., modAg_lnk .., modAg_mem .., modAg_cnt .., fun ag' h => ?_⟩
      obtain rfl := Option.some.inj h
      exact congrArg AgentSt.wait (agOf_modAg_self s ag _)

end Sys2Proof.Machine
end

section
set_option Elab.async false -- one proof after another: this bounds the memory that a check of the whole text takes
/-! PROOFS. The port program of an attachment: words, stages, and PANEL, CLIP, END and the waits (R37, R191, R243 to R250, R256,
R261). -/

namespace Sys2Proof.Machine

/-! ### What changes an attachment alone -/

theorem OnlyEa.refl (a : EaId) (s : State) : OnlyEa a s s := ⟨rfl, fun _ _ => rfl, .refl s⟩

theorem OnlyEa.trans {a : EaId} {s t u : State} (h : OnlyEa a s t) (k : OnlyEa a t u) : OnlyEa a s u := by
  obtain ⟨h1, h2, h3⟩ := h
  obtain ⟨k1, k2, k3⟩ := k
  exact ⟨by rw [k1, h1], fun b hb => (k2 b hb).trans (h2 b hb), h3.trans k3⟩

theorem OnlyWoken.same {s t : State} (h : t.pwr = s.pwr) : OnlyWoken s t := ⟨by rw [h], fun _ => .inl (by rw [h])⟩

theorem modEa_only (s : State) (a : EaId) (f : Attach → Attach) : OnlyEa a s (modEa s a f) :=
  ⟨rfl, fun b hb => modEa_other s a f b hb, .same rfl⟩

theorem waitFor_ea (s : State) (a : EaId) (w : Wait) :
    waitFor s (.ea a) w = modEa s a (fun x => { x with ag := { x.ag with wait := some w } }) := rfl

/-- An attachment's progress shows on it, and wakes its domain. -/
theorem progress_ea (s : State) (a : EaId) : OnlyEa a s (progress s (.ea a)) ∧ (progress s (.ea a)).eif[a] = eaProgress s.eif[a] := by
  have marked := modEa_only s a (fun x => { x with ag := { x.ag with progressed := true, wait := none } })
  have same : (progress s (.ea a)).eif = (modEa s a (fun x => { x with ag := { x.ag with progressed := true, wait := none } })).eif := by
    rw [progress, touchAg_eq]; rfl
  obtain ⟨rest, others, woken⟩ := marked
  refine ⟨⟨?_, fun b hb => ?_, ?_⟩, ?_⟩
  · rw [progress, touchAg_eq]; rfl
  · rw [same, others b hb]
  · exact woken.trans (touchAg_woken _ _)
  · rw [same, modEa_self]; rfl

theorem nextWord_passes (s : State) (a : EaId) (st : EState) :
    OnlyEa a s (nextWord s a st) ∧ (nextWord s a st).eif[a] = wordPassed s.eif[a] st := by
  obtain ⟨only, shows⟩ := progress_ea (modEa s a (fun x => { x with word := x.word + 1, st := st })) a
  refine ⟨(modEa_only ..).trans only, shows.trans ?_⟩
  rw [modEa_self]; rfl

theorem stageDone_passes (s : State) (a : EaId) : OnlyEa a s (stageDone s a) ∧ (stageDone s a).eif[a] = stagePassed s.eif[a] := by
  obtain ⟨only, shows⟩ := nextWord_passes (modEa s a (fun x => { x with
    clipLeft := s.eif[a].clipLeft - 1, clipSent := false
    clipStep := if s.eif[a].clipLeft = 1 then sat32 x.clipStep 1 else x.clipStep })) a (if s.eif[a].clipLeft = 1 then .idle else .clip)
  refine ⟨(modEa_only ..).trans only, shows.trans ?_⟩
  rw [modEa_self]; rfl

theorem OnlyEa.mem {a : EaId} {s t : State} (h : OnlyEa a s t) : t.mem = s.mem := by rw [h.1]
theorem OnlyEa.cnt {a : EaId} {s t : State} (h : OnlyEa a s t) : t.cnt = s.cnt := by rw [h.1]
theorem OnlyEa.cores {a : EaId} {s t : State} (h : OnlyEa a s t) : t.cores = s.cores := by rw [h.1]
theorem OnlyEa.rmt {a : EaId} {s t : State} (h : OnlyEa a s t) : t.rmt = s.rmt := by rw [h.1]
theorem OnlyEa.u {a : EaId} {s t : State} (h : OnlyEa a s t) : t.u = s.u := by rw [h.1]
theorem OnlyEa.xb {a : EaId} {s t : State} (h : OnlyEa a s t) : t.xb = s.xb := by rw [h.1]

theorem modEa_modEa (s : State) (a : EaId) (f g : Attach → Attach) : modEa (modEa s a f) a g = modEa s a (fun x => g (f x)) := by
  simp [modEa]

/-- A change that leaves its attachment as it was. -/
theorem modEa_stays {s : State} {a : EaId} {f : Attach → Attach} (h : f s.eif[a] = s.eif[a]) : modEa s a f = s := by
  have same : s.eif.set a.val s.eif[a] = s.eif := Vector.set_getElem_self a.isLt
  rw [modEa, h, same]

/-! ### Words and stages taken -/

section Word

variable {s : State} {a : EaId}

theorem readPort_reads (h : ∀ w, HwFault.eifUe a w ∉ s.hwf ∧ HwFault.eifCe a w ∉ s.hwf) (f : State → State) : readPort s a f = f s := by
  have ue (w : Fin 512) : s.hwf.contains (.eifUe a w) = false := by simpa using (h w).1
  have ce (w : Fin 512) : s.hwf.contains (.eifCe a w) = false := by simpa using (h w).2
  simp only [readPort, ue, ce, Bool.false_eq_true, if_false]

theorem portWord_ready (h : PortReady s a) (f : State → State) : portWord s a f = f s := by
  obtain ⟨runs, here, reads⟩ := h
  simp only [portWord, runs, here, Bool.and_self, if_true, readPort_reads reads]

theorem stage_ready (h : StageReady s a) (f : State → State) : stage s a f = outside s (f s) := by
  obtain ⟨runs, panel, left, raised, sent, reads⟩ := h
  simp only [stage, runs, panel, left, raised, sent, Option.isNone_none, decide_true, Bool.not_false, Bool.and_self, if_true,
    readPort_reads reads]

/-- A word that changes its attachment alone by `f` and passes. -/
theorem modEa_passes (s : State) (a : EaId) (f : Attach → Attach) (st : EState) :
    OnlyEa a s (nextWord (modEa s a f) a st) ∧ (nextWord (modEa s a f) a st).eif[a] = wordPassed (f s.eif[a]) st := by
  obtain ⟨only, shows⟩ := nextWord_passes (modEa s a f) a st
  exact ⟨(modEa_only s a f).trans only, by rw [shows, modEa_self]⟩

end Word

/-- Settles O22: each word is taken at its place and changes its attachment alone. -/
theorem panelClipAndEnd : Obligations.PanelClipAndEnd := by
  intro s a ready x
  refine ⟨fun mode ha hb sa sb n ctl => ?_, fun n => ?_, fun still _ => ?_⟩
  · refine ⟨_, congrArg Host.Outcome.next (portWord_ready ready _), (modEa_only ..).trans (progress_ea ..).1, ?_⟩
    rw [(progress_ea _ a).2, modEa_self]
  · obtain ⟨only, shows⟩ := modEa_passes s a (fun x => { x with clipLeft := n.val + 1 }) .clip
    exact ⟨_, congrArg Host.Outcome.next (portWord_ready ready _), only, shows⟩
  · have idle : s.eif[a].drainRun.isSome = false := by rw [show s.eif[a].drainRun = none from still]; rfl
    refine ⟨_, congrArg Host.Outcome.next ((if_neg (by rw [idle]; exact Bool.false_ne_true)).trans (portWord_ready ready _)),
      (progress_ea s a).1.trans (modEa_only ..), ?_⟩
    rw [modEa_self, (progress_ea s a).2]
    rfl

/-! ### Waits -/

theorem abortTask_ea (s : State) (p : Part) (a : EaId) :
    (abortTask s p).eif[a] = if sameTask s p a then stopEa s.eif[a] else s.eif[a] := by
  have poisoned : ∀ (cs : List Ctr) (u : State), (poisonCtrs u cs).eif = u.eif := fun cs u => by rw [poisonCtrs_eq]
  have eif : (abortTask s p).eif = s.eif.mapFinIdx (fun i x h => if sameTask s p ⟨i, h⟩ then stopEa x else x) := by
    unfold abortTask
    dsimp only [modPart, absorb, dropLadle]
    rw [poisoned]
    rfl
  rw [eif, Fin.getElem_fin, Vector.getElem_mapFinIdx]
  rfl

theorem fenceEa_fences (s : State) (a : EaId) : (fenceEa s a).eif[a].st = .fenced ∧ (fenceEa s a).eif[a].errDue = true := by
  rw [fenceEa, abortTask_ea, modEa_self]
  split
  · exact ⟨rfl, rfl⟩
  · exact ⟨rfl, rfl⟩

section Wait

variable {s : State} {a : EaId} {ctr : Ctr} {step : BitVec 14}

/-- The threshold that a wait compares with: it rises once. -/
def raisedThr (x : Attach) (step : BitVec 14) : Word := if x.thrAdded then x.thr else x.thr + step.setWidth 32

/-- A wait's threshold raised, and nothing else. -/
theorem waitStep_raises (sound : HwFault.cntParity ctr ∉ s.hwf) (done : State → State) :
    let u := modEa s a (fun x => { x with thr := raisedThr s.eif[a] step, thrAdded := true })
    waitStep s a ctr step done = (if (ctrOf s ctr).psn then failEa u a .poisonConsumed 0
      else if reached (ctrOf s ctr).val (raisedThr s.eif[a] step) then done (modEa u a (fun x => { x with thrAdded := false }))
      else waitFor (modEa u a (fun x => { x with st := if x.clipLeft = 0 then .wait else x.st })) (.ea a)
        (.ctr ctr (raisedThr s.eif[a] step))) := by
  intro u
  have raised : (if s.eif[a].thrAdded then s else modEa s a (fun x => { x with thr := x.thr + step.setWidth 32, thrAdded := true })) = u := by
    by_cases added : s.eif[a].thrAdded = true
    · rw [if_pos added]
      refine (modEa_stays ?_).symm
      simp only [raisedThr, added, if_true]
      rw [← added]
    · have up : raisedThr s.eif[a] step = s.eif[a].thr + step.setWidth 32 := if_neg added
      rw [if_neg added, show u = modEa s a (fun x => { x with thr := raisedThr s.eif[a] step, thrAdded := true }) from rfl, up]
      rfl
  have thr : u.eif[a].thr = raisedThr s.eif[a] step := by rw [modEa_self]
  unfold waitStep; dsimp only
  rw [raised, checkParity_ok (by exact sound), thr]
  rfl

theorem waitStep_reached (sound : HwFault.cntParity ctr ∉ s.hwf) (clean : (ctrOf s ctr).psn = false)
    (is : reached (ctrOf s ctr).val (raisedThr s.eif[a] step) = true) (done : State → State) :
    waitStep s a ctr step done = done (modEa s a (fun x => { x with thr := raisedThr s.eif[a] step, thrAdded := false })) := by
  rw [waitStep_raises sound]
  rw [if_neg (by rw [clean]; exact Bool.false_ne_true), if_pos is, modEa_modEa]

theorem waitStep_waits (sound : HwFault.cntParity ctr ∉ s.hwf) (clean : (ctrOf s ctr).psn = false)
    (is : reached (ctrOf s ctr).val (raisedThr s.eif[a] step) = false) (done : State → State) :
    waitStep s a ctr step done = modEa s a (fun x => { x with
      thr := raisedThr s.eif[a] step, thrAdded := true, st := if x.clipLeft = 0 then .wait else x.st
      ag := { x.ag with wait := some (.ctr ctr (raisedThr s.eif[a] step)) } }) := by
  rw [waitStep_raises sound]
  rw [if_neg (by rw [clean]; exact Bool.false_ne_true), if_neg (by rw [is]; exact Bool.false_ne_true), waitFor_ea, modEa_modEa, modEa_modEa]

theorem waitStep_fails (sound : HwFault.cntParity ctr ∉ s.hwf) (poisoned : (ctrOf s ctr).psn = true) (done : State → State) :
    (waitStep s a ctr step done).eif[a].st = .fenced ∧ (waitStep s a ctr step done).eif[a].errDue = true := by
  rw [waitStep_raises sound]
  rw [if_pos poisoned]
  exact fenceEa_fences ..

end Wait

/-- A WAITC at its place, and a WAIT stage, read their word once. -/
theorem waitc_takes {s : State} {a : EaId} (runs : eaRuns s a = true) (panel : s.eif[a].panel = none) (unsent : s.eif[a].clipSent = false)
    (reads : ∀ w, HwFault.eifUe a w ∉ s.hwf ∧ HwFault.eifCe a w ∉ s.hwf) (left : s.eif[a].clipLeft = 0) (ctr : Ctr) (step : BitVec 14) :
    exec (.waitc a ctr step) s = .next (waitStep s a ctr step (fun s => nextWord s a .idle)) := by
  refine congrArg Host.Outcome.next ((if_neg (by rw [runs, panel, unsent, left]; decide)).trans ?_)
  dsimp only
  rw [readPort_reads reads]
  exact ite_self _

theorem clipWait_takes {s : State} {a : EaId} (runs : eaRuns s a = true) (unsent : s.eif[a].clipSent = false)
    (reads : ∀ w, HwFault.eifUe a w ∉ s.hwf ∧ HwFault.eifCe a w ∉ s.hwf) (left : 0 < s.eif[a].clipLeft) (ctr : Ctr) (step : BitVec 14) :
    exec (.clipWait a ctr step) s = .next (waitStep s a ctr step (fun s => stageDone s a)) := by
  refine congrArg Host.Outcome.next ((if_neg (by simp only [runs, left, unsent]; decide)).trans ?_)
  dsimp only
  rw [readPort_reads reads]
  exact ite_self _

/-- Settles O25: the threshold rises once, and the counter decides. -/
theorem waitsRaiseTheThresholdOnce : Obligations.WaitsRaiseTheThresholdOnce := by
  intro s a ctr step runs panel unsent sound reads x thr
  refine ⟨fun left => ⟨fun clean is => ?_, fun clean is => ?_, fun poisoned => ?_⟩, fun left => ⟨fun clean is => ?_, fun clean is => ?_⟩⟩
  · have run := waitc_takes runs panel unsent reads left ctr step
    rw [waitStep_reached sound clean is] at run
    obtain ⟨only, shows⟩ := modEa_passes s a (fun x => { x with thr := raisedThr s.eif[a] step, thrAdded := false }) .idle
    exact ⟨_, run, only, shows⟩
  · have run := waitc_takes runs panel unsent reads left ctr step
    rw [waitStep_waits sound clean is] at run
    refine ⟨_, run, modEa_only .., ?_⟩
    rw [modEa_self, if_pos left]
    rfl
  · exact ⟨_, waitc_takes runs panel unsent reads left ctr step, waitStep_fails sound poisoned _⟩
  · have run := clipWait_takes runs unsent reads left ctr step
    rw [waitStep_reached sound clean is] at run
    obtain ⟨only, shows⟩ := stageDone_passes (modEa s a (fun x => { x with thr := raisedThr s.eif[a] step, thrAdded := false })) a
    refine ⟨_, run, (modEa_only ..).trans only, shows.trans ?_⟩
    rw [modEa_self]
    rfl
  · have run := clipWait_takes runs unsent reads left ctr step
    rw [waitStep_waits sound clean is] at run
    refine ⟨_, run, modEa_only .., ?_⟩
    rw [modEa_self, if_neg (Nat.ne_of_gt left)]
    rfl

end Sys2Proof.Machine
end

section
set_option Elab.async false -- one proof after another: this bounds the memory that a check of the whole text takes
/-! PROOFS. The CLIP stages that compute V, and presentations (R246 to R250, R261, R263, R264). -/

namespace Sys2Proof.Machine

/-! ### Events -/

theorem Evt.bit_lt (e : Evt) : e.bit < 18 := by cases e <;> decide

theorem hasEvent_raiseEvt (s : State) (e : Evt) : HasEvent (raiseEvt s e) e := by
  have lt := e.bit_lt
  show (s.u.evtStat ||| (1#18 <<< e.bit)).getLsbD e.bit = true
  simp [lt]

@[simp] theorem logRun_cores (s : State) (e : Err) (loc d : Nat) : (logRun s e loc d).cores = s.cores := by rw [logRun, logAt_eq]

@[simp] theorem logRun_eif (s : State) (e : Err) (loc d : Nat) : (logRun s e loc d).eif = s.eif := by rw [logRun, logAt_eq]

@[simp] theorem logRun_xb (s : State) (e : Err) (loc d : Nat) : (logRun s e loc d).xb = s.xb := by rw [logRun, logAt_eq]

/-! ### Stages that replace V -/

section Stage

variable {s : State} {a : EaId}

/-- A stage that replaces V and passes. -/
theorem setClipV_passes (s : State) (a : EaId) (v : Word) (psn : Bool) :
    OnlyEa a s (stageDone (setClipV s a v psn) a) ∧
      (stageDone (setClipV s a v psn) a).eif[a] = stagePassed { s.eif[a] with clipV := v, clipVPsn := psn } := by
  obtain ⟨only, shows⟩ := stageDone_passes (setClipV s a v psn) a
  refine ⟨(modEa_only ..).trans only, shows.trans ?_⟩
  rw [setClipV, modEa_self]

/-- A stage that presents nothing at the crossbar takes effect. -/
theorem stage_only {t : State} {f : State → State} (h : StageReady s a) (run : f s = t) (only : OnlyEa a s t) : stage s a f = t := by
  rw [stage_ready h, run, outside_same only.xb]

/-- The selected of three taps, in order. -/
theorem selected_eq (mask : BitVec 3) : (List.finRange 3).filter (fun t => bitOf mask t.val) =
    (if mask.getLsbD 0 then [0] else []) ++ ((if mask.getLsbD 1 then [1] else []) ++ (if mask.getLsbD 2 then [2] else [])) := by
  have three : List.finRange 3 = [0, 1, 2] := rfl
  have bits : (bitOf mask (0 : Fin 3).val = mask.getLsbD 0) ∧ (bitOf mask (1 : Fin 3).val = mask.getLsbD 1) ∧
      bitOf mask (2 : Fin 3).val = mask.getLsbD 2 := ⟨rfl, rfl, rfl⟩
  obtain ⟨bit0, bit1, bit2⟩ := bits
  rw [three, List.filter_cons, List.filter_cons, List.filter_cons, List.filter_nil, bit0, bit1, bit2]
  cases mask.getLsbD 0 <;> cases mask.getLsbD 1 <;> cases mask.getLsbD 2 <;> rfl

theorem foldl_selected {β : Type} (mask : BitVec 3) (f : β → Fin 3 → β) (b : β) :
    ((List.finRange 3).filter (fun t => bitOf mask t.val)).foldl f b =
      (if mask.getLsbD 2 then fun v => f v 2 else id)
        ((if mask.getLsbD 1 then fun v => f v 1 else id) (if mask.getLsbD 0 then f b 0 else b)) := by
  rw [selected_eq]
  cases mask.getLsbD 0 <;> cases mask.getLsbD 1 <;> cases mask.getLsbD 2 <;> rfl

theorem any_selected (mask : BitVec 3) (f : Fin 3 → Bool) :
    ((List.finRange 3).filter (fun t => bitOf mask t.val)).any f =
      ((mask.getLsbD 0 && f 0) || (mask.getLsbD 1 && f 1) || (mask.getLsbD 2 && f 2)) := by
  rw [selected_eq, List.any_append, List.any_append, Bool.or_assoc]
  cases mask.getLsbD 0 <;> cases mask.getLsbD 1 <;> cases mask.getLsbD 2 <;> simp

theorem sumSlots_looks (who : Who) (d : Desc) : ∀ (n i : Nat) (s : State), Looks s (sumSlots who d n i s).1
  | 0, _, _ => .refl _
  | n + 1, i, _ => (readRun_looks ..).trans (sumSlots_looks who d n (i + 1) _)

theorem Moves.eif {s t : State} (h : Moves s t) : t.eif = s.eif := by rw [h.1]

/-- What a SUM leaves from its slots. -/
theorem sum_passes {t : State} {r : State × List (BitVec 512 × Bool)} (looks : Looks s r.1)
    (run : t = match r.2.findIdx? (fun q => decide (fldN q.1 48 16 ≠ s.eif[a].clipStep.toNat % 2 ^ 16)) with
      | some i => stageDone (setClipV (logRun r.1 .clipStale (locEa a) i) a 0 (r.2.any (·.2))) a
      | none => stageDone (setClipV r.1 a (((r.2.map (fun q => (fld q.1 0 32 : Word))).drop 1).foldl addF32
          ((r.2.map (fun q => (fld q.1 0 32 : Word))).headD 0)) (r.2.any (·.2))) a) :
    SameBytes s t ∧ t.cnt = s.cnt ∧ t.cores = s.cores ∧
      t.eif[a] = stagePassed { s.eif[a] with
        clipV := if r.2.all (fun q => decide (fldN q.1 48 16 = s.eif[a].clipStep.toNat % 2 ^ 16))
          then ((r.2.map (fun q => (fld q.1 0 32 : Word))).drop 1).foldl addF32 (((r.2.map (fun q => (fld q.1 0 32 : Word)))).headD 0)
          else 0
        clipVPsn := r.2.any (·.2) } := by
  generalize ((r.2.map (fun q => (fld q.1 0 32 : Word))).drop 1).foldl addF32 (((r.2.map (fun q => (fld q.1 0 32 : Word)))).headD 0) = v at *
  have eif : r.1.eif = s.eif := looks.1.eif
  cases stale : r.2.findIdx? (fun q => decide (fldN q.1 48 16 ≠ s.eif[a].clipStep.toNat % 2 ^ 16)) with
  | none =>
    rw [stale] at run
    dsimp only at run
    have fresh : r.2.all (fun q => decide (fldN q.1 48 16 = s.eif[a].clipStep.toNat % 2 ^ 16)) = true := by
      simpa [List.findIdx?_eq_none_iff] using stale
    obtain ⟨only, shows⟩ := setClipV_passes r.1 a v (r.2.any (·.2))
    rw [← run] at only shows
    refine ⟨.trans (.ofKeeps looks.2) (.ofMem only.mem), ?_, ?_, ?_⟩
    · rw [only.cnt, looks.2.2.2.2.2]
    · rw [only.cores, looks.1.cores]
    · rw [shows, eif, if_pos fresh]
  | some i =>
    rw [stale] at run
    dsimp only at run
    have old : r.2.all (fun q => decide (fldN q.1 48 16 = s.eif[a].clipStep.toNat % 2 ^ 16)) = false := by
      rw [← Bool.not_eq_true, List.all_eq_true]
      intro fresh
      obtain ⟨hi, is, -⟩ := List.findIdx?_eq_some_iff_getElem.mp stale
      exact absurd (fresh _ (List.getElem_mem hi)) (by simpa using is)
    obtain ⟨only, shows⟩ := setClipV_passes (logRun r.1 .clipStale (locEa a) i) a 0 (r.2.any (·.2))
    rw [← run] at only shows
    refine ⟨.trans (.ofKeeps looks.2) (.trans (.ofMem (logRun_mem ..)) (.ofMem only.mem)), ?_, ?_, ?_⟩
    · rw [only.cnt, logRun_cnt, looks.2.2.2.2.2]
    · rw [only.cores, logRun_cores, looks.1.cores]
    · rw [shows, logRun_eif, eif, if_neg (by rw [old]; exact Bool.false_ne_true)]

end Stage

/-- Settles O26: each stage replaces V by what it computes, and passes. -/
theorem emitScaleAndSum : Obligations.EmitScaleAndSum := by
  intro s a ready x
  refine ⟨fun mask => ?_, fun m v scale => ?_, fun m scale => ?_, fun d n still => ?_⟩
  · obtain ⟨only, shows⟩ := setClipV_passes s a
      (((List.finRange 3).filter (fun t => bitOf mask t.val)).foldl (fun v t => addF32 v (tapEmit s.taps[t])) 0)
      (((List.finRange 3).filter (fun t => bitOf mask t.val)).any (fun t => s.taps[t].psn))
    refine ⟨_, congrArg Host.Outcome.next (stage_only ready rfl only), only, shows.trans ?_⟩
    rw [foldl_selected, any_selected]
  · obtain ⟨only, shows⟩ := setClipV_passes s a v x.clipVPsn
    refine ⟨_, congrArg Host.Outcome.next (stage_only ready ?_ only), only, shows⟩
    dsimp only
    rw [show clipScale s.eif[a].clipV m = some v from scale]
  · obtain ⟨only, shows⟩ := setClipV_passes (raiseEvt (logRun s .clipNonfinite (locEa a) 0) .clipNonfinite) a 0 x.clipVPsn
    refine ⟨_, congrArg Host.Outcome.next ?_, shows.trans ?_, ?_, ?_⟩
    · rw [stage_ready ready]
      dsimp only
      rw [show clipScale s.eif[a].clipV m = none from scale]
      exact outside_same (only.xb.trans (by rw [raiseEvt_xb, logRun_xb]))
    · rw [raiseEvt_eif, logRun_eif]
    · rw [only.u]
      exact hasEvent_raiseEvt _ .clipNonfinite
    · exact .ofMem (by rw [only.mem, raiseEvt_mem, logRun_mem])
  · intro r
    obtain ⟨bytes, cnt, cores, shows⟩ := sum_passes (a := a) (t := _) (sumSlots_looks (whoDrain a) x.desc[d] (n.toNat + 1) 0 s) rfl
    exact ⟨_, congrArg Host.Outcome.next ((stage_ready ready _).trans (outside_open still _)), bytes, cnt, cores, shows⟩

/-! ### Presentations -/

section Present

variable {s : State} {a : EaId}

/-- With no duplicate at the head nothing is discarded. -/
theorem dropDups_none {p : OpPort} (h : ∀ b r, p.fifo = b :: r → lastTaken p b.core ≤ b.pos) : dropDups p p.fifo 0 = (p.fifo, 0) := by
  cases fifo : p.fifo with
  | nil => rfl
  | cons b r => rw [dropDups, if_neg (Nat.not_lt.mpr (h b r fifo))]

theorem dedup_none {isB : Bool}
    (h : ∀ b r, (portFifo s a isB).fifo = b :: r → lastTaken (portFifo s a isB) b.core ≤ b.pos) : dedup s a isB = s := by
  unfold dedup; dsimp only
  rw [dropDups_none h, modFeed, modEa_modEa]
  refine modEa_stays ?_
  cases isB with
  | false => simp [portFifo, sat32_zero]
  | true => simp [portFifo, sat32_zero]

/-- With its scale groups in, a port takes none. -/
theorem takeScales_none {isB : Bool} {src : Fin 8} {want : Nat} (n : Nat)
    (h : ∀ b r, (portFifo s a isB).fifo = b :: r → lastTaken (portFifo s a isB) b.core ≤ b.pos)
    (groups : want ≤ (portFifo s a isB).scales.length) : takeScales a isB src want (n + 1) s = (s, false) := by
  rw [takeScales, dedup_none h, if_pos groups]

/-- The attachment once both ports have presented. -/
def presented (x : Attach) (p : Panel) (oa ob : Offer) (xa xb : Bits × Bool) : Attach :=
  { x with
    portA := afterOffer x.portA oa, portB := afterOffer x.portB ob, discard := false, pos := x.pos + 1
    out := some { a := xa.1, b := xb.1, aPsn := xa.2, bPsn := xb.2, mode := p.mode
                  ctl := if x.pos = 0 then some p.ctl else none
                  sca := newScales x.portA p p.ha x.pos, scb := newScales x.portB p p.hb x.pos }
    feed := sat32 x.feed (b2n (isFresh oa) + b2n (isFresh ob))
    holdCnt := sat32 x.holdCnt (2 - (b2n (isFresh oa) + b2n (isFresh ob))) }

/-- Its PANEL over: latches and panel stores are empty. -/
def panelEnded (x : Attach) : Attach :=
  { x with
    panel := none
    portA := { x.portA with hold := none, store := [], scales := [] }
    portB := { x.portB with hold := none, store := [], scales := [] } }

theorem present_shows (p : Panel) (oa ob : Offer) (xa xb : Bits × Bool) : let t := present s a p oa ob xa xb
    t.eif[a] = (if s.eif[a].pos + 1 < p.t then eaProgress (presented s.eif[a] p oa ob xa xb)
      else wordPassed (panelEnded (presented s.eif[a] p oa ob xa xb)) .idle) ∧
      (∀ b : EaId, b ≠ a → t.eif[b] = s.eif[b]) ∧ SameBytes s t ∧ t.cnt = s.cnt ∧ t.cores = s.cores := by
  intro t
  obtain ⟨v, hv⟩ : ∃ v, v = modEa (countEv (countEv s .feed (b2n (isFresh oa) + b2n (isFresh ob))) .hold
    (2 - (b2n (isFresh oa) + b2n (isFresh ob)))) a (fun _ => presented s.eif[a] p oa ob xa xb) := ⟨_, rfl⟩
  have shows : v.eif[a] = presented s.eif[a] p oa ob xa xb := by rw [hv, modEa_self]
  have before : (∀ b : EaId, b ≠ a → v.eif[b] = s.eif[b]) ∧ v.mem = s.mem ∧ v.cnt = s.cnt ∧ v.cores = s.cores := by
    rw [hv]
    exact ⟨fun b hb => modEa_other _ a _ b hb, rfl, rfl, rfl⟩
  obtain ⟨others, mem, cnt, cores⟩ := before
  by_cases more : s.eif[a].pos + 1 < p.t
  · have run : t = progress v (.ea a) := by rw [hv]; exact if_pos more
    obtain ⟨only, ea⟩ := progress_ea v a
    rw [if_pos more, run, ea, shows]
    exact ⟨rfl, fun b hb => (only.2.1 b hb).trans (others b hb), .ofMem (only.mem.trans mem), only.cnt.trans cnt, only.cores.trans cores⟩
  · have run : t = nextWord (modEa v a panelEnded) a .idle := by rw [hv]; exact if_neg more
    obtain ⟨only, ea⟩ := modEa_passes v a panelEnded .idle
    rw [if_neg more, run, ea, shows]
    exact ⟨rfl, fun b hb => (only.2.1 b hb).trans (others b hb), .ofMem (only.mem.trans mem), only.cnt.trans cnt, only.cores.trans cores⟩

end Present

/-- Settles O23: with both offers there and nothing to discard, the presentation is made. -/
theorem presentationsPresentBothPorts : Obligations.PresentationsPresentBothPorts := by
  intro s a p xa xb x wa wb oa ob panel runs groupsA groupsB headA headB offerA offerB
  obtain ⟨shows, others, bytes, cnt, cores⟩ := present_shows (s := s) (a := a) p oa ob xa xb
  have run : exec (.presentation a) s = .next (present s a p oa ob xa xb) := by
    have scalesA := takeScales_none (s := s) (a := a) (isB := false) (src := p.srcA) wa headA groupsA
    have scalesB := takeScales_none (s := s) (a := a) (isB := true) (src := p.srcB) wb headB groupsB
    have same : dedup (dedup s a false) a true = s := by rw [dedup_none (isB := false) headA, dedup_none (isB := true) headB]
    have offerA' : offerBeat (offerOf s.eif[a].portA a p.srcA s.eif[a].pos p.ha (scalesDue p p.ha s.eif[a].pos)) = some xa := offerA
    have offerB' : offerBeat (offerOf s.eif[a].portB a p.srcB s.eif[a].pos p.hb (scalesDue p p.hb s.eif[a].pos)) = some xb := offerB
    refine congrArg Host.Outcome.next ?_
    rw [show s.eif[a].panel = some p from panel]; dsimp only
    rw [if_neg (by rw [runs]; exact Bool.false_ne_true), scalesA]; dsimp only
    rw [scalesB]; dsimp only
    rw [if_neg (by exact Bool.false_ne_true), same, offerA', offerB']
  by_cases more : x.pos + 1 < p.t
  · have ea := shows.trans (if_pos more)
    refine ⟨_, run, congrArg Attach.out ea, congrArg Attach.pos ea, congrArg Attach.feed ea, congrArg Attach.holdCnt ea, ?_, ?_,
      fun _ => ⟨congrArg Attach.portA ea, congrArg Attach.portB ea⟩, others, bytes, cnt, cores⟩
    · rw [if_pos more]; exact (congrArg Attach.panel ea).trans panel
    · rw [if_pos more]; exact (congrArg Attach.word ea).trans rfl
  · have ea := shows.trans (if_neg more)
    refine ⟨_, run, congrArg Attach.out ea, congrArg Attach.pos ea, congrArg Attach.feed ea, congrArg Attach.holdCnt ea, ?_, ?_,
      fun yes => absurd yes more, others, bytes, cnt, cores⟩
    · rw [if_neg more]; exact congrArg Attach.panel ea
    · rw [if_neg more]; exact congrArg Attach.word ea

end Sys2Proof.Machine
end

section
set_option Elab.async false -- one proof after another: this bounds the memory that a check of the whole text takes
/-! PROOFS. The CLIP stages that write or send V (R261, R262, R293, R313, R379). -/

namespace Sys2Proof.Machine

/-! ### Words written by an attachment -/

section Write

variable {s : State} {a : EaId}

/-- One whole word of an attachment's own partition, written behind an open port. -/
theorem clipWord_written {b : Nat} (own : crosses s (eaPart a) (addrPart s (64 * (b / 64))) = false)
    (up : (portOf s (storeOf (64 * (b / 64)))).isOpen = true) (x : BitVec 512) (psn : Bool) :
    let w := writeWords s (whoDrain a) [{ word := b / 64, data := x, mask := BitVec.allOnes 512 }] psn
    Moves s w.1 ∧ w.2.off = false ∧ (∀ i, i < 64 → readByte w.1.mem (64 * (b / 64) + i) = byteAt x i) ∧
      ∀ q, q / 64 ≠ b / 64 → readByte w.1.mem q = readByte s.mem q := by
  intro w
  have may : ∀ y ∈ [({ word := b / 64, data := x, mask := BitVec.allOnes 512 } : WordWr)], Writable s (whoDrain a) y.word := fun y hy => by
    rw [List.mem_singleton.mp hy]; exact ⟨own, up⟩
  refine ⟨writeWords_moves .., congrArg WrSum.off (writeWords_whole may psn), fun i hi => ?_, fun q hq => ?_⟩
  · exact readByte_writeWords_self may (fun y hy => by rw [List.mem_singleton.mp hy]) (List.nodup_singleton _) psn
      (List.mem_singleton.mpr rfl) hi
  · exact readByte_writeWords_other s (whoDrain a) psn fun y hy => by rw [List.mem_singleton.mp hy]; exact hq

/-- A word written with no counter to follow it. -/
theorem clipWrite_plain {b : Nat} (own : crosses s (eaPart a) (addrPart s (64 * (b / 64))) = false)
    (up : (portOf s (storeOf (64 * (b / 64)))).isOpen = true) (x : BitVec 512) (psn : Bool) :
    let t := clipWrite s a b x psn none
    Moves s t ∧ (∀ i, i < 64 → readByte t.mem (64 * (b / 64) + i) = byteAt x i) ∧
      (∀ q, q / 64 ≠ b / 64 → readByte t.mem q = readByte s.mem q) := by
  intro t
  obtain ⟨moves, reached, word, others⟩ := clipWord_written own up x psn
  have run : t = _ := if_neg (by rw [reached]; exact Bool.false_ne_true)
  rw [run]
  exact ⟨moves, word, others⟩

/-- A word written, and its counter incremented. -/
theorem clipWrite_counted {b : Nat} {ctr : Ctr} (own : crosses s (eaPart a) (addrPart s (64 * (b / 64))) = false)
    (up : (portOf s (storeOf (64 * (b / 64)))).isOpen = true) (sound : HwFault.cntParity ctr ∉ s.hwf)
    (mine : crosses s (eaPart a) (ctrPart s ctr) = false) (x : BitVec 512) (psn : Bool) :
    let t := clipWrite s a b x psn (some ctr)
    t.eif = s.eif ∧ t.rmt = s.rmt ∧ t.cores = s.cores ∧ (ctrOf t ctr).val = (ctrOf s ctr).val + 1 ∧
      (∀ i, i < 64 → readByte t.mem (64 * (b / 64) + i) = byteAt x i) ∧
      (∀ q, q / 64 ≠ b / 64 → readByte t.mem q = readByte s.mem q) := by
  intro t
  obtain ⟨moves, reached, word, others⟩ := clipWord_written own up x psn
  have run : t = _ := if_neg (by rw [reached]; exact Bool.false_ne_true)
  generalize (writeWords s (whoDrain a) [{ word := b / 64, data := x, mask := BitVec.allOnes 512 }] psn).1 = w at *
  have counted : incCtrBy w (eaPart a) (locEa a) ctr 1 psn =
      setCtr w ctr { ctrOf w ctr with val := (ctrOf w ctr).val + 1, psn := (ctrOf w ctr).psn || psn } := by
    rw [incCtrBy_own (by rw [moves.crosses, moves.ctrPart, mine]), incCtr_ok (by rw [moves.hwf]; exact sound)]
  rw [run, counted, ctrOf_setCtr, ctrOf_ofCnt moves.cnt]
  exact ⟨moves.eif, moves.rmt, moves.cores, rfl, word, others⟩

/-- A stage that has written passes, where nothing has fenced its attachment. -/
theorem unlessFenced_passes {u : State} (sound : u.eif[a].errDue = false) (f : State → State) : unlessFenced u a f = f u :=
  if_neg (by rw [sound]; exact Bool.false_ne_true)

end Write

/-! ### Flits offered by a stage -/

/-- A stage's flit placed on a stream that no NACK has fenced: the stage waits for its acceptance. -/
theorem offered_waits (s : State) (a : EaId) (t : StreamId) (fs : List OutFlit) (f : Attach → Attach) :
    let u := progress (modEa (offer s t fs) a f) (.ea a)
    SameBytes s u ∧ u.cnt = s.cnt ∧ u.cores = s.cores ∧ u.eif[a] = eaProgress (f s.eif[a]) ∧ u.rmt = (offer s t fs).rmt := by
  intro u
  obtain ⟨only, shows⟩ := progress_ea (modEa (offer s t fs) a f) a
  exact ⟨.ofMem only.mem, only.cnt, only.cores, shows.trans (by rw [modEa_self]; rfl), only.rmt⟩

section Stages

variable {s : State} {a : EaId}

theorem send_offers (ready : StageReady s a) (still : anyWindow s = false) {d : Fin 16} {ctr : Ctr} {idx : BitVec 24}
    (away : tdBase s.eif[a].desc[d] / 2 ^ 32 ≠ s.u.addr.toNat) (unfenced : s.rmt.streams[eaStream s.eif[a]].fenced = false) :
    exec (.send a d ctr idx) s = .next (progress (modEa (offer s (eaStream s.eif[a]) (clipFlits [outFlit s.rmt.streams[eaStream s.eif[a]]
      tWr 1 ctr.val ((tdBase s.eif[a].desc[d] % 2 ^ 32 + 64 * idx.toNat) % 2 ^ 32) 0 true s.eif[a].clipVPsn
      ((slotBits s a).setWidth 2048)])) a (fun x => { x with clipSent := true })) (.ea a)) := by
  refine congrArg Host.Outcome.next ((stage_ready ready _).trans ((outside_open still _).trans ((if_neg away).trans (if_neg ?_))))
  rw [unfenced]; exact Bool.false_ne_true

theorem send_writes (ready : StageReady s a) (still : anyWindow s = false) {d : Fin 16} {ctr : Ctr} {idx : BitVec 24}
    (here : tdBase s.eif[a].desc[d] / 2 ^ 32 = s.u.addr.toNat) :
    exec (.send a d ctr idx) s = .next (unlessFenced (clipWrite s a ((tdBase s.eif[a].desc[d] % 2 ^ 32 + 64 * idx.toNat) % 2 ^ 32)
      (slotBits s a) s.eif[a].clipVPsn (some ctr)) a (fun s => stageDone s a)) :=
  congrArg Host.Outcome.next ((stage_ready ready _).trans ((outside_open still _).trans (if_pos here)))

theorem store_writes (ready : StageReady s a) (still : anyWindow s = false) (d : Fin 16) :
    exec (.store a d) s = .next (unlessFenced (clipWrite s a (tdBase s.eif[a].desc[d]) (s.eif[a].clipV.setWidth 512) s.eif[a].clipVPsn none)
      a (fun s => stageDone s a)) :=
  congrArg Host.Outcome.next ((stage_ready ready _).trans (outside_open still _))

end Stages

section Bcast

variable {s : State} {a : EaId} {d : Fin 16} {ctr : Ctr}

theorem routeEntries_looks (who : Who) (d : Desc) : ∀ (n i : Nat) (s : State), Looks s (routeEntries who d n i s).1
  | 0, _, _ => .refl _
  | n + 1, i, _ => (readRun_looks ..).trans (routeEntries_looks who d n (i + 1) _)

/-- The table a BCAST reads, and the entries of it that it takes. -/
def bcastTable (s : State) (a : EaId) (d : Fin 16) : State × List (Word × Bool) :=
  routeEntries (whoDrain a) s.eif[a].desc[d] (tdSize s.eif[a].desc[d] 0) 0 s

def bcastLive (s : State) (a : EaId) (d : Fin 16) : List (Word × Bool) :=
  (bcastTable s a d).2.filter (fun e => !routeSkipped (stD2 s.rmt.streams[eaBStream s.eif[a]]) e.1)

/-- Where a BCAST writes at its targets. -/
def bcastBase (s : State) (a : EaId) (d : Fin 16) : Nat := tdBase s.eif[a].desc[(⟨(d.val + 1) % 16, by omega⟩ : Fin 16)] % 2 ^ 32

/-- A BCAST reads its table, logs an entry it skips, and goes through the others. -/
theorem bcast_goes (ready : StageReady s a) (still : anyWindow s = false) : ∃ q, Looks s q ∧ q.mem = (bcastTable s a d).1.mem ∧
    exec (.bcast a d ctr) s = .next (bcastGo a (bcastLive s a d) (modEa q a (fun x => { x with clipAddr := bcastBase s a d, clipCtr := ctr }))) := by
  have looks : Looks s (bcastTable s a d).1 := routeEntries_looks ..
  have run : exec (.bcast a d ctr) s = .next _ := congrArg Host.Outcome.next ((stage_ready ready _).trans (outside_open still _))
  cases skipped : (bcastTable s a d).2.findIdx? (fun e => routeSkipped (stD2 s.rmt.streams[eaBStream s.eif[a]]) e.1) with
  | none =>
    refine ⟨_, looks, rfl, run.trans (congrArg Host.Outcome.next ?_)⟩
    dsimp only
    rw [show (routeEntries (whoDrain a) s.eif[a].desc[d] (tdSize s.eif[a].desc[d] 0) 0 s).2.findIdx?
      (fun e => routeSkipped (stD2 s.rmt.streams[eaBStream s.eif[a]]) e.1) = none from skipped]
    rfl
  | some i =>
    refine ⟨logRun (bcastTable s a d).1 .rmtLabel (locEa a) i, looks.trans (logRun_looks ..), logRun_mem ..,
      run.trans (congrArg Host.Outcome.next ?_)⟩
    dsimp only
    rw [show (routeEntries (whoDrain a) s.eif[a].desc[d] (tdSize s.eif[a].desc[d] 0) 0 s).2.findIdx?
      (fun e => routeSkipped (stD2 s.rmt.streams[eaBStream s.eif[a]]) e.1) = some i from skipped]
    rfl

/-- The entry of another unit: its flit is offered, and the others wait behind it. -/
theorem bcastGo_offers {e : Word × Bool} {rest : List (Word × Bool)} (away : bitOf e.1 23 = false)
    (unfenced : s.rmt.streams[eaBStream s.eif[a]].fenced = false) : bcastGo a (e :: rest) s =
      progress (modEa (offer s (eaBStream s.eif[a]) (clipFlits [bcastFlit e.1 s.eif[a].clipCtr.val s.eif[a].clipAddr s.eif[a].clipV
        (s.eif[a].clipVPsn || e.2)])) a (fun x => { x with clipSent := true, clipTodo := rest })) (.ea a) := by
  rw [bcastGo]
  exact (if_neg (by rw [away]; exact Bool.false_ne_true)).trans (if_neg (by rw [unfenced]; exact Bool.false_ne_true))

/-- The last entry, one of this unit: its word is written here, counted, and the stage passes. -/
theorem bcastGo_writes {e : Word × Bool} (here : bitOf e.1 23 = true) : bcastGo a [e] s =
    unlessFenced (clipWrite s a s.eif[a].clipAddr (s.eif[a].clipV.setWidth 512) (s.eif[a].clipVPsn || e.2) (some s.eif[a].clipCtr)) a
      (bcastGo a []) := by
  rw [bcastGo]
  exact if_pos here

theorem bcastGo_ends (s : State) (a : EaId) :
    OnlyEa a s (bcastGo a [] s) ∧ (bcastGo a [] s).eif[a] = stagePassed { s.eif[a] with clipTodo := [] } := by
  obtain ⟨only, shows⟩ := stageDone_passes (modEa s a (fun x => { x with clipTodo := [] })) a
  rw [bcastGo]
  exact ⟨(modEa_only ..).trans only, shows.trans (by rw [modEa_self])⟩

end Bcast

/-- Settles O27: the words written here, the flits offered to other units, and the entries of a BCAST. -/
theorem sendStoreAndBcast : Obligations.SendStoreAndBcast := by
  refine ⟨fun s a d ready sound still => ?_, fun s a d ctr ready sound still => ?_⟩
  · intro x slot
    refine ⟨fun ctr idx => ?_, ?_⟩
    · intro b
      refine ⟨fun here par own mine up => ?_, fun away unfenced => ?_⟩
      · have run := send_writes (ctr := ctr) (idx := idx) ready still here
        obtain ⟨eif, rmt, cores, val, word, others⟩ := clipWrite_counted own up par mine (slotBits s a) s.eif[a].clipVPsn
        rw [unlessFenced_passes (by rw [eif]; exact sound)] at run
        obtain ⟨only, shows⟩ := stageDone_passes (clipWrite s a b (slotBits s a) s.eif[a].clipVPsn (some ctr)) a
        refine ⟨_, run, ?_, fun i hi => ?_, fun q hq => ?_, ?_, ?_⟩
        · rw [shows, eif]
        · rw [only.mem]; exact word i hi
        · rw [only.mem]; exact others q hq
        · rw [ctrOf_ofCnt only.cnt]; exact val
        · rw [only.cores, cores]
      · have run := send_offers (ctr := ctr) (idx := idx) ready still away unfenced
        obtain ⟨bytes, -, -, shows, rmt⟩ := offered_waits s a (eaStream s.eif[a]) (clipFlits [outFlit s.rmt.streams[eaStream s.eif[a]]
          tWr 1 ctr.val b 0 true s.eif[a].clipVPsn ((slotBits s a).setWidth 2048)]) (fun x => { x with clipSent := true })
        exact ⟨_, _, run, bytes, shows, rmt, rfl, outFlit_type .., outFlit_inc .., outFlit_ctr .., outFlit_addr .., outFlit_psn .., rfl⟩
    · intro b own up
      have run := store_writes ready still d
      obtain ⟨moves, word, others⟩ := clipWrite_plain own up (s.eif[a].clipV.setWidth 512) s.eif[a].clipVPsn
      rw [unlessFenced_passes (by rw [moves.eif]; exact sound)] at run
      obtain ⟨only, shows⟩ := stageDone_passes (clipWrite s a b (s.eif[a].clipV.setWidth 512) s.eif[a].clipVPsn none) a
      refine ⟨_, run, ?_, fun i hi => ?_, fun q hq => ?_, ?_, ?_⟩
      · rw [shows, moves.eif]
      · rw [only.mem]; exact word i hi
      · rw [only.mem]; exact others q hq
      · rw [only.cnt, moves.cnt]
      · rw [only.cores, moves.cores]
  · intro x r live base at_
    obtain ⟨q, looks, mem, run⟩ := bcast_goes (d := d) (ctr := ctr) ready still
    have eif : q.eif[a] = x := by rw [looks.1.eif]
    obtain ⟨u, hu⟩ : ∃ u, u = modEa q a (fun x => { x with clipAddr := bcastBase s a d, clipCtr := ctr }) := ⟨_, rfl⟩
    have placed : u.eif[a] = at_ := by rw [hu, modEa_self, eif]; rfl
    have same : u.rmt = s.rmt ∧ u.cnt = s.cnt ∧ u.cores = s.cores ∧ u.mem = r.1.mem ∧ u.hwf = s.hwf := by
      rw [hu]
      exact ⟨looks.1.rmt, looks.2.2.2.2.2, looks.1.cores, mem, looks.1.hwf⟩
    have owners : (∀ w, crosses u (eaPart a) (addrPart u w) = crosses s (eaPart a) (addrPart s w)) ∧
        crosses u (eaPart a) (ctrPart u ctr) = crosses s (eaPart a) (ctrPart s ctr) := by
      rw [hu]
      exact ⟨fun w => by rw [← looks.1.crosses, ← looks.1.addrPart]; rfl, by rw [← looks.1.crosses, ← looks.1.ctrPart]; rfl⟩
    have bytes : SameBytes s u := by rw [hu]; exact .trans (.ofKeeps looks.2) (.ofMem rfl)
    have bstream : eaBStream u.eif[a] = eaBStream x := by rw [placed]; rfl
    rw [← hu] at run
    obtain ⟨rmt, cnt, cores, stored, hwf⟩ := same
    refine ⟨fun e rest split away unfenced => ?_, fun e split here par own mine up => ?_, fun split => ?_⟩
    · rw [show bcastLive s a d = e :: rest from split, bcastGo_offers away (by simp only [bstream, rmt]; exact unfenced)] at run
      obtain ⟨bytes', cnt', cores', shows, rmt'⟩ := offered_waits u a (eaBStream u.eif[a]) (clipFlits [bcastFlit e.1 u.eif[a].clipCtr.val
        u.eif[a].clipAddr u.eif[a].clipV (u.eif[a].clipVPsn || e.2)]) (fun x => { x with clipSent := true, clipTodo := rest })
      refine ⟨_, run, bytes.trans bytes', ?_, ?_, ?_, ?_⟩
      · rw [cores', cores]
      · rw [cnt', cnt]
      · rw [shows, placed]
      · rw [rmt', bstream, placed]
        simp only [offer, modStream, rmt]
        rfl
    · rw [show bcastLive s a d = [e] from split, bcastGo_writes here] at run
      obtain ⟨eif', rmt', cores', val, word, others⟩ := clipWrite_counted (s := u) (a := a) (b := base) (ctr := ctr) (by rw [owners.1]; exact own)
        (by rw [portOf_ofMem stored]; exact up) (by rw [hwf]; exact par) (by rw [owners.2]; exact mine) (at_.clipV.setWidth 512)
        (at_.clipVPsn || e.2)
      rw [placed, unlessFenced_passes (by rw [eif', placed]; exact sound)] at run
      obtain ⟨only, shows⟩ := bcastGo_ends (clipWrite u a base (at_.clipV.setWidth 512) (at_.clipVPsn || e.2) (some ctr)) a
      refine ⟨_, run, ?_, ?_, fun i hi => ?_, fun p hp => ?_, ?_⟩
      · rw [shows, eif', placed]
      · rw [only.rmt, rmt', rmt]
      · rw [only.mem]; exact word i hi
      · rw [only.mem, others p hp, bytes p]
      · rw [ctrOf_ofCnt only.cnt, val, ctrOf_ofCnt cnt]
    · rw [show bcastLive s a d = [] from split] at run
      obtain ⟨only, shows⟩ := bcastGo_ends u a
      refine ⟨_, run, bytes.trans (.ofMem only.mem), ?_, ?_, ?_, ?_⟩
      · rw [only.cores, cores]
      · rw [only.cnt, cnt]
      · rw [only.rmt, rmt]
      · rw [shows, placed]

end Sys2Proof.Machine
end

section
set_option Elab.async false -- one proof after another: this bounds the memory that a check of the whole text takes
/-! PROOFS. Drains: how a DRAIN starts, what an accumulator row becomes, and what the drain sequencer writes (R245, R251 to R257,
R475). -/

namespace Sys2Proof.Machine

/-! ### What a drain leaves in the stores -/

@[simp] theorem poisonCtrBy_mem (s : State) (p : Part) (loc : Nat) (c : Ctr) : (poisonCtrBy s p loc c).mem = s.mem := by
  unfold poisonCtrBy
  split
  · exact logRun_mem ..
  · rfl

@[simp] theorem poisonDrain_mem (s : State) (a : EaId) (inc : BitVec 2) (d : Fin 16) (c : Ctr) : (poisonDrain s a inc d c).mem = s.mem := by
  unfold poisonDrain
  split
  · rfl
  · exact poisonCtrBy_mem ..

@[simp] theorem fenceDrain_mem (s : State) (a : EaId) : (fenceDrain s a).mem = s.mem := by
  unfold fenceDrain
  rw [modEa_mem]
  split
  · exact poisonDrain_mem ..
  · rfl

@[simp] theorem drainMark_mem (s : State) (a : EaId) (r : DrainRun) (tile : Bool) : (drainMark s a r tile).1.mem = s.mem := by
  rcases drainMark_cases s a r tile with h | ⟨fs, h⟩ | ⟨n, h⟩
  · rw [h]
  · rw [h]; rfl
  · rw [h, incCtrBy_mem]

@[simp] theorem drainEnds_mem (s : State) (a : EaId) : (drainEnds s a).mem = s.mem := by
  unfold drainEnds
  repeat' split
  · rfl
  · rfl
  · rfl

@[simp] theorem rowLeaves_mem (s : State) (a : EaId) (r : DrainRun) : (rowLeaves s a r).mem = s.mem := by
  unfold rowLeaves; dsimp only
  rw [drainEnds_mem]
  have tile : (if (r.sent + 1) % 128 = 0 then drainMark (modEa s a (fun x => { x with fifo := x.fifo.drop 1 })) a { r with sent := r.sent + 1 } true
      else (modEa s a (fun x => { x with fifo := x.fifo.drop 1 }), { r with sent := r.sent + 1 })).1.mem = s.mem := by
    split
    · exact drainMark_mem ..
    · rfl
  generalize (if (r.sent + 1) % 128 = 0 then drainMark (modEa s a (fun x => { x with fifo := x.fifo.drop 1 })) a { r with sent := r.sent + 1 } true
    else (modEa s a (fun x => { x with fifo := x.fifo.drop 1 }), { r with sent := r.sent + 1 })) = q at tile ⊢
  have whole : (if 128 * r.tiles ≤ r.sent + 1 then drainMark q.1 a q.2 false else q).1.mem = s.mem := by
    split
    · exact (drainMark_mem ..).trans tile
    · exact tile
  generalize (if 128 * r.tiles ≤ r.sent + 1 then drainMark q.1 a q.2 false else q) = v at whole ⊢
  split
  · exact whole
  · exact whole

/-- Byte `b` lies outside the words that its destination gives row `i` of a drain. -/
def OutsideRow (d : Desc) (r : DrainRun) (i : Nat) (xs : List Word) (b : Nat) : Prop :=
  ∀ off, drainRowAt d (r.first + i) = some off → ∀ w ∈ drainWrites d r.ofs off xs, b / 64 ≠ w.word

theorem modEa_congr {s : State} {a : EaId} {f g : Attach → Attach} (h : f s.eif[a] = g s.eif[a]) : modEa s a f = modEa s a g := by
  rw [modEa, modEa, h]

section Row

variable {s : State} {a : EaId} {r : DrainRun} {b : Nat}

theorem drainRowOut_bytes {i : Nat} {xs : List Word} (psn : Bool) (h : OutsideRow s.eif[a].desc[r.ddesc] r i xs b) :
    readByte (drainRowOut s a r i xs psn).1.mem b = readByte s.mem b := by
  obtain ⟨d, hd⟩ : ∃ d : Desc, d = s.eif[a].desc[r.ddesc] := ⟨_, rfl⟩
  unfold OutsideRow at h
  unfold drainRowOut; dsimp only
  simp only [← hd] at h ⊢
  by_cases away : tdSpace d = 1
  · rw [if_pos away]; rfl
  · rw [if_neg away]
    cases row : drainRowAt d (r.first + i) with
    | none => rfl
    | some off =>
      dsimp only
      have written := readByte_writeWords_other (modEa s a (fun x => { x with oobWr := sat32 x.oobWr (128 - drainLive d r.ofs) }))
        (whoDrain a) psn (h off row)
      generalize writeWords (modEa s a (fun x => { x with oobWr := sat32 x.oobWr (128 - drainLive d r.ofs) })) (whoDrain a)
        (drainWrites d r.ofs off xs) psn = w at written ⊢
      refine Eq.trans ?_ written
      split
      · rw [fenceDrain_mem, modEa_mem]
      · rw [modEa_mem]

@[simp] theorem logFenced_mem (s : State) (t : StreamId) (loc : Nat) : (logFenced s t loc).mem = s.mem := by rw [logFenced, logAt_eq]

theorem issueRow_bytes {x : DrainRow} (h : OutsideRow s.eif[a].desc[r.ddesc] r x.num x.vals b) :
    readByte (issueRow s a r x).mem b = readByte s.mem b := by
  have out := drainRowOut_bytes x.psn h
  unfold issueRow; dsimp only
  generalize drainRowOut s a r x.num x.vals x.psn = q at out ⊢
  split
  · split
    · rfl
    · rw [rowLeaves_mem]
  split
  · rw [fenceDrain_mem, logFenced_mem]
  split
  · rfl
  split
  · exact out
  split
  · exact out
  · rw [rowLeaves_mem]; exact out

theorem outside_bytes {t : State} (h : readByte t.mem b = readByte s.mem b) : readByte (outside s t).mem b = readByte s.mem b := by
  rcases outside_cases s t with e | e
  · rw [e]
  · rw [e, h]

theorem issueFront_bytes {x : DrainRow} {rest : List DrainRow} (run : s.eif[a].drainRun = some r) (front : s.eif[a].fifo = x :: rest)
    (h : OutsideRow s.eif[a].desc[r.ddesc] r x.num x.vals b) : readByte (issueFront s a).mem b = readByte s.mem b := by
  unfold issueFront
  rw [run, front]; dsimp only
  split
  · rfl
  split
  · rfl
  split
  · rfl
  · exact outside_bytes (issueRow_bytes h)

/-- A column read in this cycle goes behind the rows that wait, and leaves the drain's place and destination. -/
theorem readColumn_front {x : Attach} (q : DrainRun) {y : DrainRow} {rest : List DrainRow} (front : x.fifo = y :: rest) :
    ∃ more, (readColumn x q false).fifo = y :: more := by
  have entered : (readColumn x q false).fifo = x.fifo ++ [_] := rfl
  rw [front] at entered
  exact ⟨_, entered⟩

theorem columnDue_run {x : Attach} {q : DrainRun} (h : columnDue x = some q) : x.drainRun = some q := by
  unfold columnDue at h
  split at h
  · exact absurd h (by simp)
  · rename_i r run
    dsimp only at h
    split at h
    · rw [run, h]
    · exact absurd h (by simp)

theorem drainCycle_bytes {x : DrainRow} {rest : List DrainRow} (run : s.eif[a].drainRun = some r) (front : s.eif[a].fifo = x :: rest)
    (h : OutsideRow s.eif[a].desc[r.ddesc] r x.num x.vals b) : readByte (drainCycle s a).mem b = readByte s.mem b := by
  unfold drainCycle
  rw [if_neg (by rw [run]; exact Bool.false_ne_true)]; dsimp only
  rw [modEa_mem]
  cases due : columnDue s.eif[a] with
  | none =>
    rw [modEa_stays (by rw [due])]
    exact issueFront_bytes run front h
  | some q =>
    obtain ⟨more, front'⟩ := readColumn_front q front
    have same : q = r := Option.some.inj ((columnDue_run due).symm.trans run)
    subst same
    have bytes := issueFront_bytes (s := modEa s a (fun x => readColumn x q false)) (a := a) (r := { q with cols := q.cols + 1 })
      (x := x) (rest := more) (b := b) (by rw [modEa_self]; rfl) (by rw [modEa_self, front']) (by rw [modEa_self]; exact h)
    rw [modEa_congr (g := fun x => readColumn x q false) (by rw [due])]
    exact bytes

end Row

/-! ### How a DRAIN starts -/

theorem poisonDrain_own {s : State} {a : EaId} {inc : BitVec 2} {d : Fin 16} {c : Ctr} (counts : inc ≠ 0)
    (here : tdSpace s.eif[a].desc[d] = 0) (own : crosses s (eaPart a) (ctrPart s c) = false) : poisonDrain s a inc d c = poisonCtr s c := by
  rw [poisonDrain, if_neg (by rintro (h | h); exacts [counts h, h here]), poisonCtrBy, if_neg (by rw [own]; exact Bool.false_ne_true)]

/-- A counter that a fenced drain does not name here, or not of its own task, stays. -/
theorem poisonDrain_spares {s : State} {a : EaId} {inc : BitVec 2} {d : Fin 16} {c k : Ctr}
    (h : k ≠ c ∨ inc = 0 ∨ tdSpace s.eif[a].desc[d] ≠ 0 ∨ crosses s (eaPart a) (ctrPart s c) = true) :
    ctrOf (poisonDrain s a inc d c) k = ctrOf s k := by
  unfold poisonDrain
  split
  · rfl
  unfold poisonCtrBy
  split
  · exact ctrOf_ofCnt (logRun_cnt ..) k
  · rename_i counts own
    obtain ⟨counted, here⟩ := not_or.mp counts
    rcases h with h | h | h | h
    · exact ctrOf_setCtr_other _ _ h
    · exact absurd h counted
    · exact absurd h here
    · exact absurd h own

@[simp] theorem poisonDrain_eif (s : State) (a : EaId) (inc : BitVec 2) (d : Fin 16) (c : Ctr) : (poisonDrain s a inc d c).eif = s.eif := by
  unfold poisonDrain
  split
  · rfl
  unfold poisonCtrBy
  split
  · exact logRun_eif ..
  · rfl

/-- A drain fence stops the drain and leaves the place in the port program. -/
theorem fenceDrain_fences (s : State) (a : EaId) :
    (fenceDrain s a).eif[a] = { dropDrain s.eif[a] with drainFenced := true } := by
  unfold fenceDrain; dsimp only
  rw [modEa_self]
  split
  · rw [poisonDrain_eif]
  · rfl

section Drain

variable {s : State} {a : EaId} {trn tap : Bool} {d : Fin 16} {inc : BitVec 2} {ctr : Ctr} {tiles ofs : BitVec 7} {first : BitVec 24}

/-- The drain that a DRAIN word describes. -/
def drainOf (trn tap : Bool) (d : Fin 16) (inc : BitVec 2) (ctr : Ctr) (tiles ofs : BitVec 7) (first : BitVec 24) : DrainRun :=
  { trn := trn, tap := tap, ddesc := d, inc := inc, ctr := ctr, tiles := tiles.toNat + 1, ofs := ofs.toNat, first := first.toNat }

variable (ready : PortReady s a) (idle : s.eif[a].drainRun = none)
include ready idle

theorem drain_starts (live : s.eif[a].drainFenced = false) (sound : checkTd s.eif[a].desc[d] false drainAccepts = none)
    (unfenced : tdSpace s.eif[a].desc[d] = 1 → s.rmt.streams[eaStream s.eif[a]].fenced = false) :
    exec (.drain a trn tap d inc ctr tiles ofs first) s =
      .next (nextWord (modEa s a (fun x => { x with drainRun := some (drainOf trn tap d inc ctr tiles ofs first) })) a .idle) := by
  refine congrArg Host.Outcome.next ((if_neg (by rw [idle]; exact Bool.false_ne_true)).trans ((portWord_ready ready _).trans ?_))
  refine (if_neg (by rw [live]; exact Bool.false_ne_true)).trans ?_
  simp only [sound]
  exact if_neg (fun ⟨away, fenced⟩ => Bool.false_ne_true ((unfenced away).symm.trans fenced))

theorem drain_underFence (fenced : s.eif[a].drainFenced = true) :
    exec (.drain a trn tap d inc ctr tiles ofs first) s = .next (nextWord (poisonDrain s a inc d ctr) a .idle) :=
  congrArg Host.Outcome.next ((if_neg (by rw [idle]; exact Bool.false_ne_true)).trans
    ((portWord_ready ready _).trans (if_pos fenced)))

theorem drain_fails {e : Err} (live : s.eif[a].drainFenced = false) (bad : checkTd s.eif[a].desc[d] false drainAccepts = some e) :
    exec (.drain a trn tap d inc ctr tiles ofs first) s =
      .next (nextWord (fenceDrain (logRun (modEa s a (fun x => { x with drainRun := some (drainOf trn tap d inc ctr tiles ofs first) }))
        e (locEa a) 0) a) a .idle) := by
  refine congrArg Host.Outcome.next ((if_neg (by rw [idle]; exact Bool.false_ne_true)).trans ((portWord_ready ready _).trans ?_))
  refine (if_neg (by rw [live]; exact Bool.false_ne_true)).trans ?_
  simp only [bad]
  rfl

end Drain

/-! ### How an accumulator row is taken -/

@[simp] theorem tapAdd_eif (s : State) (t : TapId) (n : Nat) (xs : List Word) (psn : Bool) : (tapAdd s t n xs psn).eif = s.eif := by
  unfold tapAdd; dsimp only
  rw [modTap_eif]
  split
  · exact logRun_eif ..
  · rfl

/-- A row added to a tap changes that tap, and logs a residue mismatch. -/
theorem tapAdd_adds (s : State) (t : TapId) (n : Nat) (xs : List Word) (psn : Bool) :
    (tapAdd s t n xs psn).taps[t] = { s.taps[t] with
      levels := foldLevels 24 0 (rowNorm n xs) s.taps[t].levels, rows := sat32 s.taps[t].rows 1
      psn := s.taps[t].psn || psn || s.hwf.contains (.tapResidue t) } := by
  have taps : (if s.hwf.contains (.tapResidue t) then logRun s .tapResidue (locTap t) 0 else s).taps = s.taps := by
    split
    · rw [logRun, logAt_eq]
    · rfl
  unfold tapAdd; dsimp only
  rw [modTap_self, taps]

theorem tapAdd_keeps (s : State) (t : TapId) (n : Nat) (xs : List Word) (psn : Bool) :
    (tapAdd s t n xs psn).cnt = s.cnt ∧ (tapAdd s t n xs psn).rmt = s.rmt ∧ (tapAdd s t n xs psn).mem = s.mem ∧
      (tapAdd s t n xs psn).cores = s.cores := by
  unfold tapAdd; dsimp only
  rw [modTap_cnt, modTap_rmt, modTap_mem, modTap_cores]
  split
  · exact ⟨logRun_cnt .., logRun_rmt .., logRun_mem .., logRun_cores ..⟩
  · exact ⟨rfl, rfl, rfl, rfl⟩

/-- What an attachment that drains by `r` becomes with a row: on the straight path it enters the FIFO, on the transposed path the
end of its tile, after the column that frees the Trivet. -/
def rowTaken (r : DrainRun) (row : BitVec 4096) (xs : List Word) (psn : Bool) (x : Attach) : Attach :=
  if r.trn then
    let y := ((freeing x).map (fun q => readColumn x q true)).getD x
    let k := triOf (r.row / 128)
    { y with tri := y.tri.set k.val { rows := y.tri[k].rows ++ [row], psn := y.tri[k].psn || psn, wait := 2 } }
  else enterFifo x r r.row xs psn

/-- The state in which a row is taken: its tap has added it. -/
def tapped (s : State) (a : EaId) (r : DrainRun) (xs : List Word) (psn : Bool) : State :=
  if r.tap && s.taps[(⟨a.val, by omega⟩ : TapId)].armed then tapAdd s ⟨a.val, by omega⟩ 7 xs psn else s

/-- The values of an accumulator row. -/
def rowValues (row : BitVec 4096) : List Word := (upto 128).map (fun c => (fld row (32 * c) 32 : Word))

theorem drainTake_eq (s : State) (a : EaId) (r : DrainRun) (row : BitVec 4096) (psn : Bool) :
    drainTake s a r row psn = progress (modEa (tapped s a r (rowValues row) psn) a (fun x =>
      { rowTaken r row (rowValues row) psn x with
        drainRun := (rowTaken r row (rowValues row) psn x).drainRun.map (fun q => { q with row := q.row + 1 }) })) (.ea a) := by
  obtain ⟨u, hu⟩ : ∃ u, u = tapped s a r (rowValues row) psn := ⟨_, rfl⟩
  unfold drainTake; dsimp only
  rw [tapped, rowValues] at hu
  simp only [← hu, tapped, rowValues]
  refine congrArg (progress · (.ea a)) (modEa_congr ?_)
  dsimp only [rowTaken]
  cases freeing u.eif[a] <;> rfl

theorem tapped_eif (s : State) (a : EaId) (r : DrainRun) (xs : List Word) (psn : Bool) : (tapped s a r xs psn).eif = s.eif := by
  unfold tapped
  split
  · exact tapAdd_eif ..
  · rfl

theorem tapped_keeps (s : State) (a : EaId) (r : DrainRun) (xs : List Word) (psn : Bool) :
    (tapped s a r xs psn).cnt = s.cnt ∧ (tapped s a r xs psn).rmt = s.rmt ∧ (tapped s a r xs psn).mem = s.mem ∧
      (tapped s a r xs psn).cores = s.cores := by
  unfold tapped
  split
  · exact tapAdd_keeps ..
  · exact ⟨rfl, rfl, rfl, rfl⟩

section Row

variable {s : State} {a : EaId} {row : BitVec 4096} {psn : Bool}

/-- A row that the port does not hold is counted. -/
def rowCounted (s : State) (a : EaId) : State := countEv (modEa s a (fun x => { x with drainRows := sat32 x.drainRows 1 })) .drainRow 1

theorem rowCounted_shows (s : State) (a : EaId) :
    (rowCounted s a).eif[a] = { s.eif[a] with drainRows := sat32 s.eif[a].drainRows 1 } :=
  modEa_self s a (fun x => { x with drainRows := sat32 x.drainRows 1 })

theorem rowCounted_others {b : EaId} (h : b ≠ a) : (rowCounted s a).eif[b] = s.eif[b] :=
  modEa_other s a (fun x => { x with drainRows := sat32 x.drainRows 1 }) b h

theorem drainRow_held (held : drainHold s a = true) :
    exec (.drainRow a row psn) s = .next (modEa s a (fun x => { x with drainStall := sat32 x.drainStall 1 })) :=
  congrArg Host.Outcome.next (if_pos held)

theorem drainHold_of_discards (drops : discards s a = true) : drainHold s a = false := by
  unfold drainHold; dsimp only
  rw [if_pos drops]

theorem discards_counted : discards (rowCounted s a) a = discards s a := by
  unfold discards
  rw [rowCounted_shows]
  rfl

theorem drainRow_discarded (drops : discards s a = true) : exec (.drainRow a row psn) s = .next (rowCounted s a) :=
  congrArg Host.Outcome.next ((if_neg (by rw [drainHold_of_discards drops]; exact Bool.false_ne_true)).trans
    (if_pos (discards_counted.trans drops)))

theorem drainRow_taken {r : DrainRun} (open_ : drainHold s a = false) (wanted : discards s a = false) (run : s.eif[a].drainRun = some r) :
    exec (.drainRow a row psn) s = .next (drainTake (rowCounted s a) a r row psn) := by
  have live : ¬discards (rowCounted s a) a = true := by rw [discards_counted, wanted]; exact Bool.false_ne_true
  have same : (rowCounted s a).eif[a].drainRun = some r := by rw [rowCounted_shows]; exact run
  refine congrArg Host.Outcome.next ((if_neg (by rw [open_]; exact Bool.false_ne_true)).trans ((if_neg live).trans ?_))
  rw [show (countEv (modEa s a (fun x => { x with drainRows := sat32 x.drainRows 1 })) .drainRow 1) = rowCounted s a from rfl, same]

/-- A row taken by a running DRAIN leaves the stores, the cores and the other attachments. -/
theorem drainTake_keeps (r : DrainRun) : (∀ b : EaId, b ≠ a → (drainTake s a r row psn).eif[b] = s.eif[b]) ∧
    (drainTake s a r row psn).cnt = s.cnt ∧ (drainTake s a r row psn).rmt = s.rmt ∧ (drainTake s a r row psn).mem = s.mem ∧
    (drainTake s a r row psn).cores = s.cores := by
  obtain ⟨only, -⟩ := progress_ea (modEa (tapped s a r (rowValues row) psn) a (fun x =>
      { rowTaken r row (rowValues row) psn x with
        drainRun := (rowTaken r row (rowValues row) psn x).drainRun.map (fun q => { q with row := q.row + 1 }) })) a
  have whole := (modEa_only (tapped s a r (rowValues row) psn) a _).trans only
  rw [← drainTake_eq] at whole
  obtain ⟨cnt, rmt, mem, cores⟩ := tapped_keeps s a r (rowValues row) psn
  refine ⟨fun b hb => (whole.2.1 b hb).trans (by rw [tapped_eif]), ?_, ?_, ?_, ?_⟩
  · rw [whole.cnt, cnt]
  · rw [whole.rmt, rmt]
  · rw [whole.mem, mem]
  · rw [whole.cores, cores]

theorem drainTake_shows (r : DrainRun) : (drainTake s a r row psn).eif[a] =
    eaProgress { rowTaken r row (rowValues row) psn s.eif[a] with
      drainRun := (rowTaken r row (rowValues row) psn s.eif[a]).drainRun.map (fun q => { q with row := q.row + 1 }) } := by
  rw [drainTake_eq, (progress_ea _ a).2, modEa_self, tapped_eif]

theorem drainTake_taps (r : DrainRun) : (drainTake s a r row psn).taps = (tapped s a r (rowValues row) psn).taps := by
  rw [drainTake_eq, (progress_ea _ a).1.1]
  rfl

end Row

/-- The count of rows is no part of what takes them. -/
theorem rowTaken_counts (r : DrainRun) (row : BitVec 4096) (xs : List Word) (psn : Bool) (x : Attach) (n : Word) :
    rowTaken r row xs psn { x with drainRows := n } = { rowTaken r row xs psn x with drainRows := n } := by
  have same : freeing { x with drainRows := n } = freeing x := rfl
  unfold rowTaken
  split
  · rw [same]
    cases freeing x <;> rfl
  · rfl

/-- Settles O24: a word takes its drain, a row goes where its drain says, and the sequencer writes inside its row's words. -/
theorem drainsStartAndTakeTheirRows : Obligations.DrainsStartAndTakeTheirRows := by
  refine ⟨fun s a trn tap d inc ctr tiles ofs first ready idle => ?_, fun s a row psn => ?_, fun s a r x rest b run front _ apart =>
    drainCycle_bytes run front apart⟩
  · refine ⟨fun live sound unfenced => ?_, fun fenced => ?_, fun e live bad => ?_⟩
    · obtain ⟨only, shows⟩ := modEa_passes s a (fun x => { x with drainRun := some (drainOf trn tap d inc ctr tiles ofs first) }) .idle
      exact ⟨_, drain_starts ready idle live sound unfenced, only, shows⟩
    · obtain ⟨only, shows⟩ := nextWord_passes (poisonDrain s a inc d ctr) a .idle
      have kept := ctrOf_ofCnt only.cnt
      refine ⟨_, drain_underFence ready idle fenced, shows.trans (by rw [poisonDrain_eif]),
        .ofMem (only.mem.trans (poisonDrain_mem ..)), fun counts here own => ?_, fun k spared => ?_⟩
      · rw [kept, poisonDrain_own counts here own, poisonCtr, ctrOf_setCtr]
        exact ⟨rfl, rfl⟩
      · rw [kept, poisonDrain_spares spared]
    · obtain ⟨only, shows⟩ := nextWord_passes (fenceDrain (logRun (modEa s a (fun x => { x with
        drainRun := some (drainOf trn tap d inc ctr tiles ofs first) })) e (locEa a) 0) a) a .idle
      rw [fenceDrain_fences, logRun_eif, modEa_self] at shows
      refine ⟨_, drain_fails ready idle live bad, by rw [shows]; rfl, by rw [shows]; rfl, by rw [shows]; rfl, .ofMem ?_⟩
      rw [only.mem, fenceDrain_mem, logRun_mem, modEa_mem]
  · refine ⟨fun held => ⟨_, drainRow_held held, modEa_only .., modEa_self ..⟩, fun drops => ⟨_, drainRow_discarded drops, rfl, ?_, rowCounted_shows s a⟩,
      fun r open_ wanted run => ⟨_, drainRow_taken open_ wanted run, ?_⟩⟩
    · exact fun b hb => rowCounted_others hb
    · obtain ⟨others, cnt, rmt, mem, cores⟩ := drainTake_keeps (s := rowCounted s a) (a := a) (row := row) (psn := psn) r
      have shows := drainTake_shows (s := rowCounted s a) (a := a) (row := row) (psn := psn) r
      rw [rowCounted_shows, rowTaken_counts] at shows
      have taps := drainTake_taps (s := rowCounted s a) (a := a) (row := row) (psn := psn) r
      refine ⟨fun b hb => (others b hb).trans (rowCounted_others hb), cnt, rmt, mem, cores, fun straight => ?_, fun turned => ?_,
        fun untapped => ?_, fun taps_ armed => ?_⟩
      · rw [shows, rowTaken, if_neg (by rw [straight]; exact Bool.false_ne_true)]
        rfl
      · rw [shows, rowTaken, if_pos turned]
        dsimp only
        cases freeing s.eif[a] <;> rfl
      · rw [taps, tapped, if_neg (by rw [show (rowCounted s a).taps = s.taps from rfl, untapped]; exact Bool.false_ne_true)]
        rfl
      · have both : (r.tap && (rowCounted s a).taps[(⟨a.val, by omega⟩ : TapId)].armed) = true := by
          rw [taps_, show (rowCounted s a).taps = s.taps from rfl, armed]; rfl
        rw [taps, tapped, if_pos both, tapAdd_adds]
        exact ⟨rfl, rfl, rfl⟩

end Sys2Proof.Machine
end

section
set_option Elab.async false -- one proof after another: this bounds the memory that a check of the whole text takes
/-! PROOFS. Work-list items start on their agents (R37, R83, R235, R245). -/

namespace Sys2Proof.Machine

/-- A channel's progress shows on it, and wakes its domain. -/
theorem progress_chan (s : State) (h : ChanId) :
    progress s (.chan h) = { s with mov := (modAg s (.chan h) (fun g => { g with progressed := true, wait := none })).mov
                                    pwr := (progress s (.chan h)).pwr } ∧
      (progress s (.chan h)).mov.chans[h] = { s.mov.chans[h] with ag := { s.mov.chans[h].ag with progressed := true, wait := none } } := by
  have same : progress s (.chan h) = { s with
      mov := (modAg s (.chan h) (fun g => { g with progressed := true, wait := none })).mov, pwr := (progress s (.chan h)).pwr } := by
    unfold progress
    rw [touchAg_eq]
    rfl
  refine ⟨same, ?_⟩
  rw [same]
  exact modChan_self s h (fun x => { x with ag := { x.ag with progressed := true, wait := none } })

section Start

variable {s : State} {w : WorkItem} {rest : List WorkItem} {c : CoreId} {h : ChanId} {a : EaId}

theorem itemStart_core (items : (agOf s (.core c)).items = w :: rest) (may : canStart s (.core c) = true) (due : itemDue s w = true) :
    exec (.itemStart (.core c)) s = .next (modEa (progress (modCore s c (fun x => startCore x w rest)) (.core c)) (eaOf c)
      (fun x => { x with portA := clearPos x.portA c, portB := clearPos x.portB c })) := by
  rw [show exec (.itemStart (.core c)) s = execItemStart (.core c) s from rfl, execItemStart, items]
  dsimp only
  rw [if_pos (by rw [may, due]; rfl)]

theorem itemStart_chan (items : (agOf s (.chan h)).items = w :: rest) (may : canStart s (.chan h) = true) (due : itemDue s w = true) :
    exec (.itemStart (.chan h)) s = .next (if s.mov.chans[h].st = .fenced then modChan s h (fun x => { x with ag := { x.ag with items := rest } })
      else progress (modChan s h (fun x => startChan x h w rest)) (.chan h)) := by
  rw [show exec (.itemStart (.chan h)) s = execItemStart (.chan h) s from rfl, execItemStart, items]
  dsimp only
  rw [if_pos (by rw [may, due]; rfl)]

theorem itemStart_ea (items : (agOf s (.ea a)).items = w :: rest) (may : canStart s (.ea a) = true) (due : itemDue s w = true) :
    exec (.itemStart (.ea a)) s = .next (progress (modEa s a (fun x => startEa x w rest)) (.ea a)) := by
  rw [show exec (.itemStart (.ea a)) s = execItemStart (.ea a) s from rfl, execItemStart, items]
  dsimp only
  rw [if_pos (by rw [may, due]; rfl)]

/-- A channel that starts an item takes it from its work list. -/
theorem startChan_items (x : Chan) : (startChan x h w rest).ag.items = rest := by
  unfold startChan; dsimp only
  split
  · split
    · rfl
    · unfold acceptRearm
      split <;> rfl
  · rfl

theorem startChan_runs (x : Chan) (plain : isPersistent h = false) : startChan x h w rest =
    { x with ag := { x.ag with items := rest, run := some w.frame, wait := none }, st := .run
             list := some { first := fldN w.item.fields 0 13, count := fldN w.item.fields 13 12 + 1, idx := 0 } } :=
  if_neg (by rw [plain]; exact Bool.false_ne_true)

end Start

/-- Settles O28: each agent takes its item in its own way, and nothing else moves. -/
theorem itemsStartOnTheirAgents : Obligations.ItemsStartOnTheirAgents := by
  intro s ag w rest items may due
  cases ag with
  | core c =>
    obtain ⟨only, shows⟩ := progress_core (modCore s c (fun x => startCore x w rest)) c
    rw [modCore_self] at shows
    refine ⟨_, itemStart_core items may due, .ofMem ?_, ?_, fun k hk => ?_, nofun, nofun⟩
    · rw [modEa_mem, progress_mem, modCore_mem]
    · rw [modEa_cnt, progress_cnt, modCore_cnt]
    · cases hk
      rw [modEa_cores, shows]
      refine ⟨rfl, rfl, rfl, rfl, rfl, rfl, rfl, rfl, rfl, rfl, rfl, rfl, rfl, rfl, fun k other => ?_⟩
      exact (only.2.1 k other).trans (modCore_other s c _ k other)
  | chan h =>
    by_cases fenced : s.mov.chans[h].st = .fenced
    · refine ⟨_, (itemStart_chan items may due).trans (congrArg Host.Outcome.next (if_pos fenced)), .ofMem rfl, rfl, nofun, nofun,
        fun k hk => ?_⟩
      cases hk
      exact ⟨rfl, by rw [modChan_self], fun _ => rfl, fun live => absurd fenced live⟩
    · obtain ⟨rest_, shows⟩ := progress_chan (modChan s h (fun x => startChan x h w rest)) h
      rw [modChan_self] at shows
      refine ⟨_, (itemStart_chan items may due).trans (congrArg Host.Outcome.next (if_neg fenced)), .ofMem (by rw [rest_]; rfl),
        by rw [rest_]; rfl, nofun, nofun, fun k hk => ?_⟩
      cases hk
      refine ⟨by rw [rest_]; rfl, by rw [shows]; exact startChan_items _, fun is => absurd is fenced, fun _ plain => ?_⟩
      rw [shows, startChan_runs _ plain]
      exact ⟨rfl, rfl⟩
  | ea a =>
    obtain ⟨only, shows⟩ := progress_ea (modEa s a (fun x => startEa x w rest)) a
    have whole := (modEa_only s a (fun x => startEa x w rest)).trans only
    rw [modEa_self] at shows
    refine ⟨_, itemStart_ea items may due, .ofMem whole.mem, whole.cnt, nofun, fun b hb => ?_, nofun⟩
    cases hb
    rw [shows]
    exact ⟨whole, rfl, rfl, rfl, rfl, rfl⟩

end Sys2Proof.Machine
end

section
set_option Elab.async false -- one proof after another: this bounds the memory that a check of the whole text takes
/-! PROOFS. Power domains: entering, waking, forcing, and store ports that close (R292, R398, R401, R402, R404). -/

namespace Sys2Proof.Machine

/-! ### What a change of a domain's state leaves -/

/-- Between `s` and `t` the power block's part of domain `d` and ports have changed, and no byte. -/
def OnlyDom (d : DomId) (s t : State) : Prop :=
  t = { s with pwr := t.pwr, mem := t.mem } ∧ KeepsStores s t ∧ ∀ e : DomId, e ≠ d → t.pwr.dom[e] = s.pwr.dom[e]

namespace OnlyDom

variable {d : DomId} {s t u : State}

theorem refl (d : DomId) (s : State) : OnlyDom d s s := ⟨rfl, .refl s, fun _ _ => rfl⟩

theorem trans (h : OnlyDom d s t) (k : OnlyDom d t u) : OnlyDom d s u := by
  obtain ⟨hrest, hbytes, hdoms⟩ := h
  obtain ⟨krest, kbytes, kdoms⟩ := k
  exact ⟨by rw [krest, hrest], hbytes.trans kbytes, fun e he => (kdoms e he).trans (hdoms e he)⟩

theorem modDom (s : State) (d : DomId) (f : Dom → Dom) : OnlyDom d s (modDom s d f) :=
  ⟨rfl, .same rfl rfl, fun e he => modDom_other s d f e he⟩

theorem modPort (s : State) (d : DomId) (st : StoreId) (f : Port → Port) : OnlyDom d s (modPort s st f) := by
  refine ⟨?_, modPort_keeps s st f, fun e _ => ?_⟩
  · cases st <;> rfl
  · cases st <;> rfl

theorem setDomState (s : State) (d : DomId) (p : PState) : OnlyDom d s (setDomState s d p) := by
  unfold Machine.setDomState
  split
  · exact modPort ..
  split
  · exact modPort ..
  · exact modDom ..

theorem beginEntry (s : State) (d : DomId) : OnlyDom d s (beginEntry s d) := (setDomState s d .entering).trans (modDom ..)

theorem bytes (h : OnlyDom d s t) : SameBytes s t := .ofKeeps h.2.1

end OnlyDom

/-! ### The state of a domain -/

section Dom

variable (s : State) (d : DomId)

theorem domState_setDomState (p : PState) : domState (setDomState s d p) d = p := by
  unfold domState setDomState
  by_cases bank : 11 ≤ d.val ∧ d.val < 19
  · simp [bank, modPort]
  · by_cases arr : d.val = 20
    · simp [arr, modPort]
    · simp only [bank, arr, dif_neg, if_neg, not_false_eq_true]
      rw [modDom_self]

theorem domState_modDom {f : Dom → Dom} (keeps : ∀ x, (f x).ps = x.ps) (e : DomId) : domState (modDom s d f) e = domState s e := by
  unfold domState
  split
  · rfl
  split
  · rfl
  · by_cases same : e = d
    · rw [same, modDom_self, keeps]
    · rw [modDom_other s d f e same]

theorem domState_modPort (st : StoreId) {f : Port → Port} (keeps : ∀ x, (f x).ps = x.ps) : domState (modPort s st f) d = domState s d := by
  unfold domState
  cases st with
  | ds =>
    split
    · rfl
    split
    · exact keeps _
    · rfl
  | ns g =>
    split
    · rename_i bank
      by_cases same : g.val = d.val - 11
      · simp [modPort, same, keeps]
      · simp [modPort, same]
    · rfl

theorem domUp_modDom {f : Dom → Dom} (keeps : ∀ x, (f x).ps = x.ps) (e : DomId) : domUp (modDom s d f) e = domUp s e := by
  rw [domUp, domUp, domState_modDom s d keeps]

theorem domUp_modPort (st : StoreId) {f : Port → Port} (keeps : ∀ x, (f x).ps = x.ps) : domUp (modPort s st f) d = domUp s d := by
  rw [domUp, domUp, domState_modPort s d st keeps]

/-- A domain's own part is untouched but for its state. -/
theorem setDomState_dom (p : PState) : ∃ q, (setDomState s d p).pwr.dom[d] = { s.pwr.dom[d] with ps := q } := by
  unfold setDomState
  split
  · exact ⟨_, rfl⟩
  split
  · exact ⟨_, rfl⟩
  · exact ⟨_, modDom_self ..⟩

/-- A domain that begins to enter shows it, and has its entry cycles before it. -/
theorem beginEntry_enters : domState (beginEntry s d) d = .entering ∧ (beginEntry s d).pwr.dom[d].timer = 32 ∧
    (beginEntry s d).pwr.dom[d].forced = s.pwr.dom[d].forced ∧ (beginEntry s d).pwr.dom[d].goal = s.pwr.dom[d].goal ∧
    (beginEntry s d).pwr.dom[d].cap = s.pwr.dom[d].cap ∧ (beginEntry s d).pwr.dom[d].until_ = s.pwr.dom[d].until_ := by
  obtain ⟨q, own⟩ := setDomState_dom s d .entering
  unfold beginEntry
  rw [domState_modDom _ _ (by exact fun _ => rfl), domState_setDomState, modDom_self, own]
  exact ⟨rfl, rfl, rfl, rfl, rfl, rfl⟩

theorem modPort_dom (st : StoreId) (f : Port → Port) : (modPort s st f).pwr.dom[d] = s.pwr.dom[d] := by cases st <;> rfl

end Dom

/-! ### Entering and waking -/

section Enter

variable {s : State} {d : DomId} {k : Nat}

theorem enterState_only (s : State) (d : DomId) (k : Nat) : OnlyDom d s (enterState s d k) := by
  unfold enterState
  split
  · exact .refl ..
  split
  · split
    · exact .setDomState ..
    · exact .refl ..
  dsimp only
  split
  · exact (OnlyDom.modDom ..).trans (.modPort ..)
  · exact (OnlyDom.modDom ..).trans (.beginEntry ..)

theorem enterState_port (deep : 2 ≤ k) (up : domUp s d = true) {st : StoreId} (store : domStore d = some st) : enterState s d k =
    modPort (modDom s d (fun x => { x with goal := stateOf k })) st (fun p => { p with closing := true }) := by
  rw [enterState, if_neg (by rw [up]; simp; omega), if_neg (by omega), store]

theorem enterState_bare (deep : 2 ≤ k) (up : domUp s d = true) (store : domStore d = none) : enterState s d k =
    beginEntry (modDom s d (fun x => { x with goal := stateOf k })) d := by
  rw [enterState, if_neg (by rw [up]; simp; omega), if_neg (by omega), store]

theorem enterState_stays (s : State) (d : DomId) : enterState s d 0 = s := if_pos (.inl rfl)

theorem enterState_down (down : domUp s d = false) : enterState s d k = s := if_pos (.inr down)

theorem enterState_one (up : domUp s d = true) :
    enterState s d 1 = if domState s d = .active then setDomState s d .gated else s := by
  rw [enterState, if_neg (by rw [up]; decide), if_pos rfl]

theorem enterState_gates (active : domState s d = .active) : domState (enterState s d 1) d = .gated := by
  have up : domUp s d = true := by rw [domUp, active]; rfl
  rw [enterState_one up, if_pos active, domState_setDomState]

/-- A domain that is to enter RETAIN or OFF waits for its store's port, or begins its entry. -/
theorem enterState_goes (deep : 2 ≤ k) (up : domUp s d = true) : (enterState s d k).pwr.dom[d].goal = stateOf k ∧
    (∀ st, domStore d = some st → (portOf (enterState s d k) st).closing = true) ∧
    (domStore d = none → domState (enterState s d k) d = .entering ∧ (enterState s d k).pwr.dom[d].timer = 32) := by
  cases store : domStore d with
  | some st =>
    rw [enterState_port deep up store]
    refine ⟨by rw [modPort_dom, modDom_self], fun q hq => ?_, nofun⟩
    cases hq
    rw [portOf_modPort_self]
  | none =>
    rw [enterState_bare deep up store]
    obtain ⟨enters, timer, -, goal, -, -⟩ := beginEntry_enters (modDom s d (fun x => { x with goal := stateOf k })) d
    exact ⟨by rw [goal, modDom_self], nofun, fun _ => ⟨enters, timer⟩⟩

/-- Entering a state leaves the plan's part of a domain. -/
theorem enterState_plan (s : State) (d : DomId) (k : Nat) : (enterState s d k).pwr.dom[d].cap = s.pwr.dom[d].cap ∧
    (enterState s d k).pwr.dom[d].until_ = s.pwr.dom[d].until_ := by
  cases up : domUp s d with
  | false => rw [enterState_down up]; exact ⟨rfl, rfl⟩
  | true =>
    match k with
    | 0 => exact ⟨rfl, rfl⟩
    | 1 =>
      rw [enterState_one up]
      split
      · obtain ⟨q, own⟩ := setDomState_dom s d .gated
        rw [own]
        exact ⟨rfl, rfl⟩
      · exact ⟨rfl, rfl⟩
    | k + 2 =>
      cases store : domStore d with
      | some st =>
        rw [enterState_port (by omega) up store, modPort_dom, modDom_self]
        exact ⟨rfl, rfl⟩
      | none =>
        rw [enterState_bare (by omega) up store]
        obtain ⟨-, -, -, -, cap, until_⟩ := beginEntry_enters (modDom s d (fun x => { x with goal := stateOf (k + 2) })) d
        rw [cap, until_, modDom_self]
        exact ⟨rfl, rfl⟩

theorem beginWake_gated (gated : domState s d = .gated) : beginWake s d = setDomState s d .active := by rw [beginWake, gated]

theorem beginWake_deep (deep : domState s d = .retain ∨ domState s d = .off) :
    beginWake s d = modDom (setDomState s d .waking) d (fun x => { x with timer := exitOf (depthOf x.goal) }) := by
  rcases deep with h | h
  · rw [beginWake, h]
  · rw [beginWake, h]

theorem beginWake_wakes (deep : domState s d = .retain ∨ domState s d = .off) :
    OnlyDom d s (beginWake s d) ∧ domState (beginWake s d) d = .waking ∧
      (beginWake s d).pwr.dom[d].timer = exitOf (depthOf s.pwr.dom[d].goal) := by
  obtain ⟨q, own⟩ := setDomState_dom s d .waking
  rw [beginWake_deep deep, domState_modDom _ _ (by exact fun _ => rfl), domState_setDomState, modDom_self, own]
  exact ⟨(OnlyDom.setDomState ..).trans (.modDom ..), rfl, rfl⟩

end Enter

/-! ### Intervals, wakes, closing ports -/

section Plan

variable {s : State} {d : DomId}

/-- The interval that begins sets its domain's bounds and lets it enter its state. -/
theorem powerIntervalStart_begins (runs : s.u.state = .running) (planned : s.pwr.dom[d].planned = true) {i : PlanIv}
    (begins : (domPlan s d).find? (fun i => i.a = s.fr.cyc) = some i) :
    exec (.powerIntervalStart d) s = .next (enterState (modDom s d (fun x => { x with
      cap := BitVec.ofNat 3 i.cap, until_ := if i.idle then none else some i.b })) d (planState s (domPlan s 20) d i)) := by
  rw [show exec (.powerIntervalStart d) s = execPowerIntervalStart d s from rfl, execPowerIntervalStart,
    if_neg (by rw [runs, planned]; decide), begins]

theorem powerIntervalStart_none (runs : s.u.state = .running) (planned : s.pwr.dom[d].planned = true)
    (begins : (domPlan s d).find? (fun i => i.a = s.fr.cyc) = none) : exec (.powerIntervalStart d) s = .next s := by
  rw [show exec (.powerIntervalStart d) s = execPowerIntervalStart d s from rfl, execPowerIntervalStart,
    if_neg (by rw [runs, planned]; decide), begins]

/-- A domain whose interval ends no later than its exit wakes. -/
theorem wake_gated {b : Nat} (runs : s.u.state = .running) (ends : s.pwr.dom[d].until_ = some b) (gated : domState s d = .gated)
    (due : b ≤ s.fr.cyc + 4) : exec (.wake d) s = .next (beginWake s d) := by
  refine congrArg Host.Outcome.next (if_pos ?_)
  simp only [ends, runs, gated, exitOf, Bool.and_eq_true, Bool.or_eq_true, decide_eq_true_eq]
  exact ⟨trivial, .inl due⟩

theorem wake_deep {b : Nat} (runs : s.u.state = .running) (ends : s.pwr.dom[d].until_ = some b)
    (deep : domState s d = .retain ∨ domState s d = .off) (due : b ≤ s.fr.cyc + exitOf (depthOf s.pwr.dom[d].goal)) :
    exec (.wake d) s = .next (beginWake s d) := by
  refine congrArg Host.Outcome.next (if_pos ?_)
  rcases deep with h | h
  · simp only [ends, runs, h, Bool.and_eq_true, Bool.or_eq_true, decide_eq_true_eq]
    exact ⟨trivial, .inl due⟩
  · simp only [ends, runs, h, Bool.and_eq_true, Bool.or_eq_true, decide_eq_true_eq]
    exact ⟨trivial, .inl due⟩

theorem gatedAfterIdle_gates (low : d.val ≠ 0) (stopped : s.u.state ≠ .running) (sound : s.u.state ≠ .fenced)
    (active : domState s d = .active) (free : s.pwr.dom[d].forced = none) :
    exec (.gatedAfterIdle d) s = .next (setDomState s d .gated) :=
  congrArg Host.Outcome.next (if_pos ⟨low, stopped, sound, active, free⟩)

/-- The domains of a store that are to enter, once its port is closed, begin to. -/
theorem portClose_closes {st : StoreId} (closing : (portOf s st).closing = true) (held : (portOf s st).hold = 0)
    (landed : inFlight s st = 0) : exec (.portClose st) s =
      .next (((storeDoms st).filter (fun d => decide ((modPort s st (fun p => { p with isOpen := false, closing := false })).pwr.dom[d].goal ≠ .active)
        && domUp (modPort s st (fun p => { p with isOpen := false, closing := false })) d)).foldl beginEntry
          (modPort s st (fun p => { p with isOpen := false, closing := false }))) :=
  congrArg Host.Outcome.next (if_pos (by rw [closing, held, landed]; rfl))

end Plan

/-! ### Several domains that enter -/

theorem portOf_modPort_ps (s : State) (st q : StoreId) (p : PState) :
    ∃ r, portOf (modPort s st (fun x => { x with ps := p })) q = { portOf s q with ps := r } := by
  by_cases same : q = st
  · rw [same]
    exact ⟨p, portOf_modPort_self ..⟩
  · rw [portOf_modPort_other s _ same]
    exact ⟨_, rfl⟩

/-- A port keeps everything but its state when a domain's state is set. -/
theorem setDomState_port (s : State) (d : DomId) (p : PState) (st : StoreId) :
    ∃ r, portOf (setDomState s d p) st = { portOf s st with ps := r } := by
  unfold setDomState
  split
  · exact portOf_modPort_ps ..
  split
  · exact portOf_modPort_ps ..
  · exact ⟨_, by rw [portOf_ofMem (modDom_mem ..)]⟩

theorem domState_setDomState_other (s : State) {d e : DomId} (p : PState) (h : e ≠ d) : domState (setDomState s d p) e = domState s e := by
  have apart : e.val ≠ d.val := fun he => h (Fin.ext he)
  unfold setDomState
  by_cases bank : 11 ≤ d.val ∧ d.val < 19
  · rw [dif_pos bank]
    unfold domState
    by_cases own : 11 ≤ e.val ∧ e.val < 19
    · have other : d.val - 11 ≠ e.val - 11 := by omega
      simp [own, modPort, other]
    · simp only [own, dif_neg, not_false_eq_true]
      rfl
  · rw [dif_neg bank]
    by_cases arr : d.val = 20
    · rw [if_pos arr]
      unfold domState
      have other : e.val ≠ 20 := by omega
      simp only [other, if_false]
      rfl
    · rw [if_neg arr]
      unfold domState
      rw [modDom_other s d _ e h]
      rfl

theorem domState_beginEntry_other (s : State) {d e : DomId} (h : e ≠ d) : domState (beginEntry s d) e = domState s e := by
  rw [beginEntry, domState_modDom _ _ (by exact fun _ => rfl), domState_setDomState_other s _ h]

/-- Domains that begin to enter one after another show it, and change nothing else. -/
theorem foldl_beginEntry : ∀ (ds : List DomId) (s : State),
    (ds.foldl beginEntry s = { s with pwr := (ds.foldl beginEntry s).pwr, mem := (ds.foldl beginEntry s).mem }) ∧
      KeepsStores s (ds.foldl beginEntry s) ∧ (∀ st, ∃ r, portOf (ds.foldl beginEntry s) st = { portOf s st with ps := r }) ∧
      (∀ d, d ∉ ds → domState (ds.foldl beginEntry s) d = domState s d ∧ (ds.foldl beginEntry s).pwr.dom[d] = s.pwr.dom[d]) ∧
      (ds.Nodup → ∀ d ∈ ds, domState (ds.foldl beginEntry s) d = .entering ∧ (ds.foldl beginEntry s).pwr.dom[d].timer = 32)
  | [], s => ⟨rfl, .refl s, fun _ => ⟨_, rfl⟩, fun _ _ => ⟨rfl, rfl⟩, fun _ d hd => absurd hd List.not_mem_nil⟩
  | e :: ds, s => by
    obtain ⟨rest, bytes, ports, others, enter⟩ := foldl_beginEntry ds (beginEntry s e)
    obtain ⟨rest1, bytes1, others1⟩ := OnlyDom.beginEntry s e
    rw [List.foldl_cons]
    refine ⟨by rw [rest, rest1], bytes1.trans bytes, fun st => ?_, fun d hd => ?_, fun nodup d hd => ?_⟩
    · obtain ⟨r, h⟩ := ports st
      obtain ⟨q, h1⟩ := setDomState_port s e .entering st
      exact ⟨r, by rw [h, beginEntry, portOf_ofMem (modDom_mem ..), h1]⟩
    · obtain ⟨apart, notin⟩ := not_or.mp (fun h => hd (List.mem_cons.mpr h))
      obtain ⟨state, dom⟩ := others d notin
      exact ⟨by rw [state, domState_beginEntry_other s apart], by rw [dom, others1 d apart]⟩
    · obtain ⟨fresh, nodup⟩ := List.nodup_cons.mp nodup
      rcases List.mem_cons.mp hd with rfl | hd
      · obtain ⟨state, dom⟩ := others d fresh
        obtain ⟨enters, timer, -⟩ := beginEntry_enters s d
        exact ⟨by rw [state, enters], by rw [dom, timer]⟩
      · exact enter nodup d hd

theorem storeDoms_nodup (st : StoreId) : (storeDoms st).Nodup := by
  cases st with
  | ns g => exact List.nodup_singleton _
  | ds => decide

/-- Settles O45: each event moves its domains as the plan says. -/
theorem domainsFollowThePlan : Obligations.DomainsFollowThePlan := by
  refine ⟨fun s d runs planned => ⟨powerIntervalStart_none runs planned, fun i begins => ?_⟩, fun s => ⟨fun d b runs ends => ⟨?_, ?_⟩, ?_, ?_, ?_⟩⟩
  · obtain ⟨v, hv⟩ : ∃ v, v = modDom s d (fun x => { x with cap := BitVec.ofNat 3 i.cap, until_ := if i.idle then none else some i.b }) := ⟨_, rfl⟩
    have state : domState v d = domState s d := by rw [hv]; exact domState_modDom s d (by exact fun _ => rfl) d
    have up : domUp v d = domUp s d := by rw [domUp, domUp, state]
    have own : v.pwr.dom[d] = { s.pwr.dom[d] with cap := BitVec.ofNat 3 i.cap, until_ := if i.idle then none else some i.b } := by
      rw [hv, modDom_self]
    have only : OnlyDom d s v := hv ▸ OnlyDom.modDom ..
    have run := powerIntervalStart_begins runs planned begins
    rw [← hv] at run
    intro k
    have whole := only.trans (enterState_only v d k)
    obtain ⟨cap, until_⟩ := enterState_plan v d k
    refine ⟨_, run, whole.1, whole.bytes, by rw [cap, own], by rw [until_, own], whole.2.2, fun zero => ?_, fun one active => ?_,
      fun deep is => ?_⟩
    · rw [show planState s (domPlan s 20) d i = 0 from zero, enterState_stays, state]
    · rw [show planState s (domPlan s 20) d i = 1 from one, enterState_gates (state.trans active)]
    · obtain ⟨goal, port, bare⟩ := enterState_goes deep (up.trans is)
      refine ⟨goal, ?_⟩
      cases store : domStore d with
      | some st => exact port st store
      | none => exact bare store
  · intro gated due
    refine ⟨_, (wake_gated runs ends gated due).trans (by rw [beginWake_gated gated]), domState_setDomState .., ?_, ?_⟩
    · exact (OnlyDom.setDomState ..).1
    · exact (OnlyDom.setDomState ..).bytes
  · intro deep due
    obtain ⟨only, state, timer⟩ := beginWake_wakes deep
    exact ⟨_, wake_deep runs ends deep due, state, timer, only.1, only.bytes⟩
  · intro d low stopped sound active free
    exact ⟨_, gatedAfterIdle_gates low stopped sound active free, domState_setDomState .., (OnlyDom.setDomState ..).1,
      (OnlyDom.setDomState ..).bytes⟩
  · intro runs d
    exact congrArg Host.Outcome.next (if_neg (fun ⟨_, stopped, _⟩ => stopped runs))
  · intro st closing
    refine ⟨fun held landed => ?_, fun waits => ?_⟩
    · obtain ⟨v, hv⟩ : ∃ v, v = modPort s st (fun p => { p with isOpen := false, closing := false }) := ⟨_, rfl⟩
      have only : OnlyDom 0 s v := hv ▸ OnlyDom.modPort ..
      have run := portClose_closes closing held landed
      rw [← hv] at run
      obtain ⟨rest, bytes, ports, -, enter⟩ := foldl_beginEntry
        ((storeDoms st).filter (fun d => decide (v.pwr.dom[d].goal ≠ .active) && domUp v d)) v
      obtain ⟨r, port⟩ := ports st
      have shut : portOf v st = { portOf s st with isOpen := false, closing := false } := by rw [hv, portOf_modPort_self]
      rw [shut] at port
      refine ⟨_, run, by rw [port], by rw [port], by rw [rest, only.1], .ofKeeps (only.2.1.trans bytes), fun d hd goal up => ?_⟩
      refine enter ((storeDoms_nodup st).filter _) d (List.mem_filter.mpr ⟨hd, ?_⟩)
      have same : v.pwr.dom[d] = s.pwr.dom[d] := by rw [hv]; exact modPort_dom ..
      have works : domUp v d = true := by rw [hv, domUp_modPort s d st (by exact fun _ => rfl), up]
      simp only [same, works, Bool.and_true, decide_eq_true_eq]
      exact goal
    · refine congrArg Host.Outcome.next (if_neg ?_)
      simp only [Bool.and_eq_true, decide_eq_true_eq]
      rintro ⟨⟨-, held⟩, landed⟩
      omega

end Sys2Proof.Machine
end

section
set_option Elab.async false -- one proof after another: this bounds the memory that a check of the whole text takes
/-! PROOFS. Commands of the window: slot loads, forced domains, fuse writes, DETACH (R120, R346, R347, R351, R366, R455, R456,
R459). -/

namespace Sys2Proof.Machine

/-! ### Commands -/

theorem command_takes {s : State} (takes : TakesCommand s) (f : State → State) : command s f = f s := by
  obtain ⟨aon, alive, free⟩ := takes
  rw [command, if_neg (by rw [aon, alive]; decide), if_neg (by rw [free]; decide)]

theorem cmdDone_done (s : State) (code result : Nat) : Done (cmdDone s code result) code result :=
  ⟨rfl, rfl, rfl, rfl, hasEvent_raiseEvt ..⟩

theorem cmdDone_rest (s : State) (code result : Nat) :
    cmdDone s code result = { s with cmd := (cmdDone s code result).cmd, u := (cmdDone s code result).u } := rfl

theorem cmdRefuse_done (s : State) (code : Nat) (e : Err) (detail : Nat) : Done (cmdRefuse s code e detail) code e.value :=
  cmdDone_done ..

theorem cmdRefuse_rest (s : State) (code : Nat) (e : Err) (detail : Nat) : cmdRefuse s code e detail =
    { s with cmd := (cmdRefuse s code e detail).cmd, err := (cmdRefuse s code e detail).err, u := (cmdRefuse s code e detail).u } := by
  unfold cmdRefuse logRefused
  rw [logAt_eq, cmdDone_rest]

theorem presentAt_rest (s : State) (t : Fin 15) (m : Fin 45) (p : Part) (n : Nat) :
    presentAt s t m p n = { s with xb := (presentAt s t m p n).xb, pwr := (presentAt s t m p n).pwr } := by
  unfold presentAt
  rw [presents_eq]

theorem presentAt_woken (s : State) (t : Fin 15) (m : Fin 45) (p : Part) (n : Nat) : OnlyWoken s (presentAt s t m p n) :=
  (touchDom_woken s 1).trans (.same rfl)

/-! ### Slot loads and forced domains -/

section Slot

variable {s : State} {p : Part} {code : Nat} {f : State → State}

theorem slotCommand_ready (takes : TakesCommand s) (ready : s.u.state = .ready) : slotCommand s p code f = f s := by
  rw [slotCommand, command_takes takes]
  exact if_pos ready

theorem slotCommand_busy (takes : TakesCommand s) (runs : s.u.state = .running) (task : taskRuns s p = true) :
    slotCommand s p code f = cmdRefuse s code .routeBusy 0 := by
  rw [slotCommand, command_takes takes]
  dsimp only
  rw [if_neg (by rw [runs]; decide), if_neg (by rw [runs]; decide), if_pos task]

end Slot

section Force

variable {s : State} {d : DomId} {n : BitVec 5} {cap : BitVec 2}

/-- The port of a domain's store shut. -/
def portShut (s : State) (d : DomId) : State :=
  match domStore d with | some st => modPort s st (fun p => { p with isOpen := false }) | none => s

/-- A shut port leaves the domain's own part. -/
theorem portShut_only (s : State) (d : DomId) : OnlyDom d s (portShut s d) ∧ (portShut s d).pwr.dom[d] = s.pwr.dom[d] := by
  unfold portShut
  split
  · exact ⟨.modPort .., modPort_dom ..⟩
  · exact ⟨.refl .., rfl⟩

/-- What PWR_FORCE does to a domain that it may hold at `cap`. -/
def forced (s : State) (d : DomId) (cap : Nat) : State :=
  let s := modDom s d (fun x => { x with forced := some (BitVec.ofNat 2 cap) })
  if cap ≤ 1 then (if domUp s d then setDomState s d (stateOf cap) else beginWake s d)
  else beginEntry (modDom (portShut s d) d (fun x => { x with goal := stateOf cap })) d

theorem pwrForce_holds (takes : TakesCommand s) (ready : s.u.state = .ready) (names : n.toNat = d.val) (low : 0 < d.val)
    (allowed : cap.toNat ≤ deepest s d) : exec (.pwrForce n cap) s = .next (cmdDone (forced s d cap.toNat) 0x70 0) := by
  refine congrArg Host.Outcome.next ((command_takes takes _).trans ?_)
  dsimp only
  rw [if_neg (by rw [ready]; decide), dif_pos ⟨by omega, by omega⟩]
  have named : (⟨n.toNat, by omega⟩ : DomId) = d := Fin.ext names
  rw [named, if_neg (by omega)]
  rfl

theorem pwrForce_refuses (takes : TakesCommand s) (ready : s.u.state = .ready) (names : n.toNat = d.val) (low : 0 < d.val)
    (deep : deepest s d < cap.toNat) : exec (.pwrForce n cap) s = .next (cmdRefuse s 0x70 .pwrPlan 0) := by
  refine congrArg Host.Outcome.next ((command_takes takes _).trans ?_)
  dsimp only
  rw [if_neg (by rw [ready]; decide), dif_pos ⟨by omega, by omega⟩]
  have named : (⟨n.toNat, by omega⟩ : DomId) = d := Fin.ext names
  rw [named, if_pos deep]

/-- A domain held by a command: its cap shows, and it is in that state or enters it. -/
theorem forced_holds (up : domUp s d = true) : OnlyDom d s (forced s d cap.toNat) ∧
    (forced s d cap.toNat).pwr.dom[d].forced = some cap ∧
    domState (forced s d cap.toNat) d = if cap.toNat ≤ 1 then stateOf cap.toNat else .entering := by
  obtain ⟨v, hv⟩ : ∃ v, v = modDom s d (fun x => { x with forced := some (BitVec.ofNat 2 cap.toNat) }) := ⟨_, rfl⟩
  have own : v.pwr.dom[d].forced = some cap := by rw [hv, modDom_self, BitVec.ofNat_toNat, BitVec.setWidth_eq]
  have works : domUp v d = true := by rw [hv, domUp_modDom s d (by exact fun _ => rfl), up]
  have only : OnlyDom d s v := hv ▸ OnlyDom.modDom ..
  unfold forced; dsimp only
  rw [← hv]
  by_cases shallow : cap.toNat ≤ 1
  · rw [if_pos shallow, if_pos shallow, if_pos works, domState_setDomState]
    obtain ⟨q, keeps⟩ := setDomState_dom v d (stateOf cap.toNat)
    exact ⟨only.trans (.setDomState ..), by rw [keeps]; exact own, rfl⟩
  · rw [if_neg shallow, if_neg shallow]
    obtain ⟨shutOnly, same⟩ := portShut_only v d
    generalize portShut v d = w at shutOnly same ⊢
    obtain ⟨enters, -, keeps, -⟩ := beginEntry_enters (modDom w d (fun x => { x with goal := stateOf cap.toNat })) d
    rw [modDom_self] at keeps
    have whole := (only.trans shutOnly).trans ((OnlyDom.modDom w d (fun x => { x with goal := stateOf cap.toNat })).trans (.beginEntry ..))
    have told : (beginEntry (modDom w d (fun x => { x with goal := stateOf cap.toNat })) d).pwr.dom[d].forced = some cap := by
      rw [keeps]; dsimp only; rw [same, own]
    exact ⟨whole, told, enters⟩

end Force

/-- Settles O55: a slot takes its record, and a domain its cap, where the state accepts the command. -/
theorem slotLoadsAndForcedDomains : Obligations.SlotLoadsAndForcedDomains := by
  intro s takes
  refine ⟨fun c k bs => ?_, fun cl k bs ready => ?_, fun d n cap ready names low => ⟨fun allowed up => ?_, fun deep => ?_⟩⟩
  · intro r v
    refine ⟨fun ready sound => ?_, fun runs task => ?_, fun ready => ?_⟩
    · have run : exec (.routeLoad c k (some bs)) s = .next (cmdDone (presentAt v 14 43 0 1) 0x50 0) := by
        refine congrArg Host.Outcome.next ((slotCommand_ready takes ready).trans ?_)
        dsimp only
        rw [show slotCheck (modCore s c fun x => { x with routes := put {} x.routes k.val (slotRecord (slice bs 0 2752)) }) c k.val
          (slotRecord (slice bs 0 2752)) = none from sound]
      have cores : (cmdDone (presentAt v 14 43 0 1) 0x50 0).cores = v.cores := by rw [cmdDone_rest, presentAt_rest]
      refine ⟨_, run, cmdDone_done .., cores, ?_, ?_, ?_⟩
      · rw [cores, modCore_self]
        exact look_put_self ..
      · exact (OnlyWoken.same rfl).trans ((presentAt_woken v 14 43 0 1).trans (.same rfl))
      · rw [cmdDone_rest, presentAt_rest]
        rfl
    · refine ⟨_, congrArg Host.Outcome.next (slotCommand_busy takes runs task), cmdRefuse_done .., cmdRefuse_rest ..⟩
    · refine ⟨_, congrArg Host.Outcome.next (slotCommand_ready takes ready), cmdRefuse_done .., cmdRefuse_rest ..⟩
  · intro w
    refine ⟨fun sound => ?_, fun bad => ?_⟩
    · obtain ⟨v, hv⟩ : ∃ v, v = modCl s cl (fun x => { x with
          whisk := put 0 x.whisk k.val w, whiskLoaded := x.whiskLoaded ||| (1#32 <<< k.val) }) := ⟨_, rfl⟩
      have run : exec (.whiskLoad cl k (some bs)) s = .next (cmdDone (presentAt v 14 43 0 1) 0x51 0) := by
        rw [hv]
        exact congrArg Host.Outcome.next ((slotCommand_ready takes ready).trans (if_pos sound))
      have cls : (cmdDone (presentAt v 14 43 0 1) 0x51 0).cls = v.cls := by rw [cmdDone_rest, presentAt_rest]
      refine ⟨_, run, cmdDone_done .., ?_, ?_, fun j hj => ?_, ?_, ?_⟩
      · rw [cls, hv, modCl_self]
        exact look_put_self ..
      · rw [cls, hv, modCl_self]
        have lt := k.isLt
        show ((s.cls[cl].whiskLoaded ||| (1#32 <<< k.val)).getLsbD k.val) = true
        simp [lt]
      · rw [cls, hv, modCl_other s cl _ j hj]
      · have same : v.pwr = s.pwr := by rw [hv]; rfl
        exact (OnlyWoken.same same).trans ((presentAt_woken v 14 43 0 1).trans (.same rfl))
      · rw [cmdDone_rest, presentAt_rest, hv]
        rfl
    · exact ⟨_, congrArg Host.Outcome.next ((slotCommand_ready takes ready).trans (if_neg (by
        rw [show whiskWordOk (leBits 16384 (slice bs 0 2048)) (whiskWidth s cl k.val) = false from bad]; exact Bool.false_ne_true))),
        cmdRefuse_done .., cmdRefuse_rest ..⟩
  · obtain ⟨only, told, state⟩ := forced_holds (cap := cap) up
    refine ⟨_, pwrForce_holds takes ready names low allowed, cmdDone_done .., told, state, only.bytes, only.2.2, ?_⟩
    generalize forced s d cap.toNat = v at only
    rw [only.1]
    rfl
  · exact ⟨_, pwrForce_refuses takes ready names low deep, cmdRefuse_done .., cmdRefuse_rest ..⟩

end Sys2Proof.Machine
end

section
set_option Elab.async false -- one proof after another: this bounds the memory that a check of the whole text takes
/-! PROOFS. Fuse writes and DETACH (R346, R347, R351, R366). -/

namespace Sys2Proof.Machine

/-! ### Rows written to the fuses -/

/-- The rows of a fuse block with the listed ones replaced. -/
def rowsPut (rows : List (Nat × BitVec 64)) (v : Vector (BitVec 64) 64) : Vector (BitVec 64) 64 :=
  rows.foldl (fun v r => v.mapIdx (fun i x => if i = r.1 then r.2 else x)) v

theorem fuseRows_eq (s : State) (rows : List (Nat × BitVec 64)) : fuseRows s rows = { s with fuse := { s.fuse with
    array := rowsPut rows s.fuse.array, shadow := rowsPut rows s.fuse.shadow, crc := shadowCrc (rowsPut rows s.fuse.shadow).toList } } := rfl

theorem rowsPut_other : ∀ (rows : List (Nat × BitVec 64)) (v : Vector (BitVec 64) 64) (i : Nat) (lt : i < 64), (∀ r ∈ rows, r.1 ≠ i) →
    (rowsPut rows v)[i] = v[i]
  | [], _, _, _, _ => rfl
  | q :: rows, v, i, lt, apart => by
    have rest := rowsPut_other rows (v.mapIdx (fun i x => if i = q.1 then q.2 else x)) i lt (fun r hr => apart r (List.mem_cons_of_mem _ hr))
    refine rest.trans ?_
    rw [Vector.getElem_mapIdx, if_neg (fun e => apart q List.mem_cons_self e.symm)]

theorem rowsPut_mem : ∀ (rows : List (Nat × BitVec 64)) (v : Vector (BitVec 64) 64), (rows.map (·.1)).Nodup → ∀ r ∈ rows, (lt : r.1 < 64) →
    (rowsPut rows v)[r.1] = r.2
  | q :: rows, v, nodup, r, mem, lt => by
    obtain ⟨fresh, nodup⟩ := List.nodup_cons.mp nodup
    rcases List.mem_cons.mp mem with rfl | mem
    · have rest := rowsPut_other rows (v.mapIdx (fun i x => if i = r.1 then r.2 else x)) r.1 lt
        (fun p hp same => fresh (List.mem_map.mpr ⟨p, hp, same⟩))
      refine rest.trans ?_
      rw [Vector.getElem_mapIdx, if_pos rfl]
    · exact rowsPut_mem rows _ nodup r mem lt

theorem fuseGoal_nodup (s : State) (w : FuseWr) : ((fuseGoal s w).map (·.1)).Nodup := by
  cases w with
  | keyHash => exact (by decide : [7, 8, 9, 10, 11, 12].Nodup)
  | _ => exact List.nodup_singleton _

/-! ### The read-back -/

/-- The rows that a read-back shows. -/
def rowsBack (s : State) (w : FuseWr) (back : List (BitVec 64)) : List (Nat × BitVec 64) :=
  (fuseGoal s w).zipIdx.map (fun g => (g.1.1, readRow w g.1.2 (back.getD g.2 g.1.2)))

theorem readRow_goal (w : FuseWr) (v : BitVec 64) : readRow w v v = v := by
  cases w with
  | repair k x => exact if_pos rfl
  | _ => rfl

theorem rowsBack_goal (s : State) (w : FuseWr) : rowsBack s w ((fuseGoal s w).map (·.2)) = fuseGoal s w := by
  unfold rowsBack
  refine List.ext_getElem (by simp) (fun i lt _ => ?_)
  have inside : i < (fuseGoal s w).length := by simpa using lt
  rw [List.getElem_map, List.getElem_zipIdx, Nat.zero_add, List.getD_eq_getElem?_getD, List.getElem?_map,
    List.getElem?_eq_getElem inside, Option.map_some, Option.getD_some, readRow_goal]

/-- The fuses after a write whose rows read back so. -/
def fusesBack (s : State) (w : FuseWr) (rows : List (Nat × BitVec 64)) : State :=
  fuseEnds w (fuseRows { s with fuse := { s.fuse with writing := none } } rows)

theorem fuseWriteDone_ends {s : State} {w : FuseWr} (writing : s.fuse.writing = some w) (back : List (BitVec 64)) :
    exec (.fuseWriteDone back) s = .next (if rowsBack s w back = fuseGoal s w then cmdDone (fusesBack s w (rowsBack s w back)) (fuseCode w) 0
      else cmdRefuse (fusesBack s w (rowsBack s w back)) (fuseCode w) .fuseWrite 0) := by
  rw [show exec (.fuseWriteDone back) s = execFuseWriteDone back s from rfl, execFuseWriteDone, writing]
  rfl

/-- What a fuse write's end changes besides its rows is the proposal and a TAP session. -/
theorem fusesBack_fuse (s : State) (w : FuseWr) (rows : List (Nat × BitVec 64)) :
    (fusesBack s w rows).fuse.writing = none ∧ (fusesBack s w rows).fuse.array = rowsPut rows s.fuse.array ∧
      (fusesBack s w rows).fuse.shadow = rowsPut rows s.fuse.shadow ∧
      (fusesBack s w rows).fuse.crc = shadowCrc (rowsPut rows s.fuse.shadow).toList ∧
      fusesBack s w rows = { s with fuse := (fusesBack s w rows).fuse, u := (fusesBack s w rows).u, tapSession := (fusesBack s w rows).tapSession } := by
  unfold fusesBack
  rw [fuseRows_eq]
  unfold fuseEnds
  split
  · exact ⟨rfl, rfl, rfl, rfl, rfl⟩
  · split
    · exact ⟨rfl, rfl, rfl, rfl, rfl⟩
    · exact ⟨rfl, rfl, rfl, rfl, rfl⟩

/-! ### Commands on the fuses -/

theorem cmdFuseProg_starts {s : State} {w : FuseWr} (takes : TakesCommand s) (at_ : s.u.state = .ready ∨ s.u.state = .configWait)
    (free : w = .keyHash → allZero (keyHash s) = true) :
    cmdFuseProg w s = cmdStart { s with fuse := { s.fuse with writing := some w } } 0x31 := by
  refine (command_takes takes _).trans ((if_neg ?_).trans (if_neg ?_))
  · rintro ⟨h1, h2⟩
    rcases at_ with h | h
    · exact h1 h
    · exact h2 h
  · rintro ⟨h1, h2⟩
    rw [free h1] at h2
    cases h2

theorem cmdFuseProg_refused {s : State} (takes : TakesCommand s) (at_ : s.u.state = .ready ∨ s.u.state = .configWait)
    (used : allZero (keyHash s) = false) : cmdFuseProg .keyHash s = cmdRefuse s 0x31 .fuseWrite 0 := by
  refine (command_takes takes _).trans ((if_neg ?_).trans (if_pos ⟨rfl, used⟩))
  rintro ⟨h1, h2⟩
  rcases at_ with h | h
  · exact h1 h
  · exact h2 h

theorem repairAuth_starts {s : State} {fcrc : Byte} {k : Nat} (takes : TakesCommand s) (alive : s.u.state ≠ .fenced)
    (pending : s.u.repairPend = true) (names : fld s.fuse.pend 56 8 = fcrc) (row : emptyRow s = some k) :
    exec (.repairAuth fcrc) s = .next (cmdStart { s with fuse := { s.fuse with writing := some (.repair k s.fuse.pend) } } 0x30) := by
  refine congrArg Host.Outcome.next ((command_takes takes _).trans ((if_neg alive).trans ((if_neg ?_).trans ?_)))
  · rw [pending, names]
    simp
  · rw [row]

/-- Settles O56: rows are written as they read back, and a unit that detaches keeps its AON domain and its stores. -/
theorem fuseWritesAndDetach : Obligations.FuseWritesAndDetach := by
  intro s
  refine ⟨fun takes at_ => ?_, fun fcrc k takes alive pending names row => repairAuth_starts takes alive pending names row, fun w writing => ?_,
    fun v writing differs => ?_, fun takes => ?_⟩
  · exact ⟨congrArg Host.Outcome.next (cmdFuseProg_starts takes at_ nofun), congrArg Host.Outcome.next (cmdFuseProg_starts takes at_ nofun),
      congrArg Host.Outcome.next (cmdFuseProg_starts takes at_ nofun),
      fun free => congrArg Host.Outcome.next (cmdFuseProg_starts takes at_ (fun _ => free)),
      fun used => ⟨_, congrArg Host.Outcome.next (cmdFuseProg_refused takes at_ used), cmdRefuse_done ..⟩⟩
  · have run := fuseWriteDone_ends writing ((fuseGoal s w).map (·.2))
    rw [rowsBack_goal, if_pos rfl] at run
    obtain ⟨ended, array, shadow, crc, rest⟩ := fusesBack_fuse s w (fuseGoal s w)
    generalize fusesBack s w (fuseGoal s w) = v at run ended array shadow crc rest
    have fuse : (cmdDone v (fuseCode w) 0).fuse = v.fuse := rfl
    refine ⟨_, run, cmdDone_done .., ?_, ?_, fun r mem lt => ?_, fun i apart => ?_, ?_⟩
    · rw [fuse, ended]
    · rw [fuse, crc, shadow]
    · rw [fuse, array, shadow, Vector.getElem?_eq_getElem lt, Vector.getElem?_eq_getElem lt, rowsPut_mem _ _ (fuseGoal_nodup s w) r mem lt,
        rowsPut_mem _ _ (fuseGoal_nodup s w) r mem lt]
      exact ⟨rfl, rfl⟩
    · rw [fuse, array, shadow]
      exact ⟨rowsPut_other _ _ i.val i.isLt apart, rowsPut_other _ _ i.val i.isLt apart⟩
    · rw [rest]
      rfl
  · have run := fuseWriteDone_ends writing [v]
    have rows : rowsBack s .sigRequired [v] = [(0, v)] := rfl
    obtain ⟨-, array, -⟩ := fusesBack_fuse s .sigRequired [(0, v)]
    have apart : [((0 : Nat), v)] ≠ fuseGoal s .sigRequired := fun same => differs (Prod.mk.inj (List.cons.inj same).1).2
    rw [rows, if_neg apart] at run
    refine ⟨_, run, cmdRefuse_done .., ?_⟩
    rw [cmdRefuse_rest, array]
    exact rowsPut_mem [(0, v)] _ (List.nodup_singleton _) (0, v) List.mem_cons_self (Nat.zero_lt_succ 63)
  · refine ⟨_, congrArg Host.Outcome.next (command_takes takes _), cmdDone_done .., rfl, rfl, rfl, rfl, fun d low => ?_, rfl, rfl⟩
    have off : (cmdDone (detachUnit s) 0x32 0).pwr.dom =
      s.pwr.dom.mapIdx (fun i x => if i = 0 then x else { ps := .off }) := rfl
    have apart : d.val ≠ 0 := fun h => low (Fin.ext h)
    rw [off, Fin.getElem_fin, Vector.getElem_mapIdx, if_neg apart]

end Sys2Proof.Machine
end

section
set_option Elab.async false -- one proof after another: this bounds the memory that a check of the whole text takes
/-! PROOFS. What bring-up's steps leave: cleared stores, the unit's state, the pins (R342, R352, R353, R355). -/

namespace Sys2Proof.Machine

/-! ### Cleared stores -/

theorem blankByte_zero {m : Stores} {a : Nat} (h : m.groups[groupOf a].epoch = 0) : blankByte m a = 0 := by
  unfold blankByte
  split
  · rw [h]
  · rfl

theorem blankByte_span {m n : Stores} {a : Nat} (h : n.groups[groupOf a].epoch = m.groups[groupOf a].epoch) :
    blankByte n a = blankByte m a := by
  unfold blankByte
  split
  · rw [h]
  · rfl

theorem epoch_clearGroup_self (m : Stores) (g : GroupId) : (clearGroup m g).groups[g].epoch = 0 := by simp [clearGroup]

theorem epoch_clearGroup_other (m : Stores) {g k : GroupId} (h : k ≠ g) : (clearGroup m g).groups[k].epoch = m.groups[k].epoch := by
  have apart : g.val ≠ k.val := fun e => h (Fin.ext e.symm)
  simp [clearGroup, dropRange, apart]

/-- Byte `a` of a bank group that is cleared. -/
theorem memByte_clearGroup_self (m : Stores) {a : Nat} (ns : a < 0x2000000) : memByte (clearGroup m (groupOf a)) a = 0 := by
  have own : (groupOf a).val = a / 0x400000 % 8 := rfl
  have drop := look_filter_drop (blankByte (clearGroup m (groupOf a)) a) m.mem a
    (fun e => !(decide (0x400000 * (groupOf a).val ≤ e.1) && decide (e.1 < 0x400000 * ((groupOf a).val + 1)))) (fun v => by simp; omega)
  exact drop.trans (blankByte_zero (epoch_clearGroup_self ..))

theorem memByte_clearGroup_other (m : Stores) {g : GroupId} {a : Nat} (h : groupOf a ≠ g) :
    memByte (clearGroup m g) a = memByte m a := by
  have own : (groupOf a).val = a / 0x400000 % 8 := rfl
  have apart : (groupOf a).val ≠ g.val := fun e => h (Fin.ext e)
  have outside : a < 0x400000 * g.val ∨ 0x400000 * (g.val + 1) ≤ a := by omega
  have blank : blankByte (clearGroup m g) a = blankByte (dropRange m (0x400000 * g.val) (0x400000 * (g.val + 1))) a :=
    blankByte_span (epoch_clearGroup_other m h)
  have kept := memByte_dropRange_other m outside
  unfold memByte at kept ⊢
  rw [blank]
  exact kept

/-- Near Store reads as zeros. -/
def NsClear (m : Stores) : Prop := ∀ a, a < 0x2000000 → memByte m a = 0

theorem foldl_clearGroup : ∀ (gs : List GroupId) (m : Stores) (a : Nat), a < 0x2000000 → (groupOf a ∈ gs ∨ memByte m a = 0) →
    memByte (gs.foldl clearGroup m) a = 0
  | [], _, _, _, h => h.resolve_left List.not_mem_nil
  | g :: gs, m, a, ns, h => by
    refine foldl_clearGroup gs (clearGroup m g) a ns ?_
    by_cases same : groupOf a = g
    · rw [← same]
      exact .inr (memByte_clearGroup_self m ns)
    · rcases h with h | h
      · exact .inl ((List.mem_cons.mp h).resolve_left same)
      · exact .inr ((memByte_clearGroup_other m same).trans h)

theorem clearNs_clear (s : State) : NsClear (clearNs s).mem := fun a ns => foldl_clearGroup _ s.mem a ns (.inl (List.mem_finRange _))

theorem NsClear.clearDs {m : Stores} (h : NsClear m) : NsClear (clearDs m) := by
  intro a ns
  exact (memByte_dropRange_other m (.inl (by omega))).trans (h a ns)

/-- Stores with the same bytes and spans are clear together. -/
theorem NsClear.same {m n : Stores} (h : NsClear m) (bytes : n.mem = m.mem) (spans : ∀ g : GroupId, n.groups[g].epoch = m.groups[g].epoch) :
    NsClear n := by
  intro a ns
  have blank : blankByte n a = blankByte m a := blankByte_span (spans (groupOf a))
  unfold memByte
  rw [bytes, blank]
  exact h a ns

theorem NsClear.reads {m : Stores} (h : NsClear m) {a : Nat} (ns : a < 0x2000000) : readByte m a = 0 := by
  have low : isDs a = false := by simp only [isDs, decide_eq_false_iff_not]; omega
  rw [readByte, low]
  exact h a ns

/-- A cleared Deep Store reads as zeros. -/
theorem readByte_clearDs {m : Stores} {a : Nat} (low : 0x40000000 ≤ a) (high : a < 0x80000000) : readByte (clearDs m) a = 0 := by
  have ds : isDs a = true := by simp only [isDs, decide_eq_true_eq]; omega
  have blank : isWritten (clearDs m) (granuleOf a) = false := rfl
  rw [readByte, ds, blank]
  rfl

end Sys2Proof.Machine
end

section
set_option Elab.async false -- one proof after another: this bounds the memory that a check of the whole text takes
/-! PROOFS. Bring-up, unit resets, and the pins that reset (R276, R340 to R355, R359, R412, R467, R468). -/

namespace Sys2Proof.Machine

/-! ### What a UNIT_FATAL error leaves -/

/-- A UNIT_FATAL error fences the unit, and leaves its step, its fuses, its clocks, its pins and its stores. -/
theorem unitFatal_fences (s : State) (e : Err) (d : Nat) : (unitFatal s e d).u.state = .fenced ∧ (unitFatal s e d).u.step = s.u.step ∧
    (unitFatal s e d).fuse = s.fuse ∧ (unitFatal s e d).fr = s.fr ∧ (unitFatal s e d).pwr = s.pwr ∧ (unitFatal s e d).mem = s.mem ∧
    (unitFatal s e d).lnk = s.lnk := by
  have step : (logRun s e locUnit d).u.step = s.u.step := by
    rcases logAt_u s e e.runClass locUnit none d with h | h
    · exact congrArg (·.step) h
    · exact congrArg (·.step) h
  unfold unitFatal; dsimp only
  rw [poisonCtrs_eq]
  dsimp only [absorb]
  refine ⟨rfl, step, ?_, ?_, ?_, ?_, ?_⟩
  · rw [logRun, logAt_eq]
  · rw [logRun, logAt_eq]
  · rw [logRun, logAt_eq]
  · exact logRun_mem ..
  · exact logRun_lnk ..

/-! ### Training, known-answer runs and samples -/

/-- A complete round's ageing taken over. -/
def roundAged (s : State) (d : Nat) : State := { s with pwr := { s.pwr with round := [], monNext := 0, delta := BitVec.ofNat 16 d } }

theorem endRound_eq (s : State) : endRound s = if !baseOk s then { s with pwr := { s.pwr with round := [], monNext := 0 } }
    else if (roundAged s (ageOf s s.pwr.round)).u.state = .running ∧
        margin27 (roundAged s (ageOf s s.pwr.round)) < 27 * ageOf s s.pwr.round then
      reportAged (roundAged s (ageOf s s.pwr.round)) (ageOf s s.pwr.round)
    else roundAged s (ageOf s s.pwr.round) := rfl

/-- What training, known-answer runs and samples leave: the unit's state, its pins, and the bytes of its stores. -/
structure Trains (s t : State) : Prop where
  state : t.u.state = s.u.state
  step : t.u.step = s.u.step
  kat : t.u.katFail = s.u.katFail
  katMov : t.u.katMov = s.u.katMov
  rstN : t.pwr.rstN = s.pwr.rstN
  hold : t.pwr.vresetHold = s.pwr.vresetHold
  bytes : t.mem.mem = s.mem.mem
  spans : ∀ g : GroupId, t.mem.groups[g].epoch = s.mem.groups[g].epoch

namespace Trains

variable {s t u : State}

theorem refl (s : State) : Trains s s := ⟨rfl, rfl, rfl, rfl, rfl, rfl, rfl, fun _ => rfl⟩

theorem trans (h : Trains s t) (k : Trains t u) : Trains s u :=
  ⟨k.state.trans h.state, k.step.trans h.step, k.kat.trans h.kat, k.katMov.trans h.katMov, k.rstN.trans h.rstN, k.hold.trans h.hold,
    k.bytes.trans h.bytes, fun g => (k.spans g).trans (h.spans g)⟩

theorem logRun (s : State) (e : Err) (loc d : Nat) : Trains s (logRun s e loc d) := by
  have same : (Machine.logRun s e loc d).u = s.u ∨ (Machine.logRun s e loc d).u = (raiseEvt s .error).u := logAt_u ..
  have pwr : (Machine.logRun s e loc d).pwr = s.pwr := by rw [Machine.logRun, logAt_eq]
  have mem := logRun_mem s e loc d
  rcases same with h | h
  · exact ⟨by rw [h], by rw [h], by rw [h], by rw [h], by rw [pwr], by rw [pwr], by rw [mem], fun _ => by rw [mem]⟩
  · exact ⟨by rw [h]; rfl, by rw [h]; rfl, by rw [h]; rfl, by rw [h]; rfl, by rw [pwr], by rw [pwr], by rw [mem], fun _ => by rw [mem]⟩

theorem foldl {α : Type} {f : State → α → State} (h : ∀ s x, Trains s (f s x)) : ∀ (xs : List α) (s : State), Trains s (xs.foldl f s)
  | [], s => .refl s
  | x :: xs, s => (h s x).trans (Trains.foldl h xs (f s x))

theorem proposeRow (s : State) (kind arg : Nat) (raise : Bool) : Trains s (proposeRow s kind arg raise) := by
  unfold Machine.proposeRow; dsimp only
  split
  · exact ⟨rfl, rfl, rfl, rfl, rfl, rfl, rfl, fun _ => rfl⟩
  · exact ⟨rfl, rfl, rfl, rfl, rfl, rfl, rfl, fun _ => rfl⟩

theorem proposeGroup (s : State) (i : Nat) : Trains s (proposeGroup s i) := by
  unfold Machine.proposeGroup
  split
  · exact proposeRow ..
  split
  · exact proposeRow ..
  split
  · exact proposeRow ..
  · exact refl _

theorem katGroup (s : State) (i : Nat) : Trains s (katGroup s i) := (Trains.logRun s .katFail locUnit i).trans (proposeGroup ..)

theorem raiseEvt (s : State) (e : Evt) : Trains s (raiseEvt s e) := ⟨rfl, rfl, rfl, rfl, rfl, rfl, rfl, fun _ => rfl⟩

theorem modLink (s : State) (f : Link → Link) : Trains s (modLink s f) := ⟨rfl, rfl, rfl, rfl, rfl, rfl, rfl, fun _ => rfl⟩

theorem ofPwr {p : Power} (rst : p.rstN = s.pwr.rstN) (hold : p.vresetHold = s.pwr.vresetHold) : Trains s { s with pwr := p } :=
  ⟨rfl, rfl, rfl, rfl, rst, hold, rfl, fun _ => rfl⟩

theorem remap (s : State) : Trains s (remap s) := by
  refine ⟨rfl, rfl, rfl, rfl, rfl, rfl, rfl, fun g => ?_⟩
  unfold Machine.remap markGroups
  dsimp only
  rw [Fin.getElem_fin, Vector.getElem_mapFinIdx]
  rfl

theorem reportAged (s : State) (d : Nat) : Trains s (reportAged s d) :=
  Trains.trans (t := { s with pwr := { s.pwr with aged := true, maxClk := BitVec.ofNat 2 (maxClock s d) } }) (ofPwr rfl rfl)
    ((logRun ..).trans (raiseEvt ..))

theorem endRound (s : State) : Trains s (endRound s) := by
  rw [endRound_eq]
  split
  · exact ofPwr rfl rfl
  have aged : Trains s (roundAged s (ageOf s s.pwr.round)) := ofPwr rfl rfl
  split
  · exact aged.trans (reportAged ..)
  · exact aged

theorem takeSample (s : State) (code : BitVec 16) : Trains s (takeSample s code) := by
  have kept : Trains s { s with pwr := { s.pwr with
      mon := s.pwr.mon.mapIdx (fun j x => if j = s.pwr.monNext % 28 then code else x), round := s.pwr.round ++ [code]
      monNext := s.pwr.monNext % 28 + 1 } } := ofPwr rfl rfl
  unfold Machine.takeSample; dsimp only
  split
  · exact kept.trans (endRound _)
  · exact kept

theorem newTxP : ∀ (n : Nat) (s : State), Trains s (newTxP n s)
  | 0, s => refl s
  | n + 1, s => by
    have drawn : Trains s (drawFree s).1 := ⟨rfl, rfl, rfl, rfl, rfl, rfl, rfl, fun _ => rfl⟩
    exact (drawn.trans (modLink ..)).trans (Trains.newTxP n _)

theorem trainLink (s : State) (ok : Bool) (lat : BitVec 16) : Trains s (trainLink s ok lat) := by
  unfold Machine.trainLink
  split
  · exact (modLink ..).trans (logRun ..)
  split
  · exact (modLink ..).trans (logRun ..)
  · exact (newTxP 5 s).trans (modLink ..)

end Trains

/-! ### The steps of a test -/

/-- Step 6 keeps the pins, the stores' bytes and the unit's state, and shows what the known-answer runs found. -/
theorem katStep_runs (r : TestResult) (s : State) :
    Trains { s with u := { s.u with step := 6, katFail := r.katFail, katMov := r.katMov } } (katStep r s) := by
  unfold katStep; dsimp only
  have ran := (Trains.foldl Trains.katGroup ((upto 31).filter (fun i => bitOf r.katFail i) ++ (span 32 8).filter (fun i => bitOf r.katMov (i - 32)))
    { s with u := { s.u with step := 6, katFail := r.katFail, katMov := r.katMov } }).trans (Trains.remap _)
  split
  · exact ran
  · exact ran.trans (Trains.foldl Trains.takeSample ..)

theorem trainStep_trains (r : TestResult) (s : State) : Trains { s with u := { s.u with step := 5 } } (trainStep r s) := by
  unfold trainStep; dsimp only
  split
  · exact .refl _
  · exact (Trains.modLink ..).trans (Trains.trainLink ..)

/-- The pins that hold a unit in reset are as they were. -/
def SamePins (s t : State) : Prop := t.pwr.rstN = s.pwr.rstN ∧ t.pwr.vresetHold = s.pwr.vresetHold

theorem SamePins.trans {s t u : State} (h : SamePins s t) (k : SamePins t u) : SamePins s u := ⟨k.1.trans h.1, k.2.trans h.2⟩

theorem Trains.pins {s t : State} (h : Trains s t) : SamePins s t := ⟨h.rstN, h.hold⟩

theorem SamePins.same {s t : State} (h : t.pwr = s.pwr) : SamePins s t := ⟨by rw [h], by rw [h]⟩

theorem badLane_pwr (failed : List Nat) (g : Fin 32) (s : State) (l : Nat) : (badLane failed g s l).pwr = s.pwr := by
  unfold badLane
  split
  · rfl
  split
  · rw [logRun, logAt_eq]
  split
  · dsimp only
    split
    · rw [(unitFatal_fences ..).2.2.2.2.1, logRun, logAt_eq]
    · rw [logRun, logAt_eq]
  · rfl

theorem foldl_pwr {α : Type} {f : State → α → State} (h : ∀ s x, (f s x).pwr = s.pwr) : ∀ (xs : List α) (s : State), (xs.foldl f s).pwr = s.pwr
  | [], _ => rfl
  | x :: xs, s => (foldl_pwr h xs (f s x)).trans (h s x)

theorem bistStep_pwr (r : TestResult) (s : State) : (bistStep r s).pwr = s.pwr := by
  unfold bistStep; dsimp only
  exact (foldl_pwr (fun s g => foldl_pwr (fun s l => badLane_pwr _ g s l) _ s) _ _).trans rfl

/-- The stores and the unit where a test finds no lane bad. -/
theorem bistStep_sound {r : TestResult} (sound : r.dsBadLanes = []) (s : State) :
    (bistStep r s).u = s.u ∧ NsClear (bistStep r s).mem := by
  have skip : ∀ (gs : List (Fin 32)) (u : State), gs.foldl (fun s g =>
      ((((r.dsBadLanes.filter (fun x => x.1 = g.val ∧ x.2 < 256)).map (fun x => 256 * g.val + x.2)).dedup).foldl
        (badLane (((r.dsBadLanes.filter (fun x => x.1 = g.val ∧ x.2 < 256)).map (fun x => 256 * g.val + x.2)).dedup) g) s)) u = u := by
    intro gs
    induction gs with
    | nil => exact fun _ => rfl
    | cons g gs ih =>
      intro u
      rw [List.foldl_cons, sound]
      rw [sound] at ih
      exact ih u
  unfold bistStep; dsimp only
  rw [skip]
  exact ⟨rfl, (clearNs_clear s).clearDs.same rfl (fun _ => rfl)⟩

theorem enterReady_pins (s : State) : SamePins s (enterReady s) := ⟨rfl, rfl⟩

/-- A unit at READY: its state, its step and its event; its stores keep their bytes. -/
theorem enterReady_ready (s : State) : (enterReady s).u.state = .ready ∧ (enterReady s).u.step = 7 ∧ HasEvent (enterReady s) .ready ∧
    (NsClear s.mem → NsClear (enterReady s).mem) := by
  refine ⟨rfl, rfl, hasEvent_raiseEvt .., fun clear => clear.same rfl (fun g => ?_)⟩
  have groups : (enterReady s).mem.groups = s.mem.groups.mapIdx (fun _ g => { g with port := {} }) := rfl
  rw [groups, Fin.getElem_fin, Vector.getElem_mapIdx]
  rfl

theorem testUnit_pins (r : TestResult) (s : State) : SamePins s (testUnit r s) := by
  have bist : SamePins s (bistStep r { s with u := { s.u with step := 4 } }) := .same (bistStep_pwr ..)
  unfold testUnit; dsimp only
  generalize bistStep r { s with u := { s.u with step := 4 } } = v at bist ⊢
  split
  · exact bist
  · have train := (trainStep_trains r { v with u := { v.u with state := .tested } }).pins
    have kat := (katStep_runs r (trainStep r { v with u := { v.u with state := .tested } })).pins
    generalize katStep r (trainStep r { v with u := { v.u with state := .tested } }) = w at kat ⊢
    exact bist.trans (train.trans (kat.trans (enterReady_pins (endTest w))))

/-- A test that finds no lane bad brings an addressed unit to READY. -/
theorem testUnit_ready {r : TestResult} {s : State} (sound : r.dsBadLanes = []) (alive : s.u.state ≠ .fenced) :
    (testUnit r s).u.state = .ready ∧ (testUnit r s).u.step = 7 ∧ (testUnit r s).u.testAge = 0 ∧ (testUnit r s).u.tested = true ∧
      HasEvent (testUnit r s) .ready ∧ (testUnit r s).u.katFail = r.katFail ∧ (testUnit r s).u.katMov = r.katMov ∧
      NsClear (testUnit r s).mem := by
  obtain ⟨unit, clear⟩ := bistStep_sound sound { s with u := { s.u with step := 4 } }
  unfold testUnit; dsimp only
  generalize bistStep r { s with u := { s.u with step := 4 } } = v at unit clear ⊢
  rw [if_neg (by rw [unit]; exact alive)]
  have train := trainStep_trains r { v with u := { v.u with state := .tested } }
  have kat := katStep_runs r (trainStep r { v with u := { v.u with state := .tested } })
  generalize trainStep r { v with u := { v.u with state := .tested } } = w at train kat ⊢
  generalize katStep r w = x at kat ⊢
  obtain ⟨state, step, event, stores⟩ := enterReady_ready (endTest x)
  have clear' : NsClear x.mem := (clear.same train.bytes train.spans).same kat.bytes kat.spans
  exact ⟨state, step, rfl, rfl, event, kat.kat, kat.katMov, stores clear'⟩

end Sys2Proof.Machine
end

section
set_option Elab.async false -- one proof after another: this bounds the memory that a check of the whole text takes
/-! PROOFS. AON power, the pins that reset, TEST_GO and unit resets (R276, R340 to R343, R354, R355, R359, R412, R467, R468). -/

namespace Sys2Proof.Machine

/-! ### Step 2 -/

/-- Step 2 under way: the clock is the fused bin's. -/
def atStep2 (s : State) : State :=
  { s with u := { s.u with state := .powered, step := 2, fast := false }, fr := { s.fr with clk := binOf (fusedBin s) } }

theorem pllStep_eq (lock : Bool) (s : State) : pllStep lock s =
    if lock then enumStep (atStep2 s) else unitFatal (modLink (atStep2 s) (fun l => { l with st := .down })) .pllLock 0 := rfl

theorem enumStep_fresh {s : State} (fresh : s.u.hasAddr = false) : enumStep s = { s with u := { s.u with state := .powered, step := 3 } } :=
  if_neg (by rw [fresh]; exact Bool.false_ne_true)

theorem pllStep_locks {s : State} (fresh : s.u.hasAddr = false) :
    pllStep true s = { atStep2 s with u := { (atStep2 s).u with state := .powered, step := 3 } } := by
  rw [pllStep_eq, if_pos rfl]
  exact enumStep_fresh fresh

theorem pllStep_fences (s : State) : (pllStep false s).u.state = .fenced ∧ (pllStep false s).fuse = s.fuse ∧ (pllStep false s).pwr = s.pwr ∧
    (pllStep false s).fr = (atStep2 s).fr := by
  obtain ⟨state, -, fuse, fr, pwr, -⟩ := unitFatal_fences (modLink (atStep2 s) (fun l => { l with st := .down })) .pllLock 0
  rw [pllStep_eq, if_neg Bool.false_ne_true, state, fuse, fr, pwr]
  exact ⟨rfl, rfl, rfl, rfl⟩

theorem enumStep_pins (s : State) : SamePins s (enumStep s) := by
  unfold enumStep
  split
  · exact testUnit_pins (Config.testResult s.fresh) { s with fresh := s.fresh + 1, u := { s.u with state := .addressed, step := 3 } }
  · exact ⟨rfl, rfl⟩

theorem pllStep_pins (lock : Bool) (s : State) : SamePins s (pllStep lock s) := by
  cases lock with
  | true => exact enumStep_pins (atStep2 s)
  | false => exact .same (pllStep_fences s).2.2.1

/-! ### Bring-up from step 1 -/

/-- Step 1's fuses: the array read into the shadow. -/
def fusesRead (s : State) : State :=
  { s with fuse := { s.fuse with shadow := s.fuse.array, crc := shadowCrc s.fuse.array.toList } }

/-- Field rows that fail their check are logged. -/
def rowsLogged (s : State) : State := (badFieldRows s).foldl (fun s k => logRun s .fuseRow locUnit k) s

theorem foldl_logRun_rest (xs : List Nat) : ∀ s : State, (xs.foldl (fun s k => logRun s .fuseRow locUnit k) s).fuse = s.fuse ∧
    (xs.foldl (fun s k => logRun s .fuseRow locUnit k) s).pwr = s.pwr ∧
    (xs.foldl (fun s k => logRun s .fuseRow locUnit k) s).u.hasAddr = s.u.hasAddr := by
  induction xs with
  | nil => exact fun _ => ⟨rfl, rfl, rfl⟩
  | cons x xs ih =>
    intro s
    obtain ⟨fuse, pwr, addr⟩ := ih (logRun s .fuseRow locUnit x)
    have own : (logRun s .fuseRow locUnit x).u.hasAddr = s.u.hasAddr := by
      rcases logAt_u s .fuseRow Err.fuseRow.runClass locUnit none x with h | h
      · exact congrArg (·.hasAddr) h
      · exact congrArg (·.hasAddr) h
    exact ⟨fuse.trans (by rw [logRun, logAt_eq]), pwr.trans (by rw [logRun, logAt_eq]), addr.trans own⟩

theorem fuseRow_zero (s : State) : fuseRow s 0 = s.fuse.shadow[(0 : Fin 64)] := by
  unfold fuseRow
  rw [List.getD_eq_getElem?_getD, List.getElem?_eq_getElem (by rw [Vector.length_toList]; decide), Option.getD_some, Vector.getElem_toList]
  rfl

section Boot

variable {s : State} {lock : Bool}

/-- The factory rows match, and the fused bin is one of the three. -/
def FusesSound (a : Vector (BitVec 64) 64) : Prop := factoryOk a.toList = true ∧ fldN a[(0 : Fin 64)] 14 2 ≠ 3

theorem bootStep_eq (lock : Bool) (s : State) : bootStep lock s =
    if !factoryOk s.fuse.array.toList || decide (fldN s.fuse.array[(0 : Fin 64)] 14 2 = 3) then unitFatal (fusesRead s) .fuseCrc 0
    else if bitOf (fuseRow (rowsLogged (fusesRead s)) 0) 18 then
      detachUnit { rowsLogged (fusesRead s) with u := { (rowsLogged (fusesRead s)).u with step := 2 } }
    else if (rowsLogged (fusesRead s)).pwr.rstN then pllStep lock (rowsLogged (fusesRead s))
    else { rowsLogged (fusesRead s) with u := { (rowsLogged (fusesRead s)).u with step := 2 } } := rfl

theorem bootStep_unsound (bad : ¬FusesSound s.fuse.array) : bootStep lock s = unitFatal (fusesRead s) .fuseCrc 0 := by
  rw [bootStep_eq, if_pos]
  rw [Bool.or_eq_true_iff, Bool.not_eq_true', decide_eq_true_iff]
  cases factory : factoryOk s.fuse.array.toList with
  | false => exact .inl rfl
  | true => exact .inr (Decidable.not_not.mp (fun h => bad ⟨factory, h⟩))

theorem bootStep_sound (ok : FusesSound s.fuse.array) : bootStep lock s =
    if bitOf s.fuse.array[(0 : Fin 64)] 18 then detachUnit { rowsLogged (fusesRead s) with u := { (rowsLogged (fusesRead s)).u with step := 2 } }
    else if s.pwr.rstN then pllStep lock (rowsLogged (fusesRead s))
    else { rowsLogged (fusesRead s) with u := { (rowsLogged (fusesRead s)).u with step := 2 } } := by
  obtain ⟨factory, bin⟩ := ok
  obtain ⟨fuse, pwr, -⟩ := foldl_logRun_rest (badFieldRows (fusesRead s)) (fusesRead s)
  have row : fuseRow (rowsLogged (fusesRead s)) 0 = s.fuse.array[(0 : Fin 64)] := by rw [fuseRow_zero, rowsLogged, fuse]; rfl
  have rst : (rowsLogged (fusesRead s)).pwr.rstN = s.pwr.rstN := congrArg (·.rstN) pwr
  rw [bootStep_eq, if_neg, row, rst]
  rw [Bool.or_eq_true_iff, Bool.not_eq_true', decide_eq_true_iff, factory]
  rintro (h | h)
  · cases h
  · exact bin h

end Boot

theorem aonPwrOk_boots {s : State} (off : s.pwr.aonOk = false) (lock : Bool) :
    exec (.aonPwrOk true lock) s = .next (bootStep lock { s with pwr := { s.pwr with aonOk := true } }) :=
  congrArg Host.Outcome.next ((if_neg Bool.false_ne_true).trans (if_pos (by rw [off]; rfl)))

/-- What every way through step 1 keeps: AON power and the fuses read. -/
theorem bootStep_keeps {s : State} (lock : Bool) (fresh : s.u.hasAddr = false) :
    (bootStep lock s).pwr.aonOk = s.pwr.aonOk ∧ (bootStep lock s).fuse = (fusesRead s).fuse := by
  by_cases ok : FusesSound s.fuse.array
  · obtain ⟨fuse, pwr, addr⟩ := foldl_logRun_rest (badFieldRows (fusesRead s)) (fusesRead s)
    have fuse' : (rowsLogged (fusesRead s)).fuse = (fusesRead s).fuse := fuse
    have aon : (rowsLogged (fusesRead s)).pwr.aonOk = s.pwr.aonOk := congrArg (·.aonOk) pwr
    have fresh' : (rowsLogged (fusesRead s)).u.hasAddr = false := addr.trans fresh
    rw [bootStep_sound ok]
    generalize rowsLogged (fusesRead s) = v at fuse' aon fresh' ⊢
    split
    · exact ⟨aon, fuse'⟩
    split
    · cases lock with
      | true => rw [pllStep_locks fresh']; exact ⟨aon, fuse'⟩
      | false =>
        obtain ⟨-, kept, same, -⟩ := pllStep_fences v
        rw [kept, same]
        exact ⟨aon, fuse'⟩
    · exact ⟨aon, fuse'⟩
  · rw [bootStep_unsound ok]
    obtain ⟨-, -, fuse, -, pwr, -⟩ := unitFatal_fences (fusesRead s) .fuseCrc 0
    rw [fuse, pwr]
    exact ⟨rfl, rfl⟩

/-- Settles O48: step 1 reads and checks the fuses, and each outcome of it leads on as the table says. -/
theorem aonPowerBringsTheUnitUp : Obligations.AonPowerBringsTheUnitUp := by
  intro s lock
  refine ⟨⟨_, congrArg Host.Outcome.next (if_pos rfl), rfl, rfl, rfl, rfl, rfl, rfl, rfl, rfl⟩, fun off fresh => ?_⟩
  intro a ok
  obtain ⟨v, hv⟩ : ∃ v : State, v = { s with pwr := { s.pwr with aonOk := true } } := ⟨_, rfl⟩
  have run := aonPwrOk_boots off lock
  rw [← hv] at run
  have array : v.fuse.array = a := by rw [hv]
  have freshV : v.u.hasAddr = false := by rw [hv]; exact fresh
  have rst : v.pwr.rstN = s.pwr.rstN := by rw [hv]
  obtain ⟨aon, fuse⟩ := bootStep_keeps lock freshV
  obtain ⟨fuse', -, addr⟩ := foldl_logRun_rest (badFieldRows (fusesRead v)) (fusesRead v)
  have freshW : (rowsLogged (fusesRead v)).u.hasAddr = false := addr.trans freshV
  have bin : fusedBin (rowsLogged (fusesRead v)) = fldN a[(0 : Fin 64)] 14 2 := by
    rw [fusedBin, rowsLogged, fuse', ← array]; rfl
  have sound : ok → FusesSound v.fuse.array := fun h => by rw [array]; exact h
  refine ⟨_, run, by rw [aon, hv], by rw [fuse, ← array]; rfl, by rw [fuse, ← array]; rfl, fun bad => ?_, fun good det => ?_,
    fun good att high locked => ?_, fun good att high unlocked => ?_, fun good att low => ?_⟩
  · rw [bootStep_unsound (by rw [array]; exact bad)]
    exact (unitFatal_fences ..).1
  · rw [bootStep_sound (sound good), if_pos (by rw [array]; exact det)]
    rfl
  · rw [bootStep_sound (sound good), if_neg (by rw [array]; exact att ▸ Bool.false_ne_true), if_pos (rst.trans high), locked, pllStep_locks freshW,
      ← bin]
    exact ⟨rfl, rfl, rfl⟩
  · rw [bootStep_sound (sound good), if_neg (by rw [array]; exact att ▸ Bool.false_ne_true), if_pos (rst.trans high), unlocked]
    exact (pllStep_fences _).1
  · rw [bootStep_sound (sound good), if_neg (by rw [array]; exact att ▸ Bool.false_ne_true), if_neg (by rw [rst, low]; exact Bool.false_ne_true)]

/-! ### Unit resets -/

theorem dropCommand_rest (s : State) : dropCommand s = { s with cmd := (dropCommand s).cmd } := by
  unfold dropCommand
  split
  · rfl
  · rfl

theorem clearUnit_cores (keep : Bool) (s : State) (c : CoreId) : CoreEmpty (clearUnit keep s).cores[c] := by
  have cores : (clearUnit keep s).cores = s.cores.map (fun x => { failed := x.failed, st := if x.failed then .fenced else .idle }) := rfl
  rw [cores, Fin.getElem_fin, Vector.getElem_map]
  exact ⟨rfl, rfl, rfl, rfl, rfl, rfl, rfl⟩

/-- What a unit reset leaves of the unit, its pins and its fuses, and what it clears. -/
theorem clearUnit_clears (keep : Bool) (s : State) : (clearUnit keep s).u.hasAddr = s.u.hasAddr ∧ (clearUnit keep s).u.addr = s.u.addr ∧
    (clearUnit keep s).u.state = s.u.state ∧ (clearUnit keep s).u.step = s.u.step ∧ (clearUnit keep s).fresh = s.fresh ∧
    (clearUnit keep s).fuse = s.fuse ∧ (clearUnit keep s).fr.lock = false ∧ (clearUnit keep s).cnt = [] ∧
    (clearUnit keep s).lnk = resetLink keep s.lnk ∧ (clearUnit keep s).pwr.rstN = s.pwr.rstN := ⟨rfl, rfl, rfl, rfl, rfl, rfl, rfl, rfl, rfl, rfl⟩

theorem resetLink_keeps {l : Link} (up : l.st = .up) : (resetLink true l).st = .up := by
  rw [resetLink, if_pos (by rw [up]; rfl)]
  exact up

section Held

variable {s : State}

theorem held_iff (free : heldInReset s = false) : s.pwr.rstN = true ∧ s.pwr.aonOk = true ∧ s.pwr.vresetHold = false ∧ s.u.state ≠ .detached := by
  simpa [heldInReset, and_assoc] using free

theorem rstChipN_low (free : heldInReset s = false) (alive : fuseDead s = false) :
    exec (.rstChipN false) s = .next (holdUnit { s with pwr := { s.pwr with rstN := false } }) := by
  obtain ⟨rst, aon, -, attached⟩ := held_iff free
  refine congrArg Host.Outcome.next ((if_neg (by rw [rst]; decide)).trans ((if_neg ?_).trans (if_pos rfl)))
  rw [aon, alive]
  simpa using attached

theorem rstChipN_high (low : s.pwr.rstN = false) (aon : s.pwr.aonOk = true) (alive : fuseDead s = false) (attached : s.u.state ≠ .detached) :
    exec (.rstChipN true) s = .next (if s.pwr.vresetHold then { s with pwr := { s.pwr with rstN := true } }
      else fromStep2 { s with pwr := { s.pwr with rstN := true } }) := by
  refine congrArg Host.Outcome.next ((if_neg (by rw [low]; decide)).trans ((if_neg ?_).trans (if_neg Bool.false_ne_true)))
  rw [aon, alive]
  simpa using attached

theorem fromStep2_pins (s : State) : SamePins s (fromStep2 s) := pllStep_pins (Config.pllLocks s.fresh) { s with fresh := s.fresh + 1 }

theorem fromStep2_fences (unlocked : Config.pllLocks s.fresh = false) :
    (fromStep2 s).u.state = .fenced ∧ (fromStep2 s).fr.lock = s.fr.lock := by
  obtain ⟨state, -, -, fr⟩ := pllStep_fences { s with fresh := s.fresh + 1 }
  rw [fromStep2, unlocked]
  exact ⟨state, by rw [fr]; rfl⟩

theorem fromStep2_powered (locked : Config.pllLocks s.fresh = true) (fresh : s.u.hasAddr = false) :
    (fromStep2 s).u.state = .powered ∧ (fromStep2 s).u.step = 3 ∧ (fromStep2 s).fr.lock = s.fr.lock ∧ (fromStep2 s).cnt = s.cnt := by
  rw [fromStep2, locked, pllStep_locks (by exact fresh)]
  exact ⟨rfl, rfl, rfl, rfl⟩

end Held

/-- A unit held at step 2. -/
theorem holdUnit_holds (s : State) : (holdUnit s).pwr.rstN = s.pwr.rstN ∧ (holdUnit s).u.state = .powered ∧ (holdUnit s).u.step = 2 ∧
    (holdUnit s).lnk.st = .down ∧ (holdUnit s).cnt = [] ∧ (holdUnit s).fr.lock = false ∧ (holdUnit s).u.addr = s.u.addr ∧
    (∀ c : CoreId, CoreEmpty (holdUnit s).cores[c]) ∧ (holdUnit s).fuse = s.fuse := by
  obtain ⟨-, addr, -, -, -, fuse, lock, cnt, lnk, rst⟩ := clearUnit_clears false (dropCommand s)
  have cores := clearUnit_cores false (dropCommand s)
  have same := dropCommand_rest s
  unfold holdUnit; dsimp only
  generalize clearUnit false (dropCommand s) = v at addr fuse lock cnt lnk rst cores ⊢
  refine ⟨?_, rfl, rfl, by rw [lnk]; rfl, cnt, lock, ?_, cores, ?_⟩
  · rw [rst, same]
  · rw [addr, same]
  · rw [fuse, same]

/-- A unit whose rail has failed. -/
def railLost (s : State) : State :=
  clearUnit false (dropCommand (unitFatal { s with u := { s.u with step := 2 } } .vreset 0))

theorem railLost_holds (s : State) : (railLost s).u.state = .fenced ∧ (railLost s).u.step = 2 ∧ (railLost s).cnt = [] ∧
    (railLost s).lnk.st = .down ∧ ∀ c : CoreId, CoreEmpty (railLost s).cores[c] := by
  obtain ⟨state, step, -⟩ := unitFatal_fences { s with u := { s.u with step := 2 } } .vreset 0
  unfold railLost
  generalize unitFatal { s with u := { s.u with step := 2 } } .vreset 0 = v at state step ⊢
  obtain ⟨-, -, kept, at_, -, -, -, cnt, lnk, -⟩ := clearUnit_clears false (dropCommand v)
  have same := dropCommand_rest v
  refine ⟨kept.trans ?_, at_.trans ?_, cnt, by rw [lnk]; rfl, clearUnit_cores false _⟩
  · rw [same]
    exact state
  · rw [same]
    exact step

theorem vreset_fences {s : State} (free : heldInReset s = false) (alive : fuseDead s = false) :
    exec .vreset s = .next { railLost s with mem := clearDs (railLost s).mem, pwr := { (railLost s).pwr with vresetHold := true } } :=
  congrArg Host.Outcome.next (if_neg (by rw [free, alive]; decide))

/-- Settles O49: each pin holds the unit, or lets bring-up go on from step 2. -/
theorem resetPinsAndVreset : Obligations.ResetPinsAndVreset := by
  intro s
  refine ⟨fun free alive => ⟨_, rstChipN_low free alive, holdUnit_holds _⟩, fun low aon alive attached =>
    ⟨_, rstChipN_high low aon alive attached, ?_, fun held => ?_, fun free unlocked => ?_, fun free locked fresh => ?_⟩,
    fun free alive => ?_, fun held aon => ?_, fun free => congrArg Host.Outcome.next (if_neg (by rw [free]; exact Bool.false_ne_true))⟩
  · split
    · rfl
    · exact (fromStep2_pins _).1
  · rw [if_pos held]
  · rw [if_neg (by rw [free]; exact Bool.false_ne_true)]
    exact (fromStep2_fences (by exact unlocked)).1
  · rw [if_neg (by rw [free]; exact Bool.false_ne_true)]
    obtain ⟨state, step, -⟩ := fromStep2_powered (s := { s with pwr := { s.pwr with rstN := true } }) locked fresh
    exact ⟨state, step⟩
  · obtain ⟨state, step, cnt, link, cores⟩ := railLost_holds s
    exact ⟨_, vreset_fences free alive, state, step, rfl, link, cnt, cores, fun a low high => readByte_clearDs low high⟩
  · have run : exec .vresetRecovery s = .next (if s.pwr.rstN then fromStep2 { s with pwr := { s.pwr with vresetHold := false } }
        else { s with pwr := { s.pwr with vresetHold := false } }) := congrArg Host.Outcome.next (if_pos (by rw [held, aon]; rfl))
    refine ⟨_, run, ?_, fun low => ?_, fun high unlocked => ?_, fun high locked fresh => ?_⟩
    · split
      · exact (fromStep2_pins _).2
      · rfl
    · rw [if_neg (by rw [low]; exact Bool.false_ne_true)]
    · rw [if_pos high]
      exact (fromStep2_fences (by exact unlocked)).1
    · rw [if_pos high]
      obtain ⟨state, step, -⟩ := fromStep2_powered (s := { s with pwr := { s.pwr with vresetHold := false } }) locked fresh
      exact ⟨state, step⟩

/-! ### TEST_GO and RESET at unit level -/

section Reset

variable {s : State} {keep : Bool}

theorem HasEvent.raiseEvt {e : Evt} (h : HasEvent s e) (k : Evt) : HasEvent (raiseEvt s k) e := by
  unfold HasEvent bitOf at h ⊢
  rw [raiseEvt_evtStat, BitVec.getLsbD_or, h, Bool.true_or]

theorem testGo_tests {r : TestResult} (takes : TakesCommand s) (addressed : s.u.state = .addressed) (step : s.u.step = 3) :
    exec (.testGo r) s = .next (cmdDone (testUnit r s) 0x12 0) :=
  congrArg Host.Outcome.next ((command_takes takes _).trans (if_neg (by rw [addressed, step]; decide)))

theorem resetUnit_resets (takes : TakesCommand s) (attached : s.u.state ≠ .detached) :
    exec (.resetUnit keep) s = .next (cmdDone (resetUnit keep s) 0x10 0) :=
  congrArg Host.Outcome.next ((command_takes takes _).trans (if_neg attached))

theorem resetUnit_slow (slow : fastOk keep s = false) : resetUnit keep s = fromStep2 (clearUnit keep s) :=
  if_neg (by rw [slow]; exact Bool.false_ne_true)

/-- The unit after the fast path: READY, its stores clear, and the rest as the reset left it. -/
theorem fastPath_ready (s : State) : (fastPath s).u.state = .ready ∧ (fastPath s).u.fast = true ∧ (fastPath s).fr.lock = s.fr.lock ∧
    (fastPath s).cnt = s.cnt ∧ (fastPath s).lnk = s.lnk ∧ NsClear (fastPath s).mem := by
  obtain ⟨v, hv⟩ : ∃ v, v = clearNs { s with fr := { s.fr with clk := binOf (fusedBin s) } } := ⟨_, rfl⟩
  have clear : NsClear v.mem := hv ▸ clearNs_clear _
  have mapped := Trains.remap v
  obtain ⟨state, -, -, stores⟩ := enterReady_ready { remap v with u := { (remap v).u with fast := true } }
  have path : fastPath s = enterReady { remap v with u := { (remap v).u with fast := true } } := by rw [hv]; rfl
  rw [path]
  refine ⟨state, rfl, ?_, ?_, ?_, stores (clear.same mapped.bytes mapped.spans)⟩
  · rw [hv]; rfl
  · rw [hv]; rfl
  · rw [hv]; rfl

theorem fastPath_cores {c : CoreId} (empty : CoreEmpty s.cores[c]) : CoreEmpty (fastPath s).cores[c] := by
  have cores : (fastPath s).cores = s.cores.map (fun x => { x with bucket := 64 * (x.reg.depth.toNat / 2) }) := rfl
  rw [cores, Fin.getElem_fin, Vector.getElem_map]
  exact empty

theorem fastOk_keeps (fast : fastOk keep s = true) : keep = true ∧ s.lnk.st = .up := by
  unfold fastOk at fast
  simp only [Bool.and_eq_true, decide_eq_true_eq] at fast
  exact ⟨fast.1.2, fast.2⟩

end Reset

/-- A unit reset on the fast path. -/
theorem resetUnit_fast {s : State} {keep : Bool} (fast : fastOk keep s = true) : (resetUnit keep s).u.state = .ready ∧
    (resetUnit keep s).u.fast = true ∧ (resetUnit keep s).fr.lock = false ∧ (resetUnit keep s).cnt = [] ∧
    (resetUnit keep s).lnk.st = .up ∧ (∀ c : CoreId, CoreEmpty (resetUnit keep s).cores[c]) ∧ NsClear (resetUnit keep s).mem := by
  obtain ⟨-, -, -, -, -, -, lock, cnt, lnk, -⟩ := clearUnit_clears keep s
  have cores := clearUnit_cores keep s
  obtain ⟨kept, up⟩ := fastOk_keeps fast
  have path : resetUnit keep s = fastPath (clearUnit keep s) := if_pos fast
  rw [path]
  generalize clearUnit keep s = v at lock cnt lnk cores ⊢
  obtain ⟨state, quick, lock', cnt', lnk', clear⟩ := fastPath_ready v
  exact ⟨state, quick, lock'.trans lock, cnt'.trans cnt, by rw [lnk', lnk, kept, resetLink_keeps up], fun c => fastPath_cores (cores c), clear⟩

theorem resetUnit_unlocked {s : State} {keep : Bool} (slow : fastOk keep s = false) (unlocked : Config.pllLocks s.fresh = false) :
    (resetUnit keep s).u.state = .fenced ∧ (resetUnit keep s).fr.lock = false := by
  obtain ⟨-, -, -, -, fresh, -, lock, -⟩ := clearUnit_clears keep s
  rw [resetUnit_slow slow]
  generalize clearUnit keep s = v at fresh lock ⊢
  rw [← fresh] at unlocked
  obtain ⟨state, lock'⟩ := fromStep2_fences unlocked
  exact ⟨state, lock'.trans lock⟩

theorem resetUnit_locked {s : State} {keep : Bool} (slow : fastOk keep s = false) (locked : Config.pllLocks s.fresh = true)
    (named : s.u.hasAddr = false) : (resetUnit keep s).u.state = .powered ∧ (resetUnit keep s).u.step = 3 ∧
      (resetUnit keep s).fr.lock = false ∧ (resetUnit keep s).cnt = [] := by
  obtain ⟨addr, -, -, -, fresh, -, lock, cnt, -⟩ := clearUnit_clears keep s
  rw [resetUnit_slow slow]
  generalize clearUnit keep s = v at addr fresh lock cnt ⊢
  rw [← fresh] at locked
  obtain ⟨state, step, lock', cnt'⟩ := fromStep2_powered locked (addr.trans named)
  exact ⟨state, step, lock'.trans lock, cnt'.trans cnt⟩

/-- Settles O50: a test that finds no lane bad ends at READY, and a unit reset goes the way its conditions allow. -/
theorem testGoAndUnitReset : Obligations.TestGoAndUnitReset := by
  intro s takes
  refine ⟨fun r addressed step sound => ?_, fun r early => ?_, fun keep attached => ?_⟩
  · obtain ⟨state, at_, age, tested, event, kat, katMov, clear⟩ := testUnit_ready (s := s) sound (by rw [addressed]; decide)
    have run := testGo_tests (r := r) takes addressed step
    generalize testUnit r s = v at run state at_ age tested event kat katMov clear
    exact ⟨_, run, cmdDone_done .., state, at_, age, tested, event.raiseEvt _, kat, katMov, fun a ns => clear.reads ns⟩
  · exact ⟨_, congrArg Host.Outcome.next ((command_takes takes _).trans (if_pos early)), cmdRefuse_done .., cmdRefuse_rest ..⟩
  · have run := resetUnit_resets (keep := keep) takes attached
    refine ⟨fun fast => ?_, fun slow unlocked => ?_, fun slow locked named => ?_⟩
    · obtain ⟨state, quick, lock, cnt, link, cores, clear⟩ := resetUnit_fast fast
      generalize resetUnit keep s = v at run state quick lock cnt link cores clear
      exact ⟨_, run, cmdDone_done .., state, quick, lock, cnt, link, cores, fun a ns => clear.reads ns⟩
    · obtain ⟨state, lock⟩ := resetUnit_unlocked slow unlocked
      generalize resetUnit keep s = v at run state lock
      exact ⟨_, run, cmdDone_done .., state, lock⟩
    · obtain ⟨state, step, lock, cnt⟩ := resetUnit_locked slow locked named
      generalize resetUnit keep s = v at run state step lock cnt
      exact ⟨_, run, cmdDone_done .., state, step, lock, cnt⟩

end Sys2Proof.Machine
end

section
set_option Elab.async false -- one proof after another: this bounds the memory that a check of the whole text takes
/-! PROOFS. Ends of entries and sequences, stalls and error resets (R38, R39, R41, R357, R381, R387, R390, R391). -/

namespace Sys2Proof.Machine

/-! ### Work handed to the agents -/

/-- The items of a template for the agent with this number, of a frame. -/
def workOf (t : Template) (frame : Word) (n : Nat) : List WorkItem :=
  ((itemsOf t n).zipIdx).map (fun i => { frame := frame, idx := i.2, item := i.1 })

/-- Items that join the list of one agent. -/
def giveItems (s : State) (ag : Agent) (ws : List WorkItem) : State :=
  if ws.isEmpty then s else modAg s ag (fun g => { g with items := g.items ++ ws })

theorem pushWork_eq (s : State) (p : Part) (frame : Word) : pushWork s p frame =
    (allAgents.filter (fun x => sameTask s p (agPart s x.2))).foldl
      (fun u x => giveItems u x.2 (workOf (templateOf s s.parts[taskPart s p].entry) frame x.1)) s := rfl

/-- Between `s` and `t` only agents have changed. -/
def OnlyAgents (s t : State) : Prop := t = { s with cores := t.cores, mov := t.mov, eif := t.eif }

theorem OnlyAgents.trans {s t u : State} (h : OnlyAgents s t) (k : OnlyAgents t u) : OnlyAgents s u := by
  unfold OnlyAgents at h k ⊢
  rw [k, h]

theorem giveItems_only (s : State) (ag : Agent) (ws : List WorkItem) : OnlyAgents s (giveItems s ag ws) := by
  unfold giveItems
  split
  · rfl
  · cases ag <;> rfl

theorem giveItems_core (s : State) (ag : Agent) (ws : List WorkItem) (c : CoreId) :
    (giveItems s ag ws).cores[c].ag.items = s.cores[c].ag.items ++ if ag = .core c then ws else [] := by
  unfold giveItems
  by_cases empty : ws.isEmpty = true
  · rw [if_pos empty, List.isEmpty_iff.mp empty, ite_self, List.append_nil]
  · rw [if_neg empty]
    cases ag with
    | core k =>
      by_cases same : k = c
      · subst same
        rw [if_pos rfl]
        exact congrArg (fun x : Core => x.ag.items) (modCore_self s k (fun x => { x with ag := { x.ag with items := x.ag.items ++ ws } }))
      · rw [if_neg (fun e => same (Agent.core.inj e)), List.append_nil]
        exact congrArg (fun x : Core => x.ag.items)
          (modCore_other s k (fun x => { x with ag := { x.ag with items := x.ag.items ++ ws } }) c (Ne.symm same))
    | chan h => rw [if_neg nofun, List.append_nil]; rfl
    | ea a => rw [if_neg nofun, List.append_nil]; rfl

section Give

variable (ws : Nat → List WorkItem)

theorem foldl_giveItems_only : ∀ (xs : List (Nat × Agent)) (s : State),
    OnlyAgents s (xs.foldl (fun u x => giveItems u x.2 (ws x.1)) s)
  | [], _ => rfl
  | x :: xs, s => (giveItems_only s x.2 (ws x.1)).trans (foldl_giveItems_only xs _)

theorem foldl_giveItems_core (c : CoreId) : ∀ (xs : List (Nat × Agent)) (s : State),
    (xs.foldl (fun u x => giveItems u x.2 (ws x.1)) s).cores[c].ag.items =
      s.cores[c].ag.items ++ (xs.filter (fun x => decide (x.2 = .core c))).flatMap (fun x => ws x.1)
  | [], s => by rw [List.filter_nil, List.flatMap_nil, List.append_nil]; rfl
  | x :: xs, s => by
    rw [List.foldl_cons, foldl_giveItems_core c xs, giveItems_core, List.append_assoc, List.filter_cons]
    by_cases same : x.2 = .core c
    · rw [if_pos same, if_pos (decide_eq_true same), List.flatMap_cons]
    · rw [if_neg same, if_neg (by rw [decide_eq_false same]; exact Bool.false_ne_true), List.nil_append]

end Give

theorem allAgents_core : ∀ c : CoreId, allAgents.filter (fun x => decide (x.2 = .core c)) = [(c.val, .core c)] := by decide

theorem pushWork_only (s : State) (p : Part) (frame : Word) : OnlyAgents s (pushWork s p frame) := by
  rw [pushWork_eq]
  exact foldl_giveItems_only (fun n => workOf (templateOf s s.parts[taskPart s p].entry) frame n) _ s

/-- A core of the task takes its items of entry `n` behind those it has. -/
theorem pushWork_core {s : State} {p : Part} {c : CoreId} {n : Nat} (frame : Word) (own : sameTask s p (corePart c) = true)
    (entry : s.parts[taskPart s p].entry = n) :
    (pushWork s p frame).cores[c].ag.items = s.cores[c].ag.items ++ workOf (templateOf s n) frame c.val := by
  have named : (allAgents.filter (fun x => sameTask s p (agPart s x.2))).filter (fun x => decide (x.2 = .core c)) = [(c.val, .core c)] := by
    rw [List.filter_comm, allAgents_core, List.filter_cons, if_pos (by exact own), List.filter_nil]
  rw [pushWork_eq, entry, foldl_giveItems_core (fun n_ => workOf (templateOf s n) frame n_), named, List.flatMap_cons, List.flatMap_nil,
    List.append_nil]

/-! ### The end of an entry -/

section Entry

variable {s : State} {p : Part}

/-- The frame whose work an entry's end begins. -/
def entryFrame (s : State) (p : Part) : Word := if s.parts[p].halted || s.parts[p].preempted then s.parts[p].stopFrame else s.fr.ctr

/-- The partition with its next entry taken. -/
def nextTaken (s : State) (p : Part) : State :=
  modPart s p (fun x => { x with
    entry := (seqEntry s s.parts[p].entry).next, left := (seqEntry s (seqEntry s s.parts[p].entry).next).repeats - 1, entryEnd := false })

theorem seqEntryEnd_eq (task : s.parts[p].task = true) (ended : s.parts[p].entryEnd = true) : exec (.seqEntryEnd p) s =
    .next (if changeDue s.parts[p] (seqEntry s s.parts[p].entry) (entryFrame s p - 1) then takeChange s p (entryFrame s p)
      else if (seqEntry s s.parts[p].entry).seqEnd then raiseEvt (modPart s p (fun x => { x with idle := true, entryEnd := false })) .seqIdle
      else pushWork (nextTaken s p) p (entryFrame s p)) :=
  congrArg Host.Outcome.next (if_neg (by rw [task, ended]; decide))

/-- A sequence begun at its first entry. -/
theorem beginSeq_begins (s : State) (p : Part) (q : Fin 16) : beginSeq s p q = { s with parts := (beginSeq s p q).parts } ∧
    (∀ r : Part, r ≠ p → (beginSeq s p q).parts[r] = s.parts[r]) ∧ (beginSeq s p q).parts[p].seq = q ∧
    (beginSeq s p q).parts[p].entry = s.bl.seqs[q].first ∧ (beginSeq s p q).parts[p].nextPending = s.parts[p].nextPending ∧
    (beginSeq s p q).parts[p].idle = false ∧ (beginSeq s p q).parts[p].entryEnd = false := by
  refine ⟨rfl, fun r hr => modPart_other _ _ _ _ hr, ?_⟩
  rw [beginSeq, modPart_self]
  exact ⟨rfl, rfl, rfl, rfl, rfl⟩

/-- The pending change of a partition taken as such. -/
def changeTaken (s : State) (p : Part) : State := modPart s p (fun x => { x with nextPending := false })

theorem takeChange_eq (s : State) (p : Part) (frame : Word) :
    takeChange s p frame = pushWork (beginSeq (changeTaken s p) p s.parts[p].nextSeq) p frame := by
  have same : (changeTaken s p).parts[p].nextSeq = s.parts[p].nextSeq := congrArg (·.nextSeq) (modPart_self s p (fun x => { x with nextPending := false }))
  exact congrArg (fun q => pushWork (beginSeq (changeTaken s p) p q) p frame) same

theorem changeTaken_parts (s : State) (p : Part) : changeTaken s p = { s with parts := (changeTaken s p).parts } ∧
    (changeTaken s p).parts[p].nextPending = false ∧ ∀ q : Part, q ≠ p → (changeTaken s p).parts[q] = s.parts[q] := by
  refine ⟨rfl, ?_, fun q hq => modPart_other _ _ _ _ hq⟩
  rw [changeTaken, modPart_self]

end Entry

/-- Settles O43: at an entry's end a due change, idle frames or the next entry follow. -/
theorem entriesAndSequencesEnd : Obligations.EntriesAndSequencesEnd := by
  intro s p own task ended x e frame
  have run := seqEntryEnd_eq task ended
  cases due : changeDue s.parts[p] (seqEntry s s.parts[p].entry) (entryFrame s p - 1) with
  | true =>
    rw [if_pos due, takeChange_eq] at run
    obtain ⟨rest, pending, others⟩ := changeTaken_parts s p
    obtain ⟨rest', others', seq, entry, pending', idle, ended'⟩ := beginSeq_begins (changeTaken s p) p s.parts[p].nextSeq
    have only := pushWork_only (beginSeq (changeTaken s p) p s.parts[p].nextSeq) p (entryFrame s p)
    generalize beginSeq (changeTaken s p) p s.parts[p].nextSeq = v at run rest' others' seq entry pending' idle ended' only
    generalize pushWork v p (entryFrame s p) = t at run only
    have whole : t = { s with parts := v.parts, cores := t.cores, mov := t.mov, eif := t.eif } := by rw [only, rest', rest]
    have parts : t.parts = v.parts := by rw [whole]
    refine ⟨t, run, by rw [whole], by rw [whole], by rw [whole], by rw [whole], by rw [whole], fun q hq => ?_, fun _ => ?_,
      fun still => absurd (still.symm.trans due) Bool.false_ne_true, fun still => absurd (still.symm.trans due) Bool.false_ne_true⟩
    · rw [parts, others' q hq, others q hq]
    · rw [parts]
      exact ⟨seq, entry.trans (by rw [rest]), pending'.trans pending, idle, ended'⟩
  | false =>
    rw [if_neg (by rw [due]; exact Bool.false_ne_true)] at run
    cases last : (seqEntry s s.parts[p].entry).seqEnd with
    | true =>
      rw [if_pos last] at run
      refine ⟨_, run, rfl, rfl, rfl, rfl, rfl, fun q hq => modPart_other s p (fun x => { x with idle := true, entryEnd := false }) q hq, fun now => absurd (due.symm.trans now) Bool.false_ne_true,
        fun _ _ => ⟨modPart_self s p (fun x => { x with idle := true, entryEnd := false }), hasEvent_raiseEvt ..⟩,
        fun _ more => Bool.noConfusion more⟩
    | false =>
      rw [if_neg (by rw [last]; exact Bool.false_ne_true)] at run
      have only := pushWork_only (nextTaken s p) p (entryFrame s p)
      have shows : (nextTaken s p).parts[p] = _ := modPart_self s p (fun x => { x with
        entry := (seqEntry s s.parts[p].entry).next, left := (seqEntry s (seqEntry s s.parts[p].entry).next).repeats - 1, entryEnd := false })
      have parts : (pushWork (nextTaken s p) p (entryFrame s p)).parts = (nextTaken s p).parts := by rw [only]
      have kept : taskPart (nextTaken s p) p = p := own
      have entry : (nextTaken s p).parts[taskPart (nextTaken s p) p].entry = (seqEntry s s.parts[p].entry).next := by
        simp only [kept]
        rw [shows]
      refine ⟨_, run, by rw [only]; rfl, by rw [only]; rfl, by rw [only]; rfl, by rw [only]; rfl, by rw [only]; rfl, fun q hq => ?_,
        fun now => absurd (due.symm.trans now) Bool.false_ne_true, fun _ now => Bool.noConfusion now,
        fun _ _ => ⟨?_, fun c task' => pushWork_core _ (by exact task') entry⟩⟩
      · rw [parts]
        exact modPart_other _ _ _ _ hq
      · rw [parts, shows]

end Sys2Proof.Machine
end

section
set_option Elab.async false -- one proof after another: this bounds the memory that a check of the whole text takes
/-! PROOFS. Stalls and error resets (R357, R381, R387, R390, R391). -/

namespace Sys2Proof.Machine

/-! ### What aborts and fences leave -/

theorem logRun_stallCnt (s : State) (e : Err) (loc d : Nat) : (logRun s e loc d).err.stallCnt = s.err.stallCnt := by
  unfold logRun logAt; dsimp only
  split
  · rfl
  split
  · rfl
  · rfl

@[simp] theorem logRun_fr (s : State) (e : Err) (loc d : Nat) : (logRun s e loc d).fr = s.fr := by rw [logRun, logAt_eq]

@[simp] theorem logRun_parts (s : State) (e : Err) (loc d : Nat) : (logRun s e loc d).parts = s.parts := by rw [logRun, logAt_eq]

@[simp] theorem logRun_mov (s : State) (e : Err) (loc d : Nat) : (logRun s e loc d).mov = s.mov := by rw [logRun, logAt_eq]

theorem twoTask_logRun (s : State) (e : Err) (loc d : Nat) : twoTask (logRun s e loc d) = twoTask s := by
  rcases logAt_u s e e.runClass loc none d with h | h
  · exact congrArg (·.taskMode) h
  · exact congrArg (·.taskMode) h

theorem taskPart_logRun (s : State) (e : Err) (loc d : Nat) (p : Part) : taskPart (logRun s e loc d) p = taskPart s p := by
  rw [taskPart, taskPart, twoTask_logRun]

/-- A task abort leaves the log and the frame. -/
theorem abortTask_rest (s : State) (p : Part) : (abortTask s p).err = s.err ∧ (abortTask s p).fr = s.fr := by
  unfold abortTask; dsimp only
  rw [poisonCtrs_eq]
  exact ⟨rfl, rfl⟩

/-- The mark of an aborted task. -/
def aborted (x : PartSt) : PartSt := { x with aborted := true, task := false }

theorem abortTask_ends (s : State) (p : Part) : ∃ v : State, v.u = s.u ∧ abortTask s p = modPart v (taskPart v p) aborted := by
  refine ⟨_, ?_, rfl⟩
  dsimp only [absorb]
  rw [poisonCtrs_eq]
  rfl

/-- A task abort marks its partition, whatever number names it. -/
theorem abortTask_marks {s : State} {p q : Part} (own : taskPart s p = q) :
    (abortTask s p).parts[q].aborted = true ∧ (abortTask s p).parts[q].task = false := by
  obtain ⟨v, unit, ends⟩ := abortTask_ends s p
  have named : taskPart v p = q := by rw [← own, taskPart, taskPart, twoTask, twoTask, unit]
  rw [ends, named, modPart_self]
  exact ⟨rfl, rfl⟩

/-! ### Stalls -/

/-- The stall counted, and the agent's count begun afresh. -/
def stallTaken (s : State) (ag : Agent) : State :=
  modAg { s with err := { s.err with stallCnt := sat32 s.err.stallCnt 1 } } ag (fun g => { g with stall := 0 })

theorem stallTaken_rest (s : State) (ag : Agent) : (stallTaken s ag).err.stallCnt = sat32 s.err.stallCnt 1 ∧ (stallTaken s ag).fr = s.fr ∧
    (stallTaken s ag).mem = s.mem ∧ (stallTaken s ag).parts = s.parts ∧ (stallTaken s ag).u = s.u := by
  cases ag <;> exact ⟨rfl, rfl, rfl, rfl, rfl⟩

section Stall

variable {s : State}

theorem stallCycle_core {c : CoreId} (on : s.err.wdt ≠ 0) (stalled : s.err.wdt.toNat ≤ s.cores[c].ag.stall.toNat) :
    exec (.stallCycle (.core c)) s = .next (failCore (stallTaken s (.core c)) c .stallCycle s.cores[c].ag.stallOn) := by
  have live : ¬(s.err.wdt = 0 ∨ (agOf s (.core c)).stall.toNat < s.err.wdt.toNat) := not_or.mpr ⟨on, Nat.not_lt.mpr stalled⟩
  rw [show exec (.stallCycle (.core c)) s = execStallCycle (.core c) s from rfl, execStallCycle, if_neg live]
  rfl

theorem stallCycle_ea {a : EaId} (on : s.err.wdt ≠ 0) (stalled : s.err.wdt.toNat ≤ s.eif[a].ag.stall.toNat) :
    exec (.stallCycle (.ea a)) s = .next (failEa (stallTaken s (.ea a)) a .stallCycle s.eif[a].ag.stallOn) := by
  have live : ¬(s.err.wdt = 0 ∨ (agOf s (.ea a)).stall.toNat < s.err.wdt.toNat) := not_or.mpr ⟨on, Nat.not_lt.mpr stalled⟩
  rw [show exec (.stallCycle (.ea a)) s = execStallCycle (.ea a) s from rfl, execStallCycle, if_neg live]
  rfl

theorem stallCycle_chan {h : ChanId} (on : s.err.wdt ≠ 0) (stalled : s.err.wdt.toNat ≤ s.mov.chans[h].ag.stall.toNat) :
    exec (.stallCycle (.chan h)) s = .next (failChan (stallTaken s (.chan h)) h .stallCycle s.mov.chans[h].ag.stallOn) := by
  have live : ¬(s.err.wdt = 0 ∨ (agOf s (.chan h)).stall.toNat < s.err.wdt.toNat) := not_or.mpr ⟨on, Nat.not_lt.mpr stalled⟩
  rw [show exec (.stallCycle (.chan h)) s = execStallCycle (.chan h) s from rfl, execStallCycle, if_neg live]
  rfl

/-- A contained error of a core fences it with its task. -/
theorem failCore_fences (s : State) (c : CoreId) (e : Err) (d : Nat) {q : Part} (own : taskPart s (corePart c) = q) :
    (failCore s c e d).err.stallCnt = s.err.stallCnt ∧ (failCore s c e d).cores[c].st = .fenced ∧ (failCore s c e d).cores[c].errDue = true ∧
      (failCore s c e d).parts[q].aborted = true ∧ (failCore s c e d).parts[q].task = false ∧ (failCore s c e d).mem = s.mem ∧
      (failCore s c e d).fr = s.fr := by
  obtain ⟨v, hv⟩ : ∃ v, v = modCore (logRun s e (locCore c) d) c (fun x => { x with st := .fenced, errDue := true }) := ⟨_, rfl⟩
  have run : failCore s c e d = abortTask v (corePart c) := by rw [hv]; rfl
  have named : taskPart v (corePart c) = q := by rw [hv]; exact (taskPart_logRun ..).trans own
  obtain ⟨err, fr⟩ := abortTask_rest v (corePart c)
  obtain ⟨marked, ended⟩ := abortTask_marks named
  have st : (failCore s c e d).cores[c].st = .fenced := by
    rw [run, abortTask_core, hv, modCore_self]
    split <;> rfl
  refine ⟨?_, st, failCore_errDue .., ?_, ?_, failCore_mem .., ?_⟩
  · rw [run, err, hv]
    exact logRun_stallCnt ..
  · rw [run]; exact marked
  · rw [run]; exact ended
  · rw [run, fr, hv]
    exact logRun_fr ..

/-- A contained error of an attachment fences it with its task. -/
theorem failEa_fences (s : State) (a : EaId) (e : Err) (d : Nat) {q : Part} (own : taskPart s (eaPart a) = q) :
    (failEa s a e d).err.stallCnt = s.err.stallCnt ∧ (failEa s a e d).eif[a].st = .fenced ∧ (failEa s a e d).eif[a].errDue = true ∧
      (failEa s a e d).parts[q].aborted = true ∧ (failEa s a e d).parts[q].task = false ∧ (failEa s a e d).mem = s.mem ∧
      (failEa s a e d).fr = s.fr := by
  obtain ⟨v, hv⟩ : ∃ v, v = modEa (logRun s e (locEa a) d) a (fun x => { x with st := .fenced, errDue := true }) := ⟨_, rfl⟩
  have run : failEa s a e d = abortTask v (eaPart a) := by rw [hv]; rfl
  have named : taskPart v (eaPart a) = q := by rw [hv]; exact (taskPart_logRun ..).trans own
  obtain ⟨err, fr⟩ := abortTask_rest v (eaPart a)
  obtain ⟨marked, ended⟩ := abortTask_marks named
  obtain ⟨st, due⟩ := fenceEa_fences (logRun s e (locEa a) d) a
  refine ⟨?_, st, due, ?_, ?_, ?_, ?_⟩
  · rw [run, err, hv]
    exact logRun_stallCnt ..
  · rw [run]; exact marked
  · rw [run]; exact ended
  · rw [run, abortTask_mem, hv]
    exact logRun_mem ..
  · rw [run, fr, hv]
    exact logRun_fr ..

/-- What a fence leaves of a state: its stall count, its partitions, its stores and its frame. -/
def KeepsRun (s t : State) : Prop := t.err.stallCnt = s.err.stallCnt ∧ t.parts = s.parts ∧ t.mem = s.mem ∧ t.fr = s.fr ∧ t.mov = s.mov

theorem KeepsRun.trans {t u : State} (h : KeepsRun s t) (k : KeepsRun t u) : KeepsRun s u := by
  obtain ⟨h1, h2, h3, h4, h5⟩ := h
  obtain ⟨k1, k2, k3, k4, k5⟩ := k
  exact ⟨k1.trans h1, k2.trans h2, k3.trans h3, k4.trans h4, k5.trans h5⟩

theorem logRun_keepsRun (s : State) (e : Err) (loc d : Nat) : KeepsRun s (logRun s e loc d) :=
  ⟨logRun_stallCnt .., logRun_parts .., logRun_mem .., logRun_fr .., logRun_mov ..⟩

theorem poisonCtrBy_keepsRun (s : State) (p : Part) (loc : Nat) (c : Ctr) : KeepsRun s (poisonCtrBy s p loc c) := by
  unfold poisonCtrBy
  split
  · exact logRun_keepsRun ..
  · exact ⟨rfl, rfl, rfl, rfl, rfl⟩

theorem foldl_keepsRun {α : Type} {f : State → α → State} (h : ∀ s x, KeepsRun s (f s x)) : ∀ (xs : List α) (s : State), KeepsRun s (xs.foldl f s)
  | [], _ => ⟨rfl, rfl, rfl, rfl, rfl⟩
  | x :: xs, s => (h s x).trans (foldl_keepsRun h xs _)

/-- A channel's fence stops it and poisons counters, each by the channel's own right. -/
theorem fenceChan_poisons (s : State) (h : ChanId) : ∃ cs : List Ctr, fenceChan s h =
    cs.foldl (fun s c => poisonCtrBy s (chanPart s h) (locChan h) c) (dropLadle (modChan s h stopChan) (fun w => decide (w = .chan h))) :=
  ⟨_, rfl⟩

/-- A contained error of a channel fences it alone. -/
theorem failChan_fences (s : State) (h : ChanId) (e : Err) (d : Nat) : (failChan s h e d).err.stallCnt = s.err.stallCnt ∧
    (failChan s h e d).mov.chans[h].st = .fenced ∧ (failChan s h e d).parts = s.parts ∧ (failChan s h e d).mem = s.mem ∧
    (failChan s h e d).fr = s.fr := by
  obtain ⟨log1, log2, log3, log4, -⟩ := logRun_keepsRun s e (locChan h) d
  unfold failChan
  generalize logRun s e (locChan h) d = v at log1 log2 log3 log4 ⊢
  obtain ⟨cs, run⟩ := fenceChan_poisons v h
  obtain ⟨f1, f2, f3, f4, f5⟩ := foldl_keepsRun (fun s c => poisonCtrBy_keepsRun s (chanPart s h) (locChan h) c) cs
    (dropLadle (modChan v h stopChan) (fun w => decide (w = .chan h)))
  rw [← run] at f1 f2 f3 f4 f5
  have stopped : (dropLadle (modChan v h stopChan) (fun w => decide (w = .chan h))).mov.chans[h].st = .fenced := by
    rw [show (dropLadle (modChan v h stopChan) (fun w => decide (w = .chan h))).mov = (modChan v h stopChan).mov from rfl, modChan_self]
    rfl
  exact ⟨f1.trans log1, by rw [f5, stopped], f2.trans log2, f3.trans log3, f4.trans log4⟩

end Stall

/-! ### Error resets -/

/-- A core after its error reset. -/
def errorCleared (s : State) (c : CoreId) : State :=
  modCore (absorb s (fun m _ => decide (m.val = c.val))) c (fun x => { x with errDue := false, st := .fenced, sq := [] })

theorem errorReset_due {s : State} {c : CoreId} (due : s.cores[c].errDue = true) : exec (.errorReset c) s =
    .next (poisonCtrs (errorCleared s c) (allCtrs.filter (fun r => sameTask (errorCleared s c) (corePart c) (ctrPart (errorCleared s c) r)))) :=
  congrArg Host.Outcome.next (if_pos due)

/-- Settles O44: a stall that has lasted fences its agent, and an error reset clears its core's store queue. -/
theorem stallCyclesAndErrorResets : Obligations.StallCyclesAndErrorResets := by
  refine ⟨fun s on => ⟨fun c stalled => ?_, fun a stalled => ?_, fun h stalled => ?_, fun ag below =>
    congrArg Host.Outcome.next (if_pos (.inr below))⟩, fun s c => ⟨fun due => ?_, fun clean =>
    congrArg Host.Outcome.next (if_neg (by rw [clean]; exact Bool.false_ne_true))⟩⟩
  · obtain ⟨count, fr, mem, -, unit⟩ := stallTaken_rest s (.core c)
    have named : taskPart (stallTaken s (.core c)) (corePart c) = taskPart s (corePart c) := by rw [taskPart, taskPart, twoTask, twoTask, unit]
    obtain ⟨count', st, due, marked, ended, mem', fr'⟩ := failCore_fences (stallTaken s (.core c)) c .stallCycle s.cores[c].ag.stallOn named
    exact ⟨_, stallCycle_core on stalled, count'.trans count, st, due, marked, ended,
      mem'.trans mem, fr'.trans fr⟩
  · obtain ⟨count, fr, mem, -, unit⟩ := stallTaken_rest s (.ea a)
    have named : taskPart (stallTaken s (.ea a)) (eaPart a) = taskPart s (eaPart a) := by rw [taskPart, taskPart, twoTask, twoTask, unit]
    obtain ⟨count', st, due, marked, ended, mem', fr'⟩ := failEa_fences (stallTaken s (.ea a)) a .stallCycle s.eif[a].ag.stallOn named
    exact ⟨_, stallCycle_ea on stalled, count'.trans count, st, due, marked, ended,
      mem'.trans mem, fr'.trans fr⟩
  · obtain ⟨count, fr, mem, parts, -⟩ := stallTaken_rest s (.chan h)
    obtain ⟨count', st, parts', mem', fr'⟩ := failChan_fences (stallTaken s (.chan h)) h .stallCycle s.mov.chans[h].ag.stallOn
    exact ⟨_, stallCycle_chan on stalled, count'.trans count, st, parts'.trans parts,
      mem'.trans mem, fr'.trans fr⟩
  · have poisoned (k : Ctr) := ctrOf_poisonCtrs (allCtrs.filter (fun r => sameTask (errorCleared s c) (corePart c) (ctrPart (errorCleared s c) r)))
      (errorCleared s c) k
    have rest := poisonCtrs_eq (allCtrs.filter (fun r => sameTask (errorCleared s c) (corePart c) (ctrPart (errorCleared s c) r)))
      (errorCleared s c)
    refine ⟨_, errorReset_due due, ?_, fun k hk => ?_, ?_, fun r => ?_⟩
    · rw [poisonCtrs_cores]
      exact modCore_self (absorb s (fun m _ => decide (m.val = c.val))) c (fun x => { x with errDue := false, st := .fenced, sq := [] })
    · rw [poisonCtrs_cores]
      exact modCore_other (absorb s (fun m _ => decide (m.val = c.val))) c (fun x => { x with errDue := false, st := .fenced, sq := [] }) k hk
    · have cleared : errorCleared s c = { s with cores := (errorCleared s c).cores, xb := (errorCleared s c).xb } := rfl
      generalize errorCleared s c = v at rest cleared ⊢
      rw [rest, cleared]
    · rw [poisoned]
      have listed : r ∈ allCtrs.filter (fun r => sameTask (errorCleared s c) (corePart c) (ctrPart (errorCleared s c) r)) ↔
          sameTask s (corePart c) (ctrPart s r) = true := by
        rw [List.mem_filter]
        exact ⟨fun h => h.2, fun h => ⟨List.mem_finRange r, h⟩⟩
      have same : ctrOf (errorCleared s c) r = ctrOf s r := rfl
      rw [same]
      by_cases own : sameTask s (corePart c) (ctrPart s r) = true
      · rw [if_pos own, decide_eq_true (listed.mpr own), Bool.or_true]
      · rw [if_neg own, decide_eq_false (fun h => own (listed.mp h)), Bool.or_false]

end Sys2Proof.Machine
end

section
set_option Elab.async false -- one proof after another: this bounds the memory that a check of the whole text takes
/-! PROOFS. The patrol scrub and the refresh window (R275, R280, R281, R284). -/

namespace Sys2Proof.Machine

/-! ### Words put right -/

/-- What putting words right leaves: every byte, the cores, the power block, and the counts and positions of the windows. -/
structure Patrolled (s t : State) : Prop where
  bytes : KeepsStores s t
  cores : t.cores = s.cores
  pwr : t.pwr = s.pwr
  groups : t.mem.groups = s.mem.groups
  refCnt : t.mem.refCnt = s.mem.refCnt
  refRow : t.mem.refRow = s.mem.refRow
  scrubPos : t.mem.scrubPos = s.mem.scrubPos
  spares : t.mem.spares = s.mem.spares
  lastSwap : t.mem.lastSwap = s.mem.lastSwap
  dead : t.mem.deadLanes = s.mem.deadLanes

namespace Patrolled

variable {s t u : State}

theorem refl (s : State) : Patrolled s s := ⟨.refl s, rfl, rfl, rfl, rfl, rfl, rfl, rfl, rfl, rfl⟩

theorem trans (h : Patrolled s t) (k : Patrolled t u) : Patrolled s u :=
  ⟨h.bytes.trans k.bytes, k.cores.trans h.cores, k.pwr.trans h.pwr, k.groups.trans h.groups, k.refCnt.trans h.refCnt,
    k.refRow.trans h.refRow, k.scrubPos.trans h.scrubPos, k.spares.trans h.spares, k.lastSwap.trans h.lastSwap, k.dead.trans h.dead⟩

theorem logRun (s : State) (e : Err) (loc d : Nat) : Patrolled s (logRun s e loc d) := by
  have mem := logRun_mem s e loc d
  refine ⟨logRun_keeps .., logRun_cores .., ?_, by rw [mem], by rw [mem], by rw [mem], by rw [mem], by rw [mem], by rw [mem], by rw [mem]⟩
  rw [Machine.logRun, logAt_eq]

theorem eccRead (s : State) (w : Nat) : Patrolled s (eccRead s w) := by
  have bytes := eccRead_keeps s w
  have counted (m : Stores) (h : KeepsStores s { s with mem := m }) (k : m = { s.mem with
      nsCe := m.nsCe, nsUe := m.nsUe, nsUeAddr := m.nsUeAddr, dsCe := m.dsCe, dsUe := m.dsUe, dsUeAddr := m.dsUeAddr, laneErr := m.laneErr }) :
      Patrolled s { s with mem := m } :=
    ⟨h, rfl, rfl, by rw [k], by rw [k], by rw [k], by rw [k], by rw [k], by rw [k], by rw [k]⟩
  have logged (m : Stores) (e : Err) (a : Nat) (h : Patrolled s { s with mem := m }) : Patrolled s (Machine.logRun { s with mem := m } e locUnit a) :=
    h.trans (logRun ..)
  unfold Machine.eccRead; dsimp only
  split
  · exact refl s
  split
  · exact refl s
  split
  · split
    · exact counted _ (.ofGroups rfl rfl rfl rfl rfl) rfl
    · exact counted _ (.ofGroups rfl rfl rfl rfl rfl) rfl
  split
  · exact logged _ _ _ (counted _ (.ofGroups rfl rfl rfl rfl rfl) rfl)
  · exact logged _ _ _ (counted _ (.ofGroups rfl rfl rfl rfl rfl) rfl)

theorem scrubWord (s : State) (w : Nat) : Patrolled s (scrubWord s w) :=
  (eccRead s w).trans ⟨.ofGroups rfl rfl rfl rfl rfl, rfl, rfl, rfl, rfl, rfl, rfl, rfl, rfl, rfl⟩

theorem foldl : ∀ (ws : List Nat) (s : State), Patrolled s (ws.foldl Machine.scrubWord s)
  | [], s => refl s
  | w :: ws, s => (scrubWord s w).trans (Patrolled.foldl ws _)

end Patrolled

section Scrub

variable (s : State) (w : Nat)

theorem scrubWord_bad (k : Nat) : look 0 (scrubWord s w).mem.bad k = if k = w then 0 else look 0 s.mem.bad k := by
  have run : (scrubWord s w).mem.bad = put 0 (eccRead s w).mem.bad w 0 := rfl
  obtain ⟨-, bad, -⟩ := eccRead_checks s w
  rw [run, bad]
  by_cases same : k = w
  · rw [if_pos same, same, look_put_self]
  · rw [if_neg same, look_put_other 0 0 _ _ same]

theorem scrubWord_psn (k : Nat) : setHas (scrubWord s w).mem.psn k = (setHas s.mem.psn k || (decide (k = w) && uncorrectable s.mem w)) := by
  have run : (scrubWord s w).mem.psn = if uncorrectable s.mem w then setAdd (eccRead s w).mem.psn w else (eccRead s w).mem.psn := rfl
  obtain ⟨psn, -, -⟩ := eccRead_checks s w
  rw [run, psn]
  cases uncorrectable s.mem w with
  | true => rw [if_pos rfl, setHas_setAdd, Bool.and_true, Bool.or_comm]
  | false => rw [if_neg Bool.false_ne_true, Bool.and_false, Bool.or_false]

end Scrub

/-- A word's symbols as another scrub finds them. -/
theorem uncorrectable_scrubWord (s : State) {w k : Nat} (h : k ≠ w) : uncorrectable (scrubWord s w).mem k = uncorrectable s.mem k := by
  have same : badSyms (scrubWord s w).mem k = badSyms s.mem k := by
    unfold badSyms
    rw [scrubWord_bad, if_neg h, (Patrolled.scrubWord s w).dead]
  unfold uncorrectable eccJudge
  rw [same]

/-- The words of a list put right: none keeps a stored bad symbol, and one found uncorrectable is poisoned. -/
theorem foldl_scrubWord : ∀ (ws : List Nat) (s : State) (k : Nat),
    (look 0 (ws.foldl scrubWord s).mem.bad k = if k ∈ ws then 0 else look 0 s.mem.bad k) ∧
      (setHas s.mem.psn k = true → setHas (ws.foldl scrubWord s).mem.psn k = true) ∧
      (k ∈ ws → uncorrectable s.mem k = true → setHas (ws.foldl scrubWord s).mem.psn k = true) ∧
      (k ∉ ws → setHas (ws.foldl scrubWord s).mem.psn k = setHas s.mem.psn k)
  | [], _, _ => ⟨(if_neg List.not_mem_nil).symm, id, fun h => absurd h List.not_mem_nil, fun _ => rfl⟩
  | w :: ws, s, k => by
    obtain ⟨bad, stays, marks, others⟩ := foldl_scrubWord ws (scrubWord s w) k
    have first := scrubWord_psn s w k
    rw [List.foldl_cons]
    refine ⟨?_, fun h => stays (by rw [first, h, Bool.true_or]), fun mem unc => ?_, fun out => ?_⟩
    · rw [bad, scrubWord_bad]
      by_cases same : k = w
      · simp [same]
      · simp [same]
    · by_cases same : k = w
      · subst same
        exact stays (by rw [first, unc, decide_eq_true rfl, Bool.and_true, Bool.or_true])
      · exact marks ((List.mem_cons.mp mem).resolve_left same) (by rw [uncorrectable_scrubWord s same, unc])
    · obtain ⟨apart, out⟩ := not_or.mp (fun h => out (List.mem_cons.mpr h))
      rw [others out, first, decide_eq_false apart, Bool.false_and, Bool.or_false]

/-- A word without an entry has no stored bad symbol. -/
theorem look_unlisted : ∀ (m : List (Nat × Nat)) (k : Nat), k ∉ m.map (·.1) → look 0 m k = 0
  | [], _, _ => rfl
  | (j, v) :: m, k, h => by
    obtain ⟨apart, rest⟩ := not_or.mp (fun e => h (List.mem_cons.mpr e))
    exact (if_neg (fun e => apart e.symm)).trans (look_unlisted m k rest)

theorem mem_scrubbed {s : State} {lo hi k : Nat} :
    k ∈ ((s.mem.bad.map (·.1)).filter (fun w => decide (lo ≤ 64 * w) && decide (64 * w < hi))) ↔
      k ∈ s.mem.bad.map (·.1) ∧ lo ≤ 64 * k ∧ 64 * k < hi := by
  rw [List.mem_filter, Bool.and_eq_true, decide_eq_true_eq, decide_eq_true_eq]

theorem scrubRange_patrols (s : State) (lo hi : Nat) : Patrolled s (scrubRange s lo hi) := .foldl ..

section Range

variable {s : State} {lo hi k : Nat}

theorem scrubRange_inside (low : lo ≤ 64 * k) (high : 64 * k < hi) : look 0 (scrubRange s lo hi).mem.bad k = 0 ∧
    (isNs (64 * k) = true → uncorrectable s.mem k = true → setHas (scrubRange s lo hi).mem.psn k = true) := by
  obtain ⟨bad, -, marks, -⟩ := foldl_scrubWord ((s.mem.bad.map (·.1)).filter (fun w => decide (lo ≤ 64 * w) && decide (64 * w < hi))) s k
  by_cases listed : k ∈ s.mem.bad.map (·.1)
  · have mem := mem_scrubbed.mpr ⟨listed, low, high⟩
    exact ⟨bad.trans (if_pos mem), fun _ unc => marks mem unc⟩
  · have none := look_unlisted s.mem.bad k listed
    refine ⟨bad.trans ((if_neg (fun h => listed (mem_scrubbed.mp h).1)).trans none), fun ns unc => ?_⟩
    have clean : uncorrectable s.mem k = false := by
      unfold uncorrectable eccJudge badSyms
      rw [none, ns]
      rfl
    rw [clean] at unc
    cases unc

theorem scrubRange_outside (out : 64 * k < lo ∨ hi ≤ 64 * k) :
    badSyms (scrubRange s lo hi).mem k = badSyms s.mem k ∧ setHas (scrubRange s lo hi).mem.psn k = setHas s.mem.psn k := by
  obtain ⟨bad, -, -, others⟩ := foldl_scrubWord ((s.mem.bad.map (·.1)).filter (fun w => decide (lo ≤ 64 * w) && decide (64 * w < hi))) s k
  have skip : k ∉ ((s.mem.bad.map (·.1)).filter (fun w => decide (lo ≤ 64 * w) && decide (64 * w < hi))) := by
    rw [mem_scrubbed]
    omega
  refine ⟨?_, others skip⟩
  have same : look 0 (scrubRange s lo hi).mem.bad k = look 0 s.mem.bad k := bad.trans (if_neg skip)
  unfold badSyms
  rw [same, (scrubRange_patrols s lo hi).dead]

end Range

/-! ### The patrol scrub -/

theorem wakePort_ns (s : State) (g : GroupId) : (wakePort s (.ns g)).pwr = s.pwr ∧ (wakePort s (.ns g)).cores = s.cores ∧
    ∀ k : GroupId, (wakePort s (.ns g)).mem.groups[k].scrubPos = s.mem.groups[k].scrubPos := by
  have port (f : Port → Port) (k : GroupId) : (modPort s (.ns g) f).mem.groups[k].scrubPos = s.mem.groups[k].scrubPos := by
    by_cases same : g.val = k.val
    · simp [modPort, same]
    · simp [modPort, same]
  unfold wakePort; dsimp only
  split
  · rw [if_neg (by simp)]
    exact ⟨rfl, rfl, port _⟩
  · exact ⟨rfl, rfl, fun _ => rfl⟩

/-- The group scrubbed in a frame, and the first address of the 64 KB scrubbed. -/
def patrolGroup (s : State) : GroupId := ⟨s.fr.ctr.toNat % 8, by omega⟩
def patrolFrom (s : State) : Nat := 0x400000 * (patrolGroup s).val + 0x10000 * s.mem.groups[patrolGroup s].scrubPos.toNat

/-- The words of a patrol put right. -/
def patrolled (s : State) : State := scrubRange (wakePort s (.ns (patrolGroup s))) (patrolFrom s) (patrolFrom s + 0x10000)

/-- The group's scrub position advanced. -/
def patrolMoved (v : State) (g : GroupId) : State :=
  { v with mem := { v.mem with groups := v.mem.groups.set g.val { v.mem.groups[g] with scrubPos := v.mem.groups[g].scrubPos + 1 } } }

theorem patrolScrub_runs {s : State} (runs : s.u.state = .running) (due : s.fr.cyc = s.fr.scrubOff)
    (up : domUp s ⟨11 + (patrolGroup s).val, by omega⟩ = true) :
    exec .patrolScrub s = .next (patrolMoved (patrolled s) (patrolGroup s)) := by
  have place := (wakePort_ns s (patrolGroup s)).2.2 (patrolGroup s)
  have from_ : 0x400000 * (patrolGroup s).val + 0x10000 * (wakePort s (.ns (patrolGroup s))).mem.groups[patrolGroup s].scrubPos.toNat =
      patrolFrom s := by rw [place]; rfl
  refine congrArg Host.Outcome.next ((if_neg ?_).trans ?_)
  · rintro (h | h | h)
    · exact h runs
    · exact h due
    · rw [show domUp s ⟨11 + (s.fr.ctr.toNat % 8), by omega⟩ = true from up] at h
      cases h
  · unfold patrolled
    rw [← from_]
    rfl

theorem patrolMoved_same (v : State) (g : GroupId) : KeepsStores v (patrolMoved v g) ∧
    (patrolMoved v g).mem.groups[g].scrubPos = v.mem.groups[g].scrubPos + 1 := by
  refine ⟨⟨rfl, fun k => ?_, rfl, rfl, rfl⟩, by simp [patrolMoved]⟩
  by_cases same : g.val = k.val
  · simp [patrolMoved, same]
  · simp [patrolMoved, same]

/-- One patrol: what it marks, and what it leaves. -/
theorem patrolled_rights (s : State) : KeepsStores s (patrolled s) ∧ (patrolled s).cores = s.cores ∧ (patrolled s).pwr = s.pwr ∧
    (patrolled s).mem.groups[patrolGroup s].scrubPos = s.mem.groups[patrolGroup s].scrubPos ∧
    (∀ w, patrolFrom s ≤ 64 * w → 64 * w < patrolFrom s + 0x10000 → badSyms (patrolled s).mem w = 0 ∧
      (uncorrectable s.mem w = true → setHas (patrolled s).mem.psn w = true)) ∧
    (∀ w, 64 * w < patrolFrom s ∨ patrolFrom s + 0x10000 ≤ 64 * w → badSyms (patrolled s).mem w = badSyms s.mem w ∧
      setHas (patrolled s).mem.psn w = setHas s.mem.psn w) := by
  obtain ⟨pwr, cores, place⟩ := wakePort_ns s (patrolGroup s)
  have keeps := wakePort_keeps s (.ns (patrolGroup s))
  have checks := wakePort_checks s (.ns (patrolGroup s))
  have bound : patrolFrom s + 0x10000 ≤ 0x2000000 := by
    have group := (patrolGroup s).isLt
    have pos := s.mem.groups[patrolGroup s].scrubPos.isLt
    unfold patrolFrom
    omega
  unfold patrolled
  generalize wakePort s (.ns (patrolGroup s)) = v at pwr cores place keeps checks ⊢
  obtain ⟨psn, bad, dead⟩ := id checks
  have whole := scrubRange_patrols v (patrolFrom s) (patrolFrom s + 0x10000)
  refine ⟨keeps.trans whole.bytes, whole.cores.trans cores, whole.pwr.trans pwr, ?_, fun w low high => ?_, fun w out => ?_⟩
  · rw [whole.groups]
    exact place _
  · obtain ⟨clean, marks⟩ := scrubRange_inside (s := v) low high
    have ns : isNs (64 * w) = true := by
      simp only [isNs, decide_eq_true_eq]
      omega
    refine ⟨?_, fun unc => marks ns (by rw [checks.uncorrectable, unc])⟩
    unfold badSyms
    rw [clean, ns]
    rfl
  · obtain ⟨same, psn'⟩ := scrubRange_outside (s := v) out
    refine ⟨same.trans ?_, psn'.trans (by rw [psn])⟩
    unfold badSyms
    rw [bad, dead]

/-! ### The refresh window -/

/-- What a lane's failure leaves: every byte, and the counts and positions of the windows. -/
structure Recalibrated (s t : State) : Prop where
  bytes : SameBytes s t
  refCnt : t.mem.refCnt = s.mem.refCnt
  refRow : t.mem.refRow = s.mem.refRow
  scrubPos : t.mem.scrubPos = s.mem.scrubPos

theorem Recalibrated.trans {s t u : State} (h : Recalibrated s t) (k : Recalibrated t u) : Recalibrated s u :=
  ⟨h.bytes.trans k.bytes, k.refCnt.trans h.refCnt, k.refRow.trans h.refRow, k.scrubPos.trans h.scrubPos⟩

theorem Recalibrated.refl (s : State) : Recalibrated s s := ⟨fun _ => rfl, rfl, rfl, rfl⟩

theorem Recalibrated.ofMem {s t : State} (h : t.mem = s.mem) : Recalibrated s t := ⟨.ofMem h, by rw [h], by rw [h], by rw [h]⟩

theorem Recalibrated.logged {s t : State} (h : Recalibrated s t) (e : Err) (l : Nat) : Recalibrated s (logRun t e locUnit l) :=
  h.trans (.ofMem (logRun_mem ..))

theorem badLane_recalibrates (failed : List Nat) (g : Fin 32) (s : State) (l : Nat) : Recalibrated s (badLane failed g s l) := by
  unfold badLane
  split
  · exact .refl s
  split
  · refine Recalibrated.logged ?_ _ _
    exact ⟨.ofKeeps (.ofGroups rfl rfl rfl rfl rfl), rfl, rfl, rfl⟩
  split
  · have lost : Recalibrated s (logRun { s with mem := { s.mem with
        deadLanes := setAdd s.mem.deadLanes l, laneFail := s.mem.laneFail.set g.val (s.mem.laneFail[g] + 1) } } .dsLaneNospare locUnit l) := by
      refine Recalibrated.logged ?_ _ _
      exact ⟨.ofKeeps (.ofGroups rfl rfl rfl rfl rfl), rfl, rfl, rfl⟩
    dsimp only
    split
    · exact lost.trans (.ofMem (unitFatal_fences ..).2.2.2.2.2.1)
    · exact lost
  · exact .refl s

theorem foldl_badLane (failed : List Nat) (g : Fin 32) : ∀ (ls : List Nat) (s : State), Recalibrated s (ls.foldl (badLane failed g) s)
  | [], s => .refl s
  | l :: ls, s => (badLane_recalibrates failed g s l).trans (foldl_badLane failed g ls _)

theorem recalibrate_recalibrates (s : State) (failed : List Nat) (g : Fin 32) : Recalibrated s (recalibrate s failed g) := by
  unfold recalibrate; dsimp only
  generalize (groupLanes g.val).filter (fun l => failed.contains l || decide (s.mem.laneThr.toNat ≤ (look 0 s.mem.laneErr l).toNat)) = hit
  have lanes := foldl_badLane failed g hit s
  generalize hit.foldl (badLane failed g) s = v at lanes ⊢
  exact lanes.trans ⟨.ofKeeps (.ofGroups rfl rfl rfl rfl rfl), rfl, rfl, rfl⟩

/-- The lane group of a refresh window. -/
def refreshGroup (s : State) : Fin 32 := ⟨s.mem.refCnt.toNat % 32, by omega⟩

/-- A window's lanes recalibrated, its granules put right. -/
def lanesDone (s : State) (lanes : List (Nat × Nat)) (failed : List Nat) : State :=
  recalibrate (countLanes s (lanes.filter (fun x => x.1 < 8448))) failed (refreshGroup s)
def granulesDone (v : State) : State :=
  scrubRange v (0x40000000 + 512 * v.mem.scrubPos.toNat) (0x40000000 + 512 * v.mem.scrubPos.toNat + 512 * 32)

/-- The counts and positions of a window advanced. -/
def windowDone (v : State) : State :=
  { v with mem := { v.mem with refCnt := sat32 v.mem.refCnt 1, refRow := v.mem.refRow + 64, scrubPos := v.mem.scrubPos + 32 } }

theorem dsRefreshWindow_runs {s : State} (runs : s.u.state = .running) (starts : refreshStarts s = true) (up : domUp s 20 = true)
    (lanes : List (Nat × Nat)) (failed : List Nat) :
    exec (.dsRefreshWindow lanes failed) s = .next (windowDone (granulesDone (lanesDone s lanes failed))) := by
  refine congrArg Host.Outcome.next ((if_neg ?_).trans (if_neg (by rw [up]; decide)))
  rintro (h | h)
  · exact h runs
  · rw [starts] at h
    cases h

/-- A lane that fails training while its group has a spare takes it. -/
theorem recalibrate_spares {s : State} {g : Fin 32} {l : Nat} (own : l ∈ groupLanes g.val) (clean : s.mem.laneErr = [])
    (thr : s.mem.laneThr ≠ 0) (in_ : s.mem.outLanes.contains l = false) (live : s.mem.deadLanes.contains l = false) (free : s.mem.spares[g] < 8) :
    (recalibrate s [l] g).mem.spares = s.mem.spares.set g.val (s.mem.spares[g] + 1) ∧
      (recalibrate s [l] g).mem.lastSwap = s.mem.lastSwap.set g.val (BitVec.ofNat 8 l) := by
  have positive : 0 < s.mem.laneThr.toNat := Nat.pos_of_ne_zero (fun h => thr (BitVec.eq_of_toNat_eq h))
  have nodup : (groupLanes g.val).Nodup := by
    have lt := g.isLt
    unfold groupLanes
    rw [span_eq_range', span_eq_range', List.nodup_append]
    refine ⟨List.nodup_range', List.nodup_range', fun a ha b hb => ?_⟩
    rw [List.mem_range'_1] at ha hb
    omega
  have hit : (groupLanes g.val).filter (fun k => [l].contains k || decide (s.mem.laneThr.toNat ≤ (look 0 s.mem.laneErr k).toNat)) = [l] := by
    have alone : (fun k => [l].contains k || decide (s.mem.laneThr.toNat ≤ (look 0 s.mem.laneErr k).toNat)) = (fun k => decide (k = l)) := by
      funext k
      rw [clean]
      have none : decide (s.mem.laneThr.toNat ≤ (look (0 : Word) [] k).toNat) = false := decide_eq_false (Nat.not_le.mpr positive)
      rw [none, Bool.or_false]
      simp
    rw [alone, List.filter_eq, List.count_eq_one_of_mem nodup own]
    rfl
  unfold recalibrate; dsimp only
  rw [hit, List.foldl_cons, List.foldl_nil]
  unfold badLane
  rw [in_, live, Bool.or_false, if_neg Bool.false_ne_true, if_pos free]
  exact ⟨by rw [logRun_mem], by rw [logRun_mem]⟩

/-- Settles O47: a patrol marks what it cannot correct, a window counts itself, and neither changes a byte. -/
theorem scrubAndRefreshWindows : Obligations.ScrubAndRefreshWindows := by
  intro s runs
  refine ⟨fun due up => ?_, fun early => congrArg Host.Outcome.next (if_pos (.inr (.inl early))), fun starts up lanes failed => ?_,
    fun skip lanes failed => ?_⟩
  · obtain ⟨bytes, cores, pwr, place, inside, outside⟩ := patrolled_rights s
    have run := patrolScrub_runs runs due up
    generalize patrolled s = v at run bytes cores pwr place inside outside
    obtain ⟨keeps, moved⟩ := patrolMoved_same v (patrolGroup s)
    exact ⟨_, run, .ofKeeps (bytes.trans keeps), moved.trans (congrArg (· + 1) place), inside, outside, (bytes.trans keeps).2.2.2.2, cores, pwr⟩
  · have run := dsRefreshWindow_runs runs starts up lanes failed
    have counted : Recalibrated s (countLanes s (lanes.filter (fun x => x.1 < 8448))) :=
      ⟨.ofKeeps (.ofGroups rfl rfl rfl rfl rfl), rfl, rfl, rfl⟩
    have lanesKeep := counted.trans (recalibrate_recalibrates _ failed (refreshGroup s))
    obtain ⟨v, hv⟩ : ∃ v, v = lanesDone s lanes failed := ⟨_, rfl⟩
    have kept : Recalibrated s v := hv ▸ lanesKeep
    have right := scrubRange_patrols v (0x40000000 + 512 * v.mem.scrubPos.toNat) (0x40000000 + 512 * v.mem.scrubPos.toNat + 512 * 32)
    rw [← hv] at run
    have done : granulesDone v = scrubRange v (0x40000000 + 512 * v.mem.scrubPos.toNat) (0x40000000 + 512 * v.mem.scrubPos.toNat + 512 * 32) := rfl
    rw [← done] at right
    generalize granulesDone v = w at run right
    refine ⟨_, run, ?_, ?_, ?_, ?_, fun g l named own none fails clean thr in_ live free => ?_⟩
    · exact kept.bytes.trans ((SameBytes.ofKeeps right.bytes).trans (.ofKeeps (.ofGroups rfl rfl rfl rfl rfl)))
    · show sat32 w.mem.refCnt 1 = _
      rw [right.refCnt, kept.refCnt]
    · show w.mem.refRow + 64 = _
      rw [right.refRow, kept.refRow]
    · show w.mem.scrubPos + 32 = _
      rw [right.scrubPos, kept.scrubPos]
    · have same : g = refreshGroup s := Fin.ext named
      obtain ⟨spares, swap⟩ := recalibrate_spares (s := s) own clean thr in_ live free
      have lanesDone_eq : v = recalibrate s [l] g := by
        rw [hv, lanesDone, none, fails, same]
        rfl
      show w.mem.spares[g] = _ ∧ w.mem.lastSwap[g] = _
      rw [right.spares, right.lastSwap, lanesDone_eq, spares, swap]
      exact ⟨Vector.getElem_set_self _, Vector.getElem_set_self _⟩
  · rcases skip with h | h
    · exact congrArg Host.Outcome.next (if_pos (.inr (by rw [h]; rfl)))
    · refine congrArg Host.Outcome.next ?_
      by_cases starts : s.u.state ≠ .running ∨ (!refreshStarts s) = true
      · exact if_pos starts
      · exact (if_neg starts).trans (if_pos (by rw [h]; rfl))

end Sys2Proof.Machine
end

section
set_option Elab.async false -- one proof after another: this bounds the memory that a check of the whole text takes
/-! PROOFS. What a step keeps while it neither takes nor ends a command or a tick: the canonical form of the stores and of
the counter file, the command, the tick, the debt of the divider and the tokens of the Stream Mover. One lemma for each shared operation. -/

namespace Sys2Proof.Machine

variable {s t u : State}

/-- The same tick: only the counts of a frame and the misses raised in it may differ. -/
def SameTick (f g : FrameCtl) : Prop :=
  g = { f with ovr := g.ovr, late := g.late, dlMiss := g.dlMiss, missRaised := g.missRaised }

/-- Between `s` and `t` the canonical form is kept, and neither the command nor the tick nor the Mover's tokens change. -/
structure Within (s t : State) : Prop where
  inv : Inv s → Inv t
  cmd : t.cmd = s.cmd
  tick : SameTick s.fr t.fr
  debt : t.pwr.divFrame = s.pwr.divFrame
  ports : t.mov.bucket = s.mov.bucket ∧ t.mov.reg = s.mov.reg

theorem SameTick.refl (f : FrameCtl) : SameTick f f := rfl

theorem SameTick.trans {f g k : FrameCtl} (h : SameTick f g) (h' : SameTick g k) : SameTick f k := by
  unfold SameTick at *; rw [h', h]

theorem Within.refl (s : State) : Within s s := ⟨id, rfl, rfl, rfl, rfl, rfl⟩

theorem Within.trans (h : Within s t) (k : Within t u) : Within s u :=
  ⟨k.inv ∘ h.inv, k.cmd.trans h.cmd, h.tick.trans k.tick, k.debt.trans h.debt,
    k.ports.1.trans h.ports.1, k.ports.2.trans h.ports.2⟩

/-- Everything that `Within` speaks of stands. -/
theorem Within.rest (h : Within s t) (mem : u.mem = t.mem := by rfl) (cnt : u.cnt = t.cnt := by rfl)
    (cmd : u.cmd = t.cmd := by rfl) (fr : u.fr = t.fr := by rfl) (debt : u.pwr.divFrame = t.pwr.divFrame := by rfl)
    (ports : u.mov.bucket = t.mov.bucket ∧ u.mov.reg = t.mov.reg := by exact ⟨rfl, rfl⟩) : Within s u :=
  h.trans ⟨fun i => i.keeps (.same mem cnt), cmd, by rw [fr]; rfl, debt, ports⟩

/-- The bytes of the stores and the counters stand. -/
theorem Within.keeps (h : Within s t) (k : KeepsStores t u) (cmd : u.cmd = t.cmd := by rfl) (fr : u.fr = t.fr := by rfl)
    (debt : u.pwr.divFrame = t.pwr.divFrame := by rfl)
    (ports : u.mov.bucket = t.mov.bucket ∧ u.mov.reg = t.mov.reg := by exact ⟨rfl, rfl⟩) : Within s u :=
  h.trans ⟨fun i => i.keeps k, cmd, by rw [fr]; rfl, debt, ports⟩

/-- Canonical stores take the place of canonical stores. -/
theorem Within.stores (h : Within s t) (wf : Memory.wf t.mem = true → Memory.wf u.mem = true) (cnt : u.cnt = t.cnt := by rfl)
    (cmd : u.cmd = t.cmd := by rfl) (fr : u.fr = t.fr := by rfl) (debt : u.pwr.divFrame = t.pwr.divFrame := by rfl)
    (ports : u.mov.bucket = t.mov.bucket ∧ u.mov.reg = t.mov.reg := by exact ⟨rfl, rfl⟩) : Within s u :=
  h.trans ⟨fun i => ⟨wf i.1, by rw [cnt]; exact i.2⟩, cmd, by rw [fr]; rfl, debt, ports⟩

/-- Steps one after another. -/
theorem foldl_within {α β : Type} (g : α → State) (f : α → β → α) (step : ∀ a b, Within (g a) (g (f a b))) :
    ∀ (l : List β) {a : α}, Within s (g a) → Within s (g (l.foldl f a))
  | [], _, h => h
  | b :: l, a, h => foldl_within g f step l (h.trans (step a b))

theorem folds_within {β : Type} {f : State → β → State} (step : ∀ a b, Within a (f a b)) (l : List β) (h : Within s t) :
    Within s (l.foldl f t) := foldl_within id f step l h

/-! ### One part of the state -/

theorem modCore_within {c : CoreId} {f : Core → Core} (h : Within s t) : Within s (modCore t c f) := h.rest
theorem modCl_within {k : ClusterId} {f : Cluster → Cluster} (h : Within s t) : Within s (modCl t k f) := h.rest
theorem modChan_within {k : ChanId} {f : Chan → Chan} (h : Within s t) : Within s (modChan t k f) := h.rest
theorem modEa_within {a : EaId} {f : Attach → Attach} (h : Within s t) : Within s (modEa t a f) := h.rest
theorem modTap_within {k : TapId} {f : Tap → Tap} (h : Within s t) : Within s (modTap t k f) := h.rest
theorem modPart_within {p : Part} {f : PartSt → PartSt} (h : Within s t) : Within s (modPart t p f) := h.rest
theorem modStream_within {x : StreamId} {f : Stream → Stream} (h : Within s t) : Within s (modStream t x f) := h.rest
theorem modDom_within {d : DomId} {f : Dom → Dom} (h : Within s t) : Within s (modDom t d f) := h.rest

/-! ### Log, events, agents and domains -/

theorem logAt_within {e : Err} {cls loc d : Nat} {st : Option (Fin 64)} (h : Within s t) : Within s (logAt t e cls loc st d) := by
  rw [logAt_eq]; exact h.rest

theorem logRun_within {e : Err} {loc d : Nat} (h : Within s t) : Within s (logRun t e loc d) := logAt_within h

theorem logRefused_within {e : Err} {loc d : Nat} (h : Within s t) : Within s (logRefused t e loc d) := logAt_within h

theorem raiseEvt_within {e : Evt} (h : Within s t) : Within s (raiseEvt t e) := h.rest

@[simp] theorem logRun_pwr (s : State) (e : Err) (loc d : Nat) : (logRun s e loc d).pwr = s.pwr := by rw [logRun, logAt_eq]

theorem modAg_within {ag : Agent} {f : AgentSt → AgentSt} (h : Within s t) : Within s (modAg t ag f) := by
  cases ag <;> exact h.rest

theorem touchDom_within {d : DomId} (h : Within s t) : Within s (touchDom t d) := by
  unfold touchDom; split <;> exact h.rest

theorem touchAg_within {ag : Agent} (h : Within s t) : Within s (touchAg t ag) := by
  cases ag with
  | core c => exact touchDom_within (touchDom_within h)
  | chan k => exact touchDom_within h
  | ea a => exact touchDom_within h

theorem progress_within {ag : Agent} (h : Within s t) : Within s (progress t ag) := touchAg_within (modAg_within h)

theorem waitFor_within {ag : Agent} {w : Wait} (h : Within s t) : Within s (waitFor t ag w) := modAg_within h

theorem drawFree_within (h : Within s t) : Within s (drawFree t).1 := h.rest

theorem countEv_within {e : PwrEv} {n : Nat} (h : Within s t) : Within s (countEv t e n) := h.rest

theorem countFlit_within (h : Within s t) : Within s (countFlit t) := by
  have k : Within s (touchDom (touchDom (countEv t .flit 1) 22) 1) := touchDom_within (touchDom_within (countEv_within h))
  unfold countFlit
  generalize touchDom (touchDom (countEv t .flit 1) 22) 1 = v at k ⊢
  exact k.rest

/-! ### Counters -/

theorem setCtr_within {c : Ctr} {x : Counter} (h : Within s t) : Within s (setCtr t c x) :=
  h.trans ⟨fun i => i.setCtr c x, rfl, rfl, rfl, rfl, rfl⟩

theorem checkParity_within {c : Ctr} (h : Within s t) : Within s (checkParity t c) := by
  unfold checkParity; dsimp only; split
  · exact logRun_within (setCtr_within (c := c) (x := { ctrOf t c with psn := true }) h).rest
  · exact h

theorem incCtr_within {c : Ctr} {n : Word} {b : Bool} (h : Within s t) : Within s (incCtr t c n b) := by
  unfold incCtr; dsimp only; split
  · exact checkParity_within h
  · exact setCtr_within (checkParity_within h)

theorem incCtrBy_within {p : Part} {loc : Nat} {c : Ctr} {n : Word} {b : Bool} (h : Within s t) :
    Within s (incCtrBy t p loc c n b) := by
  unfold incCtrBy; split
  · exact logRun_within h
  · exact incCtr_within h

theorem poisonCtrBy_within {p : Part} {loc : Nat} {c : Ctr} (h : Within s t) : Within s (poisonCtrBy t p loc c) := by
  unfold poisonCtrBy; split
  · exact logRun_within h
  · exact setCtr_within h

theorem poisonCtrs_within {cs : List Ctr} (h : Within s t) : Within s (poisonCtrs t cs) :=
  folds_within (fun _ _ => setCtr_within (.refl _)) cs h

/-! ### Accesses -/

theorem modPort_within {st : StoreId} {f : Port → Port} (h : Within s t) : Within s (modPort t st f) := by
  have k := modPort_keeps t st f
  cases st with
  | ns g => exact h.keeps k
  | ds => exact h.keeps k

theorem presents_within {rs : List XbReq} {n : Nat} (h : Within s t) : Within s (presents t rs n) :=
  (touchDom_within (d := 1) h).rest

theorem presentAt_within {x : Fin 15} {m : Fin 45} {p : Part} {n : Nat} (h : Within s t) : Within s (presentAt t x m p n) :=
  presents_within h

theorem absorb_within {f : Fin 45 → Part → Bool} (h : Within s t) : Within s (absorb t f) := h.rest

theorem outside_within {v : State} (h : Within s t) (k : Within s v) : Within s (outside t v) := by
  unfold outside; split
  · exact h
  · exact k

theorem presentWords_within {who : Who} {b : Bool} {part ws : List Nat} (h : Within s t) : Within s (presentWords t who b part ws) := by
  unfold presentWords; split
  · exact h
  · exact presents_within h

theorem wakePort_within {st : StoreId} (h : Within s t) : Within s (wakePort t st) := by
  unfold wakePort; dsimp only; split
  · split
    · exact touchDom_within (modPort_within h)
    · exact modPort_within h
  · exact h

theorem eccRead_within {w : Nat} (h : Within s t) : Within s (eccRead t w) := by
  refine h.trans ⟨fun i => i.keeps (eccRead_keeps t w), ?_, ?_, ?_, ?_⟩
  · rw [(eccRead_looks t w).1.1]
  · rw [(eccRead_looks t w).1.1]; rfl
  · unfold eccRead; dsimp only
    repeat' split
    all_goals simp
  · rw [(eccRead_looks t w).1.1]; exact ⟨rfl, rfl⟩

theorem groupOff_within {who : Who} {a : Nat} {b : Bool} (h : Within s t) : Within s (groupOff t who a b) := by
  refine h.trans ⟨fun i => i.keeps (groupOff_keeps t who a b), ?_, ?_, ?_, ?_⟩
  · rw [(groupOff_looks t who a b).1.1]
  · rw [(groupOff_looks t who a b).1.1]; rfl
  · unfold groupOff; dsimp only
    repeat' split
    all_goals simp
  · rw [(groupOff_looks t who a b).1.1]; exact ⟨rfl, rfl⟩

theorem readWord_within {who : Who} {w : Nat} (h : Within s t) : Within s (readWord t who w).1 := by
  unfold readWord; dsimp only
  have p : Within s (wakePort t (storeOf (64 * w))) := wakePort_within h
  repeat' split
  · exact logRun_within h
  · exact groupOff_within (who := who) (a := 64 * w) (b := false) h
  · exact eccRead_within (countEv_within p.rest)
  · exact eccRead_within p
  · exact p

theorem countGranules_within {ws : List Nat} (h : Within s t) : Within s (countGranules t ws) :=
  folds_within (fun a _ => countEv_within (.rest (.refl a))) _ h

theorem openRead_within {who : Who} {ws : List Nat} (h : Within s t) : Within s (openRead t who ws) :=
  countGranules_within (presentWords_within h)

theorem openWrite_within {who : Who} {ws : List WordWr} (h : Within s t) : Within s (openWrite t who ws) :=
  countGranules_within (presentWords_within h)

theorem readWords_within {who : Who} {ws : List Nat} (h : Within s t) : Within s (readWords t who ws).1 :=
  foldl_within (α := State × List RdWord) Prod.fst _ (fun _ _ => readWord_within (.refl _)) ws (openRead_within h)

theorem writeWord_within {who : Who} {w : Nat} {x mask : BitVec 512} {b : Bool} (h : Within s t) :
    Within s (writeWord t who w x mask b).1 := by
  have p : Within s (wakePort t (storeOf (64 * w))) := wakePort_within h
  unfold writeWord; dsimp only
  split
  · exact logRun_within h
  split
  · exact groupOff_within (who := who) (a := 64 * w) (b := true) h
  · generalize wakePort t (storeOf (64 * w)) = g at p ⊢
    have q : Within s (if mask = BitVec.allOnes 512 ∨ holds g.mem w = false then g else eccRead g w) := by
      split
      · exact p
      · exact eccRead_within p
    generalize (if mask = BitVec.allOnes 512 ∨ holds g.mem w = false then g else eccRead g w) = e at q ⊢
    split
    · exact (countEv_within (e := .nsWr) (n := 1) (t := { e with pwr := { e.pwr with nsWr := sat32 e.pwr.nsWr 1 } }) q.rest).stores
        (wf_storeWord w x mask b)
    · exact q.stores (wf_storeWord w x mask b)

theorem putWords_within {who : Who} {b : Bool} : ∀ {l : List WordWr} {t : State}, Within s t → Within s (putWords t who l b).1
  | [], _, h => h
  | x :: l, t, h => by
    have k := writeWord_within (who := who) (w := x.word) (x := x.data) (mask := x.mask) (b := b) h
    unfold putWords
    split <;> rename_i e <;> rw [e] at k
    · exact putWords_within k
    · exact putWords_within k
    · exact k

theorem writeWords_within {who : Who} {l : List WordWr} {b : Bool} (h : Within s t) : Within s (writeWords t who l b).1 :=
  putWords_within (openWrite_within h)

/-! ### Fences -/

theorem proposeRow_within {k a : Nat} {b : Bool} (h : Within s t) : Within s (proposeRow t k a b) := by
  unfold proposeRow; dsimp only; split <;> exact h.rest

theorem dropLadle_within {p : LadSrc → Bool} (h : Within s t) : Within s (dropLadle t p) := h.rest

theorem abortTask_within {p : Part} (h : Within s t) : Within s (abortTask t p) := by
  unfold abortTask; dsimp only
  refine modPart_within (absorb_within (poisonCtrs_within ?_))
  exact h.rest

theorem fenceCore_within {c : CoreId} (h : Within s t) : Within s (fenceCore t c) := abortTask_within h.rest

theorem failCore_within {c : CoreId} {e : Err} {d : Nat} (h : Within s t) : Within s (failCore t c e d) :=
  fenceCore_within (logRun_within h)

theorem failCoreHw_within {c : CoreId} {e : Err} {d : Nat} (h : Within s t) : Within s (failCoreHw t c e d) := by
  have f : Within s (failCore t c e d) := failCore_within h
  unfold failCoreHw; dsimp only
  generalize failCore t c e d = v at f ⊢
  exact proposeRow_within (modCore_within f)

theorem failCluster_within {k : ClusterId} {e : Err} {d : Nat} (h : Within s t) : Within s (failCluster t k e d) := by
  have l : Within s (logRun t e (locCluster k) d) := logRun_within h
  unfold failCluster; dsimp only
  generalize logRun t e (locCluster k) d = v at l ⊢
  refine abortTask_within (modCl_within ?_)
  exact l.rest

theorem fenceChan_within {k : ChanId} (h : Within s t) : Within s (fenceChan t k) :=
  folds_within (fun _ _ => poisonCtrBy_within (.refl _)) _ (dropLadle_within h.rest)

theorem failChan_within {k : ChanId} {e : Err} {d : Nat} (h : Within s t) : Within s (failChan t k e d) :=
  fenceChan_within (logRun_within h)

theorem poisonDrain_within {a : EaId} {i : BitVec 2} {d : Fin 16} {c : Ctr} (h : Within s t) : Within s (poisonDrain t a i d c) := by
  unfold poisonDrain; split
  · exact h
  · exact poisonCtrBy_within h

theorem fenceDrain_within {a : EaId} (h : Within s t) : Within s (fenceDrain t a) := by
  unfold fenceDrain; dsimp only; split
  · exact (poisonDrain_within (a := a) h).rest
  · exact h.rest

theorem fenceEa_within {a : EaId} (h : Within s t) : Within s (fenceEa t a) := abortTask_within h.rest

theorem failEa_within {a : EaId} {e : Err} {d : Nat} (h : Within s t) : Within s (failEa t a e d) := fenceEa_within (logRun_within h)

theorem logFenced_within {st : StreamId} {loc : Nat} (h : Within s t) : Within s (logFenced t st loc) := logAt_within h

theorem unitFatal_within {e : Err} {d : Nat} (h : Within s t) : Within s (unitFatal t e d) :=
  poisonCtrs_within (absorb_within (logRun_within (e := e) (loc := locUnit) (d := d) h).rest)

/-! ### Issue -/

theorem issue_within {c : CoreId} {n : Needs} {f : State → State} (h : Within s t) (k : Within s (f t)) : Within s (issue t c n f) := by
  unfold issue
  repeat' split
  · exact failCore_within h
  · exact outside_within h k
  · exact h

theorem retire_within {c : CoreId} {n : Nat} (h : Within s t) : Within s (retire t c n) := progress_within h.rest

theorem issueNext_within {c : CoreId} {n : Needs} {f : State → State} (h : Within s t) (k : Within s (f t)) :
    Within s (issueNext t c n f) := issue_within h (retire_within k)

end Sys2Proof.Machine
end

section
set_option Elab.async false -- one proof after another: this bounds the memory that a check of the whole text takes
/-! PROOFS. Reads of runs, rows and beats, the queues of a core, and the core's own instructions keep the canonical form. -/

namespace Sys2Proof.Machine

variable {s t u : State} {c : CoreId}

/-- The command ends in canonical form. -/
def Ends (r : Res) : Prop := ∃ t, r = .next t ∧ Inv t

/-- A command whose effect stays within the tick and the command in progress ends in canonical form. -/
theorem Within.ends (h : Within s t) (i : Inv s) : Ends (.next t) := ⟨t, rfl, h.inv i⟩

/-! ### Reads -/

theorem readBeat_within {who : Who} {d : Desc} {pos : Option (Nat × Nat)} (h : Within s t) : Within s (readBeat t who d pos).1 := by
  cases pos with
  | none => exact h
  | some p => exact readWords_within h

theorem readEntry_within {i : Nat} (h : Within s t) : Within s (readEntry t i).1 := by
  unfold readEntry; dsimp only
  repeat' split
  · exact h
  · exact h.rest
  · exact h

theorem drawBits_within : ∀ {n : Nat} {t : State}, Within s t → Within s (drawBits n t).1
  | 0, _, h => h
  | n + 1, t, h => drawBits_within (n := n) (t := (drawFree t).1) (drawFree_within h)

theorem copyFill_within {p : Part} {a n : Nat} (h : Within s t) : Within s (copyFill t p a n).1 := by
  unfold copyFill; split
  · exact h
  · exact drawBits_within h

/-! ### The load queue -/

theorem loadBeat_within {who : Who} {e : BitVec 256} {d : Desc} {j : Nat} (h : Within s t) :
    Within s (loadBeat t c who e d j).1 := by
  unfold loadBeat; dsimp only; split
  · exact readWords_within (copyFill_within h)
  · exact readBeat_within h

theorem takeCredit_within {e : BitVec 256} (h : Within s t) : Within s (takeCredit t e) := by
  unfold takeCredit; split
  · exact setCtr_within h
  · exact h

theorem askCredit_within {p : Part} {loc : Nat} {e : BitVec 256} (h : Within s t) : Within s (askCredit t p loc e).1 := by
  unfold askCredit; dsimp only
  repeat' split
  · exact h
  · exact logRun_within h
  · exact checkParity_within h

theorem startLoad_within {l : ListRef} (h : Within s t) : Within s (startLoad t c l).1 := by
  unfold startLoad; dsimp only
  have r : Within s (readEntry t (l.first + t.cores[c].fetch.block)).1 := readEntry_within h
  split
  · split <;> rename_i e <;> simp only [e] at r
    · exact failCore_within r
    · split
      · exact failCore_within r
      · dsimp only; exact modCore_within (takeCredit_within r)
  · exact h

/-- What a beat's fetch answers, and that a beat fetched is the state that goes on. -/
theorem fetchBeat_within {k : Nat} {r : Option State × State} (h : Within s t) (e : fetchBeat t c k = r) :
    Within s r.2 ∧ ∀ v, r.1 = some v → v = r.2 := by
  unfold fetchBeat at e
  dsimp only at e
  split at e
  · subst e; exact ⟨h, fun v q => absurd q.symm (Option.some_ne_none v)⟩
  · rename_i l _
    have st : Within s (startLoad t c l).1 := startLoad_within h
    split at e <;> rename_i q <;> simp only [q] at st <;> subst e
    · exact ⟨st, fun v q => absurd q.symm (Option.some_ne_none v)⟩
    · exact ⟨by dsimp only; exact modCore_within (loadBeat_within st), fun v q => (Option.some.inj q).symm⟩

theorem fetchFrom_within : ∀ {n k : Nat} {t : State}, Within s t → Within s (fetchFrom c n k t)
  | 0, _, _, h => h
  | n + 1, k, t, h => by
    unfold fetchFrom
    split <;> rename_i e <;> obtain ⟨ended, goes⟩ := fetchBeat_within h e
    · exact ended
    · exact fetchFrom_within (goes _ rfl ▸ ended)

theorem popLq_within (h : Within s t) : Within s (popLq t c).1 := by
  unfold popLq; dsimp only
  split
  · exact h
  · dsimp only; split
    · exact incCtrBy_within (modCore_within h)
    · exact modCore_within h

/-! ### The store queue -/

theorem startStore_within {l : ListRef} (h : Within s t) : Within s (startStore t c l).1 := by
  unfold startStore; dsimp only
  have r : Within s (readEntry t (l.first + t.cores[c].storePos.block)).1 := readEntry_within h
  split
  · split <;> rename_i e <;> simp only [e] at r
    · exact failCore_within r
    · split
      · exact failCore_within r
      · exact takeCredit_within r
  · exact h

theorem pushList_within {x : Bits} {p : Bool} (h : Within s t) : Within s (pushList t c x p) := by
  unfold pushList; dsimp only
  split
  · exact h
  · rename_i l _
    have r : Within s (startStore t c l).1 := startStore_within h
    split <;> rename_i e <;> simp only [e] at r
    · exact r
    · exact modCore_within r

theorem pushOwn_within {e : SqEntry} (h : Within s t) : Within s (pushOwn t c e) := modCore_within h

theorem pushBeat_within {p : SqPush} (h : Within s t) : Within s (pushBeat t c p) := by
  cases p with
  | list x b => exact pushList_within h
  | own e => exact pushOwn_within h

theorem storeCredit_within (h : Within s t) : Within s (storeCredit t c).1 := by
  unfold storeCredit
  repeat' split
  · exact h
  · exact h
  · exact askCredit_within h

theorem pushSome_within : ∀ {ps : List SqPush} {t : State}, Within s t → Within s (pushSome c ps t).1
  | [], _, h => h
  | p :: ps, t, h => by
    unfold pushSome
    split
    · exact h
    split
    · exact h
    split
    · dsimp only; split
      · exact pushSome_within (pushBeat_within (storeCredit_within h))
      · exact storeCredit_within h
    · exact pushSome_within (pushBeat_within h)

theorem stallSq_within (h : Within s t) : Within s (stallSq t c) := waitFor_within (modCore_within h)

theorem stallLq_within (h : Within s t) : Within s (stallLq t c) := waitFor_within (modCore_within h)

theorem blockDone_within {b : Option BlkTag} {n : Nat} {p : Bool} (h : Within s t) : Within s (blockDone t c b n p) := by
  unfold blockDone; dsimp only
  split
  · exact h
  split
  · split
    · exact modCore_within h
    · exact incCtrBy_within (modCore_within h)
  · exact modCore_within h

theorem modFeed_within {a : EaId} {b : Bool} {f : OpPort → OpPort} (h : Within s t) : Within s (modFeed t a b f) := modEa_within h

theorem countOob_within {n : Nat} (h : Within s t) : Within s (countOob t c n) := modCore_within h

theorem drainSq_within (h : Within s t) : Within s (drainSq t c) := by
  unfold drainSq; dsimp only
  split
  · exact h
  split
  · rename_i e r _ _ ws _
    have k : Within s (writeWords (modCore t c fun k => { k with sq := r, wrPsn := k.wrPsn || e.psn }) (whoStore c) ws e.psn).1 :=
      writeWords_within (modCore_within h)
    split
    · exact fenceCore_within (countOob_within k)
    · exact progress_within (blockDone_within (countOob_within k))
  · split
    · exact modCore_within h
    · exact progress_within (blockDone_within (modFeed_within (presentAt_within (modCore_within h))))

/-! ### Control and synchronisation -/

theorem execNop_ends (i : Inv s) : Ends (execNop c s) := (issueNext_within (.refl s) (.refl s)).ends i

theorem execHalt_ends (i : Inv s) : Ends (execHalt c s) := by
  refine Within.ends (issue_within (.refl s) ?_) i
  split
  · exact modCore_within (progress_within (.refl s))
  · exact .refl s

theorem execFwait_ends {f : BitVec 24} (i : Inv s) : Ends (execFwait c f s) := by
  refine Within.ends (issue_within (.refl s) ?_) i
  repeat' split
  · exact .refl s
  · exact .refl s
  · exact retire_within (.refl s)

theorem execLyend_ends (i : Inv s) : Ends (execLyend c s) := by
  refine Within.ends (issue_within (.refl s) ?_) i
  split
  · exact retire_within (modCore_within (.refl s))
  · exact .refl s

theorem execLoop_ends {n : BitVec 24} (i : Inv s) : Ends (execLoop c n s) := by
  refine Within.ends (issue_within (.refl s) ?_) i
  dsimp only; split
  · exact retire_within (modCore_within (.refl s))
  · exact .refl s

theorem execEndl_ends (i : Inv s) : Ends (execEndl c s) := by
  refine Within.ends (issue_within (.refl s) ?_) i
  repeat' split
  · exact .refl s
  · exact retire_within (modCore_within (.refl s))
  · exact progress_within (modCore_within (.refl s))

theorem execWcnt_ends {adv : Bool} {sa : SReg} {ctr : Ctr} {n : BitVec 14} (i : Inv s) : Ends (execWcnt c adv sa ctr n s) := by
  refine Within.ends (issue_within (.refl s) ?_) i
  dsimp only
  have k : Within s (checkParity s ctr) := checkParity_within (.refl s)
  generalize checkParity s ctr = v at k ⊢
  repeat' split
  · exact .refl s
  · exact failCore_within k
  · exact retire_within (modCore_within k)
  · exact retire_within k
  · exact waitFor_within (modCore_within k)

theorem execSig_ends {ctr : Ctr} {n : BitVec 14} (i : Inv s) : Ends (execSig c ctr n s) := by
  refine Within.ends (issue_within (.refl s) ?_) i
  split
  · exact retire_within (incCtrBy_within (.refl s))
  · exact .refl s

/-! ### Moves -/

theorem writeV_within {v : VReg} {x : Bits} {p : Bool} (h : Within s t) : Within s (writeV t c v x p) := modCore_within h

theorem advance_within {b : Bool} {d : DReg} (h : Within s t) : Within s (advance t c b d) := by
  unfold advance; split
  · exact modCore_within h
  · exact h

theorem withChecks_within {e : Option Err} {d : Nat} {f : State → State} (h : Within s t) (k : Within s (f t)) :
    Within s (withChecks t c e d f) := by
  cases e with
  | some x => exact failCore_within h
  | none => exact k

theorem execVld_ends {adv : Bool} {vd : VReg} {d : DReg} {b o : BitVec 12} (i : Inv s) : Ends (execVld c adv vd d b o s) :=
  (issue_within (.refl s) (withChecks_within (.refl s)
    (retire_within (advance_within (writeV_within (readBeat_within (.refl s))))))).ends i

theorem execVst_ends {adv : Bool} {va : VReg} {d : DReg} {b o : BitVec 12} (i : Inv s) : Ends (execVst c adv d va b o s) := by
  refine Within.ends (issue_within (.refl s) (withChecks_within (.refl s) ?_)) i
  split
  · exact stallSq_within (.refl s)
  · exact retire_within (advance_within (pushOwn_within (.refl s)))

theorem execVmov_ends {vd va : VReg} (i : Inv s) : Ends (execVmov c vd va s) :=
  (issueNext_within (.refl s) (writeV_within (.refl s))).ends i

theorem execVbc_ends {e : Fin 6} {vd : VReg} {src : VbcSrc} (i : Inv s) : Ends (execVbc c e vd src s) :=
  (issueNext_within (.refl s) (writeV_within (.refl s))).ends i

theorem execVsel_ends {e : Fin 6} {vd va vb vm : VReg} (i : Inv s) : Ends (execVsel c e vd va vb vm s) :=
  (issueNext_within (.refl s) (writeV_within (.refl s))).ends i

theorem execVlq_ends {vd : VReg} (i : Inv s) : Ends (execVlq c vd s) := by
  refine Within.ends (issue_within (.refl s) ?_) i
  repeat' split
  · exact failCore_within (.refl s)
  · exact stallLq_within (.refl s)
  · exact retire_within (writeV_within (popLq_within (.refl s)))

theorem execVsq_ends {va : VReg} (i : Inv s) : Ends (execVsq c va s) := by
  refine Within.ends (issue_within (.refl s) ?_) i
  dsimp only
  repeat' split
  · exact failCore_within (.refl s)
  · exact stallSq_within (storeCredit_within (.refl s))
  · exact pushList_within (.refl s)
  · exact retire_within (pushList_within (.refl s))

theorem execVrel_ends {m : Word} (i : Inv s) : Ends (execVrel c m s) :=
  (issueNext_within (.refl s) (modCore_within (.refl s))).ends i

/-! ### Trivets and the network -/

theorem setTrivet_within {k : TrivetId} {x : Trivet} (h : Within s t) : Within s (setTrivet t c k x) := modCore_within h

theorem countRows_within {n : Nat} (h : Within s t) : Within s (countRows t c n) := countEv_within (modCore_within h)

theorem countBeats_within {n : Nat} (h : Within s t) : Within s (countBeats t c n) := countEv_within (modCore_within h)

theorem putTrivet_within {k : TrivetId} {n : Nat} {rows : List (Bits × Bool)} (h : Within s t) :
    Within s (putTrivet t c k n rows) := setTrivet_within h

theorem fillTrivet_within {k : TrivetId} {n : Nat} {rows : List (Bits × Bool)} (h : Within s t) :
    Within s (fillTrivet t c k n rows) := countRows_within (putTrivet_within h)

theorem releaseTrivet_within {k : TrivetId} {b : Bool} (h : Within s t) : Within s (releaseTrivet t c k b) := by
  unfold releaseTrivet; split
  · exact setTrivet_within h
  · exact h

theorem writeRun_within {a : VReg} {xs : List (Bits × Bool)} (h : Within s t) : Within s (writeRun t c a xs) :=
  folds_within (fun _ _ => writeV_within (.refl _)) _ h

theorem execTrel_ends {k : TrivetId} {cls : Option TClass} (i : Inv s) : Ends (execTrel c k cls s) :=
  (issueNext_within (.refl s) (setTrivet_within (.refl s))).ends i

theorem countPasses_within {n : Nat} (h : Within s t) : Within s (countPasses t c n) := countEv_within (modCore_within h)

theorem netRead_within {v : VReg} (h : Within s t) : Within s (netRead t c v).1 := by
  unfold netRead; dsimp only; split
  · exact countEv_within (modCore_within h)
  · exact countEv_within (modCore_within h)

/-- A condition decides between two states. -/
theorem ite_within {p : Prop} [Decidable p] {v : State} (h : Within s t) (k : Within s v) : Within s (if p then t else v) := by
  split
  · exact h
  · exact k

/-- A use of the network ends with its passes counted, or with the contained error of a hardware check. -/
theorem netUse_within {pc e : Nat} {ds : Vector Desc 16} {src : RouteSrc} {x : Bits} (h : Within s t) :
    Within s (netUse t c pc e ds src x).1 := by
  have counted : ∀ {v : State} {n : Nat} {f : Core → Core}, Within s v → Within s (modCore (countPasses v c n) c f) :=
    fun k => modCore_within (countPasses_within k)
  have corrected : ∀ {b : Bool} {f : Core → Core}, Within s (if b = true then modCore t c f else t) :=
    fun {b} _ => ite_within (modCore_within h) h
  unfold netUse
  extract_lets ue ce
  split
  · exact failCoreHw_within h
  · rename_i _ _ w _
    have k : Within s w := counted corrected
    clear_value w
    split
    · exact k
    · exact failCoreHw_within k

theorem execPrm_ends {e : Fin 6} {vd va : VReg} {src : RouteSrc} (i : Inv s) : Ends (execPrm c e vd va src s) := by
  refine Within.ends (issue_within (.refl s) ?_) i
  dsimp only; split
  · exact failCore_within (.refl s)
  · have k : Within s (netUse (netRead s c va).1 c s.cores[c].pc e.val s.cores[c].d src (netRead s c va).2.1).1 :=
      netUse_within (netRead_within (.refl s))
    split <;> rename_i q <;> simp only [q] at k
    · exact k
    · exact retire_within (writeV_within k)

end Sys2Proof.Machine
end

section
set_option Elab.async false -- one proof after another: this bounds the memory that a check of the whole text takes
/-! PROOFS. Gang mode, rows read, gathers and scatters keep the canonical form. -/

namespace Sys2Proof.Machine

variable {s t u : State} {c : CoreId} {k : ClusterId} {m : LadCmd}

/-! ### Gang mode -/

theorem gangSlotCe_within {g : Fin 32} (h : Within s t) : Within s (gangSlotCe t k g) := by
  have cores : Within s ((coresOf k).foldl (fun s c =>
      let n := b2n (s.hwf.contains (.routeCe c ⟨2 * g.val, by omega⟩)) + b2n (s.hwf.contains (.routeCe c ⟨2 * g.val + 1, by omega⟩))
      modCore s c (fun x => { x with routeCe := sat32 x.routeCe n })) t) :=
    folds_within (fun _ _ => modCore_within (.refl _)) _ h
  unfold gangSlotCe; dsimp only
  split
  · exact modCl_within cores
  · exact cores

theorem failWhisk_within {e : Err} {d : Nat} (h : Within s t) : Within s (failWhisk t k e d) := by
  unfold failWhisk
  extract_lets v
  have f : Within s v := modCl_within (failCluster_within h)
  clear_value v
  exact proposeRow_within f

theorem gangIssue_within {ps : List (CoreId × Present)} {src : GangSrc} {e : Nat} (h : Within s t) :
    Within s (gangIssue t k ps src e) := by
  unfold gangIssue
  extract_lets c0 general a rd r xs psn ys bad ys s1 n s2 s3 num
  have read : Within s r :=
    foldl_within (α := State × List (Bits × Bool)) Prod.fst _ (fun _ _ => netRead_within (.refl _)) ps h
  clear_value r
  have passed : Within s s1 := folds_within (fun _ _ => countPasses_within (.refl _)) ps read
  clear_value s1
  have ganged : Within s s2 := countEv_within (modCl_within passed)
  clear_value s2
  have cached : Within s s3 := by
    unfold s3
    split
    · split
      · exact folds_within (fun _ _ => modCore_within (.refl _)) ps ganged
      · exact ganged
    · exact ganged
  clear_value s3
  split
  · exact failWhisk_within cached
  · exact folds_within (fun _ _ => retire_within (modCore_within (writeV_within (.refl _)))) _ cached

theorem gangStep_within {ps : List (CoreId × Present)} (h : Within s t) : Within s (gangStep t k ps) := by
  unfold gangStep
  split
  · exact h
  split
  · exact failCluster_within h
  split
  · split
    · exact failCoreHw_within h
    · split
      · exact failWhisk_within h
      · exact gangIssue_within (gangSlotCe_within h)
  · exact gangIssue_within h

theorem execPrmg_ends {e : Fin 6} {vd va : VReg} {src : GangSrc} (i : Inv s) : Ends (execPrmg c e vd va src s) := by
  refine Within.ends ?_ i
  split
  · exact .refl s
  split
  · exact failCore_within (.refl s)
  split
  · exact failCore_within (.refl s)
  · dsimp only; split
    · exact gangStep_within (modCore_within (.refl s))
    · exact waitFor_within (modCore_within (.refl s))

/-! ### Rows -/

theorem readElems_within {who : Who} {d : Desc} {row : Option Nat} {c0 : Int} {n : Nat} (h : Within s t) :
    Within s (readElems t who d row c0 n).1 := by
  unfold readElems; dsimp only
  split
  · exact h
  · split
    · exact h
    · exact readWords_within h

theorem readLanes_within {who : Who} {d : Desc} {k1 c0 : Int} {n : Nat} (h : Within s t) :
    Within s (readLanes t who d k1 c0 n).1 := by
  unfold readLanes; dsimp only
  split
  · exact h
  · exact readWords_within h

theorem readRowAt_within {who : Who} {d : Desc} {c1 c0 : Int} {n : Nat} (h : Within s t) :
    Within s (readRowAt t who d c1 c0 n).1 := by
  unfold readRowAt; dsimp only
  split
  · split
    · exact h
    · split
      · exact h
      · exact readWords_within h
  split
  · split
    · exact readLanes_within h
    · exact readLanes_within h
  · exact readElems_within h

theorem twrRows_within {who : Who} {d : Desc} {o0 : Int} {cols : Nat} :
    ∀ {n : Nat} {o1 : Int} {t : State}, Within s t → Within s (twrRows who d o0 cols n o1 t).1
  | 0, _, _, h => h
  | n + 1, o1, _, h => twrRows_within (n := n) (o1 := o1 + 1) (readRowAt_within h)

/-! ### The counts of a Ladle -/

theorem countLadOob_within {n : Nat} (h : Within s t) : Within s (countLadOob t k n) := modCl_within h
theorem countLadMerge_within {n : Nat} (h : Within s t) : Within s (countLadMerge t k n) := modCl_within h
theorem countLadConf_within {n : Nat} (h : Within s t) : Within s (countLadConf t k n) := modCl_within h
theorem countLadReq_within {n : Nat} (h : Within s t) : Within s (countLadReq t k n) := countEv_within (modCl_within h)
theorem countLadAdd_within {n : Nat} (h : Within s t) : Within s (countLadAdd t k n) := countEv_within (modCl_within h)
theorem reachPos_within {n : Nat} (h : Within s t) : Within s (reachPos t k n) := modCl_within h

/-! ### Positions -/

theorem readPlace_within {who : Who} {d : Desc} {p : Option RowPlace} {c0 n : Nat} (h : Within s t) :
    Within s (readPlace t who d p c0 n).1 := by
  cases p with
  | none => exact h
  | some q => exact readWords_within h

theorem drawElems_within : ∀ {n : Nat} {t : State}, Within s t → Within s (drawElems n t).1
  | 0, _, h => h
  | n + 1, t, h => drawElems_within (n := n) (t := (drawFree t).1) (drawFree_within h)

theorem moveElems_within {w wd : Nat} {xs : List Nat} (h : Within s t) : Within s (moveElems t w wd xs).1 := by
  unfold moveElems; split
  · exact h
  · exact drawElems_within h

theorem resolveIndex_within {x : Int} (h : Within s t) : Within s (resolveIndex t m x).1 := by
  unfold resolveIndex; dsimp only
  split
  · exact h
  split
  · split
    · exact readWords_within h
    · exact readWords_within h
  · exact h

theorem resolveAll_within : ∀ {xs : List Int} {t : State} {lg : Bool}, Within s t → Within s (resolveAll m xs t lg).1
  | [], _, _, h => h
  | x :: xs, t, lg, h => by
    have r : Within s (resolveIndex t m x).1 := resolveIndex_within h
    unfold resolveAll; dsimp only
    split
    · exact r
    · exact resolveAll_within (ite_within (logRun_within r) r)

theorem indexBeat_within {j : Nat} (h : Within s t) : Within s (indexBeat m j t).1 := readWords_within h

/-- The positions of a pass, whatever reads its index beats. -/
theorem passPositions_within {rd : Nat → State → State × List Int × Bool} (reads : ∀ {j t}, Within s t → Within s (rd j t).1) :
    ∀ {n j : Nat} {t : State} {lg : Bool}, Within s t → Within s (passPositions m rd n j t lg).1
  | 0, _, _, _, h => h
  | n + 1, j, t, lg, h => by
    have r : Within s (rd j t).1 := reads h
    unfold passPositions; dsimp only
    split
    · exact r
    split
    · exact resolveAll_within r
    · exact passPositions_within reads (resolveAll_within r)

/-! ### Gather -/

theorem readBeatsAt_within {who : Who} {d : Desc} {p : Option RowPlace} {n per : Nat} :
    ∀ {b i : Nat} {t : State}, Within s t → Within s (readBeatsAt who d p n per b i t).1
  | 0, _, _, h => h
  | b + 1, i, _, h => readBeatsAt_within (b := b) (i := i + 1) (readPlace_within h)

theorem readSlice_within {f : RowsFrom} {p j x : Nat} {d : Desc} :
    ∀ {n i : Nat} {t : State}, Within s t → Within s (readSlice m f p j x d n i t).1
  | 0, _, _, h => h
  | n + 1, i, t, h => by
    unfold readSlice; dsimp only
    refine readSlice_within ?_
    split
    · exact readBeatsAt_within h
    · exact h

theorem gatherRows_within {f : RowsFrom} {p : Nat} :
    ∀ {ps : List LadPos} {j : Nat} {seen : Seen} {t : State}, Within s t → Within s (gatherRows m k f p ps j seen t).1
  | [], _, _, _, h => h
  | q :: ps, j, seen, t, h => by
    have r : Within s (countLadReq t k (ladInner m)) := countLadReq_within h
    unfold gatherRows; dsimp only
    split
    · exact gatherRows_within (countLadOob_within r)
    · split
      · exact gatherRows_within (countLadMerge_within r)
      · exact gatherRows_within (readSlice_within r)

theorem gatherRound_within {row : Option RowPlace} {ps : List LadPos} {seen : List (Nat × Nat × Bool × Bool)} (h : Within s t) :
    Within s (gatherRound m k row ps seen t).1 :=
  readWords_within (countLadMerge_within (countLadOob_within (countLadConf_within (countLadReq_within h))))

theorem gatherElems_within {row : Option RowPlace} :
    ∀ {n : Nat} {ps : List LadPos} {seen : List (Nat × Nat × Bool × Bool)} {t : State}, Within s t →
      Within s (gatherElems m k row n ps seen t).1
  | 0, _, _, _, h => h
  | n + 1, _, _, _, h => gatherElems_within (n := n) (gatherRound_within h)

theorem gatherPass_within {f : RowsFrom} {p : Nat} {ps : List LadPos} (h : Within s t) : Within s (gatherPass m k f p ps t).1 := by
  unfold gatherPass; dsimp only; split
  · exact foldl_within (α := State × List (Nat × Bool × Bool)) Prod.fst _ (by exact fun _ _ => gatherElems_within (.refl _)) _
      (a := (t, [])) h
  · exact foldl_within (α := State × List LadBeat) Prod.fst _ (by exact fun _ _ => gatherRows_within (.refl _)) _ (a := (t, [])) h

theorem gatherPasses_within : ∀ {n p : Nat} {lg : Bool} {t : State}, Within s t → Within s (gatherPasses m k n p lg t).1
  | 0, _, _, _, h => h
  | n + 1, p, lg, t, h => by
    unfold gatherPasses
    extract_lets q g v
    have r : Within s v := reachPos_within (gatherPass_within (passPositions_within indexBeat_within h))
    clear_value v
    split
    · exact r
    · exact gatherPasses_within r

theorem runGather_within (h : Within s t) : Within s (runGather m k t).1 := gatherPasses_within h

theorem gatherEntries_within {d : Desc} {bs : List LadBeat} (h : Within s t) : Within s (gatherEntries t m d bs).1 := by
  refine foldl_within (α := State × Kept × List (List WordWr × Bool)) Prod.fst _ (fun a b => ?_) bs h
  dsimp only
  split
  · exact moveElems_within (.refl _)
  · exact moveElems_within (.refl _)

/-! ### Scatter -/

/-- Steps of a run one after another. -/
theorem runs_within {β : Type} {f : LadRun → β → LadRun} (step : ∀ a b, Within a.s (f a b).s) (l : List β) {r : LadRun}
    (h : Within s r.s) : Within s (l.foldl f r).s := foldl_within LadRun.s f step l h

theorem ladWrite_within {ws : List WordWr} {b : Bool} {r : LadRun} (h : Within s r.s) : Within s (ladWrite m ws b r).s := by
  unfold ladWrite; dsimp only; split
  · exact h
  · exact writeWords_within h

theorem writeVals_within {q : RowPlace} {c0 : Nat} {b : LadVals} {r : LadRun} (h : Within s r.s) : Within s (writeVals m q c0 b r).s :=
  ladWrite_within (r := { r with kept := _ }) h

theorem writeRow_within {p : Nat} {i : LadItem} {r : LadRun} (h : Within s r.s) : Within s (writeRow m p i r).s := by
  unfold writeRow
  split
  · exact h
  split
  · exact h
  · exact runs_within (fun _ _ => writeVals_within (.refl _)) _ h

theorem addRow_within {p : Nat} {g : List LadItem} {r : LadRun} (h : Within s r.s) : Within s (addRow m k p g r).s := by
  cases g with
  | nil => exact h
  | cons i g =>
    have n : Within s (countLadAdd (countLadReq r.s k 1) k (addCount m.slice (i :: g))) := countLadAdd_within (countLadReq_within h)
    unfold addRow; dsimp only
    split
    · exact h
    split
    · exact h
    split
    · exact n
    · exact runs_within (fun _ _ => ladWrite_within (.refl _)) _ (readBeatsAt_within n)

theorem countRound_within {q : RowPlace} {es : List LadItem} (h : Within s t) : Within s (countRound k q es t) :=
  countLadConf_within (countLadReq_within h)

theorem writeRound_within {q : RowPlace} {es : List LadItem} {r : LadRun} (h : Within s r.s) : Within s (writeRound m k q es r).s := by
  unfold writeRound; dsimp only; split
  · exact h
  · exact runs_within (fun _ _ => ladWrite_within (.refl _)) _ (countRound_within h)

theorem countRounds_within {q : RowPlace} {l : List (List LadItem)} (h : Within s t) :
    Within s (l.foldl (fun s es => countRound k q es s) t) := folds_within (fun _ _ => countRound_within (.refl _)) _ h

theorem addElems_within {q : RowPlace} {xs : List LadItem} {r : LadRun} (h : Within s r.s) : Within s (addElems m k q xs r).s := by
  unfold addElems; dsimp only
  split
  · exact h
  split
  · split
    · exact countRounds_within h
    · exact runs_within (fun _ _ => ladWrite_within (.refl _)) _ (readWords_within (countLadAdd_within (countRounds_within h)))
  · exact countRounds_within h

theorem scatterRows_within {p : Nat} {acc : Bool} {xs : List LadItem} {r : LadRun} (h : Within s r.s) :
    Within s (scatterRows m k p acc xs r).s := by
  unfold scatterRows; dsimp only
  split
  · exact runs_within (fun _ _ => addRow_within (.refl _)) _ h
  split
  · exact runs_within (fun _ _ => writeRow_within (.refl _)) _ (countLadReq_within (countLadMerge_within h))
  · exact runs_within (fun _ _ => writeRow_within (.refl _)) _ (countLadReq_within h)

theorem scatterElems_within {p : Nat} {acc : Bool} {xs : List LadItem} {r : LadRun} (h : Within s r.s) :
    Within s (scatterElems m k p acc xs r).s := by
  unfold scatterElems; dsimp only
  split
  · exact h
  split
  · exact addElems_within h
  · exact runs_within (fun _ _ => writeRound_within (.refl _)) _ (countLadMerge_within h)

theorem srcFromMem_within {who : Who} {d : Desc} {p : Nat} :
    ∀ {l : List (Nat × Nat × Nat)} {t : State}, Within s t → Within s (srcFromMem m who d p l t).1
  | [], _, h => h
  | _ :: l, _, h => srcFromMem_within (l := l) (moveElems_within (readPlace_within h))

theorem srcBeats_within {p n : Nat} {f : SctFrom} (h : Within s t) : Within s (srcBeats m p n f t).1 := by
  cases f with
  | beats xs => exact h
  | mem who d => exact srcFromMem_within h
  | got rows => exact h

theorem scatterPass_within {acc : Bool} {f : SctFrom} {p : Nat} {ps : List LadPos} {r : LadRun} (h : Within s r.s) :
    Within s (scatterPass m k acc f p ps r).s := by
  unfold scatterPass
  extract_lets v q items per r1
  have w : Within s r1.s := by
    refine runs_within (fun a b => ?_) _ (srcBeats_within (countLadOob_within h))
    dsimp only; split
    · exact scatterElems_within (.refl _)
    · exact scatterRows_within (.refl _)
  clear_value r1
  split
  · exact reachPos_within w
  · exact reachPos_within w

theorem scatterPasses_within {acc : Bool} {f : SctFrom} :
    ∀ {n p : Nat} {lg : Bool} {r : LadRun}, Within s r.s → Within s (scatterPasses m k acc f n p lg r).s
  | 0, _, _, _, h => h
  | n + 1, p, lg, r, h => by
    unfold scatterPasses
    split
    · exact h
    · extract_lets q r1
      have w : Within s r1.s := scatterPass_within (r := { r with s := q.1 }) (passPositions_within indexBeat_within h)
      clear_value r1
      split
      · exact w
      · exact scatterPasses_within w

theorem runScatter_within {acc : Bool} {f : SctFrom} (h : Within s t) : Within s (runScatter m k acc f t).s :=
  scatterPasses_within (r := { s := t }) h

/-! ### Commands of a Ladle, and CVT -/

theorem failLadle_within {d : Nat} (h : Within s t) : Within s (failLadle t k d) := by
  have f : Within s (failCluster t k .ladResidue d) := failCluster_within h
  unfold failLadle
  generalize failCluster t k .ladResidue d = v at f ⊢
  exact proposeRow_within (modCl_within f)

theorem ladTakes_within {w : LadSrc} (h : Within s t) : Within s (ladTakes t k w) := modCl_within h

theorem ladFrees_within (h : Within s t) : Within s (ladFrees t k) := modCl_within h

theorem ladPresents_within {w : LadSrc} (h : Within s t) : Within s (ladPresents t k w) := by
  unfold ladPresents; split
  · exact modCl_within h
  · exact ladTakes_within h

theorem execCvt_ends {vd va : VReg} {f g : BitVec 5} {r x : Bool} {p q : BitVec 2} (i : Inv s) : Ends (execCvt c vd va f g r x p q s) :=
  (issueNext_within (.refl s) (writeV_within (.refl s))).ends i

end Sys2Proof.Machine
end

section
set_option Elab.async false -- one proof after another: this bounds the memory that a check of the whole text takes
/-! PROOFS. Packed groups, remote instructions, fused commands and instructions in progress keep the canonical form. -/

namespace Sys2Proof.Machine

variable {s t u : State} {c : CoreId} {k : ClusterId}

/-! ### Packed beats -/

theorem readItems_within {who : Who} {row : Option Nat} {w size : Nat} {c0 : Int} {n blank : Nat} (h : Within s t) :
    Within s (readItems t who row w size c0 n blank).1 := by
  unfold readItems; dsimp only
  split
  · exact h
  split
  · exact h
  · exact readWords_within h

theorem readPacked_within {who : Who} {d : Desc} {p : PForm} {o0 o1 : Int} {q : Nat} (h : Within s t) :
    Within s (readPacked t who d p o0 o1 q).1 := by
  unfold readPacked
  split
  · exact readItems_within h
  split
  · exact readItems_within h
  · exact readItems_within h

theorem readGroup_within {who : Who} {d : Desc} {p : PForm} {o0 o1 : Int} :
    ∀ {n q : Nat} {t : State}, Within s t → Within s (readGroup who d p o0 o1 n q t).1
  | 0, _, _, h => h
  | n + 1, q, _, h => readGroup_within (n := n) (q := q + 1) (readPacked_within h)

theorem unpackInto_within {vd : VReg} {p : PForm} {bs : List (Nat × Bool)} (h : Within s t) : Within s (unpackInto t c vd p bs) :=
  writeRun_within h

/-! ### Remote instructions -/

theorem offer_within {x : StreamId} {fs : List OutFlit} (h : Within s t) : Within s (offer t x fs) := modStream_within h

theorem withStream_within {x : StreamId} {f : State → State} (h : Within s t) (k : Within s (f t)) :
    Within s (withStream t c x f) := by
  unfold withStream
  split
  · exact h
  split
  · exact fenceCore_within (logFenced_within h)
  · exact k

/-- What a remote instruction does when its stream is free: its flits, `ADV`, and the next instruction. -/
theorem remoteIssue_within {x : StreamId} {fs : List OutFlit} {adv : Bool} {d : DReg} {n : Nat} (h : Within s t) :
    Within s (retire (advance (offer t x fs) c adv d) c n) := retire_within (advance_within (offer_within h))

theorem execRwt_ends {adv : Bool} {inc : BitVec 2} {d : DReg} {va : VReg} {ctr : Ctr} {x : StreamId} {n : BitVec 5} (i : Inv s) :
    Ends (execRwt c adv inc d va ctr x n s) :=
  (issue_within (.refl s) (withChecks_within (.refl s) (withStream_within (.refl s) (remoteIssue_within (.refl s))))).ends i

theorem execRrd_ends {adv : Bool} {inc : BitVec 2} {dd sd : DReg} {ctr : Ctr} {x : StreamId} (i : Inv s) :
    Ends (execRrd c adv inc dd sd ctr x s) :=
  (issue_within (.refl s) (withChecks_within (.refl s) (withStream_within (.refl s) (remoteIssue_within (.refl s))))).ends i

theorem execRinc_ends {adv add cnt : Bool} {d : DReg} {sa : SReg} {ctr : Ctr} {x : StreamId} (i : Inv s) :
    Ends (execRinc c adv add cnt d sa ctr x s) :=
  (issue_within (.refl s) (withChecks_within (.refl s) (withStream_within (.refl s) (remoteIssue_within (.refl s))))).ends i

/-! ### Stages -/

theorem stageRun_within {m : Mark} {w : BitVec 64} {g : Nat} {xs : List (Bits × Bool)} (h : Within s t) :
    Within s (stageRun t c m w g xs).1 := by
  unfold stageRun; dsimp only
  split
  · exact h
  · exact h
  · exact h
  · exact countBeats_within (countRows_within h)
  · split
    · exact h
    · rename_i b _
      have n : Within s (netUse t c m.pc (wFlg w % 8) m.d (stageRoute w) b.1).1 := netUse_within h
      split <;> rename_i e <;> simp only [e] at n <;> exact n
  · exact h

theorem feedStages_step {m : Mark} {last : BitVec 64} : ∀ {n : Nat} {st : List FStage} {b : Bits × Bool} {r : FRun},
    Within r.s (feedStages c m last n st b r).2.s
  | 0, _, _, r => .refl r.s
  | _ + 1, [], _, r => .refl r.s
  | n + 1, x :: st, b, r => by
    unfold feedStages; dsimp only
    split
    · exact .refl r.s
    split
    · exact .refl r.s
    · have k : Within r.s (stageRun r.s c m x.w x.groups (x.buf ++ [b])).1 := stageRun_within (.refl r.s)
      split <;> rename_i e <;> simp only [e] at k
      · exact k
      · exact foldl_within (α := List FStage × FRun) (fun a => a.2.s) _ (fun _ _ => feedStages_step) _ k

theorem feedStages_within {m : Mark} {last : BitVec 64} {n : Nat} {st : List FStage} {b : Bits × Bool} {r : FRun}
    (h : Within s r.s) : Within s (feedStages c m last n st b r).2.s := h.trans feedStages_step

theorem fuseRead_within {m : Mark} {w : BitVec 64} {i : Nat} (h : Within s t) : Within s (fuseRead t c m w i).1 := by
  unfold fuseRead; dsimp only
  split
  · exact readPacked_within h
  · exact readBeat_within h

theorem stageAdvance_within {w : BitVec 64} (h : Within s t) : Within s (stageAdvance c w t) := by
  unfold stageAdvance
  split
  · split
    · exact advance_within h
    split
    · exact advance_within h
    · exact h
  · exact h

/-! ### Instructions in progress -/

theorem startGth_within {m : LadCmd} {dst : GthDst} {p : Prog} (h : Within s t) : Within s (startGth c m dst p t).1 := by
  unfold startGth
  extract_lets g bits r
  have k : Within s r.1 := by
    unfold r
    cases dst with
    | regs v => exact writeRun_within (runGather_within h)
    | queue => exact runGather_within h
    | mem d => exact gatherEntries_within (runGather_within h)
  clear_value r
  split
  · dsimp only; exact failCore_within (pushSome_within k)
  · exact k

theorem startLad_within {p : Prog} (h : Within s t) : Within s (startLad c p t).1 := by
  unfold startLad
  split
  · exact startGth_within h
  · exact h

theorem finishSct_within {m : LadCmd} {acc : Bool} {f : SctFrom} (h : Within s t) : Within s (finishSct c m acc f t) := by
  unfold finishSct
  extract_lets r v
  have k : Within s v := countOob_within (modCore_within (runScatter_within h))
  clear_value v
  split
  · exact ladFrees_within k
  · exact failCore_within k
  · exact failLadle_within k
  · exact fenceCore_within k

theorem progFinish_within {p : Prog} (h : Within s t) : Within s (progFinish c p t) := by
  unfold progFinish
  split
  · exact putTrivet_within h
  · exact releaseTrivet_within h
  · exact unpackInto_within h
  · exact ladFrees_within h
  · exact finishSct_within h
  · exact h

theorem progTake_within {p : Prog} (h : Within s t) : Within s (progTake c p t).1 := by
  unfold progTake
  split
  · exact popLq_within h
  split
  · exact fuseRead_within h
  · exact h

theorem progFeed_within {p : Prog} {b : Bits × Bool} (h : Within s t) : Within s (progFeed c p t b).1 := by
  unfold progFeed
  split
  · rename_i ws _
    have k : Within s (feedStages c p.mark (ws.getLast?.getD 0) (ws.length + 1) p.stages b { s := t, sunk := p.sunk }).2.s :=
      feedStages_within h
    dsimp only
    split
    · exact k
    · exact k
  · exact countRows_within h
  · exact h

theorem progPush_within {p : Prog} (h : Within s t) : Within s (progPush c p t).1 := by
  have k : Within s (pushSome c p.out t).1 := pushSome_within h
  unfold progPush; dsimp only
  split
  · exact countBeats_within (ite_within k (progress_within k))
  · exact ite_within k (progress_within k)

theorem runProg_within : ∀ {n : Nat} {p : Prog} {t : State}, Within s t → Within s (runProg c n p t).1
  | 0, _, _, h => h
  | n + 1, p, t, h => by
    have pushed : Within s (progPush c p t).1 := progPush_within h
    unfold runProg; dsimp only
    generalize progPush c p t = q at pushed ⊢
    split
    · exact pushed
    split
    · exact pushed
    split
    · split
      · have k : Within s (startLad c q.2 q.1).1 := startLad_within pushed
        split <;> rename_i e <;> simp only [e] at k
        · exact k
        · exact runProg_within k
      · exact pushed
    split
    · exact progFinish_within pushed
    split
    · exact pushed
    · have k := progFeed_within (c := c) (p := q.2) (b := (progTake c q.2 (progress q.1 (.core c))).2)
        (progTake_within (c := c) (p := q.2) (progress_within (ag := .core c) pushed))
      split <;> rename_i e <;> simp only [e] at k
      · exact k
      · exact runProg_within k

theorem runList_within : ∀ {ps : List Prog} {t : State}, Within s t → Within s (runList c ps t)
  | [], _, h => h
  | p :: ps, t, h => by
    have k : Within s (runProg c (p.need + 3) p t).1 := runProg_within h
    unfold runList
    split
    · exact h
    · dsimp only
      refine runList_within ?_
      split
      · exact ite_within (modCore_within k) k
      · exact k

theorem runProgs_within (h : Within s t) : Within s (runProgs c t) := runList_within (modCore_within h)

theorem launch_within {p : Prog} {n : Nat} {adv : State → State} (h : Within s (adv t)) : Within s (launch t c p n adv) :=
  runProgs_within (modCore_within (retire_within h))

/-! ### Multi-beat instructions -/

theorem execTwr_ends {adv : Bool} {cls : TClass} {n : BitVec 7} {k : TrivetId} {src : TwrSrc} (i : Inv s) :
    Ends (execTwr c adv cls n k src s) := by
  refine Within.ends (issue_within (.refl s) (withChecks_within (.refl s) ?_)) i
  split
  · exact failCore_within (.refl s)
  split
  · exact retire_within (fillTrivet_within (.refl s))
  · split
    · exact failCore_within (.refl s)
    · exact launch_within (.refl s)
  · exact retire_within (advance_within (fillTrivet_within (twrRows_within (.refl s))))

theorem execTrd_ends {adv : Bool} {cls : TClass} {rel : Bool} {k : TrivetId} {st n : BitVec 11} {dst : TrdDst} (i : Inv s) :
    Ends (execTrd c adv cls rel k st n dst s) := by
  refine Within.ends (issue_within (.refl s) (withChecks_within (.refl s) ?_)) i
  split
  · exact failCore_within (.refl s)
  dsimp only
  split
  · exact retire_within (releaseTrivet_within (countBeats_within (writeRun_within (.refl s))))
  · split
    · exact failCore_within (.refl s)
    · exact launch_within (.refl s)
  · exact launch_within (advance_within (.refl s))

theorem execGth_ends {adv : Bool} {dst : GthDst} {a b : DReg} {n : BitVec 3} {var : Bool} (i : Inv s) :
    Ends (execGth c adv dst a b n var s) := by
  refine Within.ends (issue_within (.refl s) (withChecks_within (.refl s) ?_)) i
  split
  · exact failCore_within (.refl s)
  · exact launch_within (advance_within (ladPresents_within (.refl s)))

theorem execSct_ends {adv : Bool} {a b : DReg} {src : SctSrc} {n : BitVec 3} {var acc : Bool} (i : Inv s) :
    Ends (execSct c adv a src b n var acc s) := by
  refine Within.ends (issue_within (.refl s) (withChecks_within (.refl s) ?_)) i
  split
  · exact failCore_within (.refl s)
  · exact launch_within (advance_within (ladPresents_within (.refl s)))

theorem execPack_ends {adv : Bool} {d : DReg} {va : VReg} {p : PairId} {n : BitVec 5} (i : Inv s) :
    Ends (execPack c adv d va p n s) := by
  refine Within.ends (issue_within (.refl s) (withChecks_within (.refl s) ?_)) i
  split
  · exact .refl s
  · exact launch_within (advance_within (.refl s))

theorem execUnpk_ends {adv : Bool} {vd : VReg} {src : UnpkSrc} {n : BitVec 5} (i : Inv s) : Ends (execUnpk c adv vd src n s) := by
  refine Within.ends (issue_within (.refl s) ?_) i
  split
  · dsimp only
    split
    · exact failCore_within (.refl s)
    split
    · exact failCore_within (.refl s)
    · exact launch_within (.refl s)
  · refine withChecks_within (.refl s) ?_
    split
    · exact .refl s
    · exact retire_within (advance_within (unpackInto_within (readGroup_within (.refl s))))

theorem execFuse_ends {b : BitVec 24} {stages : List (BitVec 64)} (i : Inv s) : Ends (execFuse c b stages s) := by
  refine Within.ends (issue_within (.refl s) ?_) i
  split
  · refine withChecks_within (.refl s) ?_
    split
    · exact failCore_within (.refl s)
    split
    · exact failCore_within (.refl s)
    · exact launch_within (folds_within (fun _ _ => stageAdvance_within (.refl _)) _ (.refl s))
  · exact .refl s

end Sys2Proof.Machine
end

section
set_option Elab.async false -- one proof after another: this bounds the memory that a check of the whole text takes
/-! PROOFS. Taps, port programs, presentations, drains and CLIP stages keep the canonical form. -/

namespace Sys2Proof.Machine

variable {s t u : State} {c : CoreId} {a : EaId}

/-! ### Taps -/

theorem tapAdd_within {k : TapId} {n : Nat} {xs : List Word} {b : Bool} (h : Within s t) : Within s (tapAdd t k n xs b) := by
  unfold tapAdd; dsimp only
  exact modTap_within (ite_within (logRun_within h) h)

theorem tapInsn_ends {k : TapId} {n : Needs} {f : State → State} (i : Inv s) (h : Within s (f s)) : Ends (tapInsn c k n f s) := by
  refine Within.ends (issue_within (.refl s) ?_) i
  split
  · exact .refl s
  · exact retire_within h

theorem execClear_ends {k : TapId} (i : Inv s) : Ends (execClear c k s) := tapInsn_ends i (modTap_within (.refl s))
theorem execArm_ends {k : TapId} (i : Inv s) : Ends (execArm c k s) := tapInsn_ends i (modTap_within (.refl s))
theorem execStop_ends {k : TapId} (i : Inv s) : Ends (execStop c k s) := tapInsn_ends i (modTap_within (.refl s))
theorem execEmit_ends {k : TapId} {vd : VReg} (i : Inv s) : Ends (execEmit c k vd s) := tapInsn_ends i (writeV_within (.refl s))

/-! ### Port words -/

theorem readPort_within {f : State → State} (h : Within s t) (k : ∀ {v}, Within s v → Within s (f v)) : Within s (readPort t a f) := by
  unfold readPort; dsimp only
  split
  · exact failEa_within h
  · exact k (ite_within (modEa_within h) h)

theorem portWord_within {f : State → State} (h : Within s t) (k : ∀ {v}, Within s v → Within s (f v)) : Within s (portWord t a f) := by
  unfold portWord
  split
  · exact readPort_within h k
  · exact h

theorem nextWord_within {x : EState} (h : Within s t) : Within s (nextWord t a x) := progress_within (modEa_within h)

theorem execPanel_ends {m : BitVec 2} {ha hb : BitVec 4} {sa sb : Fin 8} {n : BitVec 11} {ctl : BitVec 24} (i : Inv s) :
    Ends (execPanel a m ha hb sa sb n ctl s) :=
  (portWord_within (.refl s) fun h => progress_within (modEa_within h)).ends i

theorem execClip_ends {n : Fin 8} (i : Inv s) : Ends (execClip a n s) :=
  (portWord_within (.refl s) fun h => nextWord_within (modEa_within h)).ends i

theorem execEndw_ends (i : Inv s) : Ends (execEndw a s) :=
  (ite_within (.refl s) (portWord_within (.refl s) fun h => modEa_within (progress_within h))).ends i

/-! ### Presentation -/

theorem dedup_within {b : Bool} (h : Within s t) : Within s (dedup t a b) := by
  unfold dedup; dsimp only
  exact modEa_within (modFeed_within h)

theorem takeScales_within {b : Bool} {src : Fin 8} {want : Nat} :
    ∀ {n : Nat} {t : State}, Within s t → Within s (takeScales a b src want n t).1
  | 0, _, h => h
  | n + 1, t, h => by
    have d : Within s (dedup t a b) := dedup_within h
    unfold takeScales; dsimp only
    split
    · exact d
    split
    · exact d
    · exact d
    · exact takeScales_within (modFeed_within d)

theorem present_within {p : Panel} {oa ob : Offer} {xa xb : Bits × Bool} (h : Within s t) : Within s (present t a p oa ob xa xb) := by
  unfold present
  extract_lets x j fresh v out w
  have k : Within s w := modEa_within (countEv_within (countEv_within h))
  clear_value w
  split
  · exact progress_within k
  · exact nextWord_within (modEa_within k)

theorem starve_within (h : Within s t) : Within s (starve t a) := waitFor_within (modEa_within h)

theorem execPresentation_ends (i : Inv s) : Ends (execPresentation a s) := by
  refine Within.ends ?_ i
  split
  · exact .refl s
  split
  · exact .refl s
  · extract_lets j wa wb ra rb
    have k : Within s rb.1 := takeScales_within (takeScales_within (.refl s))
    clear_value rb
    split
    · exact failEa_within k
    · rename_i v _ _ _ _
      have d : Within s v := dedup_within (dedup_within k)
      clear_value v
      split
      · exact present_within d
      · split
        · exact failEa_within d
        · exact starve_within d

/-! ### Drains -/

theorem execDrain_ends {trn tap : Bool} {d : Fin 16} {inc : BitVec 2} {ctr : Ctr} {n o : BitVec 7} {f : BitVec 24} (i : Inv s) :
    Ends (execDrain a trn tap d inc ctr n o f s) := by
  refine Within.ends (ite_within (.refl s) (portWord_within (.refl s) fun {v} h => ?_)) i
  dsimp only
  split
  · exact nextWord_within (poisonDrain_within h)
  split
  · exact nextWord_within (fenceDrain_within (logRun_within (modEa_within h)))
  · split
    · exact nextWord_within (fenceDrain_within (logFenced_within (modEa_within h)))
    · exact nextWord_within (modEa_within h)

theorem drainRowOut_within {r : DrainRun} {n : Nat} {xs : List Word} {b : Bool} (h : Within s t) :
    Within s (drainRowOut t a r n xs b).1 := by
  unfold drainRowOut
  extract_lets x d r1 dropped v
  have k : Within s v := modEa_within h
  clear_value v
  split
  · dsimp only; exact offer_within k
  split
  · exact k
  · exact ite_within (fenceDrain_within (modEa_within (writeWords_within k))) (modEa_within (writeWords_within k))

theorem drainMark_within {r : DrainRun} {b : Bool} (h : Within s t) : Within s (drainMark t a r b).1 := by
  unfold drainMark
  extract_lets d due
  clear_value due
  split
  · exact h
  split
  · exact ite_within h (offer_within h)
  · exact incCtrBy_within h

theorem drainEnds_within (h : Within s t) : Within s (drainEnds t a) := by
  unfold drainEnds
  split
  · exact ite_within (modEa_within h) h
  · exact h

theorem rowLeaves_within {r : DrainRun} (h : Within s t) : Within s (rowLeaves t a r) := by
  unfold rowLeaves
  extract_lets r1 v q q2
  have k : Within s v := modEa_within h
  clear_value v
  have tile : Within s q.1 := by
    unfold q; split
    · exact drainMark_within k
    · exact k
  clear_value q
  have all : Within s q2.1 := by
    unfold q2; split
    · exact drainMark_within tile
    · exact tile
  clear_value q2
  exact drainEnds_within (ite_within all (modEa_within all))

theorem issueRow_within {r : DrainRun} {x : DrainRow} (h : Within s t) : Within s (issueRow t a r x) := by
  unfold issueRow; dsimp only
  split
  · exact ite_within h (rowLeaves_within h)
  split
  · exact fenceDrain_within (logFenced_within h)
  split
  · exact h
  · have k : Within s (drainRowOut t a r x.num x.vals x.psn).1 := drainRowOut_within h
    split
    · exact k
    · exact ite_within (modEa_within k) (rowLeaves_within k)

theorem drainTake_within {r : DrainRun} {row : BitVec 4096} {b : Bool} (h : Within s t) : Within s (drainTake t a r row b) :=
  progress_within (modEa_within (ite_within (tapAdd_within h) h))

theorem issueFront_within (h : Within s t) : Within s (issueFront t a) := by
  unfold issueFront
  split
  · split
    · exact h
    split
    · exact modEa_within h
    split
    · exact h
    · exact outside_within h (issueRow_within h)
  · exact h

theorem drainCycle_within (h : Within s t) : Within s (drainCycle t a) :=
  ite_within h (modEa_within (issueFront_within (modEa_within h)))

theorem execDrainRow_ends {row : BitVec 4096} {b : Bool} (i : Inv s) : Ends (execDrainRow a row b s) := by
  refine Within.ends (ite_within (modEa_within (.refl s)) ?_) i
  have k : Within s (countEv (modEa s a (fun x => { x with drainRows := sat32 x.drainRows 1 })) .drainRow 1) :=
    countEv_within (modEa_within (.refl s))
  dsimp only
  split
  · exact k
  split
  · exact k
  · exact drainTake_within k

/-! ### Waits and CLIP stages -/

theorem waitStep_within {ctr : Ctr} {n : BitVec 14} {f : State → State} (h : Within s t) (k : ∀ {v}, Within s v → Within s (f v)) :
    Within s (waitStep t a ctr n f) := by
  unfold waitStep
  extract_lets v w
  have q : Within s w := checkParity_within (ite_within h (modEa_within h))
  clear_value w
  split
  · exact failEa_within q
  split
  · exact k (modEa_within q)
  · exact waitFor_within (modEa_within q)

theorem execWaitc_ends {ctr : Ctr} {n : BitVec 14} (i : Inv s) : Ends (execWaitc a ctr n s) := by
  have go : ∀ {v}, Within s v → Within s (waitStep v a ctr n fun s => nextWord s a .idle) :=
    fun h => waitStep_within h fun h => nextWord_within h
  exact (ite_within (.refl s) (ite_within (go (.refl s)) (readPort_within (.refl s) go))).ends i

theorem stageDone_within (h : Within s t) : Within s (stageDone t a) := nextWord_within (modEa_within h)

theorem stage_within {f : State → State} (h : Within s t) (k : ∀ {v}, Within s v → Within s (f v)) : Within s (stage t a f) :=
  ite_within (outside_within h (readPort_within h k)) h

theorem setClipV_within {v : Word} {b : Bool} (h : Within s t) : Within s (setClipV t a v b) := modEa_within h

theorem execClipEmit_ends {m : BitVec 3} (i : Inv s) : Ends (execClipEmit a m s) :=
  (stage_within (.refl s) fun h => stageDone_within (setClipV_within h)).ends i

theorem clipWrite_within {n : Nat} {x : BitVec 512} {b : Bool} {ctr : Option Ctr} (h : Within s t) :
    Within s (clipWrite t a n x b ctr) := by
  have w : Within s (writeWords t (whoDrain a) [{ word := n / 64, data := x, mask := BitVec.allOnes 512 }] b).1 := writeWords_within h
  unfold clipWrite; dsimp only
  split
  · exact fenceEa_within w
  split
  · exact incCtrBy_within w
  · exact w

theorem clipSend_within {x : StreamId} {f : OutFlit} (h : Within s t) : Within s (clipSend t a x f) :=
  ite_within (stageDone_within (fenceDrain_within (logFenced_within h))) (progress_within (modEa_within (offer_within h)))

theorem unlessFenced_within {f : State → State} (h : Within s t) (k : Within s (f t)) : Within s (unlessFenced t a f) :=
  ite_within h k

theorem execSend_ends {d : Fin 16} {ctr : Ctr} {n : BitVec 24} (i : Inv s) : Ends (execSend a d ctr n s) := by
  refine Within.ends (stage_within (.refl s) fun {v} h => ?_) i
  dsimp only
  split
  · exact unlessFenced_within (clipWrite_within h) (stageDone_within (clipWrite_within h))
  · exact clipSend_within h

theorem execClipWait_ends {ctr : Ctr} {n : BitVec 14} (i : Inv s) : Ends (execClipWait a ctr n s) := by
  have go : ∀ {v}, Within s v → Within s (waitStep v a ctr n fun s => stageDone s a) :=
    fun h => waitStep_within h fun h => stageDone_within h
  exact (ite_within (.refl s) (ite_within (go (.refl s)) (readPort_within (.refl s) go))).ends i

theorem sumSlots_within {who : Who} {d : Desc} : ∀ {n j : Nat} {t : State}, Within s t → Within s (sumSlots who d n j t).1
  | 0, _, _, h => h
  | n + 1, j, _, h => sumSlots_within (n := n) (j := j + 1) (readWords_within h)

theorem execSum_ends {d : Fin 16} {n : BitVec 24} (i : Inv s) : Ends (execSum a d n s) := by
  refine Within.ends (stage_within (.refl s) fun {v} h => ?_) i
  dsimp only
  split
  · exact stageDone_within (setClipV_within (logRun_within (sumSlots_within h)))
  · exact stageDone_within (setClipV_within (sumSlots_within h))

theorem execScale_ends {m : Word} (i : Inv s) : Ends (execScale a m s) := by
  refine Within.ends (stage_within (.refl s) fun {v} h => ?_) i
  dsimp only
  split
  · exact stageDone_within (setClipV_within h)
  · exact stageDone_within (setClipV_within (raiseEvt_within (logRun_within h)))

theorem routeEntries_within {who : Who} {d : Desc} : ∀ {n j : Nat} {t : State}, Within s t → Within s (routeEntries who d n j t).1
  | 0, _, _, h => h
  | n + 1, j, _, h => routeEntries_within (n := n) (j := j + 1) (readWords_within h)

theorem bcastGo_within : ∀ {es : List (Word × Bool)} {t : State}, Within s t → Within s (bcastGo a es t)
  | [], _, h => stageDone_within (modEa_within h)
  | e :: es, t, h => by
    unfold bcastGo; dsimp only
    split
    · exact unlessFenced_within (clipWrite_within h) (bcastGo_within (clipWrite_within h))
    split
    · exact bcastGo_within (fenceDrain_within (logFenced_within h))
    · exact progress_within (modEa_within (offer_within h))

theorem execBcast_ends {d : Fin 16} {ctr : Ctr} (i : Inv s) : Ends (execBcast a d ctr s) := by
  refine Within.ends (stage_within (.refl s) fun {v} h => ?_) i
  refine bcastGo_within (modEa_within ?_)
  split
  · exact logRun_within (routeEntries_within h)
  · exact routeEntries_within h

theorem clipAccepted_within (h : Within s t) : Within s (clipAccepted t a) :=
  ite_within (outside_within h (bcastGo_within (modEa_within h))) h

theorem drainAccepted_within (h : Within s t) : Within s (drainAccepted t a) := by
  unfold drainAccepted
  split
  · exact ite_within (rowLeaves_within h) h
  · exact drainEnds_within h
  · exact h

theorem execStore_ends {d : Fin 16} (i : Inv s) : Ends (execStore a d s) :=
  (stage_within (.refl s) fun h => unlessFenced_within (clipWrite_within h) (stageDone_within (clipWrite_within h))).ends i

end Sys2Proof.Machine
end

section
set_option Elab.async false -- one proof after another: this bounds the memory that a check of the whole text takes
/-! PROOFS. Index streams, the Stream Mover and the sequencers keep the canonical form. -/

namespace Sys2Proof.Machine

variable {s t u : State} {c : CoreId} {h : ChanId} {k : ClusterId} {m : LadCmd}

/-! ### Index streams -/

theorem setBlk_within {n : Nat} {b : BlkRun} (w : Within s t) : Within s (setBlk t h n b) := modChan_within w

theorem countChanOob_within {n : Nat} (w : Within s t) : Within s (countChanOob t h n) := modChan_within w

theorem resolvePasses_within {got : List MovBeat} :
    ∀ {n p : Nat} {lg : Bool} {t : State}, Within s t → Within s (resolvePasses m got n p lg t).1
  | 0, _, _, _, w => w
  | n + 1, p, lg, t, w => by
    have q : Within s (passPositions m (idxReader m got p) (idxBeats m) 0 t lg).1 := passPositions_within (fun w => w) w
    unfold resolvePasses; dsimp only
    split
    · exact q
    · exact resolvePasses_within q

theorem rowVals_within {p : Part} {r : FetchRow} {xs : List (MovBeat × Nat)} (w : Within s t) : Within s (rowVals t p m r xs).1 :=
  moveElems_within w

theorem gatherOut_within {f : RowsFrom} {d : Desc} {pos : List (List LadPos)} (w : Within s t) : Within s (gatherOut m k f d pos t).1 := by
  unfold gatherOut; dsimp only
  exact gatherEntries_within (foldl_within (α := State × List LadBeat) Prod.fst _
    (by exact fun a b => reachPos_within (gatherPass_within (.refl _))) _ (a := (t, [])) w)

theorem farRow_s {p : Nat} {i : LadItem} {r : FarRun} : (farRow m p i r).s = r.s := by
  unfold farRow; split <;> rfl

theorem farAdd_within {p : Nat} {g : List LadItem} {r : FarRun} (w : Within s r.s) : Within s (farAdd m k p g r).s := by
  unfold farAdd
  split
  · exact w
  split
  · exact w
  split
  · exact w
  split
  · exact w
  · exact countLadAdd_within (countLadReq_within w)

theorem farWindow_within {acc : Bool} {p : Nat} {xs : List LadItem} {r : FarRun} (w : Within s r.s) :
    Within s (farWindow m k acc p xs r).s := by
  unfold farWindow; dsimp only
  split
  · exact foldl_within FarRun.s _ (fun _ _ => farAdd_within (.refl _)) _ w
  · exact foldl_within FarRun.s _ (fun a b => by rw [farRow_s]; exact .refl _) _ (countLadReq_within (countLadMerge_within w))

theorem scatterOut_within {acc : Bool} {got : List (Nat × List LadVals)} {pos : List (List LadPos)} (w : Within s t) :
    Within s (scatterOut m k acc got pos t).s := by
  refine foldl_within FarRun.s _ (fun r q => ?_) _ w
  split
  · exact .refl _
  · exact reachPos_within (foldl_within FarRun.s _ (by exact fun _ _ => farWindow_within (.refl _)) _
      (srcBeats_within (countLadOob_within (.refl _))))

theorem scatterHere_within {acc : Bool} {got : List (Nat × List LadVals)} {pos : List (List LadPos)} (w : Within s t) :
    Within s (scatterHere m k acc got pos t).s := by
  refine runs_within (fun r q => ?_) _ w
  split
  · exact .refl _
  · exact scatterPass_within (.refl _)

theorem fillRows_within {d : Desc} {pos : List (List LadPos)} (w : Within s t) : Within s (fillRows m k d pos t).s := by
  refine runs_within (fun r q => runs_within (fun r e => ?_) _ (.refl _)) _ w
  have counted : Within r.s (reachPos (countLadReq r.s k (ladInner m)) k (e.2 + 1)) := reachPos_within (countLadReq_within (.refl _))
  dsimp only
  split
  · exact counted
  · refine runs_within (fun r i => ?_) _ (countLadOob_within counted)
    split
    · exact .refl _
    · exact ladWrite_within (moveElems_within (.refl _))

theorem stopIndex_within {x : LadStop} (w : Within s t) : Within s (stopIndex t h k x) := by
  cases x with
  | residue p => exact failLadle_within w
  | poisonIndex => exact failChan_within w
  | off => exact fenceChan_within w

theorem toOut_within {n : Nat} {b : BlkRun} {out : List (List (WordWr × Bool))} {x : Option LadStop} (w : Within s t) :
    Within s (toOut t h n b out x) := by
  unfold toOut; dsimp only
  split
  · exact stopIndex_within w
  · exact setBlk_within (ite_within (offer_within w) w)

theorem runIndex_within {n : Nat} {b : BlkRun} (w : Within s t) : Within s (runIndex t h n b) := by
  unfold runIndex
  extract_lets m k v
  have g : Within s v := progress_within w
  clear_value v
  split
  · split
    · exact toOut_within (countChanOob_within (scatterHere_within g))
    · exact toOut_within (scatterOut_within g)
  split
  · exact toOut_within g
  · exact toOut_within (gatherOut_within g)

theorem planIndex_within {n : Nat} {b : BlkRun} (w : Within s t) : Within s (planIndex t h n b) := by
  unfold planIndex
  extract_lets m q b1 fetches r b2
  have g : Within s q.1 := resolvePasses_within w
  clear_value q
  have run : Within s r.s := by
    unfold r; split
    · exact fillRows_within g
    · exact g
  clear_value r
  split
  · exact stopIndex_within run
  · exact ite_within (runIndex_within (setBlk_within run)) (setBlk_within run)

theorem startIndex_within (w : Within s t) : Within s (startIndex t h) := progress_within (modChan_within w)

/-! ### Beats and transfers -/

theorem readMovBeat_within {p : Fin 4} {b : BlkRun} {x : Xfer} {n : Nat} (w : Within s t) : Within s (readMovBeat t h p b x n).1 := by
  unfold readMovBeat
  split
  · exact w
  · dsimp only
    refine readWords_within ?_
    split
    · exact copyFill_within w
    · exact w

theorem putGroups_within {who : Who} : ∀ {gs : List (List WordWr × Bool)} {t : State}, Within s t → Within s (putGroups who gs t).1
  | [], _, w => w
  | g :: gs, t, w => by
    have p : Within s (putWords t who g.1 g.2).1 := putWords_within w
    unfold putGroups; dsimp only
    split
    · exact p
    · exact putGroups_within p

theorem writeGroups_within {who : Who} {gs : List (List WordWr × Bool)} (w : Within s t) : Within s (writeGroups who gs t).1 :=
  putGroups_within (openWrite_within w)

theorem writeFlit_within {x : Stream} {b : BlkRun} {y : Xfer} {bits : Nat} {p : Bool} (w : Within s t) :
    Within s (writeFlit t x b y bits p).1 := by
  unfold writeFlit; dsimp only
  split
  · exact w
  · exact drawBits_within w

theorem issueIdx_within {p : Fin 4} {n : NextBeat} (w : Within s t) : Within s (issueIdx t h p n) := by
  unfold issueIdx
  extract_lets m j r b
  have g : Within s r.1 := readWords_within w
  clear_value r
  exact ite_within (setBlk_within g) (planIndex_within (setBlk_within g))

theorem issueBeat_within {p : Fin 4} {n : NextBeat} (w : Within s t) : Within s (issueBeat t h p n) := by
  unfold issueBeat
  extract_lets c x y i v1 v2 v blk put f r yields src z g
  have counted : Within s v2 := progress_within (countEv_within (modChan_within w))
  have presented : Within s v := ite_within (presentAt_within counted) counted
  have puts : ∀ {a : State} {z : Xfer}, Within s a → Within s (put a z) := fun a => setBlk_within a
  have laid : Within s f.1 := writeFlit_within presented
  have read : Within s r.1 := readMovBeat_within presented
  have sent : Within s g.1 := writeFlit_within read
  clear_value v put f r g
  split
  · exact issueIdx_within presented
  split
  · exact fenceChan_within (logFenced_within presented)
  split
  · exact puts (offer_within presented)
  split
  · exact puts presented
  split
  · exact ite_within (puts (offer_within laid)) (puts presented)
  split
  · exact ite_within (puts read) (ite_within (puts (offer_within read)) (puts (offer_within sent)))
  · exact puts presented

theorem markAdmit_within (w : Within s t) : Within s (markAdmit t h) := by
  unfold markAdmit; dsimp only
  split
  · exact ite_within (waitFor_within (modChan_within w)) w
  · exact w

theorem outside_inv {a b : State} (i : Inv a) (k : Inv b) : Inv (outside a b) := by
  unfold outside; split
  · exact i
  · exact k

/-- A beat that goes spends the port's tokens first: what the grant does to the stores it does after that. -/
theorem grantPort_inv {a : State × Caps} {p : Fin 4} (i : Inv a.1) : Inv (grantPort a p).1 := by
  unfold grantPort
  extract_lets s0 k0
  split
  · exact i
  · split
    · exact i
    · split
      · exact i
      · extract_lets need v
        have spent : Inv v := i.keeps (.same rfl rfl)
        clear_value v
        exact outside_inv i ((issueBeat_within (.refl v)).inv spent)

theorem execBeatSlotGrant_ends (i : Inv s) : Ends (execBeatSlotGrant s) := by
  have ports : ∀ (l : List (Fin 4)) {a : State × Caps}, Inv a.1 → Inv (l.foldl grantPort a).1 := by
    intro l
    induction l with
    | nil => exact fun i => i
    | cons p l ih => exact fun i => ih (grantPort_inv i)
  refine ⟨_, rfl, ?_⟩
  split
  · refine (folds_within (fun _ _ => markAdmit_within (.refl _)) _ (.refl _)).inv (ports _ (ports _ ?_))
    exact i.keeps (.same rfl rfl)
  · exact i

/-! ### Blocks and lists -/

theorem beginBlock_within {b : BlkRun} (w : Within s t) : Within s (beginBlock t h b) := by
  unfold beginBlock
  extract_lets c x f r b1 empty y v b2 v1 v2
  have filled : Within s f.1 := copyFill_within w
  have read : Within s r.1 := by
    unfold r; split
    · exact readWords_within filled
    · exact w
  clear_value f r
  have sent : Within s v := ite_within (offer_within read) read
  clear_value v
  have goes : Within s v2 := progress_within (modChan_within sent)
  clear_value v2
  exact ite_within (ladPresents_within goes) goes

theorem tapBeats_within {xs : List (Bits × Bool)} (w : Within s t) : Within s (tapBeats t h xs) :=
  folds_within (fun _ _ => ite_within (tapAdd_within (.refl _)) (.refl _)) _ w

theorem farWrites_within {ws : List WordWr} (w : Within s t) : Within s (farWrites t ws) := w.rest

theorem landXfer_within {b : BlkRun} {x : Xfer} (w : Within s t) : Within s (landXfer t h b x).1 := by
  unfold landXfer
  split
  · exact w
  split
  · exact countChanOob_within w
  split
  · exact w
  split
  · exact farWrites_within w
  · extract_lets r v
    have g : Within s r.1 := writeGroups_within w
    clear_value r
    exact countChanOob_within (ite_within g (tapBeats_within g))

theorem landFetch_within {n : Nat} {b : BlkRun} {x : Xfer} (w : Within s t) : Within s (landFetch t h n b x) := by
  unfold landFetch
  split
  · exact w
  · extract_lets part whole v b1 v1
    have row : Within s v.1 := by
      unfold v; split
      · exact rowVals_within w
      · exact w
    clear_value v
    have set : Within s v1 := setBlk_within row
    clear_value v1
    exact ite_within (runIndex_within set) set

theorem blockInc_within {b : BlkRun} (w : Within s t) : Within s (blockInc t h b) := by
  unfold blockInc; dsimp only
  split
  · exact w
  · exact incCtrBy_within w

theorem closeBlock_within {n : Nat} (w : Within s t) : Within s (closeBlock t h n) := by
  unfold closeBlock
  split
  · exact w
  split
  · exact w
  split
  · exact stopIndex_within w
  · extract_lets v v1
    have g : Within s v := blockInc_within (modChan_within w)
    clear_value v
    have freed : Within s v1 := ite_within (ladFrees_within g) g
    clear_value v1
    exact ite_within freed (modChan_within freed)

theorem execTransferComplete_ends (i : Inv s) : Ends (execTransferComplete h s) := by
  refine Within.ends (outside_within (.refl s) ?_) i
  split
  · rename_i n b j x _
    have landed : Within s (landXfer s h b x).1 := landXfer_within (.refl s)
    dsimp only
    split
    · exact fenceChan_within landed
    · refine closeBlock_within (progress_within ?_)
      exact ite_within (runIndex_within (landFetch_within (setBlk_within landed))) (landFetch_within (setBlk_within landed))
  · split
    · exact closeBlock_within (progress_within (.refl s))
    · exact .refl s

/-! ### Far memory -/

theorem farLate_within (w : Within s t) : Within s (farLate t h) := by
  unfold farLate; dsimp only
  split
  · exact raiseEvt_within (logRun_within (modChan_within (modChan_within w)))
  · exact modChan_within w

theorem farDrains_within {d : Bits} (w : Within s t) : Within s (farDrains t h d) := by
  unfold farDrains; dsimp only
  split
  · exact w
  · exact ite_within (landXfer_within (modChan_within w)) (modChan_within w)

theorem execFarResponse_ends {d : Bits} {n : Nat} (i : Inv s) : Ends (execFarResponse h d n s) := by
  refine Within.ends ?_ i
  split
  · exact modChan_within (.refl s)
  split
  · exact farDrains_within (.refl s)
  split
  · exact .refl s
  · exact ite_within (farLate_within (setBlk_within (.refl s))) (setBlk_within (.refl s))

theorem execFarXlate_ends {a : BitVec 48} (i : Inv s) : Ends (execFarXlate h a s) := by
  refine Within.ends ?_ i
  split
  · exact .refl s
  · exact abortTask_within (logRun_within (.rest (.refl s)))

/-! ### Re-arms, items, and what starts -/

theorem submitRearm_within (w : Within s t) : Within s (submitRearm h t) := by
  unfold submitRearm; dsimp only
  split
  · exact w
  split
  · exact logRefused_within w
  split
  · exact raiseEvt_within (logRun_within (modChan_within w))
  · exact modChan_within w

theorem execRearm_ends (i : Inv s) : Ends (execRearm h s) := (submitRearm_within (.refl s)).ends i

theorem execListEnd_ends (i : Inv s) : Ends (execListEnd h s) := by
  refine Within.ends ?_ i
  split
  · exact .refl s
  · exact ite_within (modChan_within (.refl s)) (.refl s)

theorem execItemStart_ends {ag : Agent} (i : Inv s) : Ends (execItemStart ag s) := by
  refine Within.ends ?_ i
  split
  · exact .refl s
  split
  · cases ag with
    | core c => exact modEa_within (progress_within (modCore_within (.refl s)))
    | chan h => exact ite_within (modChan_within (.refl s)) (progress_within (modChan_within (.refl s)))
    | ea a => exact progress_within (modEa_within (.refl s))
  · exact .refl s

theorem loadCredit_within (w : Within s t) : Within s (loadCredit t c).1 := by
  unfold loadCredit
  split
  · exact w
  split
  · exact w
  · exact askCredit_within w

theorem execFetchTransfer_ends {n : Fin 4} (i : Inv s) : Ends (execFetchTransfer c n s) := by
  have asked : Within s (loadCredit s c).1 := loadCredit_within (.refl s)
  refine Within.ends ?_ i
  split
  · dsimp only
    split
    · exact asked
    split
    · exact modCore_within asked
    · exact outside_within asked (runProgs_within (progress_within (fetchFrom_within (modCore_within asked))))
  · exact .refl s

theorem execStorePathWrite_ends (i : Inv s) : Ends (execStorePathWrite c s) :=
  (ite_within (.refl s) (outside_within (.refl s) (runProgs_within (drainSq_within (.refl s))))).ends i

theorem ladRuns_within {x : LadSrc} (w : Within s t) : Within s (ladRuns t x) := by
  cases x with
  | core c => exact runProgs_within w
  | chan h => exact startIndex_within w

theorem execLadleStart_ends (i : Inv s) : Ends (execLadleStart k s) := by
  refine Within.ends ?_ i
  split
  · exact .refl s
  split
  · exact .refl s
  · exact outside_within (.refl s) (ladRuns_within (ladTakes_within (.refl s)))

theorem withCredit_within {e : BitVec 256} {f : State → State} (w : Within s t) (g : ∀ {v}, Within s v → Within s (f v)) :
    Within s (withCredit t h e f) := by
  unfold withCredit; dsimp only
  split
  · exact g (takeCredit_within (askCredit_within w))
  · exact waitFor_within (modChan_within (askCredit_within w))

theorem nextEntry_within {l : RunList} (w : Within s t) : Within s (nextEntry t h l).1 := by
  unfold nextEntry
  split
  · exact w
  · exact readEntry_within w

theorem startBlock_within {b : BlkRun} (w : Within s t) : Within s (startBlock t h b) :=
  ite_within (ladRuns_within (beginBlock_within w)) (beginBlock_within w)

theorem execBlockStart_ends (i : Inv s) : Ends (execBlockStart h s) := by
  refine Within.ends (outside_within (.refl s) ?_) i
  split
  · exact .refl s
  split
  · rename_i l _ _
    have r : Within s (nextEntry s h l).1 := nextEntry_within (.refl s)
    split <;> rename_i e <;> simp only [e] at r
    · exact failChan_within r
    · refine withCredit_within r fun w => ?_
      dsimp only
      split
      · exact failChan_within w
      · exact startBlock_within w
  · exact .refl s

end Sys2Proof.Machine
end

section
set_option Elab.async false -- one proof after another: this bounds the memory that a check of the whole text takes
/-! PROOFS. The Remote Engine and the link keep the canonical form: admission, return routes, inbound operations, slots, lanes
and training. -/

namespace Sys2Proof.Machine

variable {s t u : State} {l : Nat} {f : Flit} {x : StreamId}

/-! ### Registers of the link and of the labels -/

theorem modLab_within {g : LabelSt → LabelSt} (h : Within s t) : Within s (modLab t l g) := h.rest

theorem modLink_within {g : Link → Link} (h : Within s t) : Within s (modLink t g) := h.rest

theorem setDomState_within {d : DomId} {p : PState} (h : Within s t) : Within s (setDomState t d p) := by
  unfold setDomState
  split
  · exact modPort_within h
  · exact ite_within (modPort_within h) (modDom_within h)

/-- Nothing but the counts of the frame and the misses raised in it differs. -/
theorem Within.frame (h : Within s t) (tick : SameTick t.fr u.fr := by rfl) (mem : u.mem = t.mem := by rfl)
    (cnt : u.cnt = t.cnt := by rfl) (cmd : u.cmd = t.cmd := by rfl) (debt : u.pwr.divFrame = t.pwr.divFrame := by rfl)
    (ports : u.mov.bucket = t.mov.bucket ∧ u.mov.reg = t.mov.reg := by exact ⟨rfl, rfl⟩) : Within s u :=
  h.trans ⟨fun i => i.keeps (.same mem cnt), cmd, tick, debt, ports⟩

/-! ### Admission -/

theorem sendOut_within {b : Bool} {n : BitVec 6} (h : Within s t) : Within s (sendOut t b n f) := by
  have k : Within s (countFlit t) := countFlit_within h
  unfold sendOut; dsimp only
  generalize countFlit t = v at k ⊢
  exact ite_within k.rest (modLink_within k)

theorem presentFlit_within {y : Stream} {o : OutFlit} (h : Within s t) : Within s (presentFlit t x y o) :=
  ite_within h (presentAt_within h)

theorem accepted_within (h : Within s t) : Within s (accepted t x) := by
  unfold accepted
  split
  · exact progress_within (modChan_within h)
  · exact clipAccepted_within (drainAccepted_within (progress_within h))
  · exact progress_within h
  · exact h

theorem failStream_within (h : Within s t) : Within s (failStream t x) := by
  unfold failStream
  extract_lets ag v
  have k : Within s v := modStream_within h
  clear_value v ag
  split
  · exact fenceCore_within (logFenced_within k)
  · exact fenceChan_within (logFenced_within k)
  · exact clipAccepted_within (fenceDrain_within (logFenced_within k))
  · exact k

theorem flitAccept_within (h : Within s t) : Within s (flitAccept x t) := by
  unfold flitAccept
  extract_lets y
  split
  · exact h
  · split
    · exact ite_within h (failStream_within h)
    · split
      · extract_lets v w
        have k : Within s w := modStream_within (sendOut_within (presentFlit_within h))
        clear_value w
        exact ite_within k (accepted_within k)
      · split
        · exact waitFor_within h
        · exact h

theorem execFlitAccept_ends (i : Inv s) : Ends (execFlitAccept x s) := (flitAccept_within (.refl s)).ends i

/-! ### Return routes -/

theorem sendRet_within {typ inc ctr addr nw dl : Nat} {last psn : Bool} {data : Bits} (h : Within s t) :
    Within s (sendRet t l typ inc ctr addr nw dl last psn data) := h.rest

theorem flushNocGo_within : ∀ {rs : List RetFlit} {t : State}, Within s t → Within s (flushNocGo rs t).1
  | [], _, h => h
  | r :: rs, t, h => by
    unfold flushNocGo
    split
    · exact flushNocGo_within (sendOut_within (modLab_within h))
    · exact flushNocGo_within h

theorem flushNoc_within (h : Within s t) : Within s (flushNoc t) := by
  have k : Within s (flushNocGo t.rmt.ret t).1 := flushNocGo_within h
  unfold flushNoc; dsimp only
  generalize flushNocGo t.rmt.ret t = r at k ⊢
  exact k.rest

theorem sendCred_within (h : Within s t) : Within s (sendCred t l) := by
  unfold sendCred
  extract_lets e n v w
  have k : Within s w := modPort_within (modLab_within h)
  clear_value w
  exact sendRet_within k

theorem credNoc_within : ∀ {n : Nat} {t : State}, Within s t → Within s (credNoc n t)
  | 0, _, h => h
  | n + 1, t, h => by
    unfold credNoc
    split
    · exact credNoc_within (flushNoc_within (sendCred_within h))
    · exact h

theorem giveBack_within (h : Within s t) : Within s (giveBack t l) := by
  unfold giveBack
  extract_lets e v
  have k : Within s v := modPort_within h
  clear_value v
  exact ite_within h (credNoc_within (modLab_within k))

/-! ### Inbound operations -/

theorem poisonNamed_within {c : Ctr} (h : Within s t) : Within s (poisonNamed t l c) :=
  ite_within (logRun_within h) (setCtr_within h)

theorem refuse_within {e : Err} {log : Bool} (h : Within s t) : Within s (refuse t l f e log) := by
  unfold refuse
  extract_lets src v w y z
  have k : Within s v := ite_within (logAt_within h) h
  clear_value v
  have p : Within s y := poisonNamed_within (modLink_within k)
  clear_value y
  have q : Within s z := modLab_within p
  clear_value z
  exact flushNoc_within (sendRet_within q)

theorem discardShut_within (h : Within s t) : Within s (discardShut t l f) := by
  unfold discardShut
  extract_lets _ v
  have k : Within s v := h.rest
  clear_value v
  exact ite_within (poisonNamed_within k) k

theorem lateness_within (h : Within s t) : Within s (lateness t l f) := by
  unfold lateness
  extract_lets e d _ w key _ y due
  have k : Within s w := h.frame
  have counted : Within s { t with fr := { t.fr with late := sat32 t.fr.late 1 } } := h.frame
  have raised : Within s y := k.frame
  clear_value w y
  exact ite_within h (ite_within counted (ite_within k (raiseEvt_within (logAt_within raised))))

theorem runStep_within {n : Nat} (h : Within s t) : Within s (runStep t l f n) := by
  unfold runStep
  extract_lets y sum psn v
  have k : Within s v := modLab_within h
  clear_value v
  exact ite_within (ite_within k (incCtrBy_within k)) (modLab_within h)

theorem answered_within {b : Bool} (h : Within s t) : Within s (answered t x f b) := by
  unfold answered
  extract_lets v
  have k : Within s v := modStream_within h
  clear_value v
  split
  · exact progress_within (modChan_within k)
  · exact k

theorem applyWr_within {g : State → State} (h : Within s t) (k : ∀ {v}, Within s v → Within s (g v)) : Within s (applyWr t l f g) := by
  unfold applyWr
  extract_lets e w
  have p : Within s w.1 := writeWords_within h
  clear_value w
  exact ite_within (refuse_within h) (ite_within (refuse_within p) (k (runStep_within (lateness_within p))))

theorem rowFlits'_within {who : Who} {d e : Desc} {r a : Nat} (h : Within s t) : Within s (rowFlits' t who d e r a).1 := by
  unfold rowFlits'
  extract_lets n m tail data
  have p : Within s m.1 := readElems_within h
  clear_value m
  have q : Within s tail.1 := by
    unfold tail; split
    · exact p
    · exact drawBits_within p
  exact q

theorem respFlits_within {who : Who} {d e : Desc} : ∀ {n r : Nat} {t : State}, Within s t → Within s (respFlits who d e n r t).1
  | 0, _, _, h => h
  | n + 1, r, t, h => by
    unfold respFlits
    split
    · exact respFlits_within h
    · exact respFlits_within (rowFlits'_within h)

theorem applyRdReq_within (h : Within s t) : Within s (applyRdReq t l f) := by
  unfold applyRdReq
  extract_lets e d v r w
  have k : Within s v := lateness_within h
  clear_value v
  have p : Within s r.1 := respFlits_within k
  clear_value r
  have q : Within s w := folds_within (fun _ _ => sendRet_within (.refl _)) _ p
  clear_value w
  exact ite_within (refuse_within h) (giveBack_within (flushNoc_within q))

theorem applyInc_within (h : Within s t) : Within s (applyInc t l f) :=
  giveBack_within (incCtrBy_within (lateness_within h))

theorem applyAdd_within (h : Within s t) : Within s (applyAdd t l f) := by
  unfold applyAdd
  extract_lets e k who w v y p z r v1 v2
  have read : Within s v := countGranules_within (presentWords_within (lateness_within h))
  clear_value v y p z
  have written : Within s r.1 := writeWord_within read
  clear_value r
  have counted : Within s v1 := modLink_within written
  clear_value v1
  have done : Within s v2 := ite_within (incCtrBy_within counted) counted
  clear_value v2
  exact ite_within (refuse_within h) (ite_within (giveBack_within (logRun_within (lateness_within h)))
    (ite_within (refuse_within (groupOff_within h)) (giveBack_within done)))

theorem takeGrant_within {g : Nat} (h : Within s t) : Within s (takeGrant t g) := by
  unfold takeGrant; dsimp only
  exact ite_within (modStream_within h) (ite_within (modStream_within h) h)

theorem applyCred_within (h : Within s t) : Within s (applyCred t f) := folds_within (fun _ _ => takeGrant_within (.refl _)) _ h

theorem applyCret_within (h : Within s t) : Within s (applyCret t l f) := modPort_within h

theorem applyNack_within (h : Within s t) : Within s (applyNack t f) := modStream_within h

theorem applyRsp_within (h : Within s t) : Within s (applyRsp t l f) := by
  unfold applyRsp
  split
  · exact ite_within (ite_within (modStream_within h) h) (applyWr_within h fun k => ite_within (answered_within k) k)
  · exact applyWr_within h fun k => k

theorem deliver_within (h : Within s t) : Within s (deliver t l f) := by
  refine ite_within (discardShut_within h) (ite_within (refuse_within h) (ite_within (refuse_within h) ?_))
  split
  · exact applyWr_within h giveBack_within
  · exact applyRdReq_within h
  · exact ite_within h (applyRsp_within h)
  · exact applyInc_within h
  · exact applyAdd_within h
  · exact applyCred_within h
  · exact applyCret_within h
  · exact applyNack_within h
  · exact h

/-! ### The receiving side -/

theorem crcFail_within {b : Bool} (h : Within s t) : Within s (crcFail t b) := modLink_within h
theorem seqFail_within (h : Within s t) : Within s (seqFail t) := modLink_within h
theorem takeAck_within (h : Within s t) : Within s (takeAck t f) := modLink_within h

theorem swapLane_within {n : LaneId} (h : Within s t) : Within s (swapLane n t) :=
  ite_within (logRun_within (modLink_within h)) h

theorem laneError_within {n : LaneId} (h : Within s t) : Within s (laneError t n) := by
  unfold laneError
  extract_lets v
  have k : Within s v := modLink_within h
  clear_value v
  exact ite_within k (ite_within (modLink_within k) (swapLane_within k))

theorem fecFinds_within (h : Within s t) : Within s (fecFinds t) := by
  unfold fecFinds
  extract_lets ls v w
  have k : Within s v := ite_within h (folds_within (fun _ _ => laneError_within (.refl _)) _ (modLink_within h))
  clear_value v
  have q : Within s w := ite_within (modLink_within k) k
  clear_value w
  exact q.rest

theorem linkIn_within {b : Bool} (h : Within s t) : Within s (linkIn t b) := ite_within (fecFinds_within h) h

theorem badLabel_within (h : Within s t) : Within s (badLabel t l) := logRun_within (modLink_within h)

theorem forward_within (h : Within s t) : Within s (forward t l f) := by
  unfold forward
  extract_lets e g v
  have k : Within s v := modLink_within h
  clear_value v
  exact ite_within k.rest (modLink_within k)

theorem byLabel_within (h : Within s t) : Within s (byLabel t f) :=
  ite_within (badLabel_within h) (ite_within (deliver_within h) (forward_within h))

theorem fwdOverflow_within {b : Bool} (h : Within s t) : Within s (fwdOverflow t b) :=
  ite_within (seqFail_within (modLink_within h)) (modLink_within h)

theorem arrive_within {b : Bool} (h : Within s t) : Within s (arrive t b f fun v => byLabel v f) := by
  unfold arrive
  extract_lets v
  have k : Within s v := takeAck_within h
  clear_value v
  exact ite_within
    (ite_within h (ite_within (crcFail_within h) (ite_within (seqFail_within k) (byLabel_within (countFlit_within (modLink_within k))))))
    (ite_within (crcFail_within h) (byLabel_within (countFlit_within h)))

theorem inbound_ends {n : Nat} {b : Bool} (i : Inv s) : Ends (inbound n b f s) := by
  refine Within.ends (ite_within (.refl s) ?_) i
  have k : Within s (linkIn s b) := linkIn_within (.refl s)
  exact ite_within (fwdOverflow_within k) (arrive_within k)

theorem execFlitForward_ends {b : Bool} (i : Inv s) : Ends (execFlitForward b f s) := by
  unfold execFlitForward; split
  · exact (Within.refl s).ends i
  · exact inbound_ends i

theorem execFlitCrcFail_ends {b : Bool} (i : Inv s) : Ends (execFlitCrcFail b f s) :=
  (ite_within (.refl s) (crcFail_within (linkIn_within (.refl s)))).ends i

theorem execIdle_ends (i : Inv s) : Ends (execIdle f s) :=
  (ite_within (.refl s) (ite_within (crcFail_within (linkIn_within (.refl s))) (takeAck_within (linkIn_within (.refl s))))).ends i

theorem execRecall_ends {st : StoreId} (i : Inv s) : Ends (execRecall st s) :=
  (ite_within (.refl s) (flushNoc_within
    (folds_within (fun _ _ => sendRet_within (.refl _)) _ (modPort_within (.refl s))))).ends i

theorem recallOver_within {st : StoreId} (h : Within s t) : Within s (recallOver t st) := by
  unfold recallOver; dsimp only
  exact ite_within (modPort_within h) h

theorem routeCycle_within (h : Within s t) : Within s (routeCycle t) :=
  credNoc_within (flushNoc_within (folds_within (fun _ _ => recallOver_within (.refl _)) _ h))

/-! ### The link -/

theorem execTickMarker_ends {n : Fin 16} (i : Inv s) : Ends (execTickMarker f n s) := by
  unfold execTickMarker
  extract_lets skew v v1 wide v2
  have k : Within s (linkIn s true) := linkIn_within (.refl s)
  have taken : Within s v := countFlit_within (takeAck_within k)
  clear_value v
  have period : Within s v1 := ite_within (raiseEvt_within (logRun_within taken)) taken
  clear_value v1
  have skewed : Within s v2 := ite_within (raiseEvt_within (logRun_within period)) period
  clear_value v2
  refine ⟨_, rfl, ?_⟩
  split
  · exact i
  split
  · exact (modLink_within k).inv i
  split
  · exact taken.inv i
  · exact (skewed.inv i).keeps (.same rfl rfl)

theorem putLine_within (h : Within s t) : Within s (putLine t f) := modLink_within h

theorem nextNew_within {r : State × Flit} (h : Within s t) (e : nextNew t = some r) : Within s r.1 := by
  unfold nextNew at e
  split at e
  · obtain rfl := Option.some.inj e
    dsimp only; exact modLink_within h
  split at e
  · obtain rfl := Option.some.inj e
    dsimp only; exact modLab_within (modLink_within h)
  split at e
  · obtain rfl := Option.some.inj e
    dsimp only; exact modLab_within (countFlit_within h.rest)
  · exact absurd e.symm (Option.some_ne_none r)

theorem withCred_within (h : Within s t) : Within s (withCred t) := by
  refine ite_within h ?_
  split
  · exact sendCred_within h
  · exact h

theorem countReplay_within (h : Within s t) : Within s (countReplay t) := by
  unfold countReplay
  extract_lets n past v
  have k : Within s v := modLink_within h
  clear_value v
  exact ite_within (logRun_within k) k

theorem execLinkSlot_ends (i : Inv s) : Ends (execLinkSlot s) := by
  refine Within.ends ?_ i
  split
  · exact .refl s
  · refine ite_within (.refl s) ?_
    extract_lets v g
    have k : Within s v := modLink_within (.refl s)
    clear_value v
    refine ite_within (countFlit_within (modLink_within (putLine_within k))) ?_
    split
    · exact countReplay_within (modLink_within (putLine_within k))
    · refine ite_within (putLine_within k) ?_
      split
      · rename_i e
        exact modLink_within (putLine_within (nextNew_within (withCred_within k) e))
      · exact putLine_within k

theorem execNakRetry_ends (i : Inv s) : Ends (execNakRetry s) := (ite_within (modLink_within (.refl s)) (.refl s)).ends i

theorem execLaneSwap_ends {n : LaneId} (i : Inv s) : Ends (execLaneSwap n s) := (swapLane_within (.refl s)).ends i

theorem laneCycle_within (h : Within s t) : Within s (laneCycle t) := by
  unfold laneCycle; dsimp only
  exact ite_within h (ite_within (modLink_within h) (modLink_within h))

theorem execSpareReadyTimeout_ends {n : LaneId} (i : Inv s) : Ends (execSpareReadyTimeout n s) :=
  (ite_within (modLink_within (.refl s)) (.refl s)).ends i

theorem execCandidateSpareReady_ends {n : LaneId} (i : Inv s) : Ends (execCandidateSpareReady n s) :=
  (ite_within (modLink_within (.refl s)) (.refl s)).ends i

theorem execLinkRetrain_ends {n : Option LaneId} (i : Inv s) : Ends (execLinkRetrain n s) :=
  (ite_within (logRun_within (modLink_within (.refl s))) (.refl s)).ends i

theorem execRetrainDone_ends {b : Bool} (i : Inv s) : Ends (execRetrainDone b s) :=
  (ite_within (.refl s) (ite_within (modLink_within (.refl s))
    (ite_within (logRun_within (modLink_within (.refl s))) (logRun_within (modLink_within (.refl s)))))).ends i

theorem newTxP_within : ∀ {n : Nat} {t : State}, Within s t → Within s (newTxP n t)
  | 0, _, h => h
  | n + 1, _, h => newTxP_within (n := n) (modLink_within (drawFree_within h))

theorem trainLink_within {b : Bool} {n : BitVec 16} (h : Within s t) : Within s (trainLink t b n) :=
  ite_within (logRun_within (modLink_within h)) (ite_within (logRun_within (modLink_within h)) (modLink_within (newTxP_within h)))

theorem execLinkTrain_ends {b : Bool} {n : BitVec 16} (i : Inv s) : Ends (execLinkTrain b n s) :=
  (ite_within (trainLink_within (.refl s)) (.refl s)).ends i

end Sys2Proof.Machine
end

section
set_option Elab.async false -- one proof after another: this bounds the memory that a check of the whole text takes
/-! PROOFS. Stopping a partition, saving and restoring contexts, the resets and the start of a task keep the canonical form. -/

namespace Sys2Proof.Machine

variable {s t u : State} {c : CoreId} {p : Part}

/-- The counters stand but for entries taken out. -/
theorem Within.fewer {f : Nat × Counter → Bool} (h : Within s t) (cnt : u.cnt = t.cnt.filter f := by rfl) (mem : u.mem = t.mem := by rfl)
    (cmd : u.cmd = t.cmd := by rfl) (fr : u.fr = t.fr := by rfl) (debt : u.pwr.divFrame = t.pwr.divFrame := by rfl)
    (ports : u.mov.bucket = t.mov.bucket ∧ u.mov.reg = t.mov.reg := by exact ⟨rfl, rfl⟩) : Within s u :=
  h.trans ⟨fun i => ⟨by rw [mem]; exact i.1, by rw [cnt]; exact tableWf_filter _ _ _ i.2⟩, cmd, by rw [fr]; rfl, debt, ports⟩

/-! ### Interruption -/

theorem drainAll_within : ∀ {n : Nat} {t : State}, Within s t → Within s (drainAll c n t)
  | 0, _, h => h
  | n + 1, _, h => ite_within h (drainAll_within (n := n) (drainSq_within h))

theorem finishProg_within : ∀ {n : Nat} {q : Prog} {t : State}, Within s t → Within s (finishProg c n q t)
  | 0, _, _, h => h
  | n + 1, q, t, h => by
    unfold finishProg
    extract_lets v w x
    have k : Within s v := ite_within (ladTakes_within h) h
    clear_value v
    have fed : Within s w := ite_within (fetchFrom_within k) k
    clear_value w
    have drained : Within s x := drainAll_within fed
    clear_value x
    have r : Within s (runProg c (q.need + 3) q x).1 := runProg_within drained
    split <;> rename_i e <;> simp only [e] at r
    · exact r
    · exact finishProg_within r

theorem finishProgs_within (h : Within s t) : Within s (finishProgs t c) :=
  folds_within (fun _ _ => finishProg_within (.refl _)) _ (modCore_within h)

theorem stopTask_within {b : Bool} (h : Within s t) : Within s (stopTask t p b) := by
  unfold stopTask
  extract_lets st cs v w x y z
  have finished : Within s v := folds_within (fun _ _ => finishProgs_within (.refl _)) _ h
  clear_value v
  have drained : Within s w := folds_within (fun _ _ => drainAll_within (.refl _)) _ finished
  clear_value w
  have stopped : Within s x := drained.rest
  clear_value x
  have dropped : Within s y := dropLadle_within stopped
  clear_value y
  have halted : Within s z := dropped.rest
  clear_value z
  exact modPart_within halted

/-! ### Contexts -/

theorem saveCore_within (h : Within s t) : Within s (saveCore t c) := by
  unfold saveCore
  extract_lets x w
  have k : Within s w.1 := writeGroups_within h
  clear_value w
  exact modCore_within k

theorem saveTask_within (h : Within s t) : Within s (saveTask t p) :=
  modPart_within (folds_within (fun _ _ => saveCore_within (.refl _)) _ h)

theorem readSlot_within {a n : Nat} (h : Within s t) : Within s (readSlot t c a n).1 := readWords_within h

theorem restoreV_within {a : Nat} {k : VReg} (h : Within s t) : Within s (restoreV c a t k) := by
  unfold restoreV
  exact modCore_within (readSlot_within h)

theorem restoreT_within {a : Nat} {b : Bits} {k : TrivetId} (h : Within s t) : Within s (restoreT c a b t k) := by
  unfold restoreT
  extract_lets w r y
  have k : Within s r.1 := by
    refine foldl_within (α := State × List Bits × Bool) Prod.fst _ (fun q i => ?_) _ (a := (t, [], false)) h
    dsimp only
    exact readSlot_within (.refl q.1)
  clear_value r y
  exact modCore_within k

theorem restoreCore_within (h : Within s t) : Within s (restoreCore t c) := by
  unfold restoreCore
  extract_lets a r b m v n w x
  have head : Within s r.1 := readSlot_within h
  clear_value r
  have regs : Within s m.1 := readSlot_within (modCore_within head)
  clear_value m
  have scalars : Within s v := modCore_within regs
  clear_value v
  have descs : Within s n.1 := readSlot_within scalars
  clear_value n
  have vecs : Within s x := folds_within (fun _ _ => restoreV_within (.refl _)) _ (modCore_within descs)
  clear_value x
  exact ite_within (failCore_within head) (folds_within (fun _ _ => restoreT_within (.refl _)) _ vecs)

theorem resumeTask_within (h : Within s t) : Within s (resumeTask t p) := by
  unfold resumeTask
  extract_lets q k cs v _ w x
  have restored : Within s v := ite_within (folds_within (fun _ _ => restoreCore_within (.refl _)) _ h) h
  clear_value v
  have resumed : Within s w := restored.rest
  clear_value w
  exact modPart_within (folds_within (fun _ _ => clipAccepted_within (.refl _)) _ resumed)

/-! ### Reset levels -/

theorem dropWaiting_within {f : Stream → Bool} (h : Within s t) : Within s (dropWaiting t f) := h.rest

theorem resetCoreTo_within {b : Bool} (h : Within s t) : Within s (resetCoreTo t c b) := by
  unfold resetCoreTo
  extract_lets v w x y
  have taken : Within s v := absorb_within h
  clear_value v
  have drained : Within s w := ite_within taken (drainAll_within taken)
  clear_value w
  have dropped : Within s x := dropLadle_within drained
  clear_value x
  exact modCore_within (dropWaiting_within dropped)

theorem resetClusterTo_within {k : ClusterId} {b : Bool} (h : Within s t) : Within s (resetClusterTo t k b) := by
  unfold resetClusterTo
  extract_lets v w _ x
  have cores : Within s v := folds_within (fun _ _ => resetCoreTo_within (.refl _)) _ h
  clear_value v
  have taken : Within s w := absorb_within cores
  clear_value w
  have lost : Within s x := taken.rest
  clear_value x
  exact modCl_within lost

theorem acceptAll_within {x : StreamId} : ∀ {n : Nat} {t : State}, Within s t → Within s (acceptAll x n t)
  | 0, _, h => h
  | n + 1, t, h => by
    unfold acceptAll; split
    · exact ite_within (acceptAll_within (flitAccept_within h)) h
    · exact h

theorem drainXfer_within {h : ChanId} {b : BlkRun} {x : Xfer} (w : Within s t) : Within s (drainXfer h t b x).1 := by
  unfold drainXfer
  split
  · exact w
  split
  · dsimp only
    split
    · exact landXfer_within w
    · exact w
  · refine landXfer_within (foldl_within (α := State × Xfer) Prod.fst _ (fun q _ => ?_) _ (a := (t, x)) w)
    split
    · exact readMovBeat_within (.refl _)
    · exact .refl _

theorem drainChan_within {h : ChanId} (w : Within s t) : Within s (drainChan t h) := by
  unfold drainChan
  refine ite_within w ?_
  extract_lets x v
  have sent : Within s v := ite_within (acceptAll_within w) w
  clear_value v
  refine folds_within (fun a b => ?_) _ sent
  extract_lets r
  have drained : Within a r.1 :=
    foldl_within (α := State × List Xfer) Prod.fst _ (by exact fun _ _ => drainXfer_within (.refl _)) _ (a := (a, [])) (.refl a)
  clear_value r
  exact ite_within drained (modChan_within drained)

theorem dropHolds_within (h : Within s t) : Within s (dropHolds t p) := folds_within (fun _ _ => modPort_within (.refl _)) _ h

theorem freshLabels_within (h : Within s t) : Within s (freshLabels t p) := h.rest

theorem resetPart_within (h : Within s t) : Within s (resetPart t p) := by
  unfold resetPart
  extract_lets v w x y _ _ z
  have drained : Within s v := folds_within (fun _ _ => drainChan_within (.refl _)) _ h
  clear_value v
  have clusters : Within s w := folds_within (fun _ _ => resetClusterTo_within (.refl _)) _ drained
  clear_value w
  have held : Within s x := dropHolds_within clusters
  clear_value x
  have labels : Within s y := freshLabels_within held
  clear_value y
  have fresh : Within s z := labels.fewer
  clear_value z
  exact modPart_within fresh

/-! ### Starting a task -/

/-- Between `s` and `t` the canonical form is kept and the tick stands; a task's start sets the Stream Mover's tokens, and a
command may end. -/
structure InTick (s t : State) : Prop where
  inv : Inv s → Inv t
  tick : SameTick s.fr t.fr
  debt : t.pwr.divFrame = s.pwr.divFrame

theorem Within.inTick (h : Within s t) : InTick s t := ⟨h.inv, h.tick, h.debt⟩

theorem InTick.refl (s : State) : InTick s s := (Within.refl s).inTick

theorem InTick.trans (h : InTick s t) (k : InTick t u) : InTick s u :=
  ⟨k.inv ∘ h.inv, h.tick.trans k.tick, k.debt.trans h.debt⟩

theorem InTick.then (h : InTick s t) (k : Within t u) : InTick s u := h.trans k.inTick

theorem folds_inTick {β : Type} {f : State → β → State} (step : ∀ a b, InTick a (f a b)) : ∀ (l : List β) {t : State}, InTick s t → InTick s (l.foldl f t)
  | [], _, h => h
  | b :: l, t, h => folds_inTick step l (h.trans (step t b))

theorem ite_inTick {q : Prop} [Decidable q] {v : State} (h : InTick s t) (k : InTick s v) : InTick s (if q then t else v) := by
  split
  · exact h
  · exact k

theorem startMover_inTick : InTick s (startMover s p) := ⟨fun i => i.keeps (.same rfl rfl), rfl, rfl⟩

theorem pushWork_within {n : Word} (h : Within s t) : Within s (pushWork t p n) :=
  folds_within (fun a x => by
    dsimp only
    exact ite_within (.refl a) (modAg_within (.refl a))) _ h

theorem beginSeq_within {q : Fin 16} (h : Within s t) : Within s (beginSeq t p q) := by
  unfold beginSeq; exact modPart_within h

theorem undefGroups_within (h : Within s t) : Within s (undefGroups t p) :=
  folds_within (fun a g => Within.stores (.refl a) (wf_undefGroup g a.fresh)) _ h

theorem initCounters_within (h : Within s t) : Within s (initCounters t p) := by
  unfold initCounters
  refine folds_within (fun a c => ?_) _ h.fewer
  dsimp only
  exact ite_within (.refl a) (setCtr_within (.refl a))

theorem initHolds_within (h : Within s t) : Within s (initHolds t p) := folds_within (fun _ _ => modPort_within (.refl _)) _ h

theorem startTask_inTick {q : Fin 16} : InTick s (startTask s p q) := by
  unfold startTask
  extract_lets v w x tpl pc _ y z
  have labels : Within s w := freshLabels_within (dropHolds_within (.refl s))
  clear_value v w
  have begun : Within s x := beginSeq_within (modPart_within labels)
  clear_value x
  have fresh : Within s y := begun.rest
  clear_value y
  have filled : InTick s z :=
    (fresh.inTick.trans startMover_inTick).then (initHolds_within (initCounters_within (undefGroups_within (.refl _))))
  clear_value z
  exact filled.then (pushWork_within (.refl z))

end Sys2Proof.Machine
end

section
set_option Elab.async false -- one proof after another: this bounds the memory that a check of the whole text takes
/-! PROOFS. The command window, the power domains, and the supply, ageing, scrub and refresh events keep the canonical form. -/

namespace Sys2Proof.Machine

variable {s t u : State} {d : DomId} {e : Err}

/-! ### The command window -/

theorem raiseEvt_inv {v : Evt} (i : Inv t) : Inv (raiseEvt t v) := i.keeps (.same rfl rfl)

theorem cmdDone_inTick {a b : Nat} (h : InTick s t) : InTick s (cmdDone t a b) :=
  h.trans ⟨fun i => i.keeps (.same rfl rfl), rfl, rfl⟩

theorem cmdDone_inv {a b : Nat} (i : Inv t) : Inv (cmdDone t a b) := (cmdDone_inTick (.refl t)).inv i

theorem cmdRefuse_inv {a n : Nat} (i : Inv t) : Inv (cmdRefuse t a e n) := cmdDone_inv ((logRefused_within (.refl t)).inv i)

theorem cmdTimed_inv {a n : Nat} (i : Inv t) : Inv (cmdTimed t a n) := i.keeps (.same rfl rfl)

theorem cmdStart_inv {a : Nat} (i : Inv t) : Inv (cmdStart t a) := i.keeps (.same rfl rfl)

theorem saveRefused_inTick {x : CoreId × Nat} {a : Nat} (h : InTick s t) : InTick s (saveRefused t x a) :=
  cmdDone_inTick (h.then (groupOff_within (.refl t)))

theorem ite_inv {q : Prop} [Decidable q] (i : Inv s) (k : Inv t) : Inv (if q then s else t) := by
  split
  · exact i
  · exact k

theorem command_inv {f : State → State} (i : Inv s) (k : Inv s → Inv (f s)) : Inv (command s f) :=
  ite_inv i (ite_inv ((logRefused_within (.refl s)).inv i) (k i))

/-! ### Domains -/

theorem openPort_within {st : StoreId} (h : Within s t) : Within s (openPort t st) := ite_within (modPort_within h) h

/-- The listed bytes and the spans decide the canonical form. -/
theorem wf_of_same {m n : Stores} (mem : n.mem = m.mem) (groups : n.groups = m.groups) (w : Memory.wf m = true) : Memory.wf n = true :=
  (wf_congr mem fun _ => by rw [groups]).trans w

theorem leaveOff_within (h : Within s t) : Within s (leaveOff t d) := by
  have cleared (b : Bool) : Memory.wf t.mem = true → Memory.wf { clearDs t.mem with arrLost := b } = true := fun w =>
    wf_of_same (m := clearDs t.mem) rfl rfl (wf_clearDs w)
  unfold leaveOff
  split
  · exact h.stores (wf_clearGroup _)
  split
  · exact h.stores (cleared _)
  split
  · exact ite_within (h.keeps (.ofGroups rfl rfl rfl rfl rfl)) (h.stores (wf_of_same rfl rfl))
  split
  · exact folds_within (fun _ _ => modCore_within (.refl _)) _ h
  · exact h

theorem domArrive_within (h : Within s t) : Within s (domArrive t d) := by
  unfold domArrive
  split
  · exact setDomState_within h
  · extract_lets v w
    have left : Within s v := ite_within (leaveOff_within h) h
    clear_value v
    have up : Within s w := modDom_within (setDomState_within left)
    clear_value w
    split
    · exact openPort_within up
    · exact up
  · exact h

theorem beginEntry_within (h : Within s t) : Within s (beginEntry t d) := modDom_within (setDomState_within h)

theorem enterState_within {k : Nat} (h : Within s t) : Within s (enterState t d k) := by
  unfold enterState
  refine ite_within h (ite_within (ite_within (setDomState_within h) h) ?_)
  extract_lets v
  have goal : Within s v := modDom_within h
  clear_value v
  split
  · exact modPort_within goal
  · exact beginEntry_within goal

theorem beginWake_within (h : Within s t) : Within s (beginWake t d) := by
  have waking : Within s (modDom (setDomState t d .waking) d fun x => { x with timer := exitOf (depthOf x.goal) }) :=
    modDom_within (setDomState_within h)
  unfold beginWake
  split
  · exact setDomState_within h
  · exact waking
  · exact waking
  · exact waking
  · split
    · exact ite_within (modPort_within (modDom_within h)) h
    · exact h

theorem execPowerIntervalStart_ends (i : Inv s) : Ends (execPowerIntervalStart d s) := by
  refine Within.ends (ite_within (.refl s) ?_) i
  split
  · exact .refl s
  · exact enterState_within (modDom_within (.refl s))

theorem execPortClose_ends {st : StoreId} (i : Inv s) : Ends (execPortClose st s) :=
  (ite_within (folds_within (fun _ _ => beginEntry_within (.refl _)) _ (modPort_within (.refl s))) (.refl s)).ends i

theorem execWake_ends (i : Inv s) : Ends (execWake d s) := (ite_within (beginWake_within (.refl s)) (.refl s)).ends i

theorem execGatedAfterIdle_ends (i : Inv s) : Ends (execGatedAfterIdle d s) :=
  (ite_within (setDomState_within (.refl s)) (.refl s)).ends i

theorem cmdPwrForce_inv {n cap : Nat} (i : Inv s) : Inv (cmdPwrForce n cap s) := by
  refine command_inv i fun i => ite_inv (cmdRefuse_inv i) ?_
  split
  · refine ite_inv (cmdRefuse_inv i) (cmdDone_inv ?_)
    split
    · exact (ite_within (setDomState_within (modDom_within (.refl s))) (beginWake_within (modDom_within (.refl s)))).inv i
    · refine (beginEntry_within (modDom_within ?_)).inv i
      split
      · exact modPort_within (modDom_within (.refl s))
      · exact modDom_within (.refl s)
  · exact cmdRefuse_inv i

theorem execPwrForce_ends {n : BitVec 5} {cap : BitVec 2} (i : Inv s) : Ends (execPwrForce n cap s) := ⟨_, rfl, cmdPwrForce_inv i⟩

theorem planInForce_within (h : Within s t) : Within s (planInForce t) :=
  folds_within (fun a x => by
    dsimp only
    exact ite_within (modDom_within (.refl a)) (beginWake_within (modDom_within (.refl a)))) _ h

theorem countDomCycles_within (h : Within s t) : Within s (countDomCycles t) := h.rest

/-! ### Supply and ageing -/

theorem execVwarn_ends (i : Inv s) : Ends (execVwarn s) := (ite_within (.refl s) (.rest (.refl s))).ends i

theorem execDroop_ends (i : Inv s) : Ends (execDroop s) :=
  (ite_within (raiseEvt_within (logRun_within (.rest (.refl s)))) (.refl s)).ends i

theorem raiseExhausted_within (h : Within s t) : Within s (raiseExhausted t) := raiseEvt_within (logRun_within h)

theorem execDroopExhausted_ends (i : Inv s) : Ends (execDroopExhausted s) :=
  (ite_within (raiseExhausted_within (.rest (.refl s))) (.refl s)).ends i

theorem reportAged_within {n : Nat} (h : Within s t) : Within s (reportAged t n) := raiseEvt_within (logRun_within h.rest)

theorem endRound_within (h : Within s t) : Within s (endRound t) := by
  unfold endRound
  extract_lets _ v w
  have k : Within s w := h.rest
  exact ite_within h.rest (ite_within (reportAged_within k) k)

theorem takeSample_within {x : BitVec 16} (h : Within s t) : Within s (takeSample t x) := by
  unfold takeSample
  extract_lets n _ v
  have k : Within s v := h.rest
  clear_value v
  exact ite_within (endRound_within k) k

theorem execAgeingSample_ends {x : BitVec 16} (i : Inv s) : Ends (execAgeingSample x s) :=
  (ite_within (takeSample_within (ite_within (.rest (.refl s)) (.refl s))) (.refl s)).ends i

/-! ### Scrub and refresh -/

theorem execPatrolScrub_ends (i : Inv s) : Ends (execPatrolScrub s) := by
  by_cases runs : s.u.state = .running
  · by_cases due : s.fr.cyc = s.fr.scrubOff
    · cases up : domUp s ⟨11 + s.fr.ctr.toNat % 8, by omega⟩ with
      | true =>
        refine ⟨_, patrolScrub_runs runs due up, ?_⟩
        obtain ⟨bytes, -⟩ := patrolled_rights s
        obtain ⟨moved, -⟩ := patrolMoved_same (patrolled s) (patrolGroup s)
        exact i.keeps (bytes.trans moved)
      | false => exact ⟨s, congrArg Host.Outcome.next (if_pos (by simp [up])), i⟩
    · exact ⟨s, congrArg Host.Outcome.next (if_pos (by simp [due])), i⟩
  · exact ⟨s, congrArg Host.Outcome.next (if_pos (.inl runs)), i⟩

theorem logRun_inv {loc n : Nat} (i : Inv t) : Inv (logRun t e loc n) := i.keeps (logRun_keeps ..)

theorem badLane_inv {l : List Nat} {g : Fin 32} {n : Nat} (i : Inv t) : Inv (badLane l g t n) := by
  unfold badLane
  refine ite_inv i (ite_inv ?_ (ite_inv ?_ i))
  · exact logRun_inv (i.keeps (.ofGroups rfl rfl rfl rfl rfl))
  · have k (m : Nat) : Inv (logRun { t with mem := { t.mem with
        deadLanes := setAdd t.mem.deadLanes n, laneFail := t.mem.laneFail.set g.val m } } .dsLaneNospare locUnit n) :=
      logRun_inv (i.keeps (.ofGroups rfl rfl rfl rfl rfl))
    exact ite_inv ((unitFatal_within (.refl _)).inv (k _)) (k _)

theorem foldl_badLane_inv {l : List Nat} {g : Fin 32} : ∀ {ns : List Nat} {t : State}, Inv t → Inv (ns.foldl (badLane l g) t)
  | [], _, i => i
  | n :: _, t, i => foldl_badLane_inv (t := badLane l g t n) (badLane_inv i)

theorem recalibrate_inv {l : List Nat} {g : Fin 32} (i : Inv t) : Inv (recalibrate t l g) :=
  Inv.keeps (foldl_badLane_inv i) (.ofGroups rfl rfl rfl rfl rfl)

theorem countLanes_inv {l : List (Nat × Nat)} (i : Inv t) : Inv (countLanes t l) := i.keeps (.ofGroups rfl rfl rfl rfl rfl)

theorem execDsRefreshWindow_ends {l : List (Nat × Nat)} {failed : List Nat} (i : Inv s) : Ends (execDsRefreshWindow l failed s) := by
  refine ⟨_, rfl, ite_inv i (ite_inv i ?_)⟩
  have k := recalibrate_inv (l := failed) (g := ⟨s.mem.refCnt.toNat % 32, by omega⟩) (countLanes_inv (l := l.filter fun x => x.1 < 8448) i)
  generalize recalibrate (countLanes s (l.filter fun x => x.1 < 8448)) failed ⟨s.mem.refCnt.toNat % 32, by omega⟩ = v at k ⊢
  have q := k.keeps (scrubRange_patrols v (0x40000000 + 512 * v.mem.scrubPos.toNat) (0x40000000 + 512 * v.mem.scrubPos.toNat + 512 * 32)).bytes
  exact q.keeps (.ofGroups rfl rfl rfl rfl rfl)

end Sys2Proof.Machine
end

section
set_option Elab.async false -- one proof after another: this bounds the memory that a check of the whole text takes
/-! PROOFS. Ticks (R31 to R56, R471): what a tick's source leaves in the frame, and that nothing after it in the same tick
changes that. -/

namespace Sys2Proof.Machine

variable {s t : State} {p : Part}

/-! ### What follows the tick's source -/

theorem freshQuotas_within (h : Within s t) : Within s (freshQuotas t) := by
  unfold freshQuotas
  extract_lets str lst _ rmt _ v
  have k : Within s v := h.rest
  clear_value v
  exact credNoc_within (flushNoc_within k)

theorem overrunCheck_within {n : Word} (h : Within s t) : Within s (overrunCheck n t p) := by
  unfold overrunCheck
  refine ite_within h ?_
  split
  · exact modPart_within h
  · exact raiseEvt_within (logRun_within (modPart_within h.frame))

theorem overrunAbort_within {n : Word} (h : Within s t) : Within s (overrunAbort n t p) := by
  unfold overrunAbort
  refine ite_within h ?_
  split
  · exact h
  · exact abortTask_within (logRun_within h)

theorem takeChange_within {n : Word} (h : Within s t) : Within s (takeChange t p n) := by
  unfold takeChange
  exact pushWork_within (beginSeq_within (modPart_within h))

theorem seqStep_within (h : Within s t) : Within s (seqStep t p) := by
  unfold seqStep
  refine ite_within h ?_
  extract_lets x w v
  have k : Within s v := modPart_within h
  clear_value v
  exact ite_within (ite_within (takeChange_within k) k) (ite_within (pushWork_within (modPart_within k)) (modPart_within k))

theorem execSeqEntryEnd_ends (i : Inv s) : Ends (execSeqEntryEnd p s) :=
  (ite_within (.refl s) (ite_within (takeChange_within (.refl s)) (ite_within (raiseEvt_within (modPart_within (.refl s)))
    (pushWork_within (modPart_within (.refl s)))))).ends i

theorem startTick_inTick {b : Bool} : InTick s (startTick b s p) := by
  unfold startTick
  split
  · exact .refl s
  · refine ite_inTick (.refl s) (ite_inTick startTask_inTick (ite_inTick ?_ (ite_inTick ?_ (.refl s))))
    · exact (planInForce_within (.rest (.refl s))).inTick.trans startTask_inTick
    · exact (logRefused_within (modPart_within (.refl s))).inTick

theorem preemptTick_inTick : InTick s (preemptTick s p) := by
  unfold preemptTick
  refine ite_inTick ?_ (.refl s)
  extract_lets v w
  have k : Within s v := modPart_within (.refl s)
  clear_value v
  have stopped : Within s w := stopTask_within k
  clear_value w
  refine ite_inTick ?_ (cmdDone_inTick k.inTick)
  split
  · exact saveRefused_inTick k.inTick
  · exact cmdDone_inTick (saveTask_within stopped).inTick

theorem resumeTick_inTick : InTick s (resumeTick s p) :=
  ite_inTick (cmdDone_inTick (resumeTask_within (modPart_within (.refl s))).inTick) (.refl s)

theorem breakTick_within {b : Bool} (h : Within s t) : Within s (breakTick b t p) := by
  unfold breakTick
  extract_lets x v
  have k : Within s v := modPart_within h
  clear_value v
  exact ite_within (ite_within (stopTask_within k) k) h

theorem watchAgent_within {s0 : State} {ag : Agent} (h : Within s t) : Within s (watchAgent s0 t ag) :=
  ite_within h (modAg_within h)

theorem runTick_inTick {s0 : State} {b : Bool} : InTick s (runTick s0 s b) := by
  unfold runTick
  extract_lets n ps v w x y z
  have checked : Within s v := folds_within (fun _ _ => overrunCheck_within (.refl _)) _ (.refl s)
  clear_value v
  have exhausted : Within s w := ite_within (raiseExhausted_within checked) checked
  clear_value w
  have aborted : InTick s x := (folds_within (fun _ _ => overrunAbort_within (.refl _)) _ exhausted).inTick
  clear_value x
  have stepped : InTick s y := folds_inTick (fun _ _ => ite_inTick resumeTick_inTick (seqStep_within (.refl _)).inTick) _ aborted
  clear_value y
  have started : InTick s z := folds_inTick (fun _ _ => startTick_inTick) _ stepped
  clear_value z
  exact folds_inTick (fun _ _ => preemptTick_inTick) _
    (folds_inTick (fun _ _ => (breakTick_within (.refl _)).inTick) _ started)

/-! ### A tick -/

/-- The frame that a pulse with number `num` begins. -/
def tickNumber (s : State) (num : Option Word) : Word :=
  if s.u.state = .running then s.fr.ctr + 1 else num.getD (s.fr.ctr + 1)

/-- A pulse with a number the unit takes as valid. -/
def tickValid (s : State) (num : Option Word) : Bool := num.any fun v => !decide (s.u.state = .running) || decide (v = s.fr.ctr + 1)

theorem takeTick_inTick (num : Option Word) (self : Bool) (skew : Int) :
    InTick (tickSource (newFrame s (tickNumber s num)) self (tickValid s num) skew) (takeTick s num self skew) := by
  unfold takeTick
  extract_lets run next val n e t1 t2 t3 t4 _ t5
  have number : n = tickNumber s num := by
    unfold tickNumber n run next
    simp only [decide_eq_true_eq]
    cases num <;> rfl
  have valid : val = tickValid s num := by
    unfold val run next
    cases num <;> rfl
  have first : t1 = freshQuotas (tickSource (newFrame s (tickNumber s num)) self (tickValid s num) skew) := by
    rw [← number, ← valid]
  generalize tickSource (newFrame s (tickNumber s num)) self (tickValid s num) skew = b at first ⊢
  have quotas : InTick b t1 := first ▸ (freshQuotas_within (.refl b)).inTick
  clear_value t1
  have frame : InTick b t2 := quotas.trans runTick_inTick
  clear_value t2
  have watched : InTick b t3 := ite_inTick (frame.then (folds_within (fun _ _ => watchAgent_within (.refl _)) _ (.refl _))) frame
  clear_value t3
  have energy : InTick b t4 := ite_inTick (watched.then (raiseEvt_within (logRun_within (.refl _)))) watched
  clear_value t4
  have measured : InTick b t5 := ite_inTick (energy.then (.rest (.refl t4))) energy
  clear_value t5
  exact measured.then (.rest (.refl t5))

theorem goodTick_inv {skew : Int} (i : Inv s) : Inv (goodTick s skew) := by
  unfold goodTick
  refine ite_inv (i.keeps (.same rfl rfl)) ?_
  exact ite_inv (raiseEvt_inv (logRun_inv (i.keeps (.same rfl rfl)))) (i.keeps (.same rfl rfl))

theorem tickSource_inv {self valid : Bool} {skew : Int} (i : Inv s) : Inv (tickSource s self valid skew) :=
  ite_inv (i.keeps (.same rfl rfl)) (ite_inv (i.keeps (.same rfl rfl)) (goodTick_inv i))

theorem newFrame_inv {n : Word} (i : Inv s) : Inv (newFrame s n) := i.keeps (.same rfl rfl)

theorem takeTick_inv {num : Option Word} {self : Bool} {skew : Int} (i : Inv s) : Inv (takeTick s num self skew) :=
  (takeTick_inTick num self skew).inv (tickSource_inv (newFrame_inv i))

theorem execTick_ends {num : Option Word} {skew : Int} (i : Inv s) : Ends (execTick num skew s) :=
  ⟨_, rfl, ite_inv i (ite_inv (i.keeps (.same rfl rfl)) (takeTick_inv i))⟩

theorem execTickSelf_ends (i : Inv s) : Ends (execTickSelf s) := ⟨_, rfl, ite_inv i (takeTick_inv i)⟩

theorem execLock_ends (i : Inv s) : Ends (execLock s) := ⟨_, rfl, ite_inv (i.keeps (.same rfl rfl)) i⟩

theorem execTickLost_ends (i : Inv s) : Ends (execTickLost s) :=
  ⟨_, rfl, ite_inv (raiseEvt_inv (logRun_inv (i.keeps (.same rfl rfl)))) i⟩

theorem execTickGenerator_ends (i : Inv s) : Ends (execTickGenerator s) := by
  unfold execTickGenerator
  extract_lets src n _ v
  have k : Inv v := ite_inv (i.keeps (.same rfl rfl)) i
  clear_value v
  exact ⟨_, rfl, ite_inv i (k.keeps (.same rfl rfl))⟩

theorem execStallCycle_ends {ag : Agent} (i : Inv s) : Ends (execStallCycle ag s) := by
  refine Within.ends (ite_within (.refl s) ?_) i
  have k : Within s (modAg { s with err := { s.err with stallCnt := sat32 s.err.stallCnt 1 } } ag fun g => { g with stall := 0 }) :=
    modAg_within (.rest (.refl s))
  cases ag with
  | core c => exact failCore_within k
  | chan h => exact failChan_within k
  | ea a => exact failEa_within k

/-! ### What a tick leaves (R33, R47, R48, R55) -/

theorem SameTick.frame {f g : FrameCtl} (h : SameTick f g) :
    g.ctr = f.ctr ∧ g.cyc = f.cyc ∧ g.ticked = f.ticked ∧ g.droopDebt = f.droopDebt ∧ g.lock = f.lock ∧ g.own = f.own := by
  unfold SameTick at h; rw [h]; exact ⟨rfl, rfl, rfl, rfl, rfl, rfl⟩

theorem SameTick.source {f g : FrameCtl} (h : SameTick f g) :
    g.missed = f.missed ∧ g.good = f.good ∧ g.holdover = f.holdover ∧ g.unlock = f.unlock ∧ g.skew = f.skew ∧ g.absent = f.absent := by
  unfold SameTick at h; rw [h]; exact ⟨rfl, rfl, rfl, rfl, rfl, rfl⟩

/-- What a tick's source does not touch: the frame and what is kept for it, the lock, the unit's own settings, and the debt. -/
structure FrameStands (s t : State) : Prop where
  ctr : t.fr.ctr = s.fr.ctr
  cyc : t.fr.cyc = s.fr.cyc
  ticked : t.fr.ticked = s.fr.ticked
  droopDebt : t.fr.droopDebt = s.fr.droopDebt
  lock : t.fr.lock = s.fr.lock
  own : t.fr.own = s.fr.own
  debt : t.pwr.divFrame = s.pwr.divFrame

theorem goodTick_fr {skew : Int} (other : s.fr.own.src ≠ 2) : (goodTick s skew).fr = { s.fr with
    missed := 0, absent := 0, lost := false, holdover := false, skew := skewBits skew, unlock := decide (32 < skew.natAbs)
    good := if 32 < skew.natAbs then 0 else s.fr.good + 1 } := by
  unfold goodTick
  rw [if_neg other]
  extract_lets wide _ v
  have fr : v.fr = { s.fr with
      missed := 0, absent := 0, lost := false, holdover := false, skew := skewBits skew, unlock := decide (32 < skew.natAbs)
      good := if 32 < skew.natAbs then 0 else s.fr.good + 1 } := by
    simp only [v, wide, decide_eq_true_eq]
    rfl
  rw [← fr]
  clear_value v
  split
  · exact logRun_fr v _ _ _
  · rfl

theorem goodTick_stands {skew : Int} : FrameStands s (goodTick s skew) := by
  by_cases master : s.fr.own.src = 2
  · rw [goodTick, if_pos master]; exact ⟨rfl, rfl, rfl, rfl, rfl, rfl, rfl⟩
  · have fr := goodTick_fr (skew := skew) master
    refine ⟨by rw [fr], by rw [fr], by rw [fr], by rw [fr], by rw [fr], by rw [fr], ?_⟩
    rw [goodTick, if_neg master]
    dsimp only
    split
    · exact congrArg Power.divFrame (logRun_pwr _ _ _ _)
    · rfl

theorem tickSource_stands {self valid : Bool} {skew : Int} : FrameStands s (tickSource s self valid skew) := by
  unfold tickSource
  split
  · exact ⟨rfl, rfl, rfl, rfl, rfl, rfl, rfl⟩
  split
  · exact ⟨rfl, rfl, rfl, rfl, rfl, rfl, rfl⟩
  · exact goodTick_stands

/-- A tick begins its frame. -/
theorem takeTick_begins (num : Option Word) (self : Bool) (skew : Int) :
    FrameStands (newFrame s (tickNumber s num)) (takeTick s num self skew) := by
  have source := tickSource_stands (s := newFrame s (tickNumber s num)) (self := self) (valid := tickValid s num) (skew := skew)
  have rest := takeTick_inTick (s := s) num self skew
  obtain ⟨ctr, cyc, ticked, droopDebt, lock, own⟩ := rest.tick.frame
  exact ⟨ctr.trans source.ctr, cyc.trans source.cyc, ticked.trans source.ticked, droopDebt.trans source.droopDebt,
    lock.trans source.lock, own.trans source.own, rest.debt.trans source.debt⟩

/-- What `TICK_STAT` shows after a tick is what the tick's source left. -/
theorem takeTick_source (num : Option Word) (self : Bool) (skew : Int) :
    let a := (tickSource (newFrame s (tickNumber s num)) self (tickValid s num) skew).fr
    let b := (takeTick s num self skew).fr
    b.missed = a.missed ∧ b.good = a.good ∧ b.holdover = a.holdover ∧ b.unlock = a.unlock ∧ b.skew = a.skew ∧ b.absent = a.absent :=
  (takeTick_inTick (s := s) num self skew).tick.source

theorem tickValid_of_next {num : Option Word} (some : num ≠ none) (next : s.u.state = .running → num = .some (s.fr.ctr + 1)) :
    tickValid s num = true := by
  cases num with
  | none => exact absurd rfl some
  | some v =>
    by_cases run : s.u.state = .running
    · obtain rfl := Option.some.inj (next run)
      simp [tickValid]
    · simp [tickValid, run]

theorem tickValid_of_missed {num : Option Word} (missed : num = none ∨ s.u.state = .running ∧ num ≠ some (s.fr.ctr + 1)) :
    tickValid s num = false := by
  cases num with
  | none => rfl
  | some v =>
    obtain ⟨⟨⟩⟩ | ⟨run, other⟩ := missed
    have ne : v ≠ s.fr.ctr + 1 := fun h => other (congrArg some h)
    simpa [tickValid, run] using ne

/-- Settles O42: nothing after the tick's source in the same tick touches the frame it begins (`takeTick_inTick`). -/
theorem ticksBeginFrames : Obligations.TicksBeginFrames := by
  unfold Obligations.TicksBeginFrames
  intro s held
  refine ⟨fun num skew due => ?_, fun num skew ticked early => ?_, fun ticked late => ?_, fun early => ?_⟩
  · have goes : exec (.tick num skew) s = .next (takeTick s num false skew) := by
      refine congrArg Host.Outcome.next ((if_neg (by simp [held])).trans (if_neg ?_))
      rintro ⟨ticked, early⟩
      obtain none | long := due
      · exact Bool.false_ne_true (none.symm.trans ticked)
      · exact absurd early (by omega)
    have begins := takeTick_begins (s := s) num false skew
    obtain ⟨missed, good, holdover, unlock, skews, -⟩ := takeTick_source (s := s) num false skew
    refine ⟨_, goes, begins.ctr, begins.cyc, begins.ticked, begins.droopDebt, begins.debt, begins.lock, begins.own,
      fun other some next => ?_, fun miss => ?_⟩
    · have source : tickSource (newFrame s (tickNumber s num)) false true skew = goodTick (newFrame s (tickNumber s num)) skew := rfl
      rw [missed, holdover, unlock, good, tickValid_of_next some next, source,
        goodTick_fr (s := newFrame s (tickNumber s num)) (skew := skew) other]
      exact ⟨rfl, rfl, rfl, rfl⟩
    · rw [missed, good, skews, tickValid_of_missed miss]
      exact ⟨rfl, rfl, rfl⟩
  · exact congrArg Host.Outcome.next ((if_neg (by simp [held])).trans (if_pos ⟨ticked, early⟩))
  · have goes : exec .tickSelf s = .next (takeTick s none true 0) :=
      congrArg Host.Outcome.next (if_neg (by simp [held, ticked]; omega))
    have begins := takeTick_begins (s := s) none true 0
    obtain ⟨missed, good, holdover, -, -, absent⟩ := takeTick_source (s := s) none true 0
    refine ⟨_, goes, begins.ctr.trans ?_, begins.cyc, holdover, missed, good, absent, begins.lock⟩
    exact ite_self _
  · exact congrArg Host.Outcome.next (if_pos (by simp [early]))

end Sys2Proof.Machine
end

section
set_option Elab.async false -- one proof after another: this bounds the memory that a check of the whole text takes
/-! PROOFS. Registers and the load of a Blend keep the canonical form. -/

namespace Sys2Proof.Machine

variable {s t : State}

/-- The listed bytes, the spans of the bank groups and the counter file decide the canonical form. -/
theorem Inv.bytes (i : Inv s) (mem : t.mem.mem = s.mem.mem := by rfl) (groups : t.mem.groups = s.mem.groups := by rfl)
    (cnt : t.cnt = s.cnt := by rfl) : Inv t := ⟨wf_of_same mem groups i.1, by rw [cnt]; exact i.2⟩

/-- The same with every counter at its reset value. -/
theorem Inv.emptied (i : Inv s) (mem : t.mem.mem = s.mem.mem := by rfl) (groups : t.mem.groups = s.mem.groups := by rfl)
    (cnt : t.cnt = [] := by rfl) : Inv t := ⟨wf_of_same mem groups i.1, by rw [cnt]; rfl⟩

/-- The bank groups keep their spans. -/
theorem Inv.spans (i : Inv s) (epochs : ∀ g : GroupId, t.mem.groups[g].epoch = s.mem.groups[g].epoch)
    (mem : t.mem.mem = s.mem.mem := by rfl) (cnt : t.cnt = s.cnt := by rfl) : Inv t :=
  ⟨(wf_congr mem epochs).trans i.1, by rw [cnt]; exact i.2⟩

theorem foldl_inv {α : Type} {f : State → α → State} (step : ∀ {a b}, Inv a → Inv (f a b)) : ∀ (l : List α) {t : State}, Inv t → Inv (l.foldl f t)
  | [], _, i => i
  | _ :: l, _, i => foldl_inv step l (step i)

theorem logRefused_inv {e : Err} {loc n : Nat} (i : Inv t) : Inv (logRefused t e loc n) := (logRefused_within (.refl t)).inv i

theorem presentAt_inv {x : Fin 15} {m : Fin 45} {p : Part} {n : Nat} (i : Inv t) : Inv (presentAt t x m p n) :=
  (presentAt_within (.refl t)).inv i

/-! ### RWF registers -/

theorem rwfSet_inv {r : Rwf} {v : Word} (i : Inv s) : Inv (rwfSet s r v) := by
  cases r with
  | tickCfg => exact ite_inv i.bytes (logRefused_inv i.bytes)
  | wdtCfg => exact i.bytes
  | nsRetain => exact i.bytes
  | dsLaneThr => exact i.bytes
  | lnkLaneThr => exact i.bytes
  | movSplit => exact i.bytes
  | xbPri m t => exact i.bytes
  | xbPark t => exact ite_inv i.bytes i
  | movCfg h => exact i.bytes
  | movScale h => exact i.bytes
  | movReg p => exact i.bytes
  | fetchReg c => exact i.bytes
  | eifCfg a => exact i.bytes
  | tapCfg => exact i.bytes

theorem rwfWrite_inv {n : Nat} {r : Rwf} {v : Word} (i : Inv s) : Inv (rwfWrite s n r v) := ite_inv (logRefused_inv i) (rwfSet_inv i)

/-! ### The map and the sections -/

theorem markGroups_inv (i : Inv s) : Inv (markGroups s) := by
  refine i.spans fun g => ?_
  simp only [markGroups, Fin.getElem_fin, Vector.getElem_mapFinIdx]

theorem remap_inv (i : Inv s) : Inv (remap s) := markGroups_inv i.bytes

theorem dropFailed_inv (i : Inv t) : Inv (dropFailed s t) := i.bytes

theorem writeRegs_inv {bs : List Byte} (i : Inv s) : Inv (writeRegs s bs) := by
  refine foldl_inv (fun i => ?_) _ i
  split
  · exact rwfSet_inv i
  · exact i

theorem writePlan_inv {bs : List Byte} (i : Inv s) : Inv (writePlan s bs) := foldl_inv (fun i => i.bytes) _ i.bytes

theorem writeUnit_inv {bs : List Byte} (i : Inv s) : Inv (writeUnit s bs) := by unfold writeUnit deriveTiming; exact i.bytes

theorem writeCore_inv {c : CoreId} {bs : List Byte} (i : Inv s) : Inv (writeCore s c bs) := by unfold writeCore; exact i.bytes

theorem writeEif_inv {a : EaId} {bs : List Byte} (i : Inv s) : Inv (writeEif s a bs) := by unfold writeEif; exact i.bytes

theorem writeStreams_inv {bs : List Byte} (i : Inv s) : Inv (writeStreams s bs) := by unfold writeStreams; exact i.bytes

theorem writeLabels_inv {bs : List Byte} (i : Inv s) : Inv (writeLabels s bs) := by unfold writeLabels; exact i.bytes

theorem writeSect_inv {img : List Byte} {x : Sect} (i : Inv s) : Inv (writeSect img s x) := by
  unfold writeSect
  extract_lets bs
  clear_value bs
  split
  · exact i.bytes
  · exact writeUnit_inv i
  · exact writeRegs_inv i
  · exact i.bytes
  · exact i.bytes
  · exact i.bytes
  · exact writePlan_inv i
  · exact writeCore_inv i
  · exact i.bytes
  · exact i.bytes
  · exact i.bytes
  · exact i.bytes
  · exact writeEif_inv i
  · exact writeStreams_inv i
  · exact writeLabels_inv i
  · exact i.bytes
  · exact i

theorem candidate_inv {img : List Byte} (i : Inv s) : Inv (candidate s img) := by
  have k := remap_inv i
  unfold candidate
  generalize remap s = v at k ⊢
  exact foldl_inv writeSect_inv _ (k.bytes (t := { resetRwf (Machine.emptied v) with
    bl := _, fr := _ }))

/-! ### Blocks, the gate, and what follows -/

theorem endLoad_inv (i : Inv s) : Inv (endLoad s) := i.bytes

theorem failLoad_inv {f : Fail} (i : Inv s) : Inv (failLoad s f) := endLoad_inv (logRefused_inv i)

theorem checkHeader_inv {b : Block} (i : Inv s) : Inv (checkHeader s b) := by
  refine ite_inv ?_ i
  split
  · exact failLoad_inv i
  · exact i

theorem takeBlock_inv {b : Block} (i : Inv s) : Inv (takeBlock s b) := by
  have k : Inv (fixImage s b) := i.bytes
  unfold takeBlock
  generalize fixImage s b = v at k ⊢
  exact ite_inv k (ite_inv k (checkHeader_inv k.bytes))

theorem execTransportBlock_ends {b : Block} (i : Inv s) : Ends (execTransportBlock b s) := ⟨_, rfl, ite_inv (takeBlock_inv i) i⟩

theorem execEndMarker_ends {b : Block} (i : Inv s) : Ends (execEndMarker b s) := ⟨_, rfl, ite_inv (ite_inv i.bytes i.bytes) i⟩

theorem undefThese_inv {gs : List GroupId} (i : Inv s) : Inv (undefThese s gs) := by
  refine foldl_inv (fun {a b} i => ?_) gs i
  exact ⟨wf_undefGroup b a.fresh i.1, i.2⟩

theorem emptySlot_inv (i : Inv s) : Inv (emptySlot s) := i.bytes

theorem beginLoad_inv {a b : BitVec 16} (i : Inv s) : Inv (beginLoad a b s) := by
  have k := undefThese_inv (gs := (List.finRange 8).filter fun g => !bitOf (emptySlot s).mem.retain g.val) (emptySlot_inv i)
  exact k.bytes

theorem cmdLoadBegin_inv {a b : BitVec 16} (i : Inv s) : Inv (cmdLoadBegin a b s) :=
  command_inv i fun i => ite_inv (cmdRefuse_inv i) (ite_inv (cmdRefuse_inv i) (cmdDone_inv (beginLoad_inv i)))

theorem execLoadBegin_ends {a b : BitVec 16} (i : Inv s) : Ends (execLoadBegin a b s) := ⟨_, rfl, cmdLoadBegin_inv i⟩

theorem loadWakes_inv (i : Inv s) : Inv (loadWakes s) :=
  foldl_inv (fun {a _} i => ite_inv ((setDomState_within (.refl a)).inv i) i) _ i

theorem writeUnitAll_inv (i : Inv t) : Inv (writeUnitAll s t) := by
  unfold writeUnitAll
  extract_lets v n _ _ _ n1
  have k : Inv n := dropFailed_inv i
  clear_value n
  have filled : Inv n1 := k.emptied
  clear_value n1
  exact presentAt_inv (loadWakes_inv (undefThese_inv filled))

theorem checkAndWrite_inv {img : List Byte} (i : Inv s) : Inv (checkAndWrite s img) := by
  unfold checkAndWrite
  extract_lets ks n
  split
  · exact failLoad_inv i
  · split
    · exact failLoad_inv i
    · exact writeUnitAll_inv (candidate_inv i)

theorem gate_inv {img : List Byte} {n : Nat} (i : Inv s) : Inv (gate s img n) := by
  unfold gate
  split
  · exact failLoad_inv i
  · exact ite_inv (failLoad_inv ((reportAged_within (.refl s)).inv i)) (checkAndWrite_inv i)

theorem execLoadGate_ends (i : Inv s) : Ends (execLoadGate s) := by
  refine ⟨_, rfl, ite_inv ?_ i⟩
  split
  · exact gate_inv i
  · exact i

theorem incomplete_inv {a b : Nat} (i : Inv s) : Inv (incomplete s a b) := by
  have k : Inv (raiseEvt (logRefused s .loadIncomplete locUnit a) .loadIncomplete) := raiseEvt_inv (logRefused_inv i)
  exact k.bytes

theorem execLoadIncomplete_ends (i : Inv s) : Ends (execLoadIncomplete s) := ⟨_, rfl, ite_inv (incomplete_inv i) i⟩

theorem execPwrVidAck_ends (i : Inv s) : Ends (execPwrVidAck s) := ⟨_, rfl, ite_inv i.bytes i.bytes⟩

theorem execVidAckTimeout_ends (i : Inv s) : Ends (execVidAckTimeout s) := ⟨_, rfl, ite_inv (incomplete_inv (emptySlot_inv i)) i⟩

end Sys2Proof.Machine
end

section
set_option Elab.async false -- one proof after another: this bounds the memory that a check of the whole text takes
/-! PROOFS. Commands, fuses, bring-up and resets keep the canonical form. -/

namespace Sys2Proof.Machine

variable {s t : State} {p : Part} {c : CoreId} {k : ClusterId}

/-! ### Resets of a core, a cluster, a partition -/

theorem cmdResetCore_inv (i : Inv s) : Inv (cmdResetCore c s) :=
  command_inv i fun i => ite_inv (cmdRefuse_inv i) (cmdTimed_inv ((resetCoreTo_within (.refl s)).inv i))

theorem cmdResetCluster_inv (i : Inv s) : Inv (cmdResetCluster k s) :=
  command_inv i fun i => ite_inv (cmdRefuse_inv i) (cmdTimed_inv ((resetClusterTo_within (.refl s)).inv i))

theorem cmdResetPartition_inv (i : Inv s) : Inv (cmdResetPartition p s) :=
  command_inv i fun i => ite_inv (cmdRefuse_inv i) (cmdTimed_inv ((resetPart_within (.refl s)).inv i))

theorem execErrorReset_ends (i : Inv s) : Ends (execErrorReset c s) :=
  (ite_within (poisonCtrs_within (modCore_within (absorb_within (.refl s)))) (.refl s)).ends i

/-! ### Tasks -/

theorem startRequest_inv {q : Fin 16} {n : Word} (i : Inv s) : Inv (startRequest p q n s) := by
  unfold startRequest
  refine ite_inv (cmdRefuse_inv i) ?_
  have g : Inv { s with fr := { s.fr with cfg := s.fr.own } } := i.bytes
  dsimp only
  generalize ({ s with fr := { s.fr with cfg := s.fr.own } } : State) = v at g ⊢
  split
  · exact cmdRefuse_inv g
  · exact ite_inv (cmdRefuse_inv g) (ite_inv (cmdRefuse_inv g) (cmdDone_inv g.bytes))

theorem cmdTaskStart_inv {q : Fin 16} {n : Word} (i : Inv s) : Inv (cmdTaskStart p q n s) := command_inv i startRequest_inv

theorem cmdPreempt_inv (i : Inv s) : Inv (cmdPreempt p s) := command_inv i fun i => ite_inv i.bytes (cmdRefuse_inv i)

theorem cmdResume_inv (i : Inv s) : Inv (cmdResume p s) := command_inv i fun i => ite_inv i.bytes (cmdRefuse_inv i)

theorem saveRefused_inv {x : CoreId × Nat} {n : Nat} (i : Inv s) : Inv (saveRefused s x n) := (saveRefused_inTick (.refl s)).inv i

theorem cmdHalt_inv {save : Bool} (i : Inv s) : Inv (cmdHalt p save s) := by
  refine command_inv i fun i => ite_inv ?_ (cmdRefuse_inv i)
  have stopped : Within s (stopTask s (taskPart s p) false) := stopTask_within (.refl s)
  refine ite_inv (cmdDone_inv (stopped.inv i)) ?_
  split
  · exact saveRefused_inv i
  · exact cmdDone_inv ((saveTask_within stopped).inv i)

theorem cmdDump_inv (i : Inv s) : Inv (cmdDump c s) := by
  refine command_inv i fun i => ite_inv ?_ (cmdRefuse_inv i)
  split
  · exact saveRefused_inv i
  · exact cmdDone_inv ((saveCore_within (.refl s)).inv i)

/-! ### Slots -/

theorem slotCommand_inv {n : Nat} {f : State → State} (i : Inv s) (k : Inv s → Inv (f s)) : Inv (slotCommand s p n f) :=
  command_inv i fun i => ite_inv (k i) (ite_inv (cmdRefuse_inv i) (ite_inv (cmdRefuse_inv i) (ite_inv (k i) (cmdRefuse_inv i))))

theorem cmdRouteLoad_inv {n : Fin 64} {r : Option (List Byte)} (i : Inv s) : Inv (cmdRouteLoad c n r s) := by
  refine slotCommand_inv i fun i => ?_
  split
  · exact cmdRefuse_inv i
  · dsimp only
    split
    · exact cmdRefuse_inv i
    · exact cmdDone_inv (presentAt_inv i.bytes)

theorem cmdWhiskLoad_inv {n : Fin 32} {r : Option (List Byte)} (i : Inv s) : Inv (cmdWhiskLoad k n r s) := by
  refine slotCommand_inv i fun i => ?_
  split
  · exact cmdRefuse_inv i
  · exact ite_inv (cmdDone_inv (presentAt_inv i.bytes)) (cmdRefuse_inv i)

/-! ### Fuses -/

theorem cmdRepairAuth_inv {x : Byte} (i : Inv s) : Inv (cmdRepairAuth x s) := by
  refine command_inv i fun i => ite_inv (cmdRefuse_inv i) (ite_inv (cmdRefuse_inv i) ?_)
  split
  · exact cmdRefuse_inv i
  · exact cmdStart_inv i.bytes

theorem cmdFuseProg_inv {w : FuseWr} (i : Inv s) : Inv (cmdFuseProg w s) :=
  command_inv i fun i => ite_inv (cmdRefuse_inv i) (ite_inv (cmdRefuse_inv i) (cmdStart_inv i.bytes))

theorem fuseEnds_inv {w : FuseWr} (i : Inv s) : Inv (fuseEnds w s) := by
  unfold fuseEnds; split
  · exact i.bytes
  · exact ite_inv i.bytes i

theorem fuseRows_inv {rows : List (Nat × BitVec 64)} (i : Inv s) : Inv (fuseRows s rows) := i.bytes

theorem execFuseWriteDone_ends {l : List (BitVec 64)} (i : Inv s) : Ends (execFuseWriteDone l s) := by
  refine ⟨_, rfl, ?_⟩
  split
  · exact i
  · rename_i w _
    have k (rows) : Inv (fuseEnds w (fuseRows { s with fuse := { s.fuse with writing := none } } rows)) :=
      fuseEnds_inv (fuseRows_inv i.bytes)
    exact ite_inv (cmdDone_inv (k _)) (cmdRefuse_inv (k _))

/-! ### DETACH -/

theorem domainsOff_inv (i : Inv s) : Inv (domainsOff s) := by
  refine i.spans fun g => ?_
  simp only [domainsOff, Fin.getElem_fin, Vector.getElem_mapIdx]

theorem agentsIdle_inv (i : Inv s) : Inv (agentsIdle s) := i.emptied

theorem detachUnit_inv (i : Inv s) : Inv (detachUnit s) := by
  have k := domainsOff_inv (agentsIdle_inv (emptySlot_inv (endLoad_inv i)))
  unfold detachUnit
  generalize domainsOff (agentsIdle (emptySlot (endLoad s))) = v at k ⊢
  exact k.bytes

theorem cmdDetach_inv (i : Inv s) : Inv (cmdDetach s) := command_inv i fun i => cmdDone_inv (detachUnit_inv i)

/-! ### `SEQ_NEXT_p` -/

theorem acceptSeq_inv {q : Fin 16} {w : BitVec 2} (i : Inv s) : Inv (acceptSeq p q w s) :=
  ite_inv (foldl_inv (fun {a _} i => ite_inv ((beginWake_within (.refl a)).inv i) i) _ i.bytes) i.bytes

theorem requestSeq_inv {v : Word} (i : Inv s) : Inv (requestSeq p v s) :=
  ite_inv (logRefused_inv i) (ite_inv (logRefused_inv i) (ite_inv (logRefused_inv i) (acceptSeq_inv i)))

theorem cancelSeq_inv (i : Inv s) : Inv (cancelSeq p s) := i.bytes

theorem writeSeqNext_inv {v : Word} (i : Inv s) : Inv (writeSeqNext p v s) := ite_inv (cancelSeq_inv i) (requestSeq_inv i)

/-! ### Steps 4 to 7 -/

theorem domainsGated_inv (i : Inv s) : Inv (domainsGated s) := by
  refine i.spans fun g => ?_
  simp only [domainsGated, Fin.getElem_fin, Vector.getElem_mapIdx]

theorem bucketsHalf_inv (i : Inv s) : Inv (bucketsHalf s) := i.bytes

theorem enterReady_inv (i : Inv s) : Inv (enterReady s) := by
  have k := bucketsHalf_inv (domainsGated_inv i)
  unfold enterReady
  generalize bucketsHalf (domainsGated s) = v at k ⊢
  exact raiseEvt_inv k.bytes

theorem wf_foldl_clearGroup : ∀ (gs : List GroupId) {m : Stores}, Memory.wf m = true → Memory.wf (gs.foldl (fun m g => clearGroup m g) m) = true
  | [], _, w => w
  | g :: gs, _, w => wf_foldl_clearGroup gs (wf_clearGroup g w)

theorem clearNs_inv (i : Inv s) : Inv (clearNs s) := ⟨wf_foldl_clearGroup _ i.1, i.2⟩

theorem bistStep_inv {r : TestResult} (i : Inv s) : Inv (bistStep r s) := by
  have k := clearNs_inv i
  unfold bistStep
  generalize clearNs s = v at k ⊢
  refine foldl_inv (fun i => foldl_badLane_inv i) _ ?_
  exact ⟨wf_of_same (m := clearDs v.mem) rfl rfl (wf_clearDs k.1), k.2⟩

theorem trainStep_inv {r : TestResult} (i : Inv s) : Inv (trainStep r s) :=
  ite_inv i.bytes ((trainLink_within (.refl _)).inv i.bytes)

theorem katGroup_inv {n : Nat} (i : Inv s) : Inv (katGroup s n) := by
  have k : Inv (logRun s .katFail locUnit n) := logRun_inv i
  unfold katGroup
  generalize logRun s .katFail locUnit n = v at k ⊢
  have row {a b : Nat} : Inv (proposeRow v a b false) := (proposeRow_within (.refl v)).inv k
  exact ite_inv row (ite_inv row (ite_inv row k))

theorem katStep_inv {r : TestResult} (i : Inv s) : Inv (katStep r s) := by
  have mapped : Inv (remap (((upto 31).filter (fun i => bitOf r.katFail i) ++ (span 32 8).filter (fun i => bitOf r.katMov (i - 32))).foldl katGroup
      { s with u := { s.u with step := 6, katFail := r.katFail, katMov := r.katMov } })) :=
    remap_inv (foldl_inv katGroup_inv _ i.bytes)
  exact ite_inv mapped (foldl_inv (fun {a _} i => (takeSample_within (.refl a)).inv i) _ mapped)

theorem endTest_inv (i : Inv s) : Inv (endTest s) := i.bytes

theorem testUnit_inv {r : TestResult} (i : Inv s) : Inv (testUnit r s) := by
  have k : Inv (bistStep r { s with u := { s.u with step := 4 } }) := bistStep_inv i.bytes
  exact ite_inv k (enterReady_inv (endTest_inv (katStep_inv (trainStep_inv k.bytes))))

theorem cmdTestGo_inv {r : TestResult} (i : Inv s) : Inv (cmdTestGo r s) :=
  command_inv i fun i => ite_inv (cmdRefuse_inv i) (cmdDone_inv (testUnit_inv i))

/-! ### Steps 1 to 3 -/

theorem enumStep_inv (i : Inv s) : Inv (enumStep s) := ite_inv (testUnit_inv i.bytes) i.bytes

theorem unitFatal_inv {e : Err} {n : Nat} (i : Inv s) : Inv (unitFatal s e n) := (unitFatal_within (.refl s)).inv i

theorem pllStep_inv {lock : Bool} (i : Inv s) : Inv (pllStep lock s) := by
  have k : Inv { s with u := { s.u with state := .powered, step := 2, fast := false }, fr := { s.fr with clk := binOf (fusedBin s) } } := i.bytes
  exact ite_inv (enumStep_inv k) (unitFatal_inv k.bytes)

theorem bootStep_inv {lock : Bool} (i : Inv s) : Inv (bootStep lock s) := by
  unfold bootStep
  extract_lets _ v w
  have k : Inv v := i.bytes
  clear_value v
  have rows : Inv w := foldl_inv (fun i => logRun_inv i) _ k
  clear_value w
  exact ite_inv (unitFatal_inv k) (ite_inv (detachUnit_inv rows.bytes) (ite_inv (pllStep_inv rows) rows.bytes))

theorem aonLost_inv : Inv (aonLost s) := Inv.bytes (s := State.reset) resetIsCanonical

theorem execAonPwrOk_ends {a b : Bool} (i : Inv s) : Ends (execAonPwrOk a b s) :=
  ⟨_, rfl, ite_inv aonLost_inv (ite_inv (bootStep_inv i.bytes) i)⟩

/-! ### Unit reset -/

theorem wf_resetStores (i : Inv s) : Memory.wf (resetStores s) = true := by
  have kept : Memory.wf {
        mem := s.mem.mem, psn := s.mem.psn, bad := s.mem.bad, written := s.mem.written, allWritten := s.mem.allWritten, groups := s.mem.groups.map (fun g => { bad := g.bad, epoch := g.epoch })
        spares := fusedSpares s, outLanes := fusedOut s, bistRows := s.mem.bistRows } = true := by
    refine Eq.trans (wf_congr (m := s.mem) rfl fun g => ?_) i.1
    simp only [Fin.getElem_fin, Vector.getElem_map]
  unfold resetStores
  dsimp only
  split
  · exact wf_clearDs kept
  · exact kept

theorem clearUnit_inv {b : Bool} (i : Inv s) : Inv (clearUnit b s) := ⟨wf_resetStores i, rfl⟩

theorem dropCommand_inv (i : Inv s) : Inv (dropCommand s) := ite_inv i.bytes i

theorem fastPath_inv (i : Inv s) : Inv (fastPath s) := by
  have k : Inv (clearNs { s with fr := { s.fr with clk := binOf (fusedBin s) } }) := clearNs_inv i.bytes
  have m := remap_inv k
  unfold fastPath
  generalize remap (clearNs { s with fr := { s.fr with clk := binOf (fusedBin s) } }) = v at m ⊢
  exact enterReady_inv m.bytes

theorem fromStep2_inv (i : Inv s) : Inv (fromStep2 s) := pllStep_inv i.bytes

theorem cmdResetUnit_inv {b : Bool} (i : Inv s) : Inv (cmdResetUnit b s) :=
  command_inv i fun i => ite_inv (cmdRefuse_inv i)
    (cmdDone_inv (ite_inv (fastPath_inv (clearUnit_inv i)) (fromStep2_inv (clearUnit_inv i))))

theorem holdUnit_inv (i : Inv s) : Inv (holdUnit s) := by
  have k := clearUnit_inv (b := false) (dropCommand_inv i)
  unfold holdUnit
  generalize clearUnit false (dropCommand s) = v at k ⊢
  exact k.bytes

theorem execRstChipN_ends {b : Bool} (i : Inv s) : Ends (execRstChipN b s) := by
  unfold execRstChipN
  extract_lets _ t
  have k : Inv t := i.bytes
  clear_value t
  exact ⟨_, rfl, ite_inv i (ite_inv k (ite_inv (holdUnit_inv k) (ite_inv k (fromStep2_inv k))))⟩

theorem execVreset_ends (i : Inv s) : Ends (execVreset s) := by
  unfold execVreset
  extract_lets _ u v
  have fenced : Inv u := unitFatal_inv i.bytes
  clear_value u
  have cleared : Inv v := clearUnit_inv (dropCommand_inv fenced)
  clear_value v
  exact ⟨_, rfl, ite_inv i ⟨wf_clearDs cleared.1, cleared.2⟩⟩

theorem execVresetRecovery_ends (i : Inv s) : Ends (execVresetRecovery s) := by
  unfold execVresetRecovery
  extract_lets _ t
  have k : Inv t := i.bytes
  clear_value t
  exact ⟨_, rfl, ite_inv (ite_inv (fromStep2_inv k) k) i⟩

end Sys2Proof.Machine
end

section
set_option Elab.async false -- one proof after another: this bounds the memory that a check of the whole text takes
/-! PROOFS. The register window, the debug TAP, the management chain and a core cycle keep the canonical form. -/

namespace Sys2Proof.Machine

variable {s t : State} {o : Nat} {v : Word}

theorem dite_inv {q : Prop} [Decidable q] {f : q → State} {g : ¬q → State} (i : ∀ h, Inv (f h)) (k : ∀ h, Inv (g h)) :
    Inv (if h : q then f h else g h) := by
  split
  · exact i _
  · exact k _

/-! ### Register writes by access type -/

theorem rwChan_inv {h : ChanId} (i : Inv s) : Inv (rwChan s h o v) := ite_inv i i.bytes

theorem rwWrite_inv (i : Inv s) : Inv (rwWrite s o v) := by
  unfold rwWrite
  refine ite_inv i.bytes (ite_inv i.bytes ?_)
  split
  · exact i.bytes
  refine ite_inv i.bytes (ite_inv i.bytes ?_)
  split
  · exact i.bytes
  refine ite_inv i.bytes (ite_inv i.bytes (ite_inv i.bytes (ite_inv i.bytes ?_)))
  split
  · exact rwChan_inv i
  · exact i

theorem w1cAon_inv (i : Inv s) : Inv (w1cAon s o v) := by
  unfold w1cAon
  extract_lets c
  clear_value c
  exact ite_inv i.bytes <| ite_inv i.bytes <| ite_inv i.bytes <| ite_inv i.bytes <| ite_inv i.bytes <| ite_inv i.bytes <|
    ite_inv i.bytes <| ite_inv i.bytes <| ite_inv i.bytes <| ite_inv i.bytes <| ite_inv i.bytes <| ite_inv i.bytes <|
    ite_inv i.bytes <| ite_inv i.bytes <| ite_inv i.bytes <| ite_inv i.bytes i

theorem w1cXb_inv (i : Inv s) : Inv (w1cXb s o v) := ite_inv i.bytes (ite_inv i.bytes (ite_inv i.bytes i))

theorem w1cStore_inv (i : Inv s) : Inv (w1cStore s o v) := by
  unfold w1cStore
  extract_lets c
  clear_value c
  split
  · exact ite_inv ((modPort_within (.refl s)).inv i) (ite_inv ((modPort_within (.refl s)).inv i) i)
  · exact ite_inv i.bytes <| ite_inv i.bytes <| ite_inv i.bytes <| ite_inv i.bytes <| ite_inv i.bytes <| ite_inv i.bytes i

theorem w1cMov_inv (i : Inv s) : Inv (w1cMov s o v) := by
  unfold w1cMov; dsimp only; split
  · exact i.bytes
  · exact ite_inv i.bytes i

theorem w1cEif_inv (i : Inv s) : Inv (w1cEif s o v) := by
  unfold w1cEif; split
  · exact i.bytes
  · split
    · exact i.bytes
    · exact i

theorem w1cLnk_inv (i : Inv s) : Inv (w1cLnk s o v) :=
  dite_inv (fun _ => i.bytes) fun _ => (modLink_within (.refl s)).inv i

theorem w1cWrite_inv (i : Inv s) : Inv (w1cWrite s o v) := by
  unfold w1cWrite
  refine ite_inv (w1cAon_inv i) (ite_inv i (ite_inv (w1cXb_inv i) (ite_inv (w1cStore_inv i) (ite_inv (w1cMov_inv i) ?_))))
  split
  · exact i.bytes
  split
  · exact ite_inv i.bytes i
  · exact ite_inv (w1cEif_inv i) (ite_inv (w1cLnk_inv i) (ite_inv i.bytes i))

/-! ### `CMD_GO` -/

theorem noElement_inv {n : Nat} (i : Inv s) : Inv (noElement n s) := command_inv i cmdRefuse_inv

theorem goReset_inv (i : Inv s) : Inv (goReset v s) := by
  unfold goReset; dsimp only
  split
  · exact cmdResetCore_inv i
  · split
    · exact cmdResetCluster_inv i
    · exact noElement_inv i
  · split
    · exact cmdResetPartition_inv i
    · exact ite_inv (cmdResetPartition_inv i) (noElement_inv i)
  · exact cmdResetUnit_inv i

theorem goFuse_inv (i : Inv s) : Inv (goFuse v s) := by
  unfold goFuse
  split
  · exact cmdFuseProg_inv i
  · exact cmdFuseProg_inv i
  · exact cmdFuseProg_inv i
  · exact cmdFuseProg_inv i

theorem cmdGo_inv {n : Nat} (i : Inv s) : Inv (cmdGo n s) := by
  unfold cmdGo
  extract_lets a p
  clear_value a p
  split
  · exact goReset_inv i
  · exact cmdTaskStart_inv i
  · exact cmdTestGo_inv i.bytes
  · exact cmdLoadBegin_inv i
  · exact cmdRepairAuth_inv i
  · exact goFuse_inv i
  · exact cmdDetach_inv i
  · exact cmdPreempt_inv i
  · exact cmdResume_inv i
  · exact cmdHalt_inv i
  · exact cmdRouteLoad_inv i.bytes
  · exact cmdWhiskLoad_inv i.bytes
  · exact cmdDump_inv i
  · exact cmdPwrForce_inv i
  · exact command_inv i cmdRefuse_inv

theorem regWrite_inv (i : Inv s) : Inv (regWrite s o v) := by
  unfold regWrite; dsimp only
  refine ite_inv (cmdGo_inv i) (ite_inv (writeSeqNext_inv i) (ite_inv (writeSeqNext_inv i) (ite_inv i.bytes ?_)))
  split
  · exact ite_inv ((submitRearm_within (.refl s)).inv i) i
  · split
    · exact rwfWrite_inv i
    · exact w1cWrite_inv (rwWrite_inv i)

theorem execRegisterWrite_ends {n : BitVec 20} (i : Inv s) : Ends (execRegisterWrite n v s) :=
  ⟨_, rfl, ite_inv (regWrite_inv (presentAt_inv i)) i⟩

/-! ### The debug TAP -/

theorem readReg_inv (i : Inv s) : Inv (readReg s o).1 := foldl_inv (fun {a _} i => (checkParity_within (.refl a)).inv i) _ i

theorem tapAccess_inv {d : BitVec 72} (i : Inv s) : Inv (tapAccess d s) := by
  unfold tapAccess
  extract_lets n a r w
  have here : Inv a := presentAt_inv i
  clear_value a
  have read : Inv r.1 := readReg_inv here
  clear_value r
  have done : Inv w := ite_inv (regWrite_inv here) read
  clear_value w
  exact done.bytes

theorem execIdcode_ends (i : Inv s) : Ends (execIdcode s) := ⟨_, rfl, i.bytes⟩

theorem execWindow_ends {d : BitVec 72} (i : Inv s) : Ends (execWindow d s) :=
  ⟨_, rfl, ite_inv i.bytes (ite_inv (tapAccess_inv i) i)⟩

/-! ### The management chain -/

theorem takeAddress_inv {p : ChainPkt} (i : Inv s) : Inv (takeAddress p s).1 := by
  unfold takeAddress; dsimp only
  split
  · exact i
  split
  · exact i.bytes
  · exact logRefused_inv i

theorem cmdArgs_inv {p : ChainPkt} (i : Inv s) : Inv (cmdArgs p s) := by
  refine foldl_inv (fun i => ?_) _ (presentAt_inv i)
  split
  · exact i.bytes
  · exact i

theorem takeRd_inv {p : ChainPkt} (i : Inv s) : Inv (takeRd p s).1 := readReg_inv (presentAt_inv i)

theorem takeWr_inv {p : ChainPkt} (i : Inv s) : Inv (takeWr p s).1 := regWrite_inv (presentAt_inv i)

theorem takeCmd_inv {p : ChainPkt} (i : Inv s) : Inv (takeCmd p s).1 := cmdGo_inv (cmdArgs_inv i)

theorem pktEffect_inv {p : ChainPkt} (i : Inv s) : Inv (pktEffect p s).1 := by
  unfold pktEffect
  split
  · exact i
  · exact takeAddress_inv i
  · exact takeRd_inv i
  · exact takeWr_inv i
  · exact takeCmd_inv i
  · exact cmdDetach_inv i

theorem sendPkt_inv {p : ChainPkt} (i : Inv s) : Inv (sendPkt s p) := i.bytes

theorem takePacket_inv {p : ChainPkt} (i : Inv s) : Inv (takePacket p s) := by
  have eff : Inv (if pktGood p then pktEffect p s else (s, true, [])).1 := by
    split
    · exact pktEffect_inv i
    · exact i
  unfold takePacket chainPkt
  refine ite_inv (sendPkt_inv i) ?_
  split
  · exact sendPkt_inv i
  · exact ite_inv i (sendPkt_inv eff)
  · exact ite_inv (sendPkt_inv i) (ite_inv (sendPkt_inv eff) (sendPkt_inv eff))

theorem execIdent_ends {p : ChainPkt} (i : Inv s) : Ends (execIdent p s) := ⟨_, rfl, takePacket_inv i⟩
theorem execAddress_ends {p : ChainPkt} (i : Inv s) : Ends (execAddress p s) := ⟨_, rfl, takePacket_inv i⟩
theorem execRd_ends {p : ChainPkt} (i : Inv s) : Ends (execRd p s) := ⟨_, rfl, takePacket_inv i⟩

/-! ### A core cycle -/

theorem xbCycle_inv (i : Inv s) : Inv (xbCycle s) := ite_inv i.bytes i.bytes

theorem refillAll_inv (i : Inv s) : Inv (refillAll s) := by
  unfold refillAll
  extract_lets a b _
  have k : Inv a := i.bytes
  clear_value a
  have filled : Inv b := ite_inv k k.bytes
  clear_value b
  exact filled.bytes

theorem domCycle_inv {d : DomId} (i : Inv s) : Inv (domCycle s d) := by
  unfold domCycle
  extract_lets x a b
  have k : Inv a := ite_inv i.bytes i
  clear_value a
  have ticked : Inv b := k.bytes
  clear_value b
  exact ite_inv k (ite_inv ((domArrive_within (.refl b)).inv ticked) ticked)

theorem portsCycle_inv (i : Inv s) : Inv (portsCycle s) := foldl_inv (fun {a _} i => (modPort_within (.refl a)).inv i) _ i

theorem cmdCycle_inv (i : Inv s) : Inv (cmdCycle s) := ite_inv i (ite_inv (cmdDone_inv i.bytes) i.bytes)

theorem droopCycle_inv (i : Inv s) : Inv (droopCycle s) := ite_inv i.bytes i

theorem countWaits_inv (i : Inv s) : Inv (countWaits s) := i.bytes

theorem coreCycle_inv (i : Inv s) : Inv (coreCycle s) := by
  unfold coreCycle
  extract_lets a b c _ d
  have drained : Inv a :=
    xbCycle_inv (foldl_inv (fun {v x} i => (clipAccepted_within (drainCycle_within (.refl v))).inv i) _ i)
  clear_value a
  have counted : Inv b :=
    refillAll_inv (portsCycle_inv (droopCycle_inv ((countDomCycles_within (.refl _)).inv (countWaits_inv drained))))
  clear_value b
  have routed : Inv c := (laneCycle_within (routeCycle_within (.refl _))).inv (cmdCycle_inv counted)
  clear_value c
  have next : Inv d := routed.bytes
  clear_value d
  exact foldl_inv domCycle_inv _ next

theorem passCycle_inv (i : Inv s) : Inv (passCycle s) := by
  unfold passCycle
  refine ite_inv i ?_
  have aged : Inv (ageSecond s) := ite_inv i (ite_inv i.bytes i.bytes)
  have run : Inv (if heldInReset (ageSecond s) then ageSecond s else coreCycle (ageSecond s)) := ite_inv aged (coreCycle_inv aged)
  exact run.bytes

/-! ### Every command -/

/-- Whatever the command, its effect ends in canonical form. -/
theorem exec_ends (i : Inv s) : ∀ c : Instr, Ends (exec c s)
  | .nop .. => execNop_ends i
  | .halt .. => execHalt_ends i
  | .fwait .. => execFwait_ends i
  | .lyend .. => execLyend_ends i
  | .loop .. => execLoop_ends i
  | .endl .. => execEndl_ends i
  | .vld .. => execVld_ends i
  | .vst .. => execVst_ends i
  | .vmov .. => execVmov_ends i
  | .vbc .. => execVbc_ends i
  | .vsel .. => execVsel_ends i
  | .vlq .. => execVlq_ends i
  | .vsq .. => execVsq_ends i
  | .twr .. => execTwr_ends i
  | .trd .. => execTrd_ends i
  | .trel .. => execTrel_ends i
  | .vrel .. => execVrel_ends i
  | .prm .. => execPrm_ends i
  | .prmg .. => execPrmg_ends i
  | .gth .. => execGth_ends i
  | .sct .. => execSct_ends i
  | .cvt .. => execCvt_ends i
  | .pack .. => execPack_ends i
  | .unpk .. => execUnpk_ends i
  | .wcnt .. => execWcnt_ends i
  | .sig .. => execSig_ends i
  | .rwt .. => execRwt_ends i
  | .rrd .. => execRrd_ends i
  | .rinc .. => execRinc_ends i
  | .fuse .. => execFuse_ends i
  | .clear .. => execClear_ends i
  | .arm .. => execArm_ends i
  | .stop .. => execStop_ends i
  | .emit .. => execEmit_ends i
  | .panel .. => execPanel_ends i
  | .presentation .. => execPresentation_ends i
  | .drain .. => execDrain_ends i
  | .drainRow .. => execDrainRow_ends i
  | .waitc .. => execWaitc_ends i
  | .clip .. => execClip_ends i
  | .clipEmit .. => execClipEmit_ends i
  | .send .. => execSend_ends i
  | .clipWait .. => execClipWait_ends i
  | .sum .. => execSum_ends i
  | .scale .. => execScale_ends i
  | .bcast .. => execBcast_ends i
  | .store .. => execStore_ends i
  | .endw .. => execEndw_ends i
  | .itemStart .. => execItemStart_ends i
  | .fetchTransfer .. => execFetchTransfer_ends i
  | .storePathWrite .. => execStorePathWrite_ends i
  | .ladleStart .. => execLadleStart_ends i
  | .blockStart .. => execBlockStart_ends i
  | .beatSlotGrant => execBeatSlotGrant_ends i
  | .transferComplete .. => execTransferComplete_ends i
  | .farXlate .. => execFarXlate_ends i
  | .farResponse .. => execFarResponse_ends i
  | .rearm .. => execRearm_ends i
  | .listEnd .. => execListEnd_ends i
  | .flitAccept .. => execFlitAccept_ends i
  | .linkSlot => execLinkSlot_ends i
  | .wr .. => inbound_ends i
  | .rdReq .. => inbound_ends i
  | .rdRsp .. => inbound_ends i
  | .inc .. => inbound_ends i
  | .add .. => inbound_ends i
  | .cred .. => inbound_ends i
  | .cret .. => inbound_ends i
  | .nack .. => inbound_ends i
  | .tickMarker .. => execTickMarker_ends i
  | .flitForward .. => execFlitForward_ends i
  | .recall .. => execRecall_ends i
  | .nakRetry => execNakRetry_ends i
  | .laneSwap .. => execLaneSwap_ends i
  | .spareReadyTimeout .. => execSpareReadyTimeout_ends i
  | .linkRetrain .. => execLinkRetrain_ends i
  | .retrainDone .. => execRetrainDone_ends i
  | .linkTrain .. => execLinkTrain_ends i
  | .tick .. => execTick_ends i
  | .tickSelf => execTickSelf_ends i
  | .lock => execLock_ends i
  | .tickLost => execTickLost_ends i
  | .seqEntryEnd .. => execSeqEntryEnd_ends i
  | .stallCycle .. => execStallCycle_ends i
  | .dsRefreshWindow .. => execDsRefreshWindow_ends i
  | .patrolScrub => execPatrolScrub_ends i
  | .powerIntervalStart .. => execPowerIntervalStart_ends i
  | .portClose .. => execPortClose_ends i
  | .wake .. => execWake_ends i
  | .droopExhausted => execDroopExhausted_ends i
  | .vwarn => execVwarn_ends i
  | .droop => execDroop_ends i
  | .vreset => execVreset_ends i
  | .vresetRecovery => execVresetRecovery_ends i
  | .ageingSample .. => execAgeingSample_ends i
  | .aonPwrOk .. => execAonPwrOk_ends i
  | .rstChipN .. => execRstChipN_ends i
  | .pwrVidAck => execPwrVidAck_ends i
  | .vidAckTimeout => execVidAckTimeout_ends i
  | .ident .. => execIdent_ends i
  | .address .. => execAddress_ends i
  | .rd .. => execRd_ends i
  | .testGo .. => ⟨_, rfl, cmdTestGo_inv i⟩
  | .resetCore .. => ⟨_, rfl, cmdResetCore_inv i⟩
  | .resetCluster .. => ⟨_, rfl, cmdResetCluster_inv i⟩
  | .resetPartition .. => ⟨_, rfl, cmdResetPartition_inv i⟩
  | .resetUnit .. => ⟨_, rfl, cmdResetUnit_inv i⟩
  | .errorReset .. => execErrorReset_ends i
  | .taskStart .. => ⟨_, rfl, cmdTaskStart_inv i⟩
  | .loadBegin .. => execLoadBegin_ends i
  | .transportBlock .. => execTransportBlock_ends i
  | .endMarker .. => execEndMarker_ends i
  | .loadGate => execLoadGate_ends i
  | .loadIncomplete => execLoadIncomplete_ends i
  | .repairAuth .. => ⟨_, rfl, cmdRepairAuth_inv i⟩
  | .fuseProgDbgDisable => ⟨_, rfl, cmdFuseProg_inv i⟩
  | .fuseProgSigRequired => ⟨_, rfl, cmdFuseProg_inv i⟩
  | .fuseProgDetached => ⟨_, rfl, cmdFuseProg_inv i⟩
  | .fuseProgKeyHash => ⟨_, rfl, cmdFuseProg_inv i⟩
  | .fuseWriteDone .. => execFuseWriteDone_ends i
  | .detach => ⟨_, rfl, cmdDetach_inv i⟩
  | .preempt .. => ⟨_, rfl, cmdPreempt_inv i⟩
  | .resume .. => ⟨_, rfl, cmdResume_inv i⟩
  | .haltCommand .. => ⟨_, rfl, cmdHalt_inv i⟩
  | .routeLoad .. => ⟨_, rfl, cmdRouteLoad_inv i⟩
  | .whiskLoad .. => ⟨_, rfl, cmdWhiskLoad_inv i⟩
  | .dump .. => ⟨_, rfl, cmdDump_inv i⟩
  | .pwrForce .. => execPwrForce_ends i
  | .seqNext .. => ⟨_, rfl, ite_inv i (requestSeq_inv i)⟩
  | .cancel .. => ⟨_, rfl, ite_inv (cancelSeq_inv i) i⟩
  | .errAck .. => ⟨_, rfl, i.bytes⟩
  | .tickCfgWrite .. => ⟨_, rfl, rwfWrite_inv i⟩
  | .registerWrite .. => execRegisterWrite_ends i
  | .idcode => execIdcode_ends i
  | .window .. => execWindow_ends i
  | .tickGenerator => execTickGenerator_ends i
  | .idle .. => execIdle_ends i
  | .flitCrcFail _ f => execFlitCrcFail_ends (f := f) i
  | .candidateSpareReady .. => execCandidateSpareReady_ends i
  | .gatedAfterIdle .. => execGatedAfterIdle_ends i

theorem step_ends (i : Inv s) : Ends (step s) := by
  unfold step
  split
  · exact ⟨_, rfl, passCycle_inv i⟩
  · exact exec_ends i.bytes _

/-- Settles O3: the effect of every command, and a core cycle with none, keep the stores and the counter file in canonical form
(`exec_ends`, `passCycle_inv`). -/
theorem everyStepKeepsTheCanonicalForm : Obligations.EveryStepKeepsTheCanonicalForm := by
  unfold Obligations.EveryStepKeepsTheCanonicalForm
  intro s t i run
  obtain ⟨u, same, k⟩ := step_ends i
  obtain rfl := Host.Outcome.next.inj (same.symm.trans run)
  exact k

end Sys2Proof.Machine
end

section
set_option Elab.async false -- one proof after another: this bounds the memory that a check of the whole text takes
/-! PROOFS. A cycle of beat slots (R216 to R223): what each port spends, and what a beat that is no index beat leaves. -/

namespace Sys2Proof.Machine

variable {s t u : State} {h : ChanId} {p : Fin 4}

/-! ### Beats that are no index beats -/

/-- No block in progress still reads its index tensor. -/
def NoIndex (s : State) : Prop := ∀ h : ChanId, ∀ b ∈ s.mov.chans[h].blks, ¬(bKind b.entry = 2 ∧ b.stage = .index)

/-- The cores and the fuses stand, and no block begins to read an index tensor. -/
structure Carried (s t : State) : Prop where
  cores : t.cores = s.cores
  fuse : t.fuse = s.fuse
  index : NoIndex s → NoIndex t

theorem Carried.refl (s : State) : Carried s s := ⟨rfl, rfl, id⟩

theorem Carried.trans (h : Carried s t) (k : Carried t u) : Carried s u :=
  ⟨k.cores.trans h.cores, k.fuse.trans h.fuse, k.index ∘ h.index⟩

theorem Carried.rest (h : Carried s t) (cores : u.cores = t.cores := by rfl) (fuse : u.fuse = t.fuse := by rfl)
    (chans : u.mov.chans = t.mov.chans := by rfl) : Carried s u :=
  h.trans ⟨cores, fuse, fun i => by unfold NoIndex; rw [chans]; exact i⟩

theorem Carried.moves (h : Carried s t) (m : Moves t u) : Carried s u := by
  obtain ⟨e, -, -⟩ := m
  exact h.rest (by rw [e]) (by rw [e]) (by rw [e])

theorem mem_setAt {α : Type} {x v : α} : ∀ {l : List α} {i : Nat}, x ∈ setAt l i v → x ∈ l ∨ x = v
  | [], _, m => absurd m List.not_mem_nil
  | a :: l, 0, m => by
    obtain rfl | m := List.mem_cons.1 m
    · exact .inr rfl
    · exact .inl (List.mem_cons_of_mem a m)
  | a :: l, i + 1, m => by
    obtain rfl | m := List.mem_cons.1 m
    · exact .inl List.mem_cons_self
    · exact (mem_setAt m).imp (List.mem_cons_of_mem a) id

/-- A channel's blocks change to ones that read no index tensor. -/
theorem modChan_carried {f : Chan → Chan} (c : Carried s t)
    (blks : ∀ b ∈ (f t.mov.chans[h]).blks, b ∈ t.mov.chans[h].blks ∨ ¬(bKind b.entry = 2 ∧ b.stage = .index)) : Carried s (modChan t h f) := by
  refine c.trans ⟨rfl, rfl, fun i k b m => ?_⟩
  by_cases same : h = k
  · subst same
    rw [modChan_self] at m
    exact (blks b m).elim (i h b) id
  · rw [modChan_other _ _ _ _ (Ne.symm same)] at m
    exact i k b m

theorem modChan_same {f : Chan → Chan} (c : Carried s t) (blks : (f t.mov.chans[h]).blks = t.mov.chans[h].blks) : Carried s (modChan t h f) :=
  modChan_carried c fun _ m => .inl (blks ▸ m)

theorem setBlk_carried {i : Nat} {b : BlkRun} (c : Carried s t) (plain : ¬(bKind b.entry = 2 ∧ b.stage = .index)) :
    Carried s (setBlk t h i b) :=
  modChan_carried c fun x m => (mem_setAt m).imp id fun e => by rw [e]; exact plain

theorem modAg_carried {f : AgentSt → AgentSt} (c : Carried s t) : Carried s (modAg t (.chan h) f) := by
  unfold modAg; exact modChan_same c rfl

theorem progress_carried (c : Carried s t) : Carried s (progress t (.chan h)) := by
  have k : Carried s (modAg t (.chan h) fun g => { g with progressed := true, wait := none }) := modAg_carried c
  unfold progress
  rw [touchAg_eq]
  exact k.rest

theorem presentAt_carried {x : Fin 15} {m : Fin 45} {q : Part} {n : Nat} (c : Carried s t) : Carried s (presentAt t x m q n) := by
  unfold presentAt; rw [presents_eq]; exact c.rest

theorem logFenced_carried {x : StreamId} {n : Nat} (c : Carried s t) : Carried s (logFenced t x n) := by
  unfold logFenced; rw [logAt_eq]; exact c.rest

theorem poisonCtrBy_carried {q : Part} {n : Nat} {x : Ctr} (c : Carried s t) : Carried s (poisonCtrBy t q n x) := by
  unfold poisonCtrBy; split
  · unfold logRun; rw [logAt_eq]; exact c.rest
  · exact c.rest

theorem foldl_carried {α : Type} {f : State → α → State} (step : ∀ a b, Carried a (f a b)) : ∀ (l : List α) {t : State}, Carried s t → Carried s (l.foldl f t)
  | [], _, c => c
  | b :: l, t, c => foldl_carried step l (c.trans (step t b))

theorem fenceChan_carried (c : Carried s t) : Carried s (fenceChan t h) := by
  have k : Carried s (modChan t h stopChan) := modChan_carried c fun b m => absurd m List.not_mem_nil
  exact foldl_carried (fun _ _ => poisonCtrBy_carried (.refl _)) _ k.rest

theorem offer_carried {x : StreamId} {fs : List OutFlit} (c : Carried s t) : Carried s (offer t x fs) := c.rest

theorem drawBits_carried {n : Nat} (c : Carried s t) : Carried s (drawBits n t).1 := c.moves (drawBits_looks n t).1

theorem readMovBeat_carried {b : BlkRun} {x : Xfer} {n : Nat} (c : Carried s t) : Carried s (readMovBeat t h p b x n).1 := by
  unfold readMovBeat
  split
  · exact c
  · dsimp only
    refine Carried.moves ?_ (readRun_looks ..).1
    split
    · unfold copyFill; split
      · exact c
      · exact drawBits_carried c
    · exact c

theorem writeFlit_carried {x : Stream} {b : BlkRun} {y : Xfer} {bits : Nat} {q : Bool} (c : Carried s t) :
    Carried s (writeFlit t x b y bits q).1 := by
  unfold writeFlit; dsimp only
  split
  · exact c
  · exact drawBits_carried c

/-! ### The next beat -/

theorem nextXfer_block (b : BlkRun) : (nextXfer b).2.entry = b.entry ∧ (nextXfer b).2.stage = b.stage := by
  unfold nextXfer; dsimp only; split
  · exact ⟨rfl, rfl⟩
  · exact ⟨rfl, rfl⟩

theorem nextOf_block {i : Nat} {b : BlkRun} {room : Bool} {n : NextBeat} (e : nextOf i b room = some n) :
    n.blk.entry = b.entry ∧ n.blk.stage = b.stage := by
  unfold nextOf at e
  split at e
  · split at e
    · obtain rfl := Option.some.inj e
      exact ⟨rfl, rfl⟩
    split at e
    · obtain rfl := Option.some.inj e
      exact nextXfer_block b
    · cases e
  · split at e
    · obtain rfl := Option.some.inj e
      exact nextXfer_block b
    · cases e

/-- With no index tensor to read, a channel's next beat is of a block past it. -/
theorem nextBeat_plain {c : Chan} {n : NextBeat} (none : ∀ b ∈ c.blks, ¬(bKind b.entry = 2 ∧ b.stage = .index)) (e : nextBeat c = some n) :
    ¬(bKind n.blk.entry = 2 ∧ n.blk.stage = .index) := by
  have idle : nextIdx c = .none := by
    unfold nextIdx
    rw [Option.map_eq_none_iff, List.find?_eq_none]
    intro b m
    obtain ⟨-, -, m⟩ := List.mem_zipIdx m
    have plain := none b.1 (m ▸ List.getElem_mem _)
    simpa using plain
  unfold nextBeat at e
  rw [idle] at e
  obtain ⟨b, m, e⟩ := List.mem_filterMap.1 (List.mem_of_mem_head? e)
  obtain ⟨-, -, m⟩ := List.mem_zipIdx m
  obtain ⟨entry, stage⟩ := nextOf_block e
  rw [entry, stage]
  exact none b.1 (m ▸ List.getElem_mem _)

theorem issueBeat_carried {n : NextBeat} (c : Carried s t) (plain : ¬(bKind n.blk.entry = 2 ∧ n.blk.stage = .index)) :
    Carried s (issueBeat t h p n) := by
  have notIdx : isIdxBeat n = false := by simpa [isIdxBeat] using plain
  unfold issueBeat
  extract_lets k x y i v1 v2 v blk put f r yields src z g
  have begun : Carried s v1 := by
    refine Carried.rest (t := modChan t h fun x => { x with beats := sat32 x.beats 1, st := .run }) ?_
    exact modChan_same c rfl
  have counted : Carried s v2 := progress_carried begun
  have presented : Carried s v := by
    unfold v; split
    · exact presentAt_carried counted
    · exact counted
  have puts : ∀ {a : State} {z : Xfer}, Carried s a → Carried s (put a z) := fun a => setBlk_carried a plain
  have laid : Carried s f.1 := writeFlit_carried presented
  have read : Carried s r.1 := readMovBeat_carried presented
  have sent : Carried s g.1 := writeFlit_carried read
  clear_value v put f r g
  rw [notIdx, if_neg Bool.false_ne_true]
  split
  · exact fenceChan_carried (logFenced_carried presented)
  split
  · exact puts (offer_carried presented)
  split
  · exact puts presented
  split
  · split
    · exact puts (offer_carried laid)
    · exact puts presented
  split
  · split
    · exact puts read
    split
    · exact puts (offer_carried read)
    · exact puts (offer_carried sent)
  · exact puts presented

end Sys2Proof.Machine
end

section
set_option Elab.async false -- one proof after another: this bounds the memory that a check of the whole text takes
/-! PROOFS. A cycle of beat slots, port by port. -/

namespace Sys2Proof.Machine

variable {s t : State} {h : ChanId} {p q : Fin 4} {a : State × Caps}

/-- The tokens of a beat of channel `h` through port `p` spent, under the grant order's entry `i`. -/
def spend (s : State) (p : Fin 4) (i : Fin 6) (h : ChanId) : State :=
  { s with mov := { s.mov with bucket := s.mov.bucket.set p.val (s.mov.bucket[p] - 64), last := s.mov.last.set i.val h } }

/-- A port's grant changes nothing, or spends its tokens on the next beat of a channel. -/
theorem grantPort_outcome (a : State × Caps) (p : Fin 4) : (grantPort a p).1 = a.1 ∨
    ∃ i h n, 64 ≤ a.1.mov.bucket[p] ∧ nextBeat a.1.mov.chans[h] = some n ∧ (grantPort a p).1 = issueBeat (spend a.1 p i h) h p n := by
  unfold grantPort
  extract_lets s k
  split
  · exact .inl rfl
  · rename_i full
    split
    · exact .inl rfl
    · rename_i x h _ _
      split
      · exact .inl rfl
      · rename_i n next
        obtain waits | goes := outside_cases s (issueBeat (spend s p (lastIdx (portPart s p) x) h) h p n)
        · exact .inl waits
        · exact .inr ⟨_, h, n, Nat.le_of_not_lt full, next, goes⟩

theorem bucket_issueBeat (i : Fin 6) (n : NextBeat) : (issueBeat (spend s p i h) h p n).mov.bucket = s.mov.bucket.set p.val (s.mov.bucket[p] - 64) :=
  (issueBeat_within (.refl (spend s p i h))).ports.1

/-- A port spends the tokens of one beat or none. -/
theorem grantPort_own (a : State × Caps) (p : Fin 4) :
    (grantPort a p).1.mov.bucket[p] = a.1.mov.bucket[p] ∨ (grantPort a p).1.mov.bucket[p] + 64 = a.1.mov.bucket[p] := by
  obtain same | ⟨i, h, n, full, -, goes⟩ := grantPort_outcome a p
  · exact .inl (by rw [same])
  · refine .inr ?_
    rw [goes, bucket_issueBeat]
    simp only [Fin.getElem_fin, Vector.getElem_set_self] at full ⊢
    omega

/-- A port leaves the other ports' tokens. -/
theorem grantPort_other (a : State × Caps) (other : q ≠ p) : (grantPort a p).1.mov.bucket[q] = a.1.mov.bucket[q] := by
  obtain same | ⟨i, h, n, -, -, goes⟩ := grantPort_outcome a p
  · rw [same]
  · rw [goes, bucket_issueBeat]
    exact Vector.getElem_set_ne _ _ fun e => other (Fin.ext e.symm)

/-- Ports that do not include `q` leave its tokens. -/
theorem ports_other : ∀ (ps : List (Fin 4)) {a : State × Caps}, q ∉ ps → (ps.foldl grantPort a).1.mov.bucket[q] = a.1.mov.bucket[q]
  | [], _, _ => rfl
  | p :: ps, a, out => by
    rw [List.foldl_cons, ports_other ps fun m => out (List.mem_cons_of_mem p m)]
    exact grantPort_other a fun e => out (e ▸ List.mem_cons_self)

/-- Each port of a cycle is granted once. -/
theorem ports_spend : ∀ (ps : List (Fin 4)) {a : State × Caps}, ps.Nodup → ∀ q : Fin 4,
    (ps.foldl grantPort a).1.mov.bucket[q] = a.1.mov.bucket[q] ∨ (ps.foldl grantPort a).1.mov.bucket[q] + 64 = a.1.mov.bucket[q]
  | [], _, _, _ => .inl rfl
  | p :: ps, a, nodup, q => by
    obtain ⟨out, nodup⟩ := List.nodup_cons.1 nodup
    rw [List.foldl_cons]
    by_cases own : q = p
    · subst own
      rw [ports_other ps out]
      exact grantPort_own a q
    · rw [← grantPort_other a own]
      exact ports_spend ps nodup q

theorem markAdmit_carried (s : State) (h : ChanId) : Carried s (markAdmit s h) := by
  unfold markAdmit; dsimp only
  split
  · split
    · exact modAg_carried (modChan_same (.refl s) rfl)
    · exact .refl s
  · exact .refl s

/-- The tokens after every port's grant, and after what follows. -/
theorem markAdmit_ports (hs : List ChanId) (s : State) : (hs.foldl markAdmit s).mov.bucket = s.mov.bucket :=
  (folds_within (fun _ _ => markAdmit_within (.refl _)) hs (.refl s)).ports.1

theorem grantPort_carried (index : NoIndex a.1) : Carried a.1 (grantPort a p).1 := by
  obtain same | ⟨i, h, n, -, next, goes⟩ := grantPort_outcome a p
  · rw [same]; exact .refl _
  · rw [goes]
    exact issueBeat_carried (.rest (.refl a.1)) (nextBeat_plain (index h) next)

theorem ports_carried : ∀ (ps : List (Fin 4)) {a : State × Caps}, NoIndex a.1 → Carried a.1 (ps.foldl grantPort a).1
  | [], _, _ => .refl _
  | p :: ps, a, index => by
    have first : Carried a.1 (grantPort a p).1 := grantPort_carried index
    exact first.trans (ports_carried ps (first.index index))

/-! ### A ready channel -/

/-- A ready channel of the partition is found, wherever the search begins. -/
theorem nextReady_some {k : Caps} {x : Fin 3} {r : Part} (last : Nat) (own : sameTask s r (chanPart s h) = true) (ready : chanReady s h k x = true) :
    ∃ g, nextReady s r k x last = some g := by
  refine Option.isSome_iff_exists.1 (List.find?_isSome.2 ⟨h, ?_, by simp [own, ready]⟩)
  refine List.mem_map.2 ⟨(h.val + 63 - last % 32) % 32 + 1, ?_, Fin.ext ?_⟩
  · rw [span_eq_range', List.mem_range'_1]; omega
  · have low := h.isLt
    show (last + ((h.val + 63 - last % 32) % 32 + 1)) % 32 = h.val
    omega

theorem mem_classOrder (f x : Fin 3) : x ∈ classOrder f := by
  by_cases same : x = f
  · exact same ▸ List.mem_cons_self
  · refine List.mem_cons_of_mem f (List.mem_filter.2 ⟨?_, decide_eq_true same⟩)
    fin_cases x
    · exact List.mem_cons_self
    · exact List.mem_cons_of_mem _ List.mem_cons_self
    · exact List.mem_cons_of_mem _ (List.mem_cons_of_mem _ List.mem_cons_self)

theorem nextBeat_of_ready {k : Caps} {x : Fin 3} (ready : chanReady s h k x = true) : ∃ n, nextBeat s.mov.chans[h] = some n := by
  unfold chanReady at ready
  dsimp only at ready
  split at ready
  · cases ready
  · exact ⟨_, ‹_›⟩

theorem ready_of_nextReady {k : Caps} {x : Fin 3} {r : Part} {last : Nat} (e : nextReady s r k x last = some h) : chanReady s h k x = true := by
  have found := List.find?_some e
  exact (Bool.and_eq_true_iff.1 found).2

/-- A port with the tokens of a beat spends them on a ready channel of its partition outside the reserved windows. -/
theorem grantPort_spends {x : Fin 3} (shut : anyWindow a.1 = false) (full : 64 ≤ a.1.mov.bucket[p])
    (own : sameTask a.1 (portPart a.1 p) (chanPart a.1 h) = true) (ready : chanReady a.1 h a.2 x = true) :
    (grantPort a p).1.mov.bucket[p] + 64 = a.1.mov.bucket[p] := by
  unfold grantPort
  extract_lets s k
  rw [if_neg (Nat.not_lt.2 full)]
  split
  · rename_i none
    obtain ⟨g, found⟩ := nextReady_some (s.mov.last[lastIdx (portPart s p) x]).val own ready
    refine absurd (List.filterMap_eq_nil_iff.1 none x (mem_classOrder _ x)) ?_
    rw [found]
    exact Option.some_ne_none _
  · rename_i y g _ granted
    have head : (y, g) ∈ (classOrder (firstClaim s.mov.split s.fr.cyc)).filterMap fun x =>
        (nextReady s (portPart s p) k x (s.mov.last[lastIdx (portPart s p) x]).val).map fun h => (x, h) := by
      rw [granted]; exact List.mem_cons_self
    obtain ⟨z, -, e⟩ := List.mem_filterMap.1 head
    obtain ⟨d, found, e⟩ := Option.map_eq_some_iff.1 e
    obtain ⟨rfl, rfl⟩ := Prod.mk.inj e
    obtain ⟨n, next⟩ := nextBeat_of_ready (ready_of_nextReady found)
    split
    · rename_i idle
      rw [next] at idle
      cases idle
    · rename_i m _
      have goes := outside_open shut (issueBeat (spend s p (lastIdx (portPart s p) z) d) d p m)
      have left := congrArg (fun v : State => v.mov.bucket[p] + 64) goes
      refine left.trans ?_
      change _ = s.mov.bucket[p]
      have full : 64 ≤ s.mov.bucket[p] := full
      rw [bucket_issueBeat]
      simp only [Fin.getElem_fin, Vector.getElem_set_self] at full ⊢
      omega

/-- With nothing to carry a port stands still. -/
theorem grantPort_idle (idle : ∀ h : ChanId, nextBeat a.1.mov.chans[h] = none) : grantPort a p = a := by
  have unready (x : Fin 3) (h : ChanId) : chanReady a.1 h a.2 x = false := by
    unfold chanReady; dsimp only; rw [idle h]
  unfold grantPort
  extract_lets s k
  split
  · rfl
  · split
    · rfl
    · rename_i y g _ granted
      have head : (y, g) ∈ (classOrder (firstClaim s.mov.split s.fr.cyc)).filterMap fun x =>
          (nextReady s (portPart s p) k x (s.mov.last[lastIdx (portPart s p) x]).val).map fun h => (x, h) := by
        rw [granted]; exact List.mem_cons_self
      obtain ⟨z, -, e⟩ := List.mem_filterMap.1 head
      obtain ⟨d, found, -⟩ := Option.map_eq_some_iff.1 e
      exact absurd ((unready z d).symm.trans (ready_of_nextReady found)) Bool.false_ne_true

theorem markAdmit_idle (idle : nextBeat s.mov.chans[h] = none) : markAdmit s h = s := by
  unfold markAdmit; dsimp only; rw [idle]

/-- What the ports of the first pair leave, before those of the second are granted. -/
@[irreducible] def firstPair (s : State) : State × Caps := ([0, 1] : List (Fin 4)).foldl grantPort (refillMover s, {})

/-- What the second pair begins with: in two-task mode it has caps of its own (R25, R223). -/
@[irreducible] def secondFrom (s : State) : State × Caps := ((firstPair s).1, if twoTask s then {} else (firstPair s).2)

/-- What every port leaves. -/
@[irreducible] def everyPort (s : State) : State × Caps := ([2, 3] : List (Fin 4)).foldl grantPort (secondFrom s)

theorem firstPair_eq (s : State) : firstPair s = ([0, 1] : List (Fin 4)).foldl grantPort (refillMover s, {}) := by unfold firstPair; rfl

theorem secondFrom_state (s : State) : (secondFrom s).1 = (firstPair s).1 := by unfold secondFrom; rfl

theorem everyPort_eq (s : State) : everyPort s = ([2, 3] : List (Fin 4)).foldl grantPort (secondFrom s) := by unfold everyPort; rfl

theorem execBeatSlotGrant_runs (run : s.u.state = .running) :
    exec .beatSlotGrant s = .next ((List.finRange 32).foldl markAdmit (everyPort s).1) := by
  unfold everyPort secondFrom firstPair
  exact congrArg Host.Outcome.next (if_pos run)

theorem bucket_refillMover (s : State) (p : Fin 4) : (refillMover s).mov.bucket[p] = refill s.mov.reg[p] s.mov.bucket[p] := by
  simp only [refillMover, Fin.getElem_fin, Vector.getElem_mapFinIdx]

/-- The two ports of a pair touch no other port's tokens. -/
theorem everyPort_spends (s : State) (p : Fin 4) : (everyPort s).1.mov.bucket[p] = (refillMover s).mov.bucket[p] ∨
    (everyPort s).1.mov.bucket[p] + 64 = (refillMover s).mov.bucket[p] := by
  have pairs : ∀ p : Fin 4, p ∈ ([0, 1] : List (Fin 4)) → p ∉ ([2, 3] : List (Fin 4)) := by decide
  by_cases low : p ∈ ([0, 1] : List (Fin 4))
  · rw [everyPort_eq, ports_other [2, 3] (pairs p low), secondFrom_state, firstPair_eq]
    exact ports_spend [0, 1] (by decide) p
  · have same : (refillMover s).mov.bucket[p] = (secondFrom s).1.mov.bucket[p] := by
      rw [secondFrom_state, firstPair_eq, ports_other [0, 1] low]
    rw [same, everyPort_eq]
    exact ports_spend [2, 3] (by decide) p

theorem everyPort_carried (index : NoIndex s) : Carried s (everyPort s).1 := by
  have filled : Carried s (refillMover s) := .rest (.refl s)
  have first : Carried s (secondFrom s).1 := by
    rw [secondFrom_state, firstPair_eq]
    exact filled.trans (ports_carried [0, 1] (a := (refillMover s, {})) (filled.index index))
  rw [everyPort_eq]
  exact first.trans (ports_carried [2, 3] (first.index index))

/-- Port 0 is granted first, and no other port touches its tokens. -/
theorem everyPort_zero (s : State) : (everyPort s).1.mov.bucket[(0 : Fin 4)] = (grantPort (refillMover s, {}) 0).1.mov.bucket[(0 : Fin 4)] := by
  rw [everyPort_eq, ports_other [2, 3] (by decide), secondFrom_state, firstPair_eq, List.foldl_cons, ports_other [1] (by decide)]

theorem everyPort_idle (idle : ∀ h : ChanId, nextBeat s.mov.chans[h] = none) : (everyPort s).1 = refillMover s := by
  have still (ps : List (Fin 4)) (k : Caps) : ps.foldl grantPort (refillMover s, k) = (refillMover s, k) :=
    foldl_stays fun p _ => grantPort_idle idle
  unfold everyPort secondFrom firstPair
  rw [still, still]

/-- Settles O31: each port is granted once in a cycle and touches its own bucket alone (`everyPort_spends`). -/
theorem beatSlotsSpendTokens : Obligations.BeatSlotsSpendTokens := by
  unfold Obligations.BeatSlotsSpendTokens
  intro s run
  refine ⟨_, execBeatSlotGrant_runs run, fun index => ?_, fun p => ?_, fun h x shut full own ready => ?_, fun idle => ?_⟩
  · have marked := foldl_carried markAdmit_carried (List.finRange 32) (everyPort_carried index)
    exact ⟨marked.cores, marked.fuse⟩
  · rw [markAdmit_ports, ← bucket_refillMover]
    exact everyPort_spends s p
  · rw [markAdmit_ports, everyPort_zero, ← bucket_refillMover]
    rw [← bucket_refillMover] at full
    have part : portPart (refillMover s) 0 = 0 := ite_self _
    exact grantPort_spends (a := (refillMover s, {})) (p := 0) (h := h) (x := x) shut full (by rw [part]; exact own) ready
  · have marked : (List.finRange 32).foldl markAdmit (refillMover s) = refillMover s := foldl_stays fun h _ => markAdmit_idle (idle h)
    rw [everyPort_idle idle, marked]
    exact ⟨rfl, rfl⟩

end Sys2Proof.Machine
end

section
set_option Elab.async false -- one proof after another: this bounds the memory that a check of the whole text takes
/-! PROOFS. Resets of a core, a cluster and a partition with nothing left to drain (R356, R358, R449). -/

namespace Sys2Proof.Machine

/-- Between `s` and `t` the cores that `q` names are emptied, and the others, the stores, the counters and what belongs to
the tasks stand. -/
structure Empties (q : CoreId → Prop) (s t : State) : Prop where
  named : ∀ c, q c → CoreEmpty t.cores[c]
  others : ∀ c, ¬ q c → t.cores[c] = s.cores[c]
  mem : t.mem = s.mem
  cnt : t.cnt = s.cnt
  parts : t.parts = s.parts
  u : t.u = s.u
  cmd : t.cmd = s.cmd
  bl : t.bl = s.bl
  taps : t.taps = s.taps
  owners : ∀ h : ChanId, t.mov.chans[h].owner = s.mov.chans[h].owner
  whisk : ∀ k : ClusterId, t.cls[k].whisk = s.cls[k].whisk

namespace Empties

variable {q r : CoreId → Prop} {s t v : State}

theorem trans (h : Empties q s t) (k : Empties r t v) : Empties (fun c => q c ∨ r c) s v where
  named c qr := by
    by_cases again : r c
    · exact k.named c again
    · rw [k.others c again]
      exact h.named c (qr.resolve_right again)
  others c none := (k.others c fun b => none (.inr b)).trans (h.others c fun a => none (.inl a))
  mem := k.mem.trans h.mem
  cnt := k.cnt.trans h.cnt
  parts := k.parts.trans h.parts
  u := k.u.trans h.u
  cmd := k.cmd.trans h.cmd
  bl := k.bl.trans h.bl
  taps := k.taps.trans h.taps
  owners x := (k.owners x).trans (h.owners x)
  whisk x := (k.whisk x).trans (h.whisk x)

theorem iff (h : Empties q s t) (same : ∀ c, q c ↔ r c) : Empties r s t := by
  rwa [show r = q from funext fun c => propext (same c).symm]

/-- A queue that was empty is empty after cores are emptied. -/
theorem sq (h : Empties q s t) {c : CoreId} (none : s.cores[c].sq = []) : t.cores[c].sq = [] := by
  by_cases named : q c
  · exact (h.named c named).2.2.2.1
  · rw [h.others c named, none]

/-- Steps that each empty some cores, where the queues that they drain are empty. -/
theorem foldl {β : Type} {f : State → β → State} {q : β → CoreId → Prop} :
    ∀ (l : List β) {s : State}, (∀ b ∈ l, ∀ s, (∀ c, q b c → s.cores[c].sq = []) → Empties (q b) s (f s b)) →
      (∀ b ∈ l, ∀ c, q b c → s.cores[c].sq = []) → Empties (fun c => ∃ b ∈ l, q b c) s (l.foldl f s)
  | [], s, _, _ => ⟨by simp, fun _ _ => rfl, rfl, rfl, rfl, rfl, rfl, rfl, rfl, fun _ => rfl, fun _ => rfl⟩
  | b :: l, s, step, quiet => by
    have head := step b (by simp) s (quiet b (by simp))
    have tail := foldl l (fun b' m => step b' (by simp [m])) (fun b' m c n => head.sq (quiet b' (by simp [m]) c n))
    exact (head.trans tail).iff fun c => by simp

end Empties

/-! ### A core -/

/-- A core as its reset leaves it. -/
def restarted (s : State) (c : CoreId) (unfence : Bool) (x : Core) : Core :=
  if decide (x.st = .fenced) && (!unfence || x.failed) then { clearCoreRegs (freshCore x s.bl.cores[c] 0) with st := .fenced }
  else clearCoreRegs (freshCore x s.bl.cores[c] 0)

theorem restarted_empty (s : State) (c : CoreId) (b : Bool) (x : Core) : CoreEmpty (restarted s c b x) := by
  unfold restarted
  split <;> exact ⟨rfl, rfl, rfl, rfl, rfl, rfl, rfl⟩

theorem restarted_regs (s : State) (c : CoreId) (b : Bool) (x : Core) :
    (restarted s c b x).s = s.bl.cores[c].s ∧ (restarted s c b x).d = s.bl.cores[c].d := by
  unfold restarted
  split <;> exact ⟨rfl, rfl⟩

/-- A fence stays in a reset that does not take it away (R356). -/
theorem restarted_st (s : State) (c : CoreId) (x : Core) :
    (restarted s c false x).st = if x.st = .fenced then .fenced else .idle := by
  unfold restarted
  by_cases fenced : x.st = .fenced
  · simp [fenced]
  · simp [fenced, clearCoreRegs, freshCore]

theorem resetCoreTo_sq (s : State) (c : CoreId) (b : Bool) : (resetCoreTo s c b).cores[c].sq = [] := by
  unfold resetCoreTo
  extract_lets _ v w x
  rw [modCore_self]
  exact (restarted_empty x c b _).2.2.2.1

section Core

variable {s : State} {c : CoreId} {b : Bool}

theorem resetCoreTo_quiet (none : s.cores[c].sq = []) : resetCoreTo s c b =
    modCore (dropWaiting (dropLadle (absorb s (fun m _ => decide (m.val = c.val))) (fun w => decide (w = .core c)))
      (fun x => coreStream x c)) c (restarted s c b) := by
  have drained (t : State) (same : t.cores = s.cores) : (if t.cores[c].st = .fenced then t else drainAll c t.cores[c].sq.length t) = t := by
    rw [same, none]
    exact ite_self t
  unfold resetCoreTo
  dsimp only
  rw [drained (absorb s _) rfl]
  rfl

theorem resetCoreTo_self (none : s.cores[c].sq = []) : (resetCoreTo s c b).cores[c] = restarted s c b s.cores[c] := by
  rw [resetCoreTo_quiet none, modCore_self]
  rfl

theorem resetCoreTo_empties (none : s.cores[c].sq = []) : Empties (· = c) s (resetCoreTo s c b) where
  named k same := by
    subst same
    rw [resetCoreTo_self none]
    exact restarted_empty ..
  others k other := by
    rw [resetCoreTo_quiet none, modCore_other _ _ _ _ other]
    rfl
  mem := by rw [resetCoreTo_quiet none]; rfl
  cnt := by rw [resetCoreTo_quiet none]; rfl
  parts := by rw [resetCoreTo_quiet none]; rfl
  u := by rw [resetCoreTo_quiet none]; rfl
  cmd := by rw [resetCoreTo_quiet none]; rfl
  bl := by rw [resetCoreTo_quiet none]; rfl
  taps := by rw [resetCoreTo_quiet none]; rfl
  owners h := by rw [resetCoreTo_quiet none]; rfl
  whisk k := by rw [resetCoreTo_quiet none]; simp [dropWaiting, dropLadle, absorb, modCore]

end Core

/-! ### A cluster -/

theorem loseIndex_owner (k : ClusterId) (x : Chan) : (loseIndex k x).owner = x.owner := by
  unfold loseIndex
  extract_lets lost
  split <;> rfl

section Cluster

variable {s : State} {k : ClusterId} {b : Bool}

theorem resetClusterTo_ladle (s : State) (k : ClusterId) (b : Bool) : (resetClusterTo s k b).cls[k].running = none ∧
    (resetClusterTo s k b).cls[k].waiting = [] ∧ (resetClusterTo s k b).cls[k].whiskCe = 0 := by
  unfold resetClusterTo
  rw [modCl_self]
  exact ⟨rfl, rfl, rfl⟩

theorem resetClusterTo_empties (quiet : ∀ c ∈ coresOf k, s.cores[c].sq = []) : Empties (fun c => clOf c = k) s (resetClusterTo s k b) := by
  have cores : Empties (fun c => clOf c = k) s ((coresOf k).foldl (fun s c => resetCoreTo s c b) s) :=
    (Empties.foldl (q := fun b c => c = b) _ (fun c _ s none => resetCoreTo_empties (none c rfl))
      (fun b m c same => same ▸ quiet b m)).iff fun c => by simp [mem_coresOf]
  unfold resetClusterTo
  generalize (coresOf k).foldl (fun s c => resetCoreTo s c b) s = v at cores
  refine ⟨cores.named, cores.others, cores.mem, cores.cnt, cores.parts, cores.u, cores.cmd, cores.bl, cores.taps, fun h => ?_, fun j => ?_⟩
  · rw [← cores.owners h]
    simp [modCl, absorb, loseIndex_owner]
  · rw [← cores.whisk j]
    by_cases same : j = k
    · subst same
      rw [modCl_self]
      rfl
    · rw [modCl_other _ _ _ _ same]
      rfl

end Cluster
end Sys2Proof.Machine
end

section
set_option Elab.async false -- one proof after another: this bounds the memory that a check of the whole text takes
/-! PROOFS. The reset of a partition, and the cycles of a reset (R347, R356, R358). -/

namespace Sys2Proof.Machine

variable {s : State} {p : Part}

/-! ### What a partition reset clears -/

theorem drainChan_quiet {h : ChanId} (blks : s.mov.chans[h].blks = []) (none : ∀ t : StreamId, s.rmt.streams[t].wait = []) :
    drainChan s h = s := by
  unfold drainChan
  dsimp only
  rw [none, List.length_nil, acceptAll, ite_self, blks, List.foldl_nil, ite_self]

/-- A store's hold count gives up what a label holds (R291). -/
def dropHold (s : State) (x : Nat × BitVec 128) : State :=
  modPort s (winStore x.2) (fun q => { q with hold := q.hold - labHeld s x })

theorem dropHold_frame (s : State) (x : Nat × BitVec 128) : dropHold s x = { s with mem := (dropHold s x).mem } := by
  rw [dropHold, modPort_eq]

theorem dropHolds_frame (p : Part) : ∀ (l : List (Nat × BitVec 128)) (s : State),
    l.foldl dropHold s = { s with mem := (l.foldl dropHold s).mem } ∧ SameBytes s (l.foldl dropHold s)
  | [], _ => ⟨rfl, fun _ => rfl⟩
  | x :: l, s => by
    obtain ⟨frame, bytes⟩ := dropHolds_frame p l (dropHold s x)
    refine ⟨?_, (SameBytes.ofKeeps (modPort_keeps ..)).trans bytes⟩
    rw [List.foldl_cons, frame, dropHold_frame]

theorem corePart_clOf (c : CoreId) : clPart (clOf c) = corePart c := Fin.ext (Nat.div_div_eq_div_mul ..)

theorem mem_taskCls {k : ClusterId} : k ∈ taskCls s p ↔ sameTask s p (clPart k) = true := by simp [taskCls]

/-- The clusters of a partition reset, with nothing left to drain. -/
theorem taskCls_empties (quiet : Quiet s) :
    Empties (fun c => sameTask s p (corePart c) = true) s ((taskCls s p).foldl (fun s k => resetClusterTo s k true) s) :=
  (Empties.foldl (q := fun k c => clOf c = k) _ (fun k _ s none => resetClusterTo_empties (fun c m => none c (mem_coresOf.mp m)))
    (fun _ _ c _ => quiet.1 c)).iff fun c => by simp [mem_taskCls, corePart_clOf]

/-- What a partition reset leaves of a partition, its cores, channels, taps and counters. -/
structure Cleared (s : State) (p : Part) (t : State) : Prop where
  cmd : t.cmd = s.cmd
  task : t.parts[taskPart s p].task = false
  aborted : t.parts[taskPart s p].aborted = false
  window : t.parts[taskPart s p].resetWin = 30000
  cores : ∀ c : CoreId, sameTask s p (corePart c) = true → CoreEmpty t.cores[c]
  chans : ∀ h : ChanId, sameTask s p (chanPart s h) = true → t.mov.chans[h].st = .idle ∧ t.mov.chans[h].list = none
  taps : ∀ x : TapId, sameTask s p (tapPart s x) = true → t.taps[x].armed = false
  emptied : ∀ r : Ctr, sameTask s p (ctrPart s r) = true → ctrOf t r = {}
  kept : ∀ r : Ctr, sameTask s p (ctrPart s r) = false → ctrOf t r = ctrOf s r
  bytes : SameBytes s t

theorem resetPart_clears (quiet : Quiet s) : Cleared s p (resetPart s p) := by
  unfold resetPart
  extract_lets v w x y _ _ z
  have drained : v = s := foldl_stays fun h _ => drainChan_quiet (quiet.2.1 h) quiet.2.2
  have clusters : Empties (fun c => sameTask s p (corePart c) = true) s w := by
    rw [← drained] at quiet ⊢
    exact taskCls_empties quiet
  clear_value w
  obtain ⟨held, bytes⟩ : x = { w with mem := x.mem } ∧ SameBytes w x := dropHolds_frame p _ w
  clear_value x
  have mov : x.mov = w.mov := by rw [held]
  have taps : x.taps = w.taps := by rw [held]
  have u : y.u = s.u := (congrArg State.u held).trans clusters.u
  have task (q : Part) : sameTask y p q = sameTask s p q := by rw [sameTask, sameTask, twoTask, twoTask, u]
  have place : taskPart z p = taskPart s p := by
    rw [taskPart, taskPart, twoTask, twoTask]
    exact u ▸ rfl
  have chan (c : ChanId) : chanPart y c = chanPart s c := by
    rw [chanPart, chanPart, ← clusters.owners, show y.mov = w.mov from mov]
  have tap (x : TapId) : tapPart y x = tapPart s x := by
    rw [tapPart, tapPart, ← clusters.taps, show y.taps = w.taps from taps]
  refine ⟨(congrArg State.cmd held).trans clusters.cmd, ?_, ?_, ?_, fun c own => ?_, fun c own => ?_, fun x own => ?_,
    fun r own => ?_, fun r own => ?_, (SameBytes.ofMem clusters.mem).trans (bytes.trans (.ofMem rfl))⟩
  · simp only [← place, modPart_self]
  · simp only [← place, modPart_self]
  · simp only [← place, modPart_self]
  · have fresh : z.cores[c] = { y.cores[c] with ag := {} } := by
      rw [← task] at own
      simp [z, own]
    have cores : x.cores = w.cores := by rw [held]
    rw [show (modPart z _ _).cores = z.cores from rfl, fresh, show y.cores = w.cores from cores]
    exact clusters.named c own
  · have fresh : z.mov.chans[c] = freshChan y.mov.chans[c] := by
      rw [← task, ← chan] at own
      simp [z, own]
    rw [show (modPart z _ _).mov = z.mov from rfl, fresh]
    exact ⟨rfl, rfl⟩
  · have fresh : z.taps[x] = freshTap y.taps[x] := by
      rw [← task, ← tap] at own
      simp [z, own]
    rw [show (modPart z _ _).taps = z.taps from rfl, fresh]
    rfl
  · refine look_filter_drop _ _ _ _ fun _ => ?_
    rw [← task, ctrPart, ← u] at own
    simp [own]
  · have cnt : y.cnt = s.cnt := (congrArg State.cnt held).trans clusters.cnt
    refine (look_filter_keep _ _ _ _ fun _ => ?_).trans (congrArg (look {} · r.val) cnt)
    rw [← task, ctrPart, ← u] at own
    simp [own]

/-! ### The commands and their cycles -/

theorem cmdCycle_ends (last : s.cmd.left = 1) : Done (cmdCycle s) s.cmd.code.toNat 0 := by
  unfold cmdCycle
  rw [last]
  exact cmdDone_done ..

theorem cmdCycle_counts (more : 1 < s.cmd.left) : cmdCycle s = { s with cmd := { s.cmd with left := s.cmd.left - 1 } } := by
  unfold cmdCycle
  dsimp only
  rw [if_neg (by omega), if_neg (by omega)]

theorem cmdCycle_idle (none : s.cmd.left = 0) : cmdCycle s = s := if_pos none

theorem cmdTimed_busy {t : State} {code n : Nat} (same : t.cmd = s.cmd) : Busy s (cmdTimed t code n) code n := by
  rw [Busy, cmdTimed, same]

section Takes

variable (takes : TakesCommand s)
include takes

theorem resetCore_runs {c : CoreId} (free : taskRuns s (corePart c) = false) :
    exec (.resetCore c) s = .next (cmdTimed (resetCoreTo s c false) 0x10 200) :=
  congrArg Host.Outcome.next ((command_takes takes _).trans (if_neg (by rw [free]; decide)))

theorem resetCore_refused {c : CoreId} (runs : taskRuns s (corePart c) = true) :
    exec (.resetCore c) s = .next (cmdRefuse s 0x10 .cmdState 0) :=
  congrArg Host.Outcome.next ((command_takes takes _).trans (if_pos runs))

theorem resetCluster_runs {k : ClusterId} (free : taskRuns s (clPart k) = false) :
    exec (.resetCluster k) s = .next (cmdTimed (resetClusterTo s k false) 0x10 2000) :=
  congrArg Host.Outcome.next ((command_takes takes _).trans (if_neg (by rw [free]; decide)))

theorem resetPartition_runs (sound : s.u.state ≠ .fenced) (attached : s.u.state ≠ .detached) :
    exec (.resetPartition p) s = .next (cmdTimed (resetPart s p) 0x10 30000) :=
  congrArg Host.Outcome.next ((command_takes takes _).trans (if_neg (not_or.mpr ⟨sound, attached⟩)))

end Takes

/-- Settles O53: a reset drains the store queues and makes the cores fresh; with nothing left to drain no other core, byte or
counter changes below partition level, and the reset of a partition clears what belongs to its task. -/
theorem resetsOfCoresClustersPartitions : Obligations.ResetsOfCoresClustersPartitions := by
  unfold Obligations.ResetsOfCoresClustersPartitions
  refine ⟨fun s => ⟨cmdCycle_ends, cmdCycle_counts, cmdCycle_idle⟩, fun s takes => ⟨fun c free none => ?_, fun c free => ?_,
    fun c runs => ?_, fun k free none => ?_, fun p sound attached quiet => ?_⟩⟩
  · have h : Empties (· = c) s (resetCoreTo s c false) := resetCoreTo_empties none
    have own : (resetCoreTo s c false).cores[c] = restarted s c false s.cores[c] := resetCoreTo_self none
    obtain ⟨regs, descs⟩ := restarted_regs s c false s.cores[c]
    refine ⟨_, resetCore_runs takes free, cmdTimed_busy h.cmd, h.named c rfl, ?_, ?_, ?_, h.others, h.mem, h.cnt, h.parts⟩
    · rw [← regs, ← own]; rfl
    · rw [← descs, ← own]; rfl
    · rw [← restarted_st s c, ← own]; rfl
  · exact ⟨_, resetCore_runs takes free, cmdTimed_busy (resetCoreTo_within (.refl s)).cmd, resetCoreTo_sq s c false⟩
  · exact ⟨_, resetCore_refused takes runs, cmdRefuse_done .., cmdRefuse_rest ..⟩
  · have h : Empties (fun c => clOf c = k) s (resetClusterTo s k false) := resetClusterTo_empties none
    obtain ⟨idle, empty, zero⟩ := resetClusterTo_ladle s k false
    have run := resetCluster_runs takes free
    generalize resetClusterTo s k false = v at h idle empty zero run
    exact ⟨_, run, cmdTimed_busy h.cmd, fun c m => h.named c (mem_coresOf.mp m), idle, empty, zero,
      h.whisk k, h.others, h.mem, h.cnt, h.parts⟩
  · have h : Cleared s p (resetPart s p) := resetPart_clears quiet
    exact ⟨_, resetPartition_runs takes sound attached, cmdTimed_busy h.cmd, h.task, h.aborted, h.window, h.cores, h.chans, h.taps,
      h.emptied, h.kept, h.bytes⟩

end Sys2Proof.Machine
end

section
set_option Elab.async false -- one proof after another: this bounds the memory that a check of the whole text takes
/-! PROOFS. The start of a block with and without its credit, re-arms, and the end of a list (R202, R214, R229 to R232). -/

namespace Sys2Proof.Machine

/-- Between `s` and `t` something is read, and something offered to a stream: the channels, the cores, the counters, the bytes
and what the Ladles run stand. -/
structure Peeks (s t : State) : Prop where
  mov : t.mov = s.mov
  cores : t.cores = s.cores
  cnt : t.cnt = s.cnt
  bytes : SameBytes s t
  ladles : ∀ k : ClusterId, t.cls[k].running = s.cls[k].running ∧ t.cls[k].waiting = s.cls[k].waiting

namespace Peeks

variable {s t u : State}

theorem refl (s : State) : Peeks s s := ⟨rfl, rfl, rfl, fun _ => rfl, fun _ => ⟨rfl, rfl⟩⟩

theorem trans (h : Peeks s t) (k : Peeks t u) : Peeks s u :=
  ⟨k.mov.trans h.mov, k.cores.trans h.cores, k.cnt.trans h.cnt, h.bytes.trans k.bytes,
    fun x => ⟨(k.ladles x).1.trans (h.ladles x).1, (k.ladles x).2.trans (h.ladles x).2⟩⟩

theorem ofLooks (h : Looks s t) : Peeks s t := by
  obtain ⟨⟨frame, -, lads⟩, keeps⟩ := h
  exact ⟨by rw [frame], by rw [frame], keeps.2.2.2.2, .ofKeeps keeps, lads⟩

theorem busy (h : Peeks s t) (k : ClusterId) : ladBusy t k = ladBusy s k := by
  obtain ⟨running, waiting⟩ := h.ladles k
  rw [ladBusy, ladBusy, running, waiting]

end Peeks

theorem copyFill_looks (s : State) (p : Part) (a n : Nat) : Looks s (copyFill s p a n).1 := by
  unfold copyFill
  split
  · exact .refl s
  · exact drawBits_looks ..

/-- A block as it joins its channel: its entry, descriptors and place stand; its scale word and the flit of an empty run may have
been added (R207, R319). -/
def SameBlock (b d : BlkRun) : Prop := d.entry = b.entry ∧ d.sd = b.sd ∧ d.dd = b.dd ∧ d.idx = b.idx ∧ d.stage = b.stage

/-- A channel with a block opened behind those in progress. -/
def opened (b : BlkRun) (c : Chan) : Chan :=
  { c with blks := c.blks ++ [b], st := if bKind b.entry = 2 then .waitLadle else .run
           list := c.list.map (fun l => { l with idx := l.idx + 1 }) }

/-- A block begins: it is opened on its channel, and an INDEX block presents its command (R208). -/
theorem beginBlock_opens (s : State) (h : ChanId) (b : BlkRun) : ∃ (u : State) (d : BlkRun), Peeks s u ∧ SameBlock b d ∧
    beginBlock s h b = (let t := progress (modChan u h (opened d)) (.chan h)
                        if bKind b.entry = 2 then ladPresents t (bClu b.entry) (.chan h) else t) := by
  unfold beginBlock
  extract_lets c _ f r d empty x u d'
  have read : Peeks s r.1 := by
    unfold r
    split
    · exact .ofLooks ((copyFill_looks ..).trans (readRun_looks ..))
    · exact .refl s
  have offered : Peeks s u := by
    unfold u
    split
    · exact read.trans ⟨rfl, rfl, rfl, fun _ => rfl, fun _ => ⟨rfl, rfl⟩⟩
    · exact read
  have same : SameBlock b d' := by
    unfold d'
    split <;> exact ⟨rfl, rfl, rfl, rfl, rfl⟩
  clear_value u d'
  refine ⟨u, d', offered, same, ?_⟩
  obtain ⟨entry, -⟩ := same
  rw [← entry]
  rfl

/-- A block has started on its channel: it is the last of those in progress, and an INDEX block waits for its Ladle `k` or has it. -/
structure BlockStarts (s : State) (h : ChanId) (b : BlkRun) (k : ClusterId) (d : BlkRun) (t : State) : Prop where
  entry : d.entry = b.entry
  sd : d.sd = b.sd
  dd : d.dd = b.dd
  idx : d.idx = b.idx
  blks : t.mov.chans[h].blks = s.mov.chans[h].blks ++ [d]
  list : t.mov.chans[h].list = s.mov.chans[h].list.map (fun l => { l with idx := l.idx + 1 })
  st : t.mov.chans[h].st = if bKind b.entry = 2 ∧ ladBusy s k = true then .waitLadle else .run
  waits : bKind b.entry = 2 → ladBusy s k = true →
    t.cls[k].waiting = s.cls[k].waiting ++ [.chan h] ∧
      t.cls[k].running = s.cls[k].running ∧ d.stage = .wait
  takes : bKind b.entry = 2 → ladBusy s k = false →
    t.cls[k].running = some (.chan h) ∧ d.stage = .index
  cnt : t.cnt = s.cnt
  bytes : SameBytes s t
  cores : t.cores = s.cores

/-- The command of a block that waits for its Ladle is taken. -/
def indexed (b : BlkRun) : BlkRun := if bKind b.entry = 2 ∧ b.stage = .wait then { b with stage := .index } else b

section Start

variable {s : State} {h : ChanId} {b : BlkRun}

theorem progress_opened (u : State) (h : ChanId) (d : BlkRun) :
    (progress (modChan u h (opened d)) (.chan h)).mov.chans[h] =
      { opened d u.mov.chans[h] with ag := { u.mov.chans[h].ag with progressed := true, wait := none } } := by
  rw [(progress_chan _ h).2, modChan_self]
  rfl

theorem progress_opened_rest (u : State) (h : ChanId) (d : BlkRun) : ∃ mov pwr,
    progress (modChan u h (opened d)) (.chan h) = { u with mov := mov, pwr := pwr } :=
  ⟨_, _, by rw [(progress_chan _ h).1]; rfl⟩

theorem startIndex_chan (t : State) (h : ChanId) : (startIndex t h).mov.chans[h] = { t.mov.chans[h] with
    st := .run, blks := t.mov.chans[h].blks.map indexed, ag := { t.mov.chans[h].ag with progressed := true, wait := none } } := by
  rw [startIndex, (progress_chan _ h).2, modChan_self]
  rfl

theorem startIndex_rest (t : State) (h : ChanId) : ∃ mov pwr, startIndex t h = { t with mov := mov, pwr := pwr } :=
  ⟨_, _, by rw [startIndex, (progress_chan _ h).1]; rfl⟩

theorem indexed_others {l : List BlkRun} (none : ∀ x ∈ l, ¬(bKind x.entry = 2 ∧ x.stage = .wait)) : l.map indexed = l :=
  (List.map_congr_left fun x m => if_neg (none x m)).trans (List.map_id l)

/-- A block that starts joins its channel, and takes an idle Ladle in that cycle (R150, R202, R208). -/
theorem startBlock_starts (others : ∀ x ∈ s.mov.chans[h].blks, ¬(bKind x.entry = 2 ∧ x.stage = .wait)) (fresh : b.stage = .wait) :
    ∃ d, BlockStarts s h b (bClu b.entry) d (startBlock s h b) := by
  obtain ⟨u, d, peeks, ⟨entry, sd, dd, idx, stage⟩, begun⟩ := beginBlock_opens s h b
  have shows := progress_opened u h d
  obtain ⟨mov, pwr, rest⟩ := progress_opened_rest u h d
  unfold startBlock
  rw [begun]
  dsimp only
  generalize progress (modChan u h (opened d)) (.chan h) = t at shows rest
  have chan : u.mov.chans[h] = s.mov.chans[h] := by rw [peeks.mov]
  rw [chan] at shows
  have cnt : t.cnt = s.cnt := (congrArg State.cnt rest).trans peeks.cnt
  have cores : t.cores = s.cores := (congrArg State.cores rest).trans peeks.cores
  have bytes : SameBytes s t := peeks.bytes.trans (.ofMem (by rw [rest]))
  have cls : t.cls = u.cls := by rw [rest]
  have busy : ladBusy t (bClu b.entry) = ladBusy s (bClu b.entry) := by rw [← peeks.busy, ladBusy, cls, ladBusy]
  obtain ⟨running, waiting⟩ := peeks.ladles (bClu b.entry)
  by_cases kind : bKind b.entry = 2
  · rw [if_pos kind, ladPresents, busy]
    cases taken : ladBusy s (bClu b.entry) with
    | true =>
      rw [if_pos rfl, if_neg (by simp)]
      refine ⟨d, entry, sd, dd, idx, congrArg Chan.blks shows, congrArg Chan.list shows, ?_, fun _ _ => ?_,
        fun _ free => absurd (taken.symm.trans free) (by decide), cnt, bytes.trans (.ofMem rfl), cores⟩
      · rw [if_pos ⟨kind, taken⟩]
        exact (congrArg Chan.st shows).trans (if_pos (by rw [entry, kind]))
      · rw [modCl_self, cls]
        exact ⟨congrArg (· ++ [LadSrc.chan h]) waiting, running, stage.trans fresh⟩
    | false =>
      rw [if_neg Bool.false_ne_true, if_pos ⟨kind, rfl⟩]
      show ∃ d, BlockStarts s h b (bClu b.entry) d (startIndex (ladTakes t (bClu b.entry) (.chan h)) h)
      have runs := startIndex_chan (ladTakes t (bClu b.entry) (.chan h)) h
      obtain ⟨mov', pwr', same⟩ := startIndex_rest (ladTakes t (bClu b.entry) (.chan h)) h
      generalize startIndex (ladTakes t (bClu b.entry) (.chan h)) h = v at runs same
      rw [show (ladTakes t (bClu b.entry) (.chan h)).mov = t.mov from rfl, shows] at runs
      have waits : bKind d.entry = 2 ∧ d.stage = .wait := ⟨by rw [entry, kind], stage.trans fresh⟩
      have blks : v.mov.chans[h].blks = s.mov.chans[h].blks ++ [{ d with stage := .index }] := by
        rw [runs]
        exact (List.map_append ..).trans (congrArg₂ (· ++ ·) (indexed_others others) (congrArg ([·]) (if_pos waits)))
      refine ⟨{ d with stage := .index }, entry, sd, dd, idx, blks, by rw [runs]; rfl, ?_, fun _ busy => absurd (taken.symm.trans busy) (by decide),
        fun _ _ => ?_, by rw [same]; exact cnt, bytes.trans (.ofMem (by rw [same]; rfl)), by rw [same]; exact cores⟩
      · rw [runs, if_neg (by rw [taken]; simp)]
      · have ran : (ladTakes t (bClu b.entry) (.chan h)).cls[bClu b.entry].running = some (.chan h) := by rw [ladTakes, modCl_self]
        rw [same]
        exact ⟨ran, rfl⟩
  · rw [if_neg kind, if_neg (fun w => kind w.1)]
    refine ⟨d, entry, sd, dd, idx, congrArg Chan.blks shows, congrArg Chan.list shows, ?_, fun k => absurd k kind, fun k => absurd k kind,
      cnt, bytes, cores⟩
    rw [if_neg (fun w => kind w.1)]
    exact (congrArg Chan.st shows).trans (if_neg (by rw [entry]; exact kind))

end Start

/-! ### BLOCK_START -/

theorem bKind_openBlock (c : Chan) (e : BitVec 256) (i : Nat) : bKind (openBlock c e i).entry = bKind e := by
  unfold openBlock
  dsimp only
  split
  · exact (fldN_setFld_other _ _ (.inl (by decide))).trans (fldN_setFld_other _ _ (.inl (by decide)))
  · rfl

theorem bClu_openBlock (c : Chan) {e : BitVec 256} (i : Nat) (index : bKind e = 2) : bClu (openBlock c e i).entry = bClu e := by
  unfold openBlock
  dsimp only
  rw [if_neg (by omega)]

theorem takeCredit_frame (s : State) (e : BitVec 256) : takeCredit s e = { s with cnt := (takeCredit s e).cnt } := by
  unfold takeCredit
  split <;> rfl

theorem blockCheck_takeCredit (s : State) (e : BitVec 256) (h : ChanId) (b : BlkRun) :
    blockCheck (takeCredit s e) h b = blockCheck s h b := by
  rw [takeCredit_frame]
  rfl

/-- A credit that is not there: the counter is of the other partition, poisoned, or not reached (R24, R214). -/
theorem askCredit_refused {s : State} {p : Part} {e : BitVec 256} (asks : bCredEn e = true) (sound : HwFault.cntParity (bCredCtr e) ∉ s.hwf)
    (none : crosses s p (ctrPart s (bCredCtr e)) = true ∨ (ctrOf s (bCredCtr e)).psn = true ∨
      reached (ctrOf s (bCredCtr e)).val ((ctrOf s (bCredCtr e)).taken + 1) = false) (loc : Nat) :
    ∃ q, askCredit s p loc e = (q, false) ∧ q.mov = s.mov ∧ q.cnt = s.cnt ∧ q.mem = s.mem ∧ q.xb = s.xb := by
  unfold askCredit
  rw [if_neg (by rw [asks]; decide)]
  by_cases away : crosses s p (ctrPart s (bCredCtr e)) = true
  · rw [if_pos away]
    exact ⟨_, rfl, logRun_mov .., logRun_cnt .., logRun_mem .., by rw [logRun, logAt_eq]⟩
  · rw [if_neg away]
    refine ⟨s, ?_, rfl, rfl, rfl, rfl⟩
    dsimp only
    rw [checkParity_ok sound, creditOk]
    obtain poisoned | early := none.resolve_left away
    · rw [poisoned]; rfl
    · rw [early, Bool.and_false]

section BlockStart

variable {s : State} {h : ChanId} {l : RunList}

/-- The channel may start its next block (R202, R214). -/
structure MayStart (s : State) (h : ChanId) (l : RunList) : Prop where
  runs : s.u.state = .running
  goes : stopped s (chanPart s h) = false
  list : s.mov.chans[h].list = some l
  free : s.mov.chans[h].st ≠ .fenced
  left : l.idx < l.count
  issued : s.mov.chans[h].blks.all blkIssued = true
  room : outstanding s.mov.chans[h] < 8
  whole : ∀ i, HwFault.listUe i ∉ s.hwf ∧ HwFault.listCe i ∉ s.hwf

/-- What BLOCK_START does with the block once it has its credit. -/
def opens (h : ChanId) (e : BitVec 256) (i : Nat) (s : State) : State :=
  match blockCheck s h (openBlock s.mov.chans[h] e i) with
  | some x => failChan s h x 0
  | none => startBlock s h (openBlock s.mov.chans[h] e i)

theorem exec_blockStart (may : MayStart s h l) : exec (.blockStart h) s =
    .next (outside s (withCredit s h (listEntry s (l.first + l.idx)) (opens h (listEntry s (l.first + l.idx)) l.idx))) := by
  have next : nextEntry s h l = (s, some (listEntry s (l.first + l.idx))) := by
    unfold nextEntry
    split
    · rfl
    · exact readEntry_ok (may.whole _).1 (may.whole _).2
  refine congrArg Host.Outcome.next ?_
  simp only [may.list, may.runs, may.goes, may.issued, decide_eq_true may.free, decide_eq_true may.left, decide_eq_true may.room,
    next]
  rfl

/-- A block in progress whose last beat has issued does not wait for its Ladle. -/
theorem MayStart.others (may : MayStart s h l) : ∀ x ∈ s.mov.chans[h].blks, ¬(bKind x.entry = 2 ∧ x.stage = .wait) := by
  rintro x m ⟨kind, waits⟩
  have issued := List.all_eq_true.mp may.issued x m
  simp [blkIssued, atEnd, kind, waits] at issued

theorem blockStart_waits (may : MayStart s h l) (asks : bCredEn (listEntry s (l.first + l.idx)) = true)
    (sound : HwFault.cntParity (bCredCtr (listEntry s (l.first + l.idx))) ∉ s.hwf)
    (none : crosses s (chanPart s h) (ctrPart s (bCredCtr (listEntry s (l.first + l.idx)))) = true ∨
      (ctrOf s (bCredCtr (listEntry s (l.first + l.idx)))).psn = true ∨
      reached (ctrOf s (bCredCtr (listEntry s (l.first + l.idx)))).val ((ctrOf s (bCredCtr (listEntry s (l.first + l.idx)))).taken + 1) = false) :
    ∃ t, exec (.blockStart h) s = .next t ∧ t.mov.chans[h] = { s.mov.chans[h] with
      st := .waitCred, credStall := sat32 s.mov.chans[h].credStall 1
      ag := { s.mov.chans[h].ag with wait := some (.credit (bCredCtr (listEntry s (l.first + l.idx)))) } } ∧
      t.cnt = s.cnt ∧ SameBytes s t := by
  obtain ⟨q, refused, mov, cnt, mem, xb⟩ := askCredit_refused asks sound none (locChan h)
  refine ⟨_, (exec_blockStart may).trans (congrArg Host.Outcome.next (outside_same ?_)), ?_, ?_, ?_⟩
  · rw [withCredit, refused]; exact xb
  · rw [withCredit, refused, ← mov]
    rw [if_neg Bool.false_ne_true]
    show (modChan (modChan q h _) h _).mov.chans[h] = _
    rw [modChan_self, modChan_self]
  · rw [withCredit, refused]; exact cnt
  · rw [withCredit, refused]; exact .ofMem mem

theorem openBlock_idx (c : Chan) (e : BitVec 256) (i : Nat) : (openBlock c e i).idx = i := by
  unfold openBlock
  dsimp only
  split <;> rfl

theorem blockStart_starts (may : MayStart s h l) (open_ : anyWindow s = false)
    (sound : HwFault.cntParity (bCredCtr (listEntry s (l.first + l.idx))) ∉ s.hwf)
    (held : bCredEn (listEntry s (l.first + l.idx)) = true →
      crosses s (chanPart s h) (ctrPart s (bCredCtr (listEntry s (l.first + l.idx)))) = false ∧
      (ctrOf s (bCredCtr (listEntry s (l.first + l.idx)))).psn = false ∧
      reached (ctrOf s (bCredCtr (listEntry s (l.first + l.idx)))).val ((ctrOf s (bCredCtr (listEntry s (l.first + l.idx)))).taken + 1) = true)
    (check : blockCheck s h (openBlock s.mov.chans[h] (listEntry s (l.first + l.idx)) l.idx) = none) :
    ∃ t k d, exec (.blockStart h) s = .next t ∧ (bKind (listEntry s (l.first + l.idx)) = 2 → k = bClu (listEntry s (l.first + l.idx))) ∧
      BlockStarts (takeCredit s (listEntry s (l.first + l.idx))) h (openBlock s.mov.chans[h] (listEntry s (l.first + l.idx)) l.idx) k d t := by
  have holds : HoldsCredit s (chanPart s h) (listEntry s (l.first + l.idx)) := fun asks => by
    obtain ⟨own, clean, there⟩ := held asks
    exact ⟨sound, own, by rw [creditOk, clean, there]; rfl⟩
  have run := (exec_blockStart may).trans (congrArg Host.Outcome.next (outside_open open_ _))
  rw [withCredit, askCredit_held holds] at run
  generalize listEntry s (l.first + l.idx) = e at *
  have frame := takeCredit_frame s e
  have chan : (takeCredit s e).mov.chans[h] = s.mov.chans[h] := by rw [frame]
  have fresh : (openBlock s.mov.chans[h] e l.idx).stage = .wait := by
    unfold openBlock
    dsimp only
    split <;> rfl
  obtain ⟨d, starts⟩ := startBlock_starts (s := takeCredit s e) (by rw [chan]; exact may.others) fresh
  refine ⟨_, _, d, run.trans (congrArg Host.Outcome.next ?_), bClu_openBlock _ _, starts⟩
  rw [if_pos rfl, opens, chan, blockCheck_takeCredit, check]

end BlockStart

/-! ### Re-arms and list ends -/

theorem modChan_congr {s : State} {h : ChanId} {f g : Chan → Chan} (same : f s.mov.chans[h] = g s.mov.chans[h]) :
    modChan s h f = modChan s h g := by rw [modChan, modChan, same]

theorem shadowNext_none {c : Chan} (none : c.rearmWait = none) : shadowNext c = { c with shadow := .none } := by
  rw [shadowNext, none]

/-- A channel at the end of its running list (R230, R232). -/
def listEnded (l : RunList) (c : Chan) : Chan :=
  match c.shadow with
  | some r => shadowNext (takeRearm c r)
  | none => if c.loop then { c with list := some { l with idx := 0 } } else { c with list := none, st := .idle }

theorem listEnded_shadow {l : RunList} {c : Chan} {r : Rearm} (full : c.shadow = some r) (none : c.rearmWait = none) :
    listEnded l c = { takeRearm c r with shadow := .none } := by
  rw [listEnded, full]
  exact shadowNext_none none

theorem listEnded_none {l : RunList} {c : Chan} (none : c.shadow = none) :
    listEnded l c = if c.loop then { c with list := some { l with idx := 0 } } else { c with list := .none, st := .idle } := by
  rw [listEnded, none]

theorem submitRearm_taken {s : State} {h : ChanId} (persistent : isPersistent h = true) (free : s.mov.chans[h].st ≠ .fenced)
    (runs : s.u.state = .running) : submitRearm h s =
      if 8192 < (staged s.mov.chans[h]).first + (staged s.mov.chans[h]).count then logRefused s .listRange (locChan h) 0
      else if s.mov.chans[h].shadow.isSome then
        raiseEvt (logRun (modChan s h (fun c => { c with rearmBusy := sat32 c.rearmBusy 1 })) .rearmBusy (locChan h) 0) .rearmBusy
      else modChan s h (fun c => acceptRearm c (staged s.mov.chans[h])) := by
  unfold submitRearm
  exact if_neg (by rw [persistent, runs, decide_eq_false free]; decide)

theorem exec_listEnd {s : State} {h : ChanId} {l : RunList} (persistent : isPersistent h = true) (free : s.mov.chans[h].st ≠ .fenced)
    (list : s.mov.chans[h].list = some l) (past : l.count ≤ l.idx) (issued : s.mov.chans[h].blks.all blkIssued = true) :
    exec (.listEnd h) s = .next (modChan s h (listEnded l)) := by
  refine congrArg Host.Outcome.next ?_
  simp only [list, persistent, issued, decide_eq_true free, decide_eq_true past]
  rfl

/-- Settles O30: a block starts or waits by its credit, a re-arm takes effect by the state of the shadow and the list, and the end
of a list follows the shadow and `LOOP`. -/
theorem blocksStartAndListsEnd : Obligations.BlocksStartAndListsEnd := by
  unfold Obligations.BlocksStartAndListsEnd
  refine ⟨?_, ?_⟩
  · intro s h l runs goes c e list free left issued room whole sound
    have may : MayStart s h l := ⟨runs, goes, list, free, left, issued, room, whole⟩
    refine ⟨fun asks none => blockStart_waits may asks sound none, fun open_ held check => ?_⟩
    obtain ⟨t, k, d, run, ladle, starts⟩ := blockStart_starts may open_ sound held check
    have frame := takeCredit_frame s e
    have mov : (takeCredit s e).mov = s.mov := by rw [frame]
    have cls : (takeCredit s e).cls = s.cls := by rw [frame]
    have cores : (takeCredit s e).cores = s.cores := by rw [frame]
    have mem : (takeCredit s e).mem = s.mem := by rw [frame]
    have st := starts.st
    have waits := starts.waits
    have takes := starts.takes
    have busy : ladBusy (takeCredit s e) k = ladBusy s k := by rw [ladBusy, ladBusy, cls]
    rw [bKind_openBlock, busy] at st
    rw [bKind_openBlock, busy, cls] at waits
    rw [bKind_openBlock, busy] at takes
    refine ⟨t, d, run, by rw [starts.blks, mov], starts.entry, starts.sd, starts.dd, starts.idx.trans (openBlock_idx ..),
      by rw [starts.list, mov, list]; rfl, ?_, fun index => ?_, fun index => ?_, fun asks => ?_, (SameBytes.ofMem mem).trans starts.bytes,
      starts.cores.trans cores⟩
    · by_cases index : bKind e = 2
      · rwa [ladle index] at st
      · rw [if_neg fun w => index w.1]
        exact st.trans (if_neg fun w => index w.1)
    · rw [ladle index] at waits
      exact waits index
    · rw [ladle index] at takes
      exact takes index
    · have taken : ctrOf t (bCredCtr e) = { ctrOf s (bCredCtr e) with taken := (ctrOf s (bCredCtr e)).taken + 1 } := by
        rw [ctrOf, starts.cnt, takeCredit, if_pos asks]
        exact ctrOf_setCtr ..
      rw [taken]
      exact ⟨rfl, rfl⟩
  · intro s h persistent free c r
    refine ⟨fun runs => ?_, fun l list past issued => ?_⟩
    · have submit := submitRearm_taken persistent free runs
      refine ⟨fun beyond => ⟨_, congrArg Host.Outcome.next (submit.trans (if_pos beyond)), by rw [logRefused, logAt_eq]⟩, fun fits => ?_⟩
      have fits' := submit.trans (if_neg (Nat.not_lt.mpr fits))
      refine ⟨fun full => ?_, fun none some => ?_, fun none idle => ?_⟩
      · refine ⟨_, congrArg Host.Outcome.next (fits'.trans (if_pos full)), ?_, hasEvent_raiseEvt _ .rearmBusy⟩
        exact (congrArg (·.chans[h]) (logRun_mov ..)).trans (modChan_self ..)
      · exact congrArg Host.Outcome.next ((fits'.trans (if_neg (by rw [none]; decide))).trans (modChan_congr (if_pos some)))
      · exact congrArg Host.Outcome.next ((fits'.trans (if_neg (by rw [none]; decide))).trans (modChan_congr (if_neg (by rw [idle]; decide))))
    · have run := exec_listEnd persistent free list past issued
      exact ⟨fun q full none => run.trans (congrArg Host.Outcome.next (modChan_congr (listEnded_shadow full none))),
        fun none => run.trans (congrArg Host.Outcome.next (modChan_congr (listEnded_none none)))⟩

end Sys2Proof.Machine
end

section
set_option Elab.async false -- one proof after another: this bounds the memory that a check of the whole text takes
/-! PROOFS. Transfers that land, blocks that close, and the answers and faults of far memory (R210, R219, R234, R356). -/

namespace Sys2Proof.Machine

/-! ### What landing changes -/

/-- Between `s` and `t` a transfer of channel `h` lands with the writes `gs`: the cores, the counters, the channels' blocks and
the bytes outside the words written stand. -/
structure Lands (gs : List (List WordWr × Bool)) (s t : State) : Prop where
  cores : t.cores = s.cores
  cnt : t.cnt = s.cnt
  blks : ∀ h : ChanId, t.mov.chans[h].blks = s.mov.chans[h].blks
  bytes : ∀ a, (∀ ws ∈ gs, ∀ w ∈ ws.1, a / 64 ≠ w.word) → readByte t.mem a = readByte s.mem a

namespace Lands

variable {gs : List (List WordWr × Bool)} {s t u : State}

theorem refl (s : State) : Lands gs s s := ⟨rfl, rfl, fun _ => rfl, fun _ _ => rfl⟩

theorem trans (h : Lands gs s t) (k : Lands gs t u) : Lands gs s u :=
  ⟨k.cores.trans h.cores, k.cnt.trans h.cnt, fun x => (k.blks x).trans (h.blks x), fun a out => (k.bytes a out).trans (h.bytes a out)⟩

/-- A step that keeps the bytes lands nothing. -/
theorem still (cores : t.cores = s.cores) (cnt : t.cnt = s.cnt) (mov : t.mov = s.mov) (mem : t.mem = s.mem) : Lands gs s t :=
  ⟨cores, cnt, fun _ => by rw [mov], fun _ _ => by rw [mem]⟩

end Lands

theorem putGroups_moves (who : Who) : ∀ (gs : List (List WordWr × Bool)) (s : State), Moves s (putGroups who gs s).1
  | [], s => .refl s
  | g :: gs, s => by
    unfold putGroups
    dsimp only
    split
    · exact putWords_moves ..
    · exact (putWords_moves ..).trans (putGroups_moves who gs _)

theorem readByte_putGroups_other (who : Who) {a : Nat} : ∀ (gs : List (List WordWr × Bool)) (s : State),
    (∀ ws ∈ gs, ∀ w ∈ ws.1, a / 64 ≠ w.word) → readByte (putGroups who gs s).1.mem a = readByte s.mem a
  | [], _, _ => rfl
  | g :: gs, s, other => by
    have first := readByte_putWords_other who g.2 g.1 s (other g (by simp))
    unfold putGroups
    dsimp only
    split
    · exact first
    · exact (readByte_putGroups_other who gs _ fun ws m => other ws (by simp [m])).trans first

theorem writeGroups_lands (who : Who) (gs : List (List WordWr × Bool)) (s : State) : Lands gs s (writeGroups who gs s).1 := by
  obtain ⟨frame, -⟩ := (openWrite_looks s who (gs.flatMap (·.1))).1.trans (putGroups_moves who gs _)
  refine ⟨by rw [writeGroups, frame], by rw [writeGroups, frame], fun h => by rw [writeGroups, frame], fun a other => ?_⟩
  exact (readByte_putGroups_other who gs _ other).trans (congrArg (readByte · a) (openWrite_mem ..))

theorem tapAdd_mov (s : State) (t : TapId) (n : Nat) (xs : List Word) (psn : Bool) : (tapAdd s t n xs psn).mov = s.mov := by
  unfold tapAdd
  dsimp only
  split
  · exact logRun_mov ..
  · rfl

theorem tapBeats_lands {gs : List (List WordWr × Bool)} (h : ChanId) : ∀ (xs : List (Bits × Bool)) (s : State), Lands gs s (tapBeats s h xs)
  | [], s => .refl s
  | x :: xs, s => by
    refine .trans ?_ (tapBeats_lands h xs _)
    dsimp only
    split
    · obtain ⟨cnt, -, mem, cores⟩ := tapAdd_keeps s 2 (if s.taps[(2 : TapId)].fmt then 7 else 6) (tapElems s.taps[(2 : TapId)].fmt x.1) x.2
      exact .still cores cnt (tapAdd_mov ..) mem
    · exact .refl s

theorem modChan_lands {gs : List (List WordWr × Bool)} {s : State} {h : ChanId} {f : Chan → Chan}
    (blks : (f s.mov.chans[h]).blks = s.mov.chans[h].blks) : Lands gs s (modChan s h f) := by
  refine ⟨rfl, rfl, fun k => ?_, fun _ _ => rfl⟩
  by_cases same : k = h
  · subst same
    rw [modChan_self, blks]
  · rw [modChan_other _ _ _ _ same]

theorem countChanOob_lands {gs : List (List WordWr × Bool)} (s : State) (h : ChanId) (n : Nat) : Lands gs s (countChanOob s h n) :=
  modChan_lands (f := fun x => { x with oobWr := sat32 x.oobWr n }) rfl

/-- A transfer that lands changes bytes of the words that it writes, and no others. -/
theorem landXfer_lands (s : State) (h : ChanId) (b : BlkRun) (x : Xfer) : Lands (xferWrites b x) s (landXfer s h b x).1 := by
  unfold landXfer
  split
  · exact .refl s
  split
  · exact countChanOob_lands ..
  split
  · exact .refl s
  split
  · exact .still rfl rfl rfl rfl
  · have written := writeGroups_lands (whoChan s h x.port) (xferWrites b x) s
    dsimp only
    generalize writeGroups (whoChan s h x.port) (xferWrites b x) s = r at written
    refine .trans ?_ (countChanOob_lands ..)
    split
    · exact written
    · exact written.trans (tapBeats_lands ..)

/-! ### Far memory -/

/-- A beat that a draining transfer waited for joins it, and with its last one the transfer is written (R356). -/
theorem farDrains_lands {s : State} {h : ChanId} {data : Bits} {i j : Nat} {b : BlkRun} {x : Xfer}
    (waits : farWaiting s.mov.chans[h].drain = some (i, b, j, x)) :
    Lands (xferWrites b { x with data := x.data ++ [scaleBeat b { data := data, psn := false, pad := 0 }] }) s (farDrains s h data) := by
  unfold farDrains
  simp only [waits]
  split
  · exact .trans (modChan_lands (by rfl)) (landXfer_lands ..)
  · exact modChan_lands (by rfl)

/-- A late beat is counted on its channel; its report changes no byte and no counter (R227). -/
theorem farLate_counts (s : State) (h : ChanId) : (farLate s h).cores = s.cores ∧ (farLate s h).cnt = s.cnt ∧ (farLate s h).mem = s.mem ∧
    (farLate s h).mov.chans[h].blks = s.mov.chans[h].blks ∧
    (farLate s h).mov.chans[h].farLate = sat32 s.mov.chans[h].farLate 1 := by
  unfold farLate
  dsimp only
  split
  · refine ⟨logRun_cores .., logRun_cnt .., logRun_mem .., ?_, ?_⟩
    · rw [raiseEvt, logRun_mov, modChan_self, modChan_self]
    · rw [raiseEvt, logRun_mov, modChan_self, modChan_self]
  · rw [modChan_self]
    exact ⟨rfl, rfl, rfl, rfl, rfl⟩

/-! ### A translation fault -/

theorem abortTask_mov (s : State) (p : Part) : (abortTask s p).mov = { s.mov with chans := (abortTask s p).mov.chans } := by
  unfold abortTask
  dsimp only [modPart, absorb]
  rw [poisonCtrs_eq]
  rfl

/-- A task abort poisons the counters of its task, and leaves the others (R381). -/
theorem ctrOf_abortTask (s : State) (p : Part) (k : Ctr) :
    ctrOf (abortTask s p) k = { ctrOf s k with psn := (ctrOf s k).psn || sameTask s p (ctrPart s k) } := by
  unfold abortTask
  extract_lets v _ _ w x y
  have poisoned : ctrOf x k = { ctrOf w k with psn := (ctrOf w k).psn || decide (k ∈ allCtrs.filter (fun c => sameTask w p (ctrPart w c))) } :=
    ctrOf_poisonCtrs ..
  have before : ctrOf w k = ctrOf s k := rfl
  clear_value x
  have listed : decide (k ∈ allCtrs.filter (fun c => sameTask w p (ctrPart w c))) = sameTask s p (ctrPart s k) := by
    rw [Bool.eq_iff_iff, decide_eq_true_iff, List.mem_filter]
    exact and_iff_right (List.mem_finRange k)
  rw [before, listed] at poisoned
  exact poisoned

/-- The state with a translation fault of channel `h` kept and logged (R234). -/
def faultKept (s : State) (h : ChanId) (b : BlkRun) (addr : BitVec 48) : State :=
  logRun { s with mov := { s.mov with
    faultCh := BitVec.ofNat 5 h.val, faultBlk := BitVec.ofNat 12 b.idx, faultFrame := BitVec.ofNat 15 s.fr.ctr.toNat, faultAddr := addr } }
    .farXlate (locChan h) 0

theorem exec_farXlate {s : State} {h : ChanId} {addr : BitVec 48} {b : BlkRun} (faults : faultBlock s.mov.chans[h] addr.toNat = some b) :
    exec (.farXlate h addr) s = .next (abortTask (faultKept s h b addr) (chanPart s h)) := by
  refine congrArg Host.Outcome.next ?_
  rw [faults]
  rfl

theorem faultKept_unit (s : State) (h : ChanId) (b : BlkRun) (addr : BitVec 48) :
    (faultKept s h b addr).u = { s.u with evtStat := (faultKept s h b addr).u.evtStat } :=
  (logRun_looks ..).1.2.1

theorem farXlate_aborts {s : State} {h : ChanId} {addr : BitVec 48} {b : BlkRun} (faults : faultBlock s.mov.chans[h] addr.toNat = some b) :
    ∃ t, exec (.farXlate h addr) s = .next t ∧ t.mov.faultCh.toNat = h.val ∧ t.mov.faultAddr = addr ∧
      t.mov.faultBlk = BitVec.ofNat 12 b.idx ∧ t.mov.faultFrame = BitVec.ofNat 15 s.fr.ctr.toNat ∧
      t.parts[taskPart s (chanPart s h)].aborted = true ∧ t.parts[taskPart s (chanPart s h)].task = false ∧
      (∀ c : CoreId, sameTask s (chanPart s h) (corePart c) = true → t.cores[c].st = .fenced) ∧
      (∀ c : Ctr, sameTask s (chanPart s h) (ctrPart s c) = true → (ctrOf t c).psn = true ∧ (ctrOf t c).val = (ctrOf s c).val) ∧
      (∀ c : Ctr, sameTask s (chanPart s h) (ctrPart s c) = false → ctrOf t c = ctrOf s c) ∧ SameBytes s t := by
  refine ⟨_, exec_farXlate faults, ?_⟩
  have unit := faultKept_unit s h b addr
  have mov : (faultKept s h b addr).mov = { s.mov with
      faultCh := BitVec.ofNat 5 h.val, faultBlk := BitVec.ofNat 12 b.idx, faultFrame := BitVec.ofNat 15 s.fr.ctr.toNat, faultAddr := addr } :=
    logRun_mov ..
  have cnt : (faultKept s h b addr).cnt = s.cnt := logRun_cnt ..
  have mem : (faultKept s h b addr).mem = s.mem := logRun_mem ..
  generalize faultKept s h b addr = v at unit mov cnt mem
  have task (q : Part) : sameTask v (chanPart s h) q = sameTask s (chanPart s h) q := by rw [sameTask, sameTask, twoTask, twoTask, unit]
  have place : taskPart v (chanPart s h) = taskPart s (chanPart s h) := by rw [taskPart, taskPart, twoTask, twoTask, unit]
  have owner (c : Ctr) : ctrPart v c = ctrPart s c := by rw [ctrPart, ctrPart, unit]
  have ctr (c : Ctr) : ctrOf (abortTask v (chanPart s h)) c =
      { ctrOf s c with psn := (ctrOf s c).psn || sameTask s (chanPart s h) (ctrPart s c) } := by
    rw [ctrOf_abortTask, task, owner, ctrOf, ctrOf, cnt]
  obtain ⟨marked, ended⟩ := abortTask_marks place
  rw [abortTask_mov, mov]
  refine ⟨?_, rfl, rfl, rfl, marked, ended, fun c own => ?_, fun c own => ?_, fun c own => ?_, .ofMem ((abortTask_mem ..).trans mem)⟩
  · exact Nat.mod_eq_of_lt h.isLt
  · rw [abortTask_core, if_pos (by rw [task, own])]
    rfl
  · rw [ctr, own, Bool.or_true]
    exact ⟨rfl, rfl⟩
  · rw [ctr, own, Bool.or_false]

end Sys2Proof.Machine
end

section
set_option Elab.async false -- one proof after another: this bounds the memory that a check of the whole text takes
/-! PROOFS. The completion of a transfer, and the close of a block (R209, R210, R219, R235). -/

namespace Sys2Proof.Machine

/-! ### A transfer leaves its block's flight -/

theorem setAt_setAt {α : Type} (x y : α) : ∀ (l : List α) (i : Nat), setAt (setAt l i x) i y = setAt l i y
  | [], _ => rfl
  | _ :: _, 0 => rfl
  | _ :: l, i + 1 => congrArg (_ :: ·) (setAt_setAt x y l i)

theorem getElem?_setAt {α : Type} {x y : α} : ∀ {l : List α} {i : Nat}, (setAt l i x)[i]? = some y → y = x
  | [], _, h => by simp [setAt] at h
  | _ :: _, 0, h => by simpa [setAt] using h.symm
  | _ :: l, i + 1, h => getElem?_setAt (l := l) (i := i) (by simpa [setAt] using h)

/-- What a transfer settles of its block: its flight, bytes, poison, entry and cursor. -/
def SameRun (b d : BlkRun) : Prop :=
  d.fly = b.fly ∧ d.bytes = b.bytes ∧ d.psn = b.psn ∧ d.entry = b.entry ∧ d.row = b.row ∧ d.off = b.off

section Land

variable {s : State} {h : ChanId} {i : Nat} {b : BlkRun} {x : Xfer}

theorem setBlk_blks (s : State) (h : ChanId) (i : Nat) (b : BlkRun) :
    (setBlk s h i b).mov.chans[h].blks = setAt s.mov.chans[h].blks i b := by rw [setBlk, modChan_self]

/-- A row read for a Ladle is kept with its block; with transfers still in flight no Ladle runs on it (R208). -/
theorem landFetch_keeps (more : b.fly ≠ []) : ∃ d, SameRun b d ∧
    (landFetch (setBlk s h i b) h i b x).cores = s.cores ∧ SameBytes s (landFetch (setBlk s h i b) h i b x) ∧
    (landFetch (setBlk s h i b) h i b x).mov.chans[h].blks = setAt s.mov.chans[h].blks i d := by
  unfold landFetch
  cases x.fetch with
  | none => exact ⟨b, ⟨rfl, rfl, rfl, rfl, rfl, rfl⟩, rfl, .ofMem rfl, setBlk_blks ..⟩
  | some r =>
    dsimp -zeta only
    extract_lets part whole v d w
    have read : Looks (setBlk s h i b) v.1 := by
      unfold v
      split
      · exact moveElems_looks ..
      · exact .refl _
    have same : SameRun b d := by
      unfold d
      split <;> exact ⟨rfl, rfl, rfl, rfl, rfl, rfl⟩
    clear_value v d
    have blks : w.mov.chans[h].blks = setAt s.mov.chans[h].blks i d := by
      rw [setBlk_blks, (Peeks.ofLooks read).mov, setBlk_blks, setAt_setAt]
    rw [if_neg (by simp [same.1, more])]
    exact ⟨d, same, (Peeks.ofLooks read).cores, (SameBytes.ofMem rfl).trans ((Peeks.ofLooks read).bytes.trans (.ofMem rfl)), blks⟩

/-- A block with a transfer in flight does not close. -/
theorem closeBlock_open (open_ : ∀ d, s.mov.chans[h].blks[i]? = some d → d.fly ≠ []) : closeBlock s h i = s := by
  unfold closeBlock
  cases at_ : s.mov.chans[h].blks[i]? with
  | none => rfl
  | some d => exact if_pos (by simp [open_ d at_])

theorem progress_blks (s : State) (h : ChanId) : (progress s (.chan h)).mov.chans[h].blks = s.mov.chans[h].blks := by
  rw [(progress_chan s h).2]

/-- A block as its transfer `j` leaves it, with `n` bytes written (R210). -/
def afterXfer (b : BlkRun) (x : Xfer) (j n : Nat) : BlkRun :=
  { b with fly := b.fly.eraseIdx j, bytes := b.bytes + n, psn := b.psn || (x.fetch.isNone && xferPsn x) }

theorem afterXfer_more {j n : Nat} (more : 1 < b.fly.length) : (afterXfer b x j n).fly ≠ [] := by
  have left := List.length_eraseIdx (l := b.fly) (i := j)
  rw [← List.length_pos_iff]
  show 0 < (b.fly.eraseIdx j).length
  split at left <;> omega

/-- With transfers of its block still in flight, one that completes lands, and that is all (R209, R219). -/
theorem exec_complete {j : Nat} (open_ : anyWindow s = false) (first : firstDone s.mov.chans[h] = some (i, b, j, x))
    (landed : (landXfer s h b x).2.2 = false) (more : 1 < b.fly.length) : exec (.transferComplete h) s =
      .next (closeBlock (progress (landFetch (setBlk (landXfer s h b x).1 h i (afterXfer b x j (landXfer s h b x).2.1)) h i
        (afterXfer b x j (landXfer s h b x).2.1) x) (.chan h)) h i) := by
  have flies := afterXfer_more (j := j) (n := (landXfer s h b x).2.1) (x := x) more
  refine congrArg Host.Outcome.next ((outside_open open_ _).trans ?_)
  simp only [first, landed]
  rw [if_neg Bool.false_ne_true, if_neg]
  · rfl
  · show ¬(_ && (afterXfer b x j (landXfer s h b x).2.1).fly.isEmpty && _) = true
    simp [flies]

/-- A transfer that may complete lands, and leaves its block's flight (R209, R219). -/
theorem complete_lands {j : Nat} (open_ : anyWindow s = false) (first : firstDone s.mov.chans[h] = some (i, b, j, x))
    (landed : (landXfer s h b x).2.2 = false) (more : 1 < b.fly.length) :
    ∃ t d, exec (.transferComplete h) s = .next t ∧ t.mov.chans[h].blks = setAt s.mov.chans[h].blks i d ∧
      d.fly = b.fly.eraseIdx j ∧ d.bytes = b.bytes + (landXfer s h b x).2.1 ∧
      d.psn = (b.psn || (x.fetch.isNone && xferPsn x)) ∧ d.entry = b.entry ∧ d.row = b.row ∧ d.off = b.off ∧
      t.cores = s.cores ∧ SameBytes (landXfer s h b x).1 t ∧
      ∀ a, (∀ ws ∈ xferWrites b x, ∀ w ∈ ws.1, a / 64 ≠ w.word) → readByte t.mem a = readByte s.mem a := by
  have run := exec_complete open_ first landed more
  have lands := landXfer_lands s h b x
  generalize landXfer s h b x = r at run lands ⊢
  obtain ⟨d, ⟨fly, bytes, psn, entry, row, off⟩, cores, same, blks⟩ :=
    landFetch_keeps (s := r.1) (h := h) (i := i) (x := x) (afterXfer_more (j := j) (n := r.2.1) (x := x) more)
  rw [lands.blks] at blks
  generalize landFetch (setBlk r.1 h i (afterXfer b x j r.2.1)) h i (afterXfer b x j r.2.1) x = v at run cores same blks
  have shown : (progress v (.chan h)).mov.chans[h].blks = setAt s.mov.chans[h].blks i d := (progress_blks v h).trans blks
  have left : d.fly ≠ [] := fly ▸ afterXfer_more more
  rw [closeBlock_open fun e at_ => by rw [shown] at at_; rw [getElem?_setAt at_]; exact left] at run
  obtain ⟨frame, -⟩ := progress_chan v h
  have mem : (progress v (.chan h)).mem = v.mem := by rw [frame]
  have kept : SameBytes r.1 (progress v (.chan h)) := same.trans (.ofMem mem)
  refine ⟨_, d, run, shown, fly, bytes, psn, entry, row, off, ?_, kept, fun a out => (kept a).trans (lands.bytes a out)⟩
  exact (show (progress v (.chan h)).cores = v.cores by rw [frame]).trans (cores.trans lands.cores)

end Land
/-! ### A block closes -/

theorem firstClosed_done {c : Chan} {i : Nat} {b : BlkRun} (closed : firstClosed c = some i) (at_ : c.blks[i]? = some b) :
    blkIssued b = true ∧ b.fly = [] := by
  obtain ⟨y, found, same⟩ := Option.map_eq_some_iff.mp closed
  have done := List.find?_some found
  have placed := List.mem_zipIdx_iff_getElem?.mp (List.mem_of_find?_eq_some found)
  rw [same, at_] at placed
  obtain rfl := Option.some.inj placed
  simpa using done

section Close

variable {s : State} {h : ChanId} {i : Nat} {b : BlkRun}

theorem exec_closes (open_ : anyWindow s = false) (none : firstDone s.mov.chans[h] = none) (closed : firstClosed s.mov.chans[h] = some i) :
    exec (.transferComplete h) s = .next (closeBlock (progress s (.chan h)) h i) := by
  refine congrArg Host.Outcome.next ((outside_open open_ _).trans ?_)
  simp only [none, closed]

/-- The increment of a block at a counter of its own partition whose parity holds, if it makes one here (R210). -/
theorem blockInc_own (own : crosses s (chanPart s h) (ctrPart s (bIncCtr b.entry)) = false)
    (sound : HwFault.cntParity (bIncCtr b.entry) ∉ s.hwf) :
    blockInc s h b = { s with cnt := (blockInc s h b).cnt } ∧
      (bInc b.entry = 0 → (blockInc s h b).cnt = s.cnt) ∧
      (bInc b.entry ≠ 0 → bDstSpace b ≠ 1 → ¬ (bSrcSpace b = 1 ∧ bKind b.entry = 0) →
        (ctrOf (blockInc s h b) (bIncCtr b.entry)).val = (ctrOf s (bIncCtr b.entry)).val +
          (if bInc b.entry = 1 then 1 else BitVec.ofNat 32 b.bytes) ∧
        (ctrOf (blockInc s h b) (bIncCtr b.entry)).psn = ((ctrOf s (bIncCtr b.entry)).psn || b.psn)) := by
  unfold blockInc
  dsimp only
  rw [incCtrBy_own own, incCtr_ok sound]
  by_cases none : bInc b.entry = 0 ∨ bDstSpace b = 1 ∨ (bSrcSpace b = 1 ∧ bKind b.entry = 0)
  · rw [if_pos none]
    exact ⟨rfl, fun _ => rfl, fun inc near made => absurd none (by simp [inc, near, made])⟩
  · rw [if_neg none, ctrOf_setCtr]
    exact ⟨rfl, fun zero => absurd (.inl zero) none, fun _ _ _ => ⟨rfl, rfl⟩⟩

theorem endItem_blks (c : Chan) : (endItem c).blks = c.blks := by
  unfold endItem
  split
  · split <;> rfl
  · rfl

/-- What a closed block leaves: the Ladle it held is free, and its item may have completed (R37, R150). -/
theorem closeBlock_leaves (at_ : s.mov.chans[h].blks[i]? = some b) (issued : blkIssued b = true) (landed : b.fly = []) (goes : b.stop = none) :
    ∃ cls mov, closeBlock s h i =
      { blockInc (modChan s h (fun c => { c with blks := c.blks.eraseIdx i })) h b with cls := cls, mov := mov } ∧
      mov.chans[h].blks = (blockInc (modChan s h (fun c => { c with blks := c.blks.eraseIdx i })) h b).mov.chans[h].blks := by
  unfold closeBlock
  rw [at_]
  dsimp only
  rw [if_neg (by simp [issued, landed]), goes]
  dsimp only
  generalize blockInc (modChan s h (fun c => { c with blks := c.blks.eraseIdx i })) h b = v
  have ladle : ∃ cls, (if v.cls[bClu b.entry].running = some (.chan h) ∧ bKind b.entry = 2 then ladFrees v (bClu b.entry) else v) =
      { v with cls := cls } := by
    split
    · exact ⟨_, rfl⟩
    · exact ⟨v.cls, rfl⟩
  obtain ⟨cls, freed⟩ := ladle
  rw [freed]
  split
  · exact ⟨cls, v.mov, rfl, rfl⟩
  · exact ⟨cls, (modChan { v with cls := cls } h endItem).mov, rfl, by rw [modChan_self, endItem_blks]⟩

/-- A block with nothing left leaves its channel, and makes its increment here (R210). -/
theorem close_leaves (open_ : anyWindow s = false) (none : firstDone s.mov.chans[h] = none) (closed : firstClosed s.mov.chans[h] = some i)
    (at_ : s.mov.chans[h].blks[i]? = some b) (goes : b.stop = .none) (sound : HwFault.cntParity (bIncCtr b.entry) ∉ s.hwf)
    (own : crosses s (chanPart s h) (ctrPart s (bIncCtr b.entry)) = false) :
    ∃ t, exec (.transferComplete h) s = .next t ∧ t.mov.chans[h].blks = s.mov.chans[h].blks.eraseIdx i ∧ SameBytes s t ∧
      (bInc b.entry = 0 → t.cnt = s.cnt) ∧
      (bInc b.entry ≠ 0 → bDstSpace b ≠ 1 → ¬ (bSrcSpace b = 1 ∧ bKind b.entry = 0) →
        (ctrOf t (bIncCtr b.entry)).val = (ctrOf s (bIncCtr b.entry)).val +
          (if bInc b.entry = 1 then 1 else BitVec.ofNat 32 b.bytes) ∧
        (ctrOf t (bIncCtr b.entry)).psn = ((ctrOf s (bIncCtr b.entry)).psn || b.psn)) := by
  obtain ⟨issued, landed⟩ := firstClosed_done closed at_
  refine ⟨_, exec_closes open_ none closed, ?_⟩
  obtain ⟨frame, shown⟩ := progress_chan s h
  generalize progress s (.chan h) = v at frame shown
  have blks : v.mov.chans[h].blks = s.mov.chans[h].blks := by rw [shown]
  obtain ⟨cls, mov, ends, left⟩ := closeBlock_leaves (s := v) (h := h) (i := i) (by rw [blks, at_]) issued landed goes
  have erased : (modChan v h (fun c => { c with blks := c.blks.eraseIdx i })).mov.chans[h] =
      { v.mov.chans[h] with blks := v.mov.chans[h].blks.eraseIdx i } := modChan_self ..
  have rest : modChan v h (fun c => { c with blks := c.blks.eraseIdx i }) =
      { v with mov := (modChan v h (fun c => { c with blks := c.blks.eraseIdx i })).mov } := rfl
  generalize modChan v h (fun c => { c with blks := c.blks.eraseIdx i }) = w at ends left erased rest
  have cnt : w.cnt = s.cnt := by rw [rest, frame]
  have mem : w.mem = s.mem := by rw [rest, frame]
  have unit : w.u = s.u := by rw [rest, frame]
  have hwf : w.hwf = s.hwf := by rw [rest, frame]
  have part : chanPart w h = chanPart s h := by rw [chanPart, chanPart, erased, shown]
  have own' : crosses w (chanPart w h) (ctrPart w (bIncCtr b.entry)) = false := by
    rw [part, crosses, twoTask, ctrPart, unit]
    exact own
  obtain ⟨kept, same, counts⟩ := blockInc_own (s := w) (h := h) (b := b) own' (by rwa [hwf])
  generalize blockInc w h b = u at ends left kept same counts
  have before : ctrOf w (bIncCtr b.entry) = ctrOf s (bIncCtr b.entry) := by rw [ctrOf, ctrOf, cnt]
  have after : ctrOf (closeBlock v h i) (bIncCtr b.entry) = ctrOf u (bIncCtr b.entry) := by rw [ends]; rfl
  rw [before] at counts
  rw [after]
  refine ⟨?_, .ofMem ?_, fun zero => ?_, counts⟩
  · rw [ends, left, kept, erased, blks]
  · rw [ends, kept]; exact mem
  · rw [ends]; exact (same zero).trans cnt

/-- A fenced channel has no block left; the stores stand (R381). -/
theorem fenceChan_empties (s : State) (h : ChanId) : (fenceChan s h).mov.chans[h].st = .fenced ∧ (fenceChan s h).mov.chans[h].blks = [] ∧
    (fenceChan s h).mem = s.mem := by
  obtain ⟨cs, run⟩ := fenceChan_poisons s h
  obtain ⟨-, -, mem, -, mov⟩ := foldl_keepsRun (fun s c => poisonCtrBy_keepsRun s (chanPart s h) (locChan h) c) cs
    (dropLadle (modChan s h stopChan) (fun w => decide (w = .chan h)))
  rw [← run] at mem mov
  have stopped : (fenceChan s h).mov.chans[h] = stopChan s.mov.chans[h] := by
    rw [mov]
    exact modChan_self ..
  rw [stopped]
  exact ⟨rfl, rfl, mem⟩

/-- A block whose Ladle command stopped fences its channel (R209, R235). -/
theorem close_stops (open_ : anyWindow s = false) (none : firstDone s.mov.chans[h] = none) (closed : firstClosed s.mov.chans[h] = some i)
    (at_ : s.mov.chans[h].blks[i]? = some b) (stops : b.stop = some .poisonIndex ∨ b.stop = some .off) :
    ∃ t, exec (.transferComplete h) s = .next t ∧ t.mov.chans[h].st = .fenced ∧ t.mov.chans[h].blks = [] ∧ SameBytes s t := by
  obtain ⟨issued, landed⟩ := firstClosed_done closed at_
  refine ⟨_, exec_closes open_ none closed, ?_⟩
  have blks := progress_blks s h
  obtain ⟨frame, -⟩ := progress_chan s h
  have mem : (progress s (.chan h)).mem = s.mem := by rw [frame]
  generalize progress s (.chan h) = v at blks mem
  have stop (k : LadStop) (is : b.stop = some k) : closeBlock v h i = stopIndex v h (bClu b.entry) k := by
    unfold closeBlock
    rw [blks, at_]
    dsimp only
    rw [if_neg (by simp [issued, landed]), is]
  rcases stops with is | is
  · rw [stop _ is]
    obtain ⟨st, none, same⟩ := fenceChan_empties (logRun v .poisonIndex (locChan h) 0) h
    exact ⟨st, none, .ofMem (same.trans ((logRun_mem ..).trans mem))⟩
  · rw [stop _ is]
    obtain ⟨st, none, same⟩ := fenceChan_empties v h
    exact ⟨st, none, .ofMem (same.trans mem)⟩

end Close

/-- A far-memory beat joins the transfer that waits for it; a late one is counted (R52, R227). -/
theorem farResponse_joins {s : State} {h : ChanId} {data : Bits} {cycles i j : Nat} {b : BlkRun} {x : Xfer} (none : s.mov.chans[h].farDead = 0)
    (drained : s.mov.chans[h].drain = []) (waits : farWaiting s.mov.chans[h].blks = some (i, b, j, x)) :
    ∃ t, exec (.farResponse h data cycles) s = .next t ∧ SameBytes s t ∧ t.cores = s.cores ∧ t.cnt = s.cnt ∧
      t.mov.chans[h].blks = setAt s.mov.chans[h].blks i { b with fly := setAt b.fly j { x with
        data := x.data ++ [scaleBeat b { data := data, psn := false, pad := 0 }] } } ∧
      t.mov.chans[h].farLate = (if s.fr.farBound < cycles then sat32 s.mov.chans[h].farLate 1 else s.mov.chans[h].farLate) := by
  have run : exec (.farResponse h data cycles) s = .next _ := rfl
  simp only [none, drained, waits] at run
  refine ⟨_, run, ?_⟩
  rw [if_neg (by decide), if_neg (by simp)]
  have joined : (setBlk s h i { b with fly := setAt b.fly j { x with
      data := x.data ++ [scaleBeat b { data := data, psn := false, pad := 0 }] } }).mov.chans[h] = _ := modChan_self ..
  by_cases late : s.fr.farBound < cycles
  · rw [if_pos (by exact late), if_pos late]
    obtain ⟨cores, cnt, mem, blks, counted⟩ := farLate_counts (setBlk s h i { b with fly := setAt b.fly j { x with
      data := x.data ++ [scaleBeat b { data := data, psn := false, pad := 0 }] } }) h
    rw [joined] at blks counted
    exact ⟨.ofMem mem, cores, cnt, blks, counted⟩
  · rw [if_neg (by exact late), if_neg late, joined]
    exact ⟨.ofMem rfl, rfl, rfl, rfl, rfl⟩

/-- Settles O32: a transfer that may complete lands in the words it writes, a block with nothing left closes, and the answers and
faults of far memory act on their channel and its task. -/
theorem transfersLandOrFault : Obligations.TransfersLandOrFault := by
  unfold Obligations.TransfersLandOrFault
  refine ⟨fun s h open_ => ⟨fun i b j x first landed more => complete_lands open_ first landed more, fun i b none closed at_ =>
    ⟨fun goes sound own => close_leaves open_ none closed at_ goes sound own, close_stops open_ none closed at_⟩⟩,
    fun s h => ⟨fun data cycles dead => congrArg Host.Outcome.next (if_pos dead), fun data cycles i b j x none waits => ?_,
      fun data cycles i b j x none drained waits => farResponse_joins none drained waits, fun addr b faults => farXlate_aborts faults⟩⟩
  have lands := farDrains_lands (data := data) waits
  have some : s.mov.chans[h].drain ≠ [] := fun empty => by
    rw [empty] at waits
    exact nomatch waits
  exact ⟨_, congrArg Host.Outcome.next ((if_neg (by omega)).trans (if_pos some)), lands.cores, lands.cnt, lands.blks h, lands.bytes⟩

end Sys2Proof.Machine
end
